-- ==== Sys2Proof/Word.lean ====
section
/-! DEFINITION. The plain word types of the device (R1 to R6): bytes, tile words, scalar registers and queue
vectors, and the few arithmetic operations on them that every later file uses. -/

namespace Sys2Proof

/-- One byte. -/
abbrev Byte := BitVec 8
/-- A 64-bit scalar register value (R94). -/
abbrev Word := BitVec 64
/-- A 512-byte queue vector; the byte at offset k is bits [8k+7:8k] (R3, R98). -/
abbrev QVec := BitVec 4096
/-- An XA96 accumulator: S in bits [95:16], L in bits [15:0] (R63). -/
abbrev XA := BitVec 96

end Sys2Proof
end

