-- ==== Sys2Proof/Config.lean ====
section
/-! DEFINITION. What the spec leaves open, as constants without a body: nothing proved here can depend on which value
one of them has. `free` is read at the state's counter `State.free`, which every use advances (log 6). -/

namespace Sys2Proof.Config

/-- A fresh choice or unstated amount: which enabled engine step happens next, how long a walk, a transfer or a
firmware action takes (R77, R85, R166, R280, R322; log 6). -/
opaque free : Nat → Nat

/-- A fresh byte whose value the spec does not state: contents of an expired bank (R278), of an MCTP response,
firmware measurements, side-band figures (log 6, 25). -/
opaque freeByte : Nat → Byte

/-- The physical line of 64 bytes at which each line of the DRAM arrays stands, as a list of exchanges: every permutation
of finitely many lines is such a list, and two places never share a line. The number of a place is `Machine.lineCode`
(log 8). -/
opaque lineSwaps : List (Nat × Nat)

/-- The fabric latency of a channel's data, read or written, whose tile does not run on its own physical tile: the
channel, the host, true for writes (R14, R26; log 10). -/
opaque fabric : Nat → Nat → Bool → Nat

/-- What a mode register's change makes of a timing field at the next rebuild of the discovery table: the channel, its
mode registers, the field, 18 for tRET (R297; log 10). -/
opaque modeField : Nat → List (Nat × Byte) → Nat → Nat

/-- SHAKE256 with a 256-bit output (log 11). -/
opaque shake256 : List Byte → BitVec 256

/-- Falcon-1024 verification: public key, message, signature (R332, R343; log 11). -/
opaque falconVerify : List Byte → List Byte → List Byte → Bool

/-- A Falcon-1024 signature by the device key (R22, R342, R345; log 11). -/
opaque falconSign : List Byte → List Byte

/-- A certificate chain that ends at the Basian root, for a key (R344; log 11). -/
opaque chainOk : List Byte → List Byte → Bool

/-- The parts of a boot stage's image: its public key, the bytes that are signed, the signature (R343; log 11). -/
opaque stageParts : List Byte → List Byte × List Byte × List Byte
/-- The digest of the key with which a boot stage verifies the next one (R343; log 11). -/
opaque nextDigest : List Byte → BitVec 256

/-- Module time in nanoseconds added by a step: the reference counter has its own clock (R131; log 21). -/
opaque elapsedNs : Nat → Nat

/-- Offset of the discovery table's remap (0), shaft-capacity (1), channel (2) and signature (3) sections (R23, log 10). -/
opaque discOfs : Nat → Nat

/-- The size of the function's MSI-X table (R347). -/
def msixVectors : Nat := 2048

end Sys2Proof.Config
end

