-- ==== Sys2Proof/Syntax.lean ====
section
/-! DEFINITION. The syntax of the machine: one constructor of `Instr` per row of the opcode table (tile words,
command-queue words, engine steps and events from outside), and the small types of their operands
(R38 to R45, R328, and the entries of each word). -/

namespace Sys2Proof

/-- A scalar register name a0 to a63 (R41). -/
abbrev Reg := BitVec 6
/-- A predicate number p0 to p15 (R41). -/
abbrev PredN := BitVec 4
/-- A queue number q0 to q15 (R41). -/
abbrev QN := BitVec 4
/-- A mask number vm0 to vm7 (R41). -/
abbrev MaskN := BitVec 3
/-- The guard field G of a word: 0 always, n the stage predicate p(7+n) (R42). -/
abbrev Guard := BitVec 3
/-- A 32-bit literal word (R31). -/
abbrev Lit := BitVec 32
/-- A constant-bank index (R41). -/
abbrev KbN := BitVec 8
/-- A 14-bit immediate (R38). -/
abbrev Imm14 := BitVec 14
/-- A truncated-float immediate (R38). -/
abbrev Fimm := BitVec 20
/-- A shape-table entry sh0 to sh15 (R126). -/
abbrev ShapeN := BitVec 4
/-- A packet index PK (R41). -/
abbrev PackN := BitVec 7
/-- The loop-counter number of LOOP and LOOPR, 0 to 2 legal (R134). -/
abbrev LoopN := BitVec 4
/-- The epilogue stage count of LOOPR, 0 to 7 (R134). -/
abbrev EpiN := BitVec 3
/-- A scalar register a0 to a15 named by a queue field (R138). -/
abbrev LowReg := BitVec 4
/-- A barrier number (R175). -/
abbrev BarN := BitVec 4
/-- A hierarchy level (R175). -/
abbrev LevelN := BitVec 3
/-- An address generator ag0 to ag7 (R181). -/
abbrev AgN := BitVec 3
/-- The port operand of AGBIND as its field holds it; 0 to 7 legal (R181). -/
abbrev PortN := BitVec 6
/-- An af register (R100). -/
abbrev AfN := BitVec 3
/-- The plane of MPUSH, or the plane count of MPMASK (R255, R262). -/
abbrev PlaneN := BitVec 4
/-- The segment of MPUSH (R255). -/
abbrev SegN := BitVec 3
/-- A format code of af.FMT or MSTATE.FMT (R100, R237). -/
abbrev FmtN := BitVec 4
/-- A group of 32 accumulation-store columns (R257, R260). -/
abbrev ColG := BitVec 2
/-- A group of 32 periphery columns (R257). -/
abbrev PerG := BitVec 4
/-- The output type of MDRAIN: 0 f32, 1 bf16, 2 f16, 3 e4m3, 4 e5m2 (R259). -/
abbrev OutTy := BitVec 3
/-- A DRAM bank (R285). -/
abbrev BankN := BitVec 4
/-- A DRAM column of 64 bytes (R285). -/
abbrev ColN := BitVec 5
/-- The window length of DWIN (R279). -/
abbrev WinLen := BitVec 16
/-- A DRAM mode-register address (R297). -/
abbrev ModeReg := BitVec 8
/-- A mass tree: false mt0, true mt1 (R189). -/
abbrev TreeN := Bool
/-- The MX type of VMXS: 0 mxi8, 1 mxf4, 2 mxe3m2, 3 mxe2m3 (R150). -/
abbrev MxTy := BitVec 2
/-- The pattern of VSHUF, 0 to 4 legal (R151). -/
abbrev ShufPat := BitVec 3
/-- A scalar access width: 1, 2, 4 or 8 bytes as 2^w (R167). -/
abbrev Width := BitVec 2
/-- A gather or atomic width: false 4 bytes, true 8 bytes (R170). -/
abbrev Wide := Bool
/-- A queue source: the queue and its `.pk` bit (R41). -/
structure QSrc where
  pk : Bool
  q  : QN
  deriving DecidableEq, Repr

/-- The last source of a literal or constant-bank form (R38). -/
inductive Val where
  | lit (v : Lit)
  | kb (k : KbN)
  deriving DecidableEq, Repr

/-- A source that a literal may replace (R134, R189, R286). -/
inductive RegLit where
  | reg (r : Reg)
  | lit (v : Lit)
  deriving DecidableEq, Repr

/-- The condition of a B word: predicate p, tested negated when n (R41). -/
structure Cond where
  p : PredN
  n : Bool
  deriving DecidableEq, Repr

/-- Base register and offset literal of a memory word (R163). -/
structure MemA where
  ba  : Reg
  off : Option Lit
  deriving DecidableEq, Repr

/-- Element types of vector words (R43); `reserved` is the code 0xF. -/
inductive Ty where
  | i8 | i16 | i32 | i64 | n8 | n16 | n32 | n64 | f32 | bf16 | f16 | e4m3 | e5m2 | e2m1 | um24 | reserved
  deriving DecidableEq, Repr

/-- Rounding modes (R54); `reserved` stands for the codes 5 to 7. -/
inductive RMode where
  | rne | rtz | rdn | rup | rna | reserved
  deriving DecidableEq, Repr

/-- Numerics profiles (R44); `unassigned` stands for the codes 0 and 5 to 15. -/
inductive Profile where
  | ochre | umber | sienna | indigo | unassigned
  deriving DecidableEq, Repr

/-- Order suffixes (R45). -/
inductive MOrd where
  | rlx | acq | rel | sc
  deriving DecidableEq, Repr

/-- Scope suffixes (R45, R78); `reserved` stands for the codes 6 and 7. -/
inductive MScp where
  | none | tile | grp | die | pkg | net | reserved
  deriving DecidableEq, Repr

/-- The order and scope suffixes of a memory word (R45). -/
structure Sfx where
  ord : MOrd
  scp : MScp
  deriving DecidableEq, Repr

/-- The path of a DRAIN (R90, R175); `none` is the illegal code 0. -/
inductive DrainPath where
  | none | m1 | m2 | all
  deriving DecidableEq, Repr

/-- The conversion kinds of FCVT (R125). -/
inductive FCvtKind where
  | i32f32 | i64f32 | n32f32 | n64f32 | f32i64 | f32n64 | bf16f32 | f32bf16
  deriving DecidableEq, Repr

/-- The special registers of RDSR and WRSR (R130); `reserved` is any other number. -/
inductive SpecReg where
  | trot | sstat | vstat | pred | lc0 | lc1 | lc2 | segst | af (k : AfN) | astat | reserved
  deriving DecidableEq, Repr

/-- The literal that names a half-macro set (R252), field by field. -/
structure HSet where
  lmask : BitVec 4
  mbase : BitVec 7
  mcnt  : BitVec 5
  hmask : BitVec 2
  row   : BitVec 10
  rsv   : BitVec 4
  deriving DecidableEq, Repr

/-- One constructor per row of the opcode table. A tile word carries its operand fields. A command-queue word and an
engine step or outside event carries none: a command's operands are the fields of the command word that its queue
holds (R328), and an event's operands are in the state (`State.ev`), where its agent put them. -/
inductive Instr where
  /-- NOP (R37): The S word ADD a0, a0, a0 issues with no effect. -/
  | nop
  /-- ADD (R120): dst <- sa + sb. -/
  | add (d : Reg) (a : Reg) (b : Reg)
  /-- SUB (R120): dst <- sa - sb. -/
  | sub (d : Reg) (a : Reg) (b : Reg)
  /-- MUL (R120): dst <- low 64 bits of sa × sb, landing at c+3. -/
  | mul (d : Reg) (a : Reg) (b : Reg)
  /-- MULH (R120): dst <- high 64 bits of the signed product. -/
  | mulh (d : Reg) (a : Reg) (b : Reg)
  /-- MULHN (R120): dst <- high 64 bits of the unsigned product. -/
  | mulhn (d : Reg) (a : Reg) (b : Reg)
  /-- AND (R120): dst <- sa AND sb. -/
  | and (d : Reg) (a : Reg) (b : Reg)
  /-- OR (R120): dst <- sa OR sb. -/
  | or (d : Reg) (a : Reg) (b : Reg)
  /-- XOR (R120): dst <- sa XOR sb. -/
  | xor (d : Reg) (a : Reg) (b : Reg)
  /-- ANDN (R120): dst <- sa AND NOT sb. -/
  | andn (d : Reg) (a : Reg) (b : Reg)
  /-- SHL (R120): dst <- sa shifted left by sb[5:0]. -/
  | shl (d : Reg) (a : Reg) (b : Reg)
  /-- SHR (R120): dst <- sa shifted right logically by sb[5:0]. -/
  | shr (d : Reg) (a : Reg) (b : Reg)
  /-- SRA (R120): dst <- sa shifted right arithmetically by sb[5:0]. -/
  | sra (d : Reg) (a : Reg) (b : Reg)
  /-- ROTL (R120): dst <- sa rotated left by sb[5:0]. -/
  | rotl (d : Reg) (a : Reg) (b : Reg)
  /-- MIN (R120): dst <- signed minimum. -/
  | min (d : Reg) (a : Reg) (b : Reg)
  /-- MAX (R120): dst <- signed maximum. -/
  | max (d : Reg) (a : Reg) (b : Reg)
  /-- MINN (R120): dst <- unsigned minimum. -/
  | minn (d : Reg) (a : Reg) (b : Reg)
  /-- MAXN (R120): dst <- unsigned maximum. -/
  | maxn (d : Reg) (a : Reg) (b : Reg)
  /-- SEL (R120): dst <- sb if sa ≠ 0, otherwise the old dst. -/
  | sel (d : Reg) (a : Reg) (b : Reg)
  /-- ADDA (R120): dst <- sa + sb sign-extended from bit 56. -/
  | adda (d : Reg) (a : Reg) (b : Reg)
  /-- CLZ (R120): dst <- count of leading zero bits of sa. -/
  | clz (d : Reg) (a : Reg)
  /-- POPC (R120): dst <- number of 1 bits of sa. -/
  | popc (d : Reg) (a : Reg)
  /-- PCMP_EQ (R122): pd <- sa = sb. -/
  | pcmpEq (d : PredN) (a : Reg) (b : Reg)
  /-- PCMP_NE (R122): pd <- sa ≠ sb. -/
  | pcmpNe (d : PredN) (a : Reg) (b : Reg)
  /-- PCMP_LT (R122): pd <- signed sa < sb. -/
  | pcmpLt (d : PredN) (a : Reg) (b : Reg)
  /-- PCMP_GE (R122): pd <- signed sa >= sb. -/
  | pcmpGe (d : PredN) (a : Reg) (b : Reg)
  /-- PCMP_LTN (R122): pd <- unsigned sa < sb. -/
  | pcmpLtn (d : PredN) (a : Reg) (b : Reg)
  /-- PCMP_GEN (R122): pd <- unsigned sa >= sb. -/
  | pcmpGen (d : PredN) (a : Reg) (b : Reg)
  /-- ADD_SL (R46): dst <- sa + literal or kb entry. -/
  | addSl (d : Reg) (a : Reg) (v : Val)
  /-- SUB_SL (R46): dst <- sa - literal or kb entry. -/
  | subSl (d : Reg) (a : Reg) (v : Val)
  /-- MUL_SL (R46): dst <- low half of sa × value. -/
  | mulSl (d : Reg) (a : Reg) (v : Val)
  /-- MULH_SL (R46): dst <- signed high half of sa × value. -/
  | mulhSl (d : Reg) (a : Reg) (v : Val)
  /-- MULHN_SL (R46): dst <- unsigned high half of sa × value. -/
  | mulhnSl (d : Reg) (a : Reg) (v : Val)
  /-- AND_SL (R46): dst <- sa AND value. -/
  | andSl (d : Reg) (a : Reg) (v : Val)
  /-- OR_SL (R46): dst <- sa OR value. -/
  | orSl (d : Reg) (a : Reg) (v : Val)
  /-- XOR_SL (R46): dst <- sa XOR value. -/
  | xorSl (d : Reg) (a : Reg) (v : Val)
  /-- ANDN_SL (R46): dst <- sa AND NOT value. -/
  | andnSl (d : Reg) (a : Reg) (v : Val)
  /-- SHL_SL (R46): dst <- sa shifted left by value[5:0]. -/
  | shlSl (d : Reg) (a : Reg) (v : Val)
  /-- SHR_SL (R46): dst <- sa shifted right logically by value[5:0]. -/
  | shrSl (d : Reg) (a : Reg) (v : Val)
  /-- SRA_SL (R46): dst <- sa shifted right arithmetically by value[5:0]. -/
  | sraSl (d : Reg) (a : Reg) (v : Val)
  /-- ROTL_SL (R46): dst <- sa rotated left by value[5:0]. -/
  | rotlSl (d : Reg) (a : Reg) (v : Val)
  /-- MIN_SL (R46): dst <- signed minimum of sa and value. -/
  | minSl (d : Reg) (a : Reg) (v : Val)
  /-- MAX_SL (R46): dst <- signed maximum of sa and value. -/
  | maxSl (d : Reg) (a : Reg) (v : Val)
  /-- MINN_SL (R46): dst <- unsigned minimum of sa and value. -/
  | minnSl (d : Reg) (a : Reg) (v : Val)
  /-- MAXN_SL (R46): dst <- unsigned maximum of sa and value. -/
  | maxnSl (d : Reg) (a : Reg) (v : Val)
  /-- SEL_SL (R46): dst <- value if sa ≠ 0, otherwise the old dst. -/
  | selSl (d : Reg) (a : Reg) (v : Val)
  /-- ADDA_SL (R46): dst <- sa + value sign-extended from bit 56. -/
  | addaSl (d : Reg) (a : Reg) (v : Val)
  /-- PCMP_EQ_SL (R122): pd <- sa = value. -/
  | pcmpEqSl (d : PredN) (a : Reg) (v : Val)
  /-- PCMP_NE_SL (R122): pd <- sa ≠ value. -/
  | pcmpNeSl (d : PredN) (a : Reg) (v : Val)
  /-- PCMP_LT_SL (R122): pd <- signed sa < value. -/
  | pcmpLtSl (d : PredN) (a : Reg) (v : Val)
  /-- PCMP_GE_SL (R122): pd <- signed sa >= value. -/
  | pcmpGeSl (d : PredN) (a : Reg) (v : Val)
  /-- PCMP_LTN_SL (R122): pd <- unsigned sa < value. -/
  | pcmpLtnSl (d : PredN) (a : Reg) (v : Val)
  /-- PCMP_GEN_SL (R122): pd <- unsigned sa >= value. -/
  | pcmpGenSl (d : PredN) (a : Reg) (v : Val)
  /-- MOVL (R121): dst <- the sign-extended literal. -/
  | movl (d : Reg) (v : Lit)
  /-- MOVK (R121): dst <- sign-extended kb[i]. -/
  | movk (d : Reg) (k : KbN)
  /-- ADDI (R121): dst <- dst + sign-extended IMM14. -/
  | addi (d : Reg) (i : Imm14)
  /-- SHLI (R121): dst shifted left by IMM14[5:0]. -/
  | shli (d : Reg) (i : Imm14)
  /-- SHRI (R121): dst shifted right logically by IMM14[5:0]. -/
  | shri (d : Reg) (i : Imm14)
  /-- SRAI (R121): dst shifted right arithmetically by IMM14[5:0]. -/
  | srai (d : Reg) (i : Imm14)
  /-- MOVI (R121): dst <- sign-extended IMM14. -/
  | movi (d : Reg) (i : Imm14)
  /-- MOVF (R121): dst <- zero-extended FIMM << 12. -/
  | movf (d : Reg) (f : Fimm)
  /-- FADD (R124): dst <- RoundNE(sa + sb) in FP32. -/
  | fadd (d : Reg) (a : Reg) (b : Reg)
  /-- FSUB (R124): dst <- RoundNE(sa - sb) in FP32. -/
  | fsub (d : Reg) (a : Reg) (b : Reg)
  /-- FMUL (R124): dst <- RoundNE(sa × sb) in FP32. -/
  | fmul (d : Reg) (a : Reg) (b : Reg)
  /-- FFMA (R124): dst <- RoundNE(sa × sb + dst) with one rounding. -/
  | ffma (d : Reg) (a : Reg) (b : Reg)
  /-- FCMP_EQ (R124): pd <- sa = sb in FP32. -/
  | fcmpEq (d : PredN) (a : Reg) (b : Reg)
  /-- FCMP_LT (R124): pd <- sa < sb in FP32. -/
  | fcmpLt (d : PredN) (a : Reg) (b : Reg)
  /-- FCMP_LE (R124): pd <- sa <= sb in FP32. -/
  | fcmpLe (d : PredN) (a : Reg) (b : Reg)
  /-- FCMP_UN (R124): pd <- either operand is NaN. -/
  | fcmpUn (d : PredN) (a : Reg) (b : Reg)
  /-- FCVT (R125): Converts sa by the kind in SB[2:0] and the rounding mode in SB[5:3]. -/
  | fcvt (d : Reg) (a : Reg) (m : RMode) (k : FCvtKind)
  /-- PLOG_AND (R123): pd <- pa AND pb. -/
  | plogAnd (d : PredN) (a : PredN) (b : PredN)
  /-- PLOG_OR (R123): pd <- pa OR pb. -/
  | plogOr (d : PredN) (a : PredN) (b : PredN)
  /-- PLOG_XOR (R123): pd <- pa XOR pb. -/
  | plogXor (d : PredN) (a : PredN) (b : PredN)
  /-- PLOG_ANDN (R123): pd <- pa AND NOT pb. -/
  | plogAndn (d : PredN) (a : PredN) (b : PredN)
  /-- PSET (R123): pd <- (sa ≠ 0). -/
  | pset (d : PredN) (a : Reg)
  /-- TIDX (R126): Writes the D coordinates of index sa under shape entry k to dst onward at c+4. -/
  | tidx (d : Reg) (a : Reg) (k : ShapeN)
  /-- TDIM (R126): dst <- extent n_k of the shape entry. -/
  | tdim (d : Reg) (a : Reg) (k : ShapeN)
  /-- KST (R129): kb[sb[7:0]] <- sa[31:0]. -/
  | kst (a : Reg) (b : Reg)
  /-- TID (R108): dst <- logical identity die × 128 + t. -/
  | tid (d : Reg)
  /-- CYC (R129): dst <- TC - T0 of the issue cycle. -/
  | cyc (d : Reg)
  /-- RDSR (R129): dst <- special register srn. -/
  | rdsr (d : Reg) (n : SpecReg)
  /-- WRSR (R130): Writes sa to a special register per its map, clearing W1C flags at c+1. -/
  | wrsr (n : SpecReg) (a : Reg)
  /-- PTID (R131): Privileged: dst <- physical identity. -/
  | ptid (d : Reg)
  /-- RDWC (R131): Privileged: dst <- module time in nanoseconds. -/
  | rdwc (d : Reg)
  /-- RDTC (R131): Privileged: dst <- absolute TC. -/
  | rdtc (d : Reg)
  /-- BR (R132): Conditional branch to packet PK after two delay bundles. -/
  | br (c : Cond) (k : PackN)
  /-- BRL (R132): Branch to packet PK, writing the link to a1 at c+1. -/
  | brl (c : Cond) (k : PackN)
  /-- BRI (R132): Branch to word ra of the executing half. -/
  | bri (c : Cond) (a : Reg)
  /-- RET (R132): Branch to word a1 of the executing half. -/
  | ret (c : Cond)
  /-- LOOP (R134): Starts a hardware loop of n passes on counter k ending at packet PK. -/
  | loop (k : LoopN) (n : RegLit) (e : PackN)
  /-- LOOPR (R134): Starts a rotating loop with e epilogue stages, FN = 1 + e, loading p8 and clearing p9-p15. -/
  | loopr (x : EpiN) (k : LoopN) (n : RegLit) (e : PackN)
  /-- SEGJ (R136): Swaps the code-buffer halves and starts filling the old half with the new segment's N0 successor. -/
  | segj (c : Cond)
  /-- SEGSEL (R136): Restarts the Pilot fill with successor Nn when it differs from the one being filled. -/
  | segsel (c : Cond) (k : PackN)
  /-- TCHK (R137): Raises a timing fault when the condition holds and CYC[31:0] ≠ n. -/
  | tchk (c : Cond) (v : Lit)
  /-- JOINT (R106): Holds issue until T0 + J of joint n, completes at once, or raises joint-missed. -/
  | joint (v : Lit)
  /-- WAITC_LIT (R137): Waits until CYC >= literal v, faulting in rigid code if it would hold. -/
  | waitcLit (v : Lit)
  /-- WAITC_REG (R137): Waits until CYC >= ra, faulting in rigid code if it would hold. -/
  | waitcReg (a : Reg)
  /-- TEND (R109): Ends the task when the condition holds; the tile issues nothing further. -/
  | tend (c : Cond)
  /-- TRAP (R137): Freezes the domain with the program-trap cause and the code when the condition holds. -/
  | trap (c : Cond) (v : Lit)
  /-- VADD (R142): Lane-wise qa + qb under VM. -/
  | vadd (d : QN) (a : QSrc) (b : QSrc) (t : Ty) (m : MaskN)
  /-- VSUB (R142): Lane-wise qa - qb under VM. -/
  | vsub (d : QN) (a : QSrc) (b : QSrc) (t : Ty) (m : MaskN)
  /-- VMUL (R142): Lane-wise qa × qb under VM. -/
  | vmul (d : QN) (a : QSrc) (b : QSrc) (t : Ty) (m : MaskN)
  /-- VFMA (R142): Accumulating qd × qa + qb with one rounding. -/
  | vfma (d : QN) (a : QSrc) (b : QSrc) (t : Ty) (m : MaskN)
  /-- VFMS (R142): Accumulating qd × qa - qb with one rounding. -/
  | vfms (d : QN) (a : QSrc) (b : QSrc) (t : Ty) (m : MaskN)
  /-- VMIN (R142): Lane-wise lesser of qa and qb. -/
  | vmin (d : QN) (a : QSrc) (b : QSrc) (t : Ty) (m : MaskN)
  /-- VMAX (R142): Lane-wise greater of qa and qb. -/
  | vmax (d : QN) (a : QSrc) (b : QSrc) (t : Ty) (m : MaskN)
  /-- VABS (R142): Lane-wise |qa|. -/
  | vabs (d : QN) (a : QSrc) (t : Ty) (m : MaskN)
  /-- VNEG (R142): Lane-wise -qa. -/
  | vneg (d : QN) (a : QSrc) (t : Ty) (m : MaskN)
  /-- VADD_SAT (R143): VADD with saturation. -/
  | vaddSat (d : QN) (a : QSrc) (b : QSrc) (t : Ty) (m : MaskN)
  /-- VSUB_SAT (R143): VSUB with saturation. -/
  | vsubSat (d : QN) (a : QSrc) (b : QSrc) (t : Ty) (m : MaskN)
  /-- VMUL_SAT (R143): VMUL with saturation. -/
  | vmulSat (d : QN) (a : QSrc) (b : QSrc) (t : Ty) (m : MaskN)
  /-- VFMA_SAT (R143): VFMA with saturation. -/
  | vfmaSat (d : QN) (a : QSrc) (b : QSrc) (t : Ty) (m : MaskN)
  /-- VFMS_SAT (R143): VFMS with saturation. -/
  | vfmsSat (d : QN) (a : QSrc) (b : QSrc) (t : Ty) (m : MaskN)
  /-- VADD_VI (R145): Accumulating qd + IMM14 in the lanes of VM. -/
  | vaddVi (d : QN) (t : Ty) (m : MaskN) (i : Imm14)
  /-- VBCAST_VI (R145): IMM14 in the lanes of VM, 0 elsewhere. -/
  | vbcastVi (d : QN) (t : Ty) (m : MaskN) (i : Imm14)
  /-- VADD_VF (R145): Accumulating qd + FIMM in every lane. -/
  | vaddVf (d : QN) (tf : Bool) (f : Fimm)
  /-- VBCAST_VF (R145): The FIMM value in every lane. -/
  | vbcastVf (d : QN) (tf : Bool) (f : Fimm)
  /-- VFMA_VL (R145): qd <- qd × qa + literal or kb value in the lanes of VM. -/
  | vfmaVl (d : QN) (a : QSrc) (v : Val) (t : Ty) (m : MaskN)
  /-- VADD_VL (R145): qd <- qa + literal or kb value in the lanes of VM. -/
  | vaddVl (d : QN) (a : QSrc) (v : Val) (t : Ty) (m : MaskN)
  /-- VAND (R146): Bitwise AND of qa and qb. -/
  | vand (d : QN) (a : QSrc) (b : QSrc) (t : Ty) (m : MaskN)
  /-- VOR (R146): Bitwise OR of qa and qb. -/
  | vor (d : QN) (a : QSrc) (b : QSrc) (t : Ty) (m : MaskN)
  /-- VXOR (R146): Bitwise XOR of qa and qb. -/
  | vxor (d : QN) (a : QSrc) (b : QSrc) (t : Ty) (m : MaskN)
  /-- VNOT (R146): Bitwise NOT of qa. -/
  | vnot (d : QN) (a : QSrc) (t : Ty) (m : MaskN)
  /-- VSHL (R146): Lane-wise left shift by the qb lane. -/
  | vshl (d : QN) (a : QSrc) (b : QSrc) (t : Ty) (m : MaskN)
  /-- VSHR (R146): Lane-wise logical right shift. -/
  | vshr (d : QN) (a : QSrc) (b : QSrc) (t : Ty) (m : MaskN)
  /-- VSRA (R146): Lane-wise arithmetic right shift. -/
  | vsra (d : QN) (a : QSrc) (b : QSrc) (t : Ty) (m : MaskN)
  /-- VPOPC (R146): Lane-wise count of 1 bits. -/
  | vpopc (d : QN) (a : QSrc) (t : Ty) (m : MaskN)
  /-- VCMP_EQ (R147): vmd bit i <- qa = qb for active lanes. -/
  | vcmpEq (v : MaskN) (a : QSrc) (b : QSrc) (t : Ty) (m : MaskN)
  /-- VCMP_NE (R147): vmd bit i <- qa ≠ qb. -/
  | vcmpNe (v : MaskN) (a : QSrc) (b : QSrc) (t : Ty) (m : MaskN)
  /-- VCMP_LT (R147): vmd bit i <- qa < qb. -/
  | vcmpLt (v : MaskN) (a : QSrc) (b : QSrc) (t : Ty) (m : MaskN)
  /-- VCMP_LE (R147): vmd bit i <- qa <= qb. -/
  | vcmpLe (v : MaskN) (a : QSrc) (b : QSrc) (t : Ty) (m : MaskN)
  /-- VCMP_UN (R147): vmd bit i <- either float operand is NaN. -/
  | vcmpUn (v : MaskN) (a : QSrc) (b : QSrc) (t : Ty) (m : MaskN)
  /-- VMLOG_AND (R147): vmd <- vma AND vmb over 512 bits. -/
  | vmlogAnd (v : MaskN) (a : MaskN) (b : MaskN)
  /-- VMLOG_OR (R147): vmd <- vma OR vmb. -/
  | vmlogOr (v : MaskN) (a : MaskN) (b : MaskN)
  /-- VMLOG_XOR (R147): vmd <- vma XOR vmb. -/
  | vmlogXor (v : MaskN) (a : MaskN) (b : MaskN)
  /-- VMLOG_ANDN (R147): vmd <- vma AND NOT vmb. -/
  | vmlogAndn (v : MaskN) (a : MaskN) (b : MaskN)
  /-- VSEL (R147): Lane i from qa where mask bit i is 1, else from qb. -/
  | vsel (d : QN) (a : QSrc) (b : QSrc) (t : Ty) (m : MaskN)
  /-- VCVT (R148): Converts every lane between the source type TY and the destination type in QB, rounding by RM. -/
  | vcvt (d : QN) (a : QSrc) (sat : Bool) (e : Ty) (t : Ty) (r : RMode)
  /-- VWIDEN (R149): Widens elements by a factor k into k destination registers, exactly. -/
  | vwiden (d : QN) (a : QSrc) (e : Ty) (t : Ty)
  /-- VNARROW (R149): Narrows k source registers into one vector, rounding or saturating. -/
  | vnarrow (d : QN) (a : QSrc) (sat : Bool) (e : Ty) (t : Ty) (r : RMode)
  /-- VMXS (R150): Converts 512 FP32 values to an MX type, pushing elements to qd and scales to qd+1. -/
  | vmxs (d : QN) (a : QSrc) (r : RMode) (x : MxTy)
  /-- VPERM (R151): Lane i <- qa lane indexed by the qb lane. -/
  | vperm (d : QN) (a : QSrc) (b : QSrc) (t : Ty) (m : MaskN)
  /-- VSHUF (R151): Zips, unzips or reverses lanes by the pattern in VM. -/
  | vshuf (d : QN) (a : QSrc) (b : QSrc) (t : Ty) (p : ShufPat)
  /-- VSLIDE_UP (R151): Lane i <- qa lane i-k, or 0. -/
  | vslideUp (d : QN) (a : QSrc) (s : LowReg) (t : Ty) (m : MaskN)
  /-- VSLIDE_DN (R151): Lane i <- qa lane i+k, or 0. -/
  | vslideDn (d : QN) (a : QSrc) (s : LowReg) (t : Ty) (m : MaskN)
  /-- VIOTA (R151): Lane i <- i. -/
  | viota (d : QN) (t : Ty) (m : MaskN)
  /-- VBCAST (R151): Every active lane <- low bits of scalar register as. -/
  | vbcast (d : QN) (s : LowReg) (t : Ty) (m : MaskN)
  /-- VPACKP (R154): Appends the mask-selected lanes of qa to the pack state and pushes each full vector. -/
  | vpackp (d : QN) (a : QSrc) (t : Ty) (m : MaskN)
  /-- VPACKP_FL (R154): Flushes a partial pack buffer padded with zeros and records PLAST. -/
  | vpackpFl (d : QN) (t : Ty)
  /-- VUNPK (R155): Expands stream elements into the mask-selected lanes, popping the head when consumed. -/
  | vunpk (d : QN) (a : QSrc) (t : Ty) (m : MaskN)
  /-- VMOVQ (R151): qd <- qa bit for bit. -/
  | vmovq (d : QN) (a : QSrc)
  /-- VCLR (R152): Removes every entry of qd at issue. -/
  | vclr (d : QN)
  /-- VCLR_STRM (R152): Resets both stream states. -/
  | vclrStrm
  /-- VDOT (R156): Dot product of qa and qb under Umber or Sienna into lane 0 at c+6. -/
  | vdot (d : QN) (a : QSrc) (b : QSrc) (t : Ty) (p : Profile)
  /-- VDOT_ACC (R156): VDOT plus the accumulator lane 0 of qd. -/
  | vdotAcc (d : QN) (a : QSrc) (b : QSrc) (t : Ty) (p : Profile)
  /-- VRED (R156): Tree reduction of the lanes of qa under mask vmk. -/
  | vred (d : QN) (a : QSrc) (m : MaskN) (t : Ty) (p : Profile)
  /-- VRED_ACC (R156): VRED plus an accumulator. -/
  | vredAcc (d : QN) (a : QSrc) (m : MaskN) (t : Ty) (p : Profile)
  /-- VRCP (R158): Indigo approximate reciprocal. -/
  | vrcp (d : QN) (a : QSrc)
  /-- VRSQ (R159): Indigo approximate reciprocal square root. -/
  | vrsq (d : QN) (a : QSrc)
  /-- VEXP2 (R160): Indigo approximate power of two. -/
  | vexp2 (d : QN) (a : QSrc)
  /-- VLOG2 (R161): Indigo approximate base-2 logarithm. -/
  | vlog2 (d : QN) (a : QSrc)
  /-- VRCPF (R162): One refinement step of a reciprocal approximation. -/
  | vrcpf (d : QN) (a : QSrc) (b : QSrc)
  /-- VRSQF (R162): One refinement step of a reciprocal square root approximation. -/
  | vrsqf (d : QN) (a : QSrc) (b : QSrc)
  /-- VDOT_W (R156): Wide dot product over register pairs qa, qa+1 and qb, qb+1. -/
  | vdotW (d : QN) (a : QSrc) (b : QSrc) (t : Ty) (p : Profile)
  /-- VDOT_W_ACC (R156): Wide dot product plus an accumulator. -/
  | vdotWAcc (d : QN) (a : QSrc) (b : QSrc) (t : Ty) (p : Profile)
  /-- LDS_SIGNED (R168): Sign-extending scalar load from M0 landing at c+3. -/
  | ldsSigned (g : Guard) (w : Width) (d : Reg) (ma : MemA)
  /-- LDS_UNSIGNED (R168): Zero-extending scalar load from M0. -/
  | ldsUnsigned (g : Guard) (w : Width) (d : Reg) (ma : MemA)
  /-- STS (R168): Scalar store to M0 at c+1. -/
  | sts (g : Guard) (w : Width) (d : Reg) (ma : MemA)
  /-- SLD_SIGNED (R168): Sign-extending scalar load from the own or a remote shaft. -/
  | sldSigned (g : Guard) (w : Width) (d : Reg) (ma : MemA)
  /-- SLD_UNSIGNED (R168): Zero-extending scalar load from a shaft. -/
  | sldUnsigned (g : Guard) (w : Width) (d : Reg) (ma : MemA)
  /-- SST (R168): Scalar store to the own shaft at c+1+L, or relaxed to a remote shaft. -/
  | sst (g : Guard) (w : Width) (d : Reg) (ma : MemA)
  /-- GLD_SIGNED (R168): Sign-extending M2 load whose destination is pending until DRAIN. -/
  | gldSigned (g : Guard) (w : Width) (sx : Sfx) (d : Reg) (ma : MemA)
  /-- GLD_UNSIGNED (R168): Zero-extending M2 load whose destination is pending until DRAIN. -/
  | gldUnsigned (g : Guard) (w : Width) (sx : Sfx) (d : Reg) (ma : MemA)
  /-- GST (R168): Scalar M2 store. -/
  | gst (g : Guard) (w : Width) (sx : Sfx) (d : Reg) (ma : MemA)
  /-- LDV (R168): 512-byte vector load from M0 into qd at c+3. -/
  | ldv (g : Guard) (d : QN) (ma : MemA)
  /-- STV (R168): Pops qa and stores 512 bytes to M0 at c+1. -/
  | stv (g : Guard) (d : QN) (ma : MemA)
  /-- GLDV (R169): 512-byte M2 vector load reserving an entry of qd. -/
  | gldv (g : Guard) (sx : Sfx) (d : QN) (ma : MemA)
  /-- GSTV (R168): Pops qa and stores 512 bytes to M2. -/
  | gstv (g : Guard) (sx : Sfx) (d : QN) (ma : MemA)
  /-- GGATH (R171): Gathers 128 or 64 elements at ba + index lanes into a reserved entry of qd. -/
  | ggath (g : Guard) (w : Wide) (sx : Sfx) (d : QN) (b : Reg)
  /-- GSCAT (R171): Scatters the lanes of qa to ba + index lanes. -/
  | gscat (g : Guard) (w : Wide) (sx : Sfx) (d : QN) (b : Reg)
  /-- GAADD (R172): Atomic add returning the old value. -/
  | gaadd (g : Guard) (w : Wide) (sx : Sfx) (d : Reg) (b : Reg) (l : Option Lit)
  /-- GAOR (R172): Atomic OR returning the old value. -/
  | gaor (g : Guard) (w : Wide) (sx : Sfx) (d : Reg) (b : Reg) (l : Option Lit)
  /-- GAAND (R172): Atomic AND returning the old value. -/
  | gaand (g : Guard) (w : Wide) (sx : Sfx) (d : Reg) (b : Reg) (l : Option Lit)
  /-- GAMAX_I (R172): Atomic signed maximum. -/
  | gamaxI (g : Guard) (w : Wide) (sx : Sfx) (d : Reg) (b : Reg) (l : Option Lit)
  /-- GAMAX_N (R172): Atomic unsigned maximum. -/
  | gamaxN (g : Guard) (w : Wide) (sx : Sfx) (d : Reg) (b : Reg) (l : Option Lit)
  /-- GAMIN_I (R172): Atomic signed minimum. -/
  | gaminI (g : Guard) (w : Wide) (sx : Sfx) (d : Reg) (b : Reg) (l : Option Lit)
  /-- GAMIN_N (R172): Atomic unsigned minimum. -/
  | gaminN (g : Guard) (w : Wide) (sx : Sfx) (d : Reg) (b : Reg) (l : Option Lit)
  /-- GAXCH (R172): Atomic exchange. -/
  | gaxch (g : Guard) (w : Wide) (sx : Sfx) (d : Reg) (b : Reg) (l : Option Lit)
  /-- GACAS (R172): Atomic compare-and-swap with a(dr+1) as the new value. -/
  | gacas (g : Guard) (w : Wide) (sx : Sfx) (d : Reg) (b : Reg)
  /-- GAORV (R173): Atomically ORs 64 bytes of qa into a 64-byte line. -/
  | gaorv (g : Guard) (sx : Sfx) (d : QN) (ma : MemA)
  /-- KVLOOK (R311): Looks up (SEQ, BLK) and returns GEN × 2^32 + berth number. -/
  | kvlook (g : Guard) (sx : Sfx) (d : Reg) (b : Reg)
  /-- KVGATH (R312): Reads n rows of a berth into reserved entries of qd. -/
  | kvgath (g : Guard) (sx : Sfx) (d : QN) (b : Reg) (n : Option Lit)
  /-- KVAPP (R313): Appends one token's key and value slices, extending or copying on write. -/
  | kvapp (g : Guard) (sx : Sfx) (d : QN) (b : Reg)
  /-- KVSHR (R314): Shares the first BLK blocks of a sequence with a destination sequence. -/
  | kvshr (g : Guard) (sx : Sfx) (d : Reg) (b : Reg)
  /-- KVREL (R315): Releases blocks BLK onward of a sequence, freeing berths whose REF reaches 0. -/
  | kvrel (g : Guard) (sx : Sfx) (b : Reg)
  /-- KVREF (R311): Returns the whole berth entry of (SEQ, BLK). -/
  | kvref (g : Guard) (sx : Sfx) (d : Reg) (b : Reg)
  /-- DRAIN (R90): Waits for every covered access on the named path, beginning an elastic segment if any is covered. -/
  | drain (g : Guard) (p : DrainPath)
  /-- FENCE (R81): Orders the tile's M2 accesses at a scope without stalling issue. -/
  | fence (g : Guard) (sx : Sfx)
  /-- BARW (R178): Arrives at barrier b for the instance of level h, making the segment elastic. -/
  | barw (g : Guard) (b : BarN) (h : LevelN)
  /-- AGSET (R182): Loads a generator's parameter set from four registers and records its space. -/
  | agset (g : Guard) (d : Reg) (k : AgN)
  /-- AGBIND (R181): Binds queue qj as the generator's port at c+1. -/
  | agbind (g : Guard) (q : PortN) (k : AgN)
  /-- AGRUN (R183): Starts the generator walk with its first push at c+n. -/
  | agrun (g : Guard) (k : AgN) (n : Lit)
  /-- AGSTOP (R184): Cancels every later read and push of the generator and releases its port at c+1. -/
  | agstop (g : Guard) (k : AgN)
  /-- MHOLE (R37): Fills a memory position with no access. -/
  | mhole
  /-- MPUSH (R255): Drives one activation plane of one segment to a half-macro set, updating block sums. -/
  | mpush (g : Guard) (q : QSrc) (f : AfN) (p : PlaneN) (u : SegN) (h : HSet)
  /-- MCLR (R261): Resets the beat state of every member of the set. -/
  | mclr (g : Guard) (h : HSet)
  /-- MMODE_C (R263): Switches every member into compute mode with the weight format and the scales in ra. -/
  | mmodeC (g : Guard) (f : FmtN) (r : Reg) (h : HSet)
  /-- MMODE_S (R263): Switches every member into storage mode. -/
  | mmodeS (g : Guard) (h : HSet)
  /-- MPMASK (R262): Sets the enabled weight planes PM of BNI members. -/
  | mpmask (g : Guard) (m : PlaneN) (h : HSet)
  /-- ASRD (R260): Reads 32 raw XA96 entries of an AS row into a queue at c+3. -/
  | asrd (g : Guard) (q : QN) (a : Reg) (x : ColG)
  /-- ASWR (R260): Writes 32 raw XA96 entries from a queue into an AS row at c+1. -/
  | aswr (g : Guard) (q : QSrc) (a : Reg) (x : ColG)
  /-- MSHIFT (R256): Aligns the block sums into the periphery registers under Ochre. -/
  | mshift (g : Guard) (h : HSet)
  /-- MACC (R257): Folds 32 periphery registers of every member and adds them into one AS row. -/
  | macc (g : Guard) (a : Reg) (c : ColG) (x : PerG) (h : HSet)
  /-- MDRAIN (R259): Rounds AS entries once into a queue at c+5, optionally clearing them. -/
  | mdrain (g : Guard) (q : QN) (t : OutTy) (k : Bool) (a : Reg)
  /-- DACT (R289): Activates a row of a bank. -/
  | dact (g : Guard) (ch : Bool) (b : BankN) (row : RegLit)
  /-- DPRE (R290): Precharges one bank. -/
  | dpre (g : Guard) (ch : Bool) (b : BankN)
  /-- DPREA (R290): Precharges every open bank. -/
  | dprea (g : Guard) (ch : Bool)
  /-- DRD_M0 (R292): Reads one line of the open row into M0. -/
  | drdM0 (g : Guard) (ch : Bool) (b : BankN) (o : ColN) (a : Reg)
  /-- DRD_SH (R292): Reads one line of the open row into a storage-mode half-macro line. -/
  | drdSh (g : Guard) (ch : Bool) (b : BankN) (o : ColN) (a : Reg)
  /-- DRD_Q (R292): Reads one line of the open row into a queue. -/
  | drdQ (g : Guard) (ch : Bool) (b : BankN) (o : ColN) (q : QN)
  /-- DWR_M0 (R293): Writes one line from M0 into the open row. -/
  | dwrM0 (g : Guard) (ch : Bool) (b : BankN) (o : ColN) (a : Reg)
  /-- DWR_SH (R293): Writes one line from a half-macro into the open row. -/
  | dwrSh (g : Guard) (ch : Bool) (b : BankN) (o : ColN) (a : Reg)
  /-- DWR_Q (R293): Writes bytes 0-63 of a popped or peeked queue entry into the open row. -/
  | dwrQ (g : Guard) (ch : Bool) (b : BankN) (o : ColN) (q : QSrc)
  /-- DREF (R295): All-bank refresh that credits the refresh account. -/
  | dref (g : Guard) (ch : Bool)
  /-- DREFB (R295): Per-bank refresh that adds the bank to the current round. -/
  | drefb (g : Guard) (ch : Bool) (b : BankN)
  /-- DWIN (R279): Opens a window of n cycles on the channel for the issuer, or closes it with n = 0. -/
  | dwin (g : Guard) (ch : Bool) (n : WinLen)
  /-- DMRW (R297): Privileged write of a mode register of every device on the channel. -/
  | dmrw (g : Guard) (ch : Bool) (m : ModeReg) (a : Reg)
  /-- DZQ (R297): Privileged impedance calibration of the channel. -/
  | dzq (g : Guard) (ch : Bool)
  /-- MTCLR (R193): Clears a mass tree, resets its horizon and cancels writes in its settle state. -/
  | mtclr (g : Guard) (t : TreeN)
  /-- MTLD (R191): Pops a queue vector into leaves of block b. -/
  | mtld (g : Guard) (t : TreeN) (q : QSrc) (x : RegLit)
  /-- MTST (R195): Pushes the 128 leaves of block b to a queue at c+18. -/
  | mtst (g : Guard) (t : TreeN) (q : QN) (x : RegLit)
  /-- MTUPD (R191): Sets one leaf to a value. -/
  | mtupd (g : Guard) (t : TreeN) (a : Reg) (y : RegLit)
  /-- MTADD (R191): Adds a signed value to one leaf with saturation, setting SSTAT.OF on clamp. -/
  | mtadd (g : Guard) (t : TreeN) (a : Reg) (y : RegLit)
  /-- MTSUM (R195): Returns the masked prefix sum below an index. -/
  | mtsum (g : Guard) (t : TreeN) (d : Reg) (x : RegLit)
  /-- MTFIND (R196): Finds the index at which the masked mass first exceeds m. -/
  | mtfind (g : Guard) (t : TreeN) (d : Reg) (p : PredN) (x : RegLit)
  /-- MTCUT (R197): Places the horizon past the index at which the unmasked mass reaches a threshold. -/
  | mtcut (g : Guard) (t : TreeN) (p : PredN) (x : RegLit)
  /-- MTROOT (R195): Returns the mass below the horizon, or of every leaf with .full. -/
  | mtroot (g : Guard) (t : TreeN) (d : Reg) (full : Bool)
  /-- MTLEAF (R195): Returns one stored leaf. -/
  | mtleaf (g : Guard) (t : TreeN) (d : Reg) (x : RegLit)
  /-- MTHOR (R195): Returns the horizon. -/
  | mthor (g : Guard) (t : TreeN) (d : Reg)
  /-- CNOP (R329): Command that does nothing. -/
  | cnop
  /-- CLI (R329): cd <- sign-extended IMM. -/
  | cli
  /-- CLI_LITERAL (R329): cd <- the next 64-bit word of the slot or buffer, which is skipped. -/
  | cliLiteral
  /-- CMOV (R329): cd <- ca. -/
  | cmov
  /-- CADD (R329): cd <- ca + y. -/
  | cadd
  /-- CSUB (R329): cd <- ca - y. -/
  | csub
  /-- CAND (R329): cd <- ca AND y. -/
  | cand
  /-- COR (R329): cd <- ca OR y. -/
  | cor
  /-- CSHL (R329): cd <- ca shifted left by y[5:0]. -/
  | cshl
  /-- CSHR (R329): cd <- ca shifted right logically by y[5:0]. -/
  | cshr
  /-- CLD (R330): Acquire load of a 64-bit or 32-bit value into cd. -/
  | cld
  /-- CST (R330): Plain store of cb or cb[31:0]. -/
  | cst
  /-- CB (R330): Conditional branch within the slot or buffer by a word offset. -/
  | cb
  /-- CLOOP (R330): Decrements ca and branches while it is nonzero. -/
  | cloop
  /-- CCALL (R330): Pushes the return address and continues in a command buffer. -/
  | ccall
  /-- CRET (R330): Pops the return address and continues there. -/
  | cret
  /-- CFENCE (R336): Makes every earlier access of the queue perform before any later one. -/
  | cfence
  /-- CHALT (R330): Completes the slot and then clears QCTL.EN. -/
  | chalt
  /-- CWAIT (R331): Starts polling a 64-bit location until a condition holds or a timeout expires. -/
  | cwait
  /-- CWAIT_SATISFIED (R331): A re-read of the polled location satisfies the condition, and cd receives the value. -/
  | cwaitSatisfied
  /-- CWAIT_TIMEOUT (R331): The CWAIT timeout in mapped microseconds expires, and cd receives the last value read. -/
  | cwaitTimeout
  /-- CSIG (R331): Release-writes cb to a location and then raises an MSI-X vector if requested. -/
  | csig
  /-- CTTLD (R333): Starts loading a timetable image into a slot of the named partitions. -/
  | cttld
  /-- CTTLD_COMPLETE (R333): The load is accepted or refused with a status, and the slot goes to Loaded on acceptance with translations pinned. -/
  | cttldComplete
  /-- CTTLD_UN (R333): Unloads a Loaded slot, releasing its pinned translations and TTID. -/
  | cttldUn
  /-- CLAUNCH_TC (R334): Arms a Loaded slot with T0 = cb. -/
  | claunchTc
  /-- CLAUNCH_REL (R334): Arms a Loaded slot with T0 = TC + cb. -/
  | claunchRel
  /-- CLAUNCH_JT (R334): Arms a slot with T0 following joint n of the timetable in the other slot. -/
  | claunchJt
  /-- CLAUNCH_WD (R334): Withdraws an Armed launch before T0, returning the slot to Loaded. -/
  | claunchWd
  /-- CCOPY (R335): Starts copying cb bytes line by line in ascending order. -/
  | ccopy
  /-- CCOPY_COMPLETE (R335): The last copied line performs and the CCOPY command completes. -/
  | ccopyComplete
  /-- CDEMOTE (R335): Starts a move of a berth toward the anchorage tier, waiting for a free engine move slot. -/
  | cdemote
  /-- CPROMOTE (R335): Starts a move of a berth toward HBM4, waiting for a free engine move slot. -/
  | cpromote
  /-- BRING_UP (R343): Power-on or cold reset: the boot ROM verifies each firmware stage, extends the measurement registers, and the Harbour complex builds the discovery table and remap. -/
  | bringUp
  /-- WARM_RESET (R244): Warm reset aborts every timetable, keeps weight-layer bits, reloads SMAP, puts every half-macro in storage mode, clears VREP and rebuilds the discovery table. -/
  | warmReset
  /-- TC_TICK (R16): One timetable cycle passes: each domain's TC increments on every die and each tile issues its bundle for that cycle. -/
  | tcTick
  /-- TIMETABLE_START (R19): TC reaches T0 and an Armed slot becomes Running. -/
  | timetableStart
  /-- CHANNEL_HANDOVER (R273): Between T0 - 2,048 and T0 the Harbour complex brings each compiled channel to the precharged, refreshed start state through the issuer. -/
  | channelHandover
  /-- TASK_START (R104): At T0 + s a tile task starts with its initial state, and the Pilot begins filling the idle half with the N0 successor of SEG0. -/
  | taskStart
  /-- TIMETABLE_ENDED (R20): At the first cycle at which every tile has executed TEND and every effect, access and digest exchange has completed, Ended is recorded and the completion record is written. -/
  | timetableEnded
  /-- WRITE_LANDS (R69): A delayed write to a register, predicate, mask, counter, flag or queue lands at the boundary into its landing cycle, with R70 and R71 deciding coincident writes. -/
  | writeLands
  /-- SNAPSHOT_TAKEN (R207): Once every issued M2, berth and remote-shaft access and every page walk has finished, the snapshot of every tile is taken. -/
  | snapshotTaken
  /-- BRANCH_TARGET_FETCH (R133): At c+3 after a taken branch the target bundle is fetched, and a misaligned, out-of-range or fill-word target raises a fetch fault. -/
  | branchTargetFetch
  /-- LOOP_BACK (R134): At the boundary after a loop body's last bundle the counter decrements and the loop either restarts its body, with the RB and stage-predicate shift for LOOPR, or exits. -/
  | loopBack
  /-- PILOT_FILL_DONE (R136): A Pilot fill begun at f completes during f+21 and sets SEGST.READY. -/
  | pilotFillDone
  /-- JOINT_RELEASE (R106): A JOINT holding issue completes when TC reaches T0 + J, and rigid timing resumes at the next cycle. -/
  | jointRelease
  /-- HOLD_POINT_FREEZE (R282): When TC reaches a hold-flagged joint while a hold is requested, the domain freezes with cause 0x00 and the channel sequencers precharge open banks and record their rows. -/
  | holdPointFreeze
  /-- WAITC_RELEASE (R137): A WAITC holding in elastic code completes at the first cycle at which CYC >= v. -/
  | waitcRelease
  /-- DRAIN_COMPLETE (R176): A holding DRAIN completes when its last covered access completes, releases the pending destinations of its path, and the next bundle issues in the following cycle. -/
  | drainComplete
  /-- BARW_COMPLETE (R178): When every participant has arrived and all their earlier M2 accesses have performed, the barrier episode closes and all participants leave at Tc+3 or Tc+15. -/
  | barwComplete
  /-- WAIT_LIMIT_EXPIRY (R180): A tile that has waited 2^24 cycles at one DRAIN or BARW raises a timing fault with SUB 0x9 and the domain freezes. -/
  | waitLimitExpiry
  /-- M0_ACCESS (R168): An M0 word samples or writes its bank at c+1, a one-per-cycle bank access under R74. -/
  | m0Access
  /-- SHAFT_ACCESS (R73): An own-shaft M1 store writes, or an M1 load samples, its half-macro at c+1+L. -/
  | shaftAccess
  /-- REMOTE_SHAFT_PERFORM (R85): A remote-shaft M1 access performs at the target half-macro in a free cycle at c+2+L or later, or raises a mode fault there. -/
  | remoteShaftPerform
  /-- M2_ACCESS_PERFORM (R79): An M2 load, store, gather, scatter or atomic performs at its home under the order of its page attribute and suffixes. -/
  | m2AccessPerform
  /-- PAGE_WALK_END (R166): An elastic translation miss finishes its walk, fills an unpinned cache entry, or raises a translation fault that freezes the domain. -/
  | pageWalkEnd
  /-- AG_SOURCE_READ (R75): An address generator reads 512 bytes of M0 or its own shaft at t-2 for its push at t, checking shaft addresses and mode then. -/
  | agSourceRead
  /-- AG_PUSH (R183): An address generator pushes one vector to its port at its scheduled cycle and releases the port after the last push. -/
  | agPush
  /-- MT_LEVEL_WRITE (R191): A mass-tree write recomputes one level of ancestors at c+1+l from the children in force in the cycle before. -/
  | mtLevelWrite
  /-- MT_QUERY_LEVEL_READ (R194): A mass-tree query reads level l at c'+16-l on its descent from the root. -/
  | mtQueryLevelRead
  /-- MT_HORIZON_WRITE (R197): The horizon computed by MTCUT comes into force at c+17 unless MTCLR cancelled it. -/
  | mtHorizonWrite
  /-- BEAT_ACCESS (R250): An X word acts at each named half-macro at its access cycle c+1+L, reading the beat and mode state in force. -/
  | beatAccess
  /-- BEAT_WRITE_IN_FORCE (R251): The BSUM of an MPUSH at a+1, or the PX of an MSHIFT at a+2, comes into force unless an MMODE or MCLR discarded it. -/
  | beatWriteInForce
  /-- MACC_LANDS (R257): The folded MACC results add into 32 accumulation-store entries at c+4+Lmax, setting MOF on saturation. -/
  | maccLands
  /-- AS_READ (R258): MDRAIN or ASRD reads accumulation-store entries at c+1, with MDRAIN.clr emptying them. -/
  | asRead
  /-- DRD_LANDS (R292): A DRD's line lands in M0, a half-macro line or a queue at c + tRL + FABRD, or raises uncorrectable ECC. -/
  | drdLands
  /-- DWR_SOURCE_READ (R293): A DWR reads its M0 or shaft source at c + max(tWL - FABWR, 1), and its data reaches the channel at c + tWL. -/
  | dwrSourceRead
  /-- REFRESH_DEADLINE (R277): TC reaching a compiled channel's refresh deadline raises a refresh-deadline fault in the owning tile. -/
  | refreshDeadline
  /-- RETENTION_EXPIRY (R278): An ephemeral bank reaches its retention deadline and becomes expired. -/
  | retentionExpiry
  /-- WINDOW_ISSUER_COMMAND (R280): The dynamic window issuer places the next in-order request's DRAM commands on a channel inside a window or on an open channel. -/
  | windowIssuerCommand
  /-- WINDOW_EXPIRY (R279): A window opened by DWIN n ends after cycle c+n. -/
  | windowExpiry
  /-- CHANNEL_TO_OPEN (R272): A compiled channel returns to open after its owner's last D effect or the end of its timetable, and the issuer precharges its open banks. -/
  | channelToOpen
  /-- KEEP_ALIVE_REFRESH (R282): While a domain is frozen, each compiled channel's sequencer issues an all-bank refresh every tREFI. -/
  | keepAliveRefresh
  /-- RESUME (R214): The Harbour complex checks a snapshot, restores the tiles, reopens the recorded rows and restarts TC at TCF. -/
  | resume
  /-- HARBOUR_ABORT (R19): The Harbour complex aborts a frozen timetable after an unrecoverable fault, a divergence decision or a thermal trip. -/
  | harbourAbort
  /-- THERMAL_HOLD_REQUEST (R30): A control die at 100 °C or above makes the Harbour complex request a hold for every domain with a tile on that die. -/
  | thermalHoldRequest
  /-- THERMAL_COOLDOWN (R30): A die falling below 95 °C withdraws a pending hold request or lets a thermally held domain resume. -/
  | thermalCooldown
  /-- THERMAL_TRIP (R283): A die at 112 °C freezes every running domain with a tile on it with cause 0x15 and aborts it. -/
  | thermalTrip
  /-- LANE_TEST_FAIL (R247): A bus lane fails its idle test pattern, and its interface's VALID bit clears at the next boundary. -/
  | laneTestFail
  /-- SHAFT_REPAIR (R247): The Harbour complex assigns a spare lane to the failing lane, sets VALID and resumes the domain, or aborts when no spare is free. -/
  | shaftRepair
  /-- DIGEST_JOINT (R351): At a digest joint each die's digest engine waits for earlier M2 accesses, digests its replica regions and sends them to the peer device. -/
  | digestJoint
  /-- DIGEST_EXCHANGE_DONE (R352): The peer's digests arrive and are compared; a difference leads to a divergence freeze with cause 0x17. -/
  | digestExchangeDone
  /-- DIGEST_DEADLINE (R352): TC reaching the next defined joint before the exchange is complete freezes the domain with cause 0x00, or with 0x17 on a known difference. -/
  | digestDeadline
  /-- REPLICA_DECISION (R352): A host's write to the replica control register decides whether to resume or abort a diverged domain, and resume takes both hosts' decisions. -/
  | replicaDecision
  /-- REPLICA_RECORD_WRITE (R351): The host writes a replica record pairing a partition with a peer partition and up to 16 regions. -/
  | replicaRecordWrite
  /-- BERTH_OP_PERFORM (R321): The berth engine performs one berth operation atomically, after checking every fault case, and returns its result or data. -/
  | berthOpPerform
  /-- MOVE_COMMIT (R317): When a berth copy completes, the berth takes the destination tier and slot and the command's report is written. -/
  | moveCommit
  /-- MOVE_SLOT_RETURN (R318): A committed move's source slot returns to its FIFO once the move's hold count falls to 0. -/
  | moveSlotReturn
  /-- SLOT_EXECUTE (R325): The front end reads slot HEAD when HEAD < TAIL and its stamp matches, and begins executing its command words. -/
  | slotExecute
  /-- QTAIL_WRITE (R326): A write to QTAIL raises TAIL by the monotonic-maximum rule, or is ignored, or flags error 0x08 when beyond the ring. -/
  | qtailWrite
  /-- QCTL_EN_WRITE (R324): Writing QCTL.EN starts a queue, setting HEAD to TAIL and clearing c1-c15 and the call stack, or stops it. -/
  | qctlEnWrite
  /-- QCTL_SKIP (R324): Writing 1 to QCTL.SKIP in the error state skips the failing slot, clears ERR and resumes the queue. -/
  | qctlSkip
  /-- REGISTER_WRITE (R5): A write to a register without behaviour of its own, such as QBASE, QNSLOT, QHM, PCFG or PTROOT, sets its RW fields. -/
  | registerWrite
  /-- KEY_INSTALL (R344): The key mailbox installs a Falcon-1024 public key in a partition's key store when its certificate chain or signature checks. -/
  | keyInstall
  /-- KEY_REMOVE (R344): The key mailbox removes a key from a partition's key store. -/
  | keyRemove
  /-- ATTESTATION_QUOTE (R345): A 32-byte nonce over CXL.io gets a signed quote of serial, epoch, measurements and loaded TTIDs. -/
  | attestationQuote
  /-- RUN_LIST_TURN (R337): The Harbour complex maps the next process's queues and resumes its frozen domains. -/
  | runListTurn
  /-- QUANTUM_EXPIRY (R337): At the end of a quantum, or when the process is idle, its domains are frozen, its CWAITs suspended and its queues unmapped. -/
  | quantumExpiry
  /-- REGION_REVOKE (R339): HC0 increments a region's generation, killing every capability that names it. -/
  | regionRevoke
  /-- CAP_ACCESS (R340): A firmware access through a capability performs if it is tagged, live, in bounds, of the right kind and permitted, and otherwise raises a capability fault. -/
  | capAccess
  /-- CAP_DERIVE (R339): The derive instruction makes a narrower capability with a subset of rights from a live one. -/
  | capDerive
  /-- FATAL_ERROR (R341): A fatal error freezes every domain, writes the signed dump, aborts every timetable and stops every queue. -/
  | fatalError
  /-- WATCHDOG_EXPIRY (R341): 100 ms without a heartbeat from any firmware core is a fatal error. -/
  | watchdogExpiry
  /-- SB_INVENTORY (R346): The side-band inventory command returns serial, part number, measurements and the discovery header. -/
  | sbInventory
  /-- SB_HEALTH (R346): The side-band health command returns temperatures, module power, timetable states and the error-log count. -/
  | sbHealth
  /-- SB_DUMP_INFO (R346): The side-band dump info command reports whether a dump is present, its KIND and its length. -/
  | sbDumpInfo
  /-- SB_DUMP_READ (R346): The side-band dump read command returns 1 to 1,024 bytes of the dump. -/
  | sbDumpRead
  /-- SB_RESET_WARM (R346): The side-band reset command with 0 acknowledges and then performs a warm reset. -/
  | sbResetWarm
  /-- SB_RESET_COLD (R346): The side-band reset command with 1 acknowledges and then performs a cold reset, which is bring-up. -/
  | sbResetCold
  /-- SB_QUOTE (R346): The side-band quote command returns an attestation quote for its nonce. -/
  | sbQuote
  /-- SB_DUMP_REQUEST (R346): The side-band dump request acknowledges and raises a fatal error that writes a dump. -/
  | sbDumpRequest
  /-- SB_UNKNOWN_COMMAND (R346): An unknown side-band command receives an error response and changes nothing. -/
  | sbUnknownCommand
  /-- MCTP_CONTROL_MESSAGE (R346): An MCTP control message on the I3C management port is answered. -/
  | mctpControlMessage
  /-- CXL_MEM_ACCESS (R348): A host read or write of the CXL.mem window reaches the LP6 channels through the window issuer. -/
  | cxlMemAccess
  /-- CXL_LANE_FAIL (R347): The CXL link trains down to 8 lanes when 8 or more lanes fail. -/
  | cxlLaneFail
  /-- LINK_FLIT_RECEIVE (R350): A 256-byte flit arrives on a device link, and one failing its CRC is replayed by the sender. -/
  | linkFlitReceive
  /-- LINK_PORT_FAIL (R350): A failed link port is replaced by the next port that the routing table lists for that destination. -/
  | linkPortFail
  /-- LINK_DELIVERY_TIMEOUT (R350): An access that no path delivers within 1 ms is reported as uncorrectable ECC with structure code 0x7. -/
  | linkDeliveryTimeout
  deriving DecidableEq, Repr

end Sys2Proof
end

