-- ==== Sys2Proof/Machine/Legal.lean ====
section
/-! DEFINITION. Which operand values each instruction's entry accepts (R40 to R48, and the entries): the checks
that decoding makes on a word's fields, the privileged words (R48), the pipes (R34), and the destinations that two
S words of one bundle must not share (R35). -/

namespace Sys2Proof.Machine

/-! ## Type sets -/

/-- Integer element types (R43). -/
def tyInt : Ty → Bool
  | .i8 | .i16 | .i32 | .i64 | .n8 | .n16 | .n32 | .n64 => true
  | _ => false
/-- Signed integer element types. -/
def tySigned : Ty → Bool
  | .i8 | .i16 | .i32 | .i64 => true
  | _ => false
/-- The float lane types of vector arithmetic (R142). -/
def tyFloat : Ty → Bool
  | .f32 | .bf16 | .f16 | .e4m3 | .e5m2 => true
  | _ => false
/-- The 8-bit float types. -/
def tyFp8 : Ty → Bool
  | .e4m3 | .e5m2 => true
  | _ => false
/-- Every type that a permute, select or logic word accepts: not e2m1 (R138), not the reserved code. -/
def tyMove : Ty → Bool
  | .e2m1 | .reserved => false
  | _ => true
/-- The types of VADD to VFMS (R142). -/
def tyArith (t : Ty) : Bool := tyInt t || tyFloat t
/-- The element width in bytes (R138); e2m1, half a byte, counts 1 here and is handled where it is accepted. -/
def tyW : Ty → Nat
  | .i8 | .n8 | .e4m3 | .e5m2 | .e2m1 => 1
  | .i16 | .n16 | .bf16 | .f16 => 2
  | .i32 | .n32 | .f32 | .um24 => 4
  | .i64 | .n64 => 8
  | .reserved => 1

/-! ## Field checks -/

/-- p0 negated is illegal (R41). -/
def condOk (c : Cond) : Bool := !(c.p == 0 && c.n)
/-- A packet index names a packet of the half (R41). -/
def packOk (k : PackN) : Bool := k.toNat < 85
/-- A rounding field is assigned (R54). -/
def rmOk (r : RMode) : Bool := r != .reserved
/-- The order and scope combinations of R45. -/
def sfxOk (x : Sfx) : Bool :=
  match x.ord with
  | .rlx => x.scp != .reserved
  | .acq | .rel => x.scp != .none && x.scp != .reserved
  | .sc => x.scp == .none
/-- The suffixes of the M2 loads (R174). -/
def sfxLoad (x : Sfx) : Bool := sfxOk x && x.ord != .rel
/-- The suffixes of the M2 stores (R174). -/
def sfxStore (x : Sfx) : Bool := sfxOk x && x.ord != .acq
/-- The suffixes of a berth word (R309); rel says whether `.rel` is accepted. -/
def sfxBerth (rel : Bool) (x : Sfx) : Bool :=
  match x.ord with
  | .rlx => x.scp == .none
  | .acq => x.scp == .grp || x.scp == .die
  | .rel => rel && (x.scp == .grp || x.scp == .die)
  | .sc => false
/-- The set literal of R252; row says whether ROW may be nonzero (MACC). -/
def hsetOk (row : Bool) (h : HSet) : Bool :=
  h.lmask != 0 && h.hmask != 0 && h.rsv == 0 && decide (h.mbase.toNat + h.mcnt.toNat ≤ 127) &&
    (if row then decide (h.row.toNat ≤ 767) else h.row == 0)
/-- The assigned format codes of af.FMT and MMODE (R100, R263). -/
def fmtOk (f : FmtN) : Bool := f.toNat < 4 || (8 ≤ f.toNat && f.toNat < 15)

/-- The pairs of VCVT, in either direction (R148). -/
def cvtPair (dst src : Ty) : Bool :=
  let one (a b : Ty) : Bool :=
    match a, b with
    | .f32, .i32 | .f32, .n32 | .f32, .um24 | .f16, .bf16 | .f16, .i16 | .bf16, .i16
    | .e4m3, .e5m2 | .e4m3, .i8 | .e5m2, .i8 => true
    | _, _ => false
  one dst src || one src dst
/-- The pairs of VWIDEN (R149). -/
def widenPair (dst src : Ty) : Bool :=
  match dst, src with
  | .i16, .i8 | .i32, .i8 | .i32, .i16 | .i64, .i16 | .i64, .i32 => true
  | .n16, .n8 | .n32, .n8 | .n32, .n16 | .n64, .n16 | .n64, .n32 => true
  | .f32, .bf16 | .f32, .f16 => true
  | .f16, .e4m3 | .bf16, .e4m3 | .f32, .e4m3 | .f16, .e5m2 | .bf16, .e5m2 | .f32, .e5m2 => true
  | .e4m3, .e2m1 | .f16, .e2m1 | .bf16, .e2m1 => true
  | _, _ => false
/-- The element size in half bytes. -/
def tyNib : Ty → Nat
  | .e2m1 => 1
  | t => 2 * tyW t
/-- The width factor k of VWIDEN and VNARROW (R149). -/
def widenK (wide narrow : Ty) : Nat := tyNib wide / tyNib narrow

/-- The types and profiles of VDOT and VRED (R156). -/
def redOk (t : Ty) (p : Profile) : Bool :=
  match p, t with
  | .umber, .bf16 | .umber, .f16 | .umber, .e4m3 | .umber, .e5m2 | .sienna, .f32 => true
  | _, _ => false

/-- Every field of the instruction holds a value that its entry accepts, so far as the word and its literal decide it
(R40, R48). Checks that need the tile's state (shapes, RS, af, the channel's columns) are made at issue. -/
def fieldsLegal : Instr → Bool
  | .add d a b => !(d == 0 && a == 0 && b == 0)
  | .fcvt _ _ m _ => rmOk m
  | .rdsr _ n => n != .reserved
  | .wrsr n _ => n != .reserved
  | .br c k => condOk c && packOk k
  | .brl c k => condOk c && packOk k
  | .bri c _ => condOk c
  | .ret c => condOk c
  | .loop k _ e => decide (k.toNat ≤ 2) && packOk e
  | .loopr _ k _ e => decide (k.toNat ≤ 2) && packOk e
  | .segj c => condOk c
  | .segsel c k => condOk c && decide (k.toNat ≤ 1)
  | .tchk c _ => condOk c
  | .joint v => decide (v.toNat < 256)
  | .tend c => condOk c
  | .trap c v => condOk c && decide (v.toNat < 65536)
  | .vadd _ _ _ t _ => tyArith t
  | .vsub _ _ _ t _ => tyArith t
  | .vmul _ _ _ t _ => tyArith t
  | .vfma _ _ _ t _ => tyArith t
  | .vfms _ _ _ t _ => tyArith t
  | .vmin _ _ _ t _ => tyArith t || t == .um24
  | .vmax _ _ _ t _ => tyArith t || t == .um24
  | .vabs _ _ t _ => tySigned t || tyFloat t
  | .vneg _ _ t _ => tySigned t || tyFloat t
  | .vaddSat _ _ _ t _ => tyInt t || tyFp8 t
  | .vsubSat _ _ _ t _ => tyInt t || tyFp8 t
  | .vmulSat _ _ _ t _ => tyInt t || tyFp8 t
  | .vfmaSat _ _ _ t _ => tyInt t || tyFp8 t
  | .vfmsSat _ _ _ t _ => tyInt t || tyFp8 t
  | .vaddVi _ t _ _ => tyInt t
  | .vbcastVi _ t _ _ => tyInt t
  | .vfmaVl _ _ _ t _ => tyArith t
  | .vaddVl _ _ _ t _ => tyArith t
  | .vand _ _ _ t _ => tyMove t
  | .vor _ _ _ t _ => tyMove t
  | .vxor _ _ _ t _ => tyMove t
  | .vnot _ _ t _ => tyMove t
  | .vshl _ _ _ t _ => tyInt t
  | .vshr _ _ _ t _ => tyInt t
  | .vsra _ _ _ t _ => tyInt t
  | .vpopc _ _ t _ => tyInt t
  | .vcmpEq _ _ _ t _ => tyArith t
  | .vcmpNe _ _ _ t _ => tyArith t
  | .vcmpLt _ _ _ t _ => tyArith t
  | .vcmpLe _ _ _ t _ => tyArith t
  | .vcmpUn _ _ _ t _ => tyFloat t
  | .vsel _ _ _ t _ => tyMove t
  | .vcvt _ _ s e t r => cvtPair e t && rmOk r && (!s || tyFp8 e)
  | .vwiden d _ e t => widenPair e t && decide (d.toNat % widenK e t = 0)
  | .vnarrow _ a s e t r =>
      widenPair t e && rmOk r && decide (a.q.toNat % widenK t e = 0) && (!s || tyInt e || tyFp8 e)
  | .vmxs d a r _ => rmOk r && decide (d.toNat % 2 = 0) && decide (a.q.toNat % 4 = 0)
  | .vperm _ _ _ t _ => tyMove t
  | .vshuf _ _ b t p => tyMove t && decide (p.toNat ≤ 4) && (p.toNat != 4 || (b.q == 0 && !b.pk))
  | .vslideUp _ _ _ t _ => tyMove t
  | .vslideDn _ _ _ t _ => tyMove t
  | .viota _ t _ => tyInt t
  | .vbcast _ _ t _ => tyMove t
  | .vpackp _ a t _ => tyMove t && !a.pk
  | .vpackpFl _ t => tyMove t
  | .vunpk _ a t _ => tyMove t && !a.pk
  | .vdot _ _ _ t p => redOk t p
  | .vdotAcc _ _ _ t p => redOk t p
  | .vred _ _ _ t p => redOk t p
  | .vredAcc _ _ _ t p => redOk t p
  | .vdotW _ a b t p => redOk t p && p == .umber && decide (a.q.toNat % 2 = 0) && decide (b.q.toNat % 2 = 0)
  | .vdotWAcc _ a b t p => redOk t p && p == .umber && decide (a.q.toNat % 2 = 0) && decide (b.q.toNat % 2 = 0)
  | .gldSigned _ _ sx _ _ => sfxLoad sx
  | .gldUnsigned _ _ sx _ _ => sfxLoad sx
  | .gst _ _ sx _ _ => sfxStore sx
  | .gldv _ sx _ _ => sfxLoad sx
  | .gstv _ sx _ _ => sfxStore sx
  | .ggath _ _ sx d _ => sfxLoad sx && d != 15
  | .gscat _ _ sx d _ => sfxStore sx && d != 15
  | .gaadd _ _ sx _ _ _ => sfxOk sx
  | .gaor _ _ sx _ _ _ => sfxOk sx
  | .gaand _ _ sx _ _ _ => sfxOk sx
  | .gamaxI _ _ sx _ _ _ => sfxOk sx
  | .gamaxN _ _ sx _ _ _ => sfxOk sx
  | .gaminI _ _ sx _ _ _ => sfxOk sx
  | .gaminN _ _ sx _ _ _ => sfxOk sx
  | .gaxch _ _ sx _ _ _ => sfxOk sx
  | .gacas _ _ sx d _ => sfxOk sx && d != 0 && d != 63
  | .gaorv _ sx _ _ => sfxOk sx
  | .kvlook _ sx _ _ => sfxBerth false sx
  | .kvgath _ sx _ _ n =>
      sfxBerth false sx && (match n with | none => true | some v => decide (1 ≤ v.toNat ∧ v.toNat ≤ 4))
  | .kvapp _ sx d _ => sfxBerth true sx && d != 15
  | .kvshr _ sx _ _ => sfxBerth true sx
  | .kvrel _ sx _ => sfxBerth true sx
  | .kvref _ sx _ _ => sfxBerth false sx
  | .drain _ p => p != .none
  | .fence _ sx => sfxOk sx
  | .agset _ d _ => decide (d.toNat ≤ 60)
  | .agbind _ q _ => decide (q.toNat ≤ 7)
  | .agrun _ _ n => decide (3 ≤ n.toNat ∧ n.toNat ≤ 4095)
  | .mpush _ _ _ p _ h => decide (p.toNat ≤ 9) && hsetOk false h
  | .mclr _ h => hsetOk false h
  | .mmodeC _ f _ h => fmtOk f && hsetOk false h
  | .mmodeS _ h => hsetOk false h
  | .mpmask _ m h => decide (2 ≤ m.toNat ∧ m.toNat ≤ 8) && hsetOk false h
  | .mshift _ h => hsetOk false h
  | .macc _ _ _ x h => decide (x.toNat ≤ 14) && hsetOk true h
  | .mdrain _ _ t _ _ => decide (t.toNat ≤ 4)
  | _ => true

/-- The privileged words (R48): majors 0x1B and 0x1E. -/
def privileged : Instr → Bool
  | .ptid _ | .rdwc _ | .rdtc _ | .dmrw .. | .dzq .. => true
  | _ => false

/-! ## Bundle rules (R34 to R36) -/

/-- The pipe class of a major opcode: 0 S, 2 B, 3 V, 4 memory, 7 X, 8 D, 9 T; none where no word is defined (R34, R47). -/
def pipeClass (maj : Nat) : Option Nat :=
  if maj ≤ 4 ∨ maj = 0x1E then some 0
  else if 8 ≤ maj ∧ maj ≤ 11 then some 2
  else if 12 ≤ maj ∧ maj ≤ 18 then some 3
  else if 20 ≤ maj ∧ maj ≤ 23 then some 4
  else if maj = 24 ∨ maj = 25 then some 7
  else if maj = 26 ∨ maj = 27 then some 8
  else if maj = 28 then some 9
  else none

/-- The scalar destination names of an S word (R35); dim gives the dimension count of a shape entry. -/
def sDst (dim : ShapeN → Nat) : Instr → List Nat
  | .tidx d _ k => (List.range (dim k)).map (fun i => d.toNat + i)
  | .add d _ _ | .sub d _ _ | .mul d _ _ | .mulh d _ _ | .mulhn d _ _ | .and d _ _ | .or d _ _ | .xor d _ _
  | .andn d _ _ | .shl d _ _ | .shr d _ _ | .sra d _ _ | .rotl d _ _ | .min d _ _ | .max d _ _ | .minn d _ _
  | .maxn d _ _ | .sel d _ _ | .adda d _ _ | .clz d _ | .popc d _
  | .addSl d _ _ | .subSl d _ _ | .mulSl d _ _ | .mulhSl d _ _ | .mulhnSl d _ _ | .andSl d _ _ | .orSl d _ _
  | .xorSl d _ _ | .andnSl d _ _ | .shlSl d _ _ | .shrSl d _ _ | .sraSl d _ _ | .rotlSl d _ _ | .minSl d _ _
  | .maxSl d _ _ | .minnSl d _ _ | .maxnSl d _ _ | .selSl d _ _ | .addaSl d _ _
  | .movl d _ | .movk d _ | .addi d _ | .shli d _ | .shri d _ | .srai d _ | .movi d _ | .movf d _
  | .fadd d _ _ | .fsub d _ _ | .fmul d _ _ | .ffma d _ _ | .fcvt d _ _ _ | .tdim d _ _ | .tid d | .cyc d
  | .rdsr d _ | .ptid d | .rdwc d | .rdtc d => [d.toNat]
  | _ => []

/-- The predicate destination of an S word (R35). A WRSR to PRED has a special register, not a predicate, as destination
(log 31). -/
def sPred : Instr → Option PredN
  | .pcmpEq d _ _ | .pcmpNe d _ _ | .pcmpLt d _ _ | .pcmpGe d _ _ | .pcmpLtn d _ _ | .pcmpGen d _ _
  | .pcmpEqSl d _ _ | .pcmpNeSl d _ _ | .pcmpLtSl d _ _ | .pcmpGeSl d _ _ | .pcmpLtnSl d _ _ | .pcmpGenSl d _ _
  | .fcmpEq d _ _ | .fcmpLt d _ _ | .fcmpLe d _ _ | .fcmpUn d _ _
  | .plogAnd d _ _ | .plogOr d _ _ | .plogXor d _ _ | .plogAndn d _ _ | .pset d _ => some d
  | _ => none

/-- Two S words whose destinations share a scalar register other than a0 or a predicate other than p0 (R35). -/
def sClash (dim : ShapeN → Nat) (i j : Instr) : Bool :=
  (sDst dim i).any (fun d => d != 0 && (sDst dim j).contains d) ||
    (match sPred i, sPred j with
     | some p, some q => p == q && p != 0
     | _, _ => false)

end Sys2Proof.Machine
end

