-- ==== Sys2Proof/WellFormed.lean ====
section
/-! DEFINITION. Well-formed instructions: every field holds a value that the spec's entry accepts (R40, R48), and
`ADD a0, a0, a0`, which the spec names NOP (R37), is not spelt as an ADD. -/

namespace Sys2Proof

/-- The instruction is one that the spec defines. -/
def Instr.WellFormed (i : Instr) : Prop := Machine.fieldsLegal i = true

/-- Whether an instruction is well-formed is decided by evaluation. -/
abbrev Instr.wf (i : Instr) : Bool := Machine.fieldsLegal i

end Sys2Proof
end

