-- ==== Sys2Proof/Decode.lean ====
section
/-! DEFINITION. Decoding and encoding of tile words (R31 to R49, and the encodings of each instruction entry):
the format classes of R40 as field records, the fields' codes, one decoder per major opcode, and the encoder. -/

namespace Sys2Proof

/-- Bit i of a field. -/
def bitAt {w : Nat} (x : BitVec w) (i : Nat) : Bool := x.getLsbD i
/-- The n bits of a field from bit lo up. -/
def part {w : Nat} (x : BitVec w) (lo n : Nat) : BitVec n := x.extractLsb' lo n

/-! ## Codes of the small operand types -/

/-- The field code of a `Ty`. -/
def Ty.code : Ty → BitVec 4
  | .i8 => 0
  | .i16 => 1
  | .i32 => 2
  | .i64 => 3
  | .n8 => 4
  | .n16 => 5
  | .n32 => 6
  | .n64 => 7
  | .f32 => 8
  | .bf16 => 9
  | .f16 => 10
  | .e4m3 => 11
  | .e5m2 => 12
  | .e2m1 => 13
  | .um24 => 14
  | .reserved => 15
/-- The `Ty` that a field code names. -/
def Ty.ofCode (c : BitVec 4) : Ty :=
  match c.toNat with
  | 0 => .i8
  | 1 => .i16
  | 2 => .i32
  | 3 => .i64
  | 4 => .n8
  | 5 => .n16
  | 6 => .n32
  | 7 => .n64
  | 8 => .f32
  | 9 => .bf16
  | 10 => .f16
  | 11 => .e4m3
  | 12 => .e5m2
  | 13 => .e2m1
  | 14 => .um24
  | _ => .reserved
@[simp] theorem Ty.ofCode_code (x : Ty) : Ty.ofCode x.code = x := by cases x <;> rfl

/-- The field code of a `RMode`. -/
def RMode.code : RMode → BitVec 3
  | .rne => 0
  | .rtz => 1
  | .rdn => 2
  | .rup => 3
  | .rna => 4
  | .reserved => 5
/-- The `RMode` that a field code names. -/
def RMode.ofCode (c : BitVec 3) : RMode :=
  match c.toNat with
  | 0 => .rne
  | 1 => .rtz
  | 2 => .rdn
  | 3 => .rup
  | 4 => .rna
  | _ => .reserved
@[simp] theorem RMode.ofCode_code (x : RMode) : RMode.ofCode x.code = x := by cases x <;> rfl

/-- The field code of a `Profile`. -/
def Profile.code : Profile → BitVec 4
  | .ochre => 1
  | .umber => 2
  | .sienna => 3
  | .indigo => 4
  | .unassigned => 0
/-- The `Profile` that a field code names. -/
def Profile.ofCode (c : BitVec 4) : Profile :=
  match c.toNat with
  | 1 => .ochre
  | 2 => .umber
  | 3 => .sienna
  | 4 => .indigo
  | _ => .unassigned
@[simp] theorem Profile.ofCode_code (x : Profile) : Profile.ofCode x.code = x := by cases x <;> rfl

/-- The field code of a `MOrd`. -/
def MOrd.code : MOrd → BitVec 2
  | .rlx => 0
  | .acq => 1
  | .rel => 2
  | .sc => 3
/-- The `MOrd` that a field code names. -/
def MOrd.ofCode (c : BitVec 2) : MOrd :=
  match c.toNat with
  | 0 => .rlx
  | 1 => .acq
  | 2 => .rel
  | _ => .sc
@[simp] theorem MOrd.ofCode_code (x : MOrd) : MOrd.ofCode x.code = x := by cases x <;> rfl

/-- The field code of a `MScp`. -/
def MScp.code : MScp → BitVec 3
  | .none => 0
  | .tile => 1
  | .grp => 2
  | .die => 3
  | .pkg => 4
  | .net => 5
  | .reserved => 6
/-- The `MScp` that a field code names. -/
def MScp.ofCode (c : BitVec 3) : MScp :=
  match c.toNat with
  | 0 => .none
  | 1 => .tile
  | 2 => .grp
  | 3 => .die
  | 4 => .pkg
  | 5 => .net
  | _ => .reserved
@[simp] theorem MScp.ofCode_code (x : MScp) : MScp.ofCode x.code = x := by cases x <;> rfl

/-- The field code of a `DrainPath`. -/
def DrainPath.code : DrainPath → BitVec 2
  | .none => 0
  | .m1 => 1
  | .m2 => 2
  | .all => 3
/-- The `DrainPath` that a field code names. -/
def DrainPath.ofCode (c : BitVec 2) : DrainPath :=
  match c.toNat with
  | 0 => .none
  | 1 => .m1
  | 2 => .m2
  | _ => .all
@[simp] theorem DrainPath.ofCode_code (x : DrainPath) : DrainPath.ofCode x.code = x := by cases x <;> rfl

/-- The field code of a `FCvtKind`. -/
def FCvtKind.code : FCvtKind → BitVec 3
  | .i32f32 => 0
  | .i64f32 => 1
  | .n32f32 => 2
  | .n64f32 => 3
  | .f32i64 => 4
  | .f32n64 => 5
  | .bf16f32 => 6
  | .f32bf16 => 7
/-- The `FCvtKind` that a field code names. -/
def FCvtKind.ofCode (c : BitVec 3) : FCvtKind :=
  match c.toNat with
  | 0 => .i32f32
  | 1 => .i64f32
  | 2 => .n32f32
  | 3 => .n64f32
  | 4 => .f32i64
  | 5 => .f32n64
  | 6 => .bf16f32
  | _ => .f32bf16
@[simp] theorem FCvtKind.ofCode_code (x : FCvtKind) : FCvtKind.ofCode x.code = x := by cases x <;> rfl

/-- The field code of a special register (R130). -/
def SpecReg.code : SpecReg → BitVec 6
  | .trot => 0 | .sstat => 1 | .vstat => 2 | .pred => 3 | .lc0 => 4 | .lc1 => 5 | .lc2 => 6 | .segst => 7
  | .af k => 8 + k.setWidth 6
  | .astat => 16 | .reserved => 63
/-- The special register that a field code names (R130). -/
def SpecReg.ofCode (c : BitVec 6) : SpecReg :=
  match c.toNat with
  | 0 => .trot | 1 => .sstat | 2 => .vstat | 3 => .pred | 4 => .lc0 | 5 => .lc1 | 6 => .lc2 | 7 => .segst
  | 16 => .astat
  | n => if n < 16 then .af (c.setWidth 3) else .reserved
@[simp] theorem SpecReg.ofCode_code (x : SpecReg) : SpecReg.ofCode x.code = x := by
  cases x with
  | af k => revert k; decide
  | _ => rfl

/-- The QA form of a queue field: `.pk` above the queue number (R41). -/
def QSrc.code (x : QSrc) : BitVec 5 := BitVec.ofBool x.pk ++ x.q
/-- The queue source of a QA field (R41). -/
def QSrc.ofCode (c : BitVec 5) : QSrc := ⟨bitAt c 4, c.setWidth 4⟩
@[simp] theorem QSrc.ofCode_code (x : QSrc) : QSrc.ofCode x.code = x := by
  obtain ⟨pk, q⟩ := x; revert pk q; decide

/-- The value of a field fits in its low n bits (R41: unused high bits are 0). -/
def fits (n : Nat) {w : Nat} (x : BitVec w) : Bool := x.toNat < 2 ^ n
@[simp] theorem fits_up (n w : Nat) (h : n ≤ w) (x : BitVec n) : fits n (x.setWidth w) = true := by
  have := x.isLt
  have h2 : 2 ^ n ≤ 2 ^ w := Nat.pow_le_pow_right (by omega) h
  simp only [fits, BitVec.toNat_setWidth, decide_eq_true_eq]
  rw [Nat.mod_eq_of_lt (by omega)]; exact this
@[simp] theorem low_up (n w : Nat) (h : n ≤ w) (x : BitVec n) : (x.setWidth w).setWidth n = x := by
  apply BitVec.eq_of_toNat_eq
  have := x.isLt
  have h2 : 2 ^ n ≤ 2 ^ w := Nat.pow_le_pow_right (by omega) h
  simp only [BitVec.toNat_setWidth]
  rw [Nat.mod_eq_of_lt (by omega : x.toNat < 2 ^ w), Nat.mod_eq_of_lt this]
@[simp] theorem bool_bit (b : Bool) : bitAt (BitVec.ofBool b) 0 = b := by cases b <;> rfl

/-- The X bit, the KB field and the literal word of a K = 0b11 source (R38). -/
def Val.xbit : Val → BitVec 1 | .lit _ => 0 | .kb _ => 1
def Val.kbits : Val → BitVec 8 | .lit _ => 0 | .kb k => k
def Val.literal : Val → Option Lit | .lit v => some v | .kb _ => none
def Val.ofFields (x : BitVec 1) (k : BitVec 8) (lit : Lit) : Val := if x = 0#1 then .lit lit else .kb k
/-- The register field, L bit and literal word of a source that a literal may replace. -/
def RegLit.regField : RegLit → BitVec 6 | .reg r => r | .lit _ => 0
def RegLit.lbit : RegLit → BitVec 1 | .reg _ => 0 | .lit _ => 1
def RegLit.literal : RegLit → Option Lit | .reg _ => none | .lit v => some v
def RegLit.ofFields (r : BitVec 6) (l : BitVec 1) (lit : Lit) : RegLit := if l = 0#1 then .reg r else .lit lit
/-- The L bit of an optional literal, and the reverse. -/
def litBit (x : Option Lit) : BitVec 1 := if x.isSome then 1 else 0
def ofLitBit (l : BitVec 1) (lit : Lit) : Option Lit := if l = 0#1 then none else some lit
/-- The SB field of FCVT: RM above the kind (R125). -/
def fcvtCode (m : RMode) (k : FCvtKind) : BitVec 6 := m.code ++ k.code

@[simp] theorem Val.ofFields_fields (v : Val) :
    Val.ofFields v.xbit v.kbits (v.literal.getD 0#32) = v := by cases v <;> rfl
@[simp] theorem Val.fields_ok (v : Val) : (v.xbit = 1#1 ∨ v.kbits = 0#8) := by cases v <;> simp [Val.xbit, Val.kbits]
@[simp] theorem RegLit.ofFields_fields (v : RegLit) :
    RegLit.ofFields v.regField v.lbit (v.literal.getD 0#32) = v := by cases v <;> rfl
@[simp] theorem RegLit.fields_ok (v : RegLit) : (v.lbit = 0#1 ∨ v.regField = 0#6) := by
  cases v <;> simp [RegLit.lbit, RegLit.regField]
@[simp] theorem ofLitBit_litBit (x : Option Lit) : ofLitBit (litBit x) (x.getD 0#32) = x := by cases x <;> rfl
@[simp] theorem fcvt_rm (m : RMode) (k : FCvtKind) : RMode.ofCode (part (fcvtCode m k) 3 3) = m := by
  cases m <;> cases k <;> rfl
@[simp] theorem fcvt_kind (m : RMode) (k : FCvtKind) : FCvtKind.ofCode (part (fcvtCode m k) 0 3) = k := by
  cases m <;> cases k <;> rfl
@[simp] theorem satTy_sat (s : Bool) (t : Ty) : bitAt (BitVec.ofBool s ++ t.code) 4 = s := by
  cases s <;> cases t <;> rfl
@[simp] theorem satTy_ty (s : Bool) (t : Ty) : Ty.ofCode (part (BitVec.ofBool s ++ t.code) 0 4) = t := by
  cases s <;> cases t <;> rfl
@[simp] theorem rmMx_rm (r : RMode) (x : BitVec 2) : RMode.ofCode (part (r.code ++ x) 2 3) = r := by
  revert x; cases r <;> decide
@[simp] theorem rmMx_mx (r : RMode) (x : BitVec 2) : part (r.code ++ x) 0 2 = x := by
  revert x; cases r <;> decide

/-- The literal word of a half-macro set (R252). -/
def HSet.toLit (h : HSet) : Lit :=
  BitVec.ofNat 32 (h.lmask.toNat * 268435456 + h.mbase.toNat * 2097152 + h.mcnt.toNat * 65536 + h.hmask.toNat * 16384 + h.row.toNat * 16 + h.rsv.toNat * 1)
/-- The half-macro set that a literal word names (R252). -/
def HSet.ofLit (v : Lit) : HSet :=
  ⟨BitVec.ofNat 4 (v.toNat / 268435456), BitVec.ofNat 7 (v.toNat / 2097152), BitVec.ofNat 5 (v.toNat / 65536), BitVec.ofNat 2 (v.toNat / 16384), BitVec.ofNat 10 (v.toNat / 16), BitVec.ofNat 4 (v.toNat / 1)⟩
@[simp] theorem HSet.ofLit_toLit (h : HSet) : HSet.ofLit h.toLit = h := by
  obtain ⟨a, b, c, d, e, f⟩ := h
  have := a.isLt; have := b.isLt; have := c.isLt; have := d.isLt; have := e.isLt; have := f.isLt
  simp only [HSet.ofLit, HSet.toLit, HSet.mk.injEq]
  refine ⟨?_, ?_, ?_, ?_, ?_, ?_⟩ <;> apply BitVec.eq_of_toNat_eq <;> simp only [BitVec.toNat_ofNat] <;> omega

/-! ## The format classes of R40 -/

/-- Bits [25:0] of class SR (R40). -/
structure FSR where
  d : BitVec 6
  a : BitVec 6
  b : BitVec 6
  r : BitVec 2
  fn : BitVec 6
  deriving DecidableEq, Repr

/-- The bits of the fields. -/
def packSR (f : FSR) : Nat :=
  f.d.toNat * 1048576 + f.a.toNat * 16384 + f.b.toNat * 256 + f.r.toNat * 64 + f.fn.toNat
/-- The fields of a word. -/
def unpackSR (w : Nat) : FSR :=
  ⟨BitVec.ofNat 6 (w / 1048576), BitVec.ofNat 6 (w / 16384), BitVec.ofNat 6 (w / 256), BitVec.ofNat 2 (w / 64), BitVec.ofNat 6 w⟩
theorem unpackSR_pack (m : Nat) (f : FSR) : unpackSR (m * 67108864 + packSR f) = f := by
  have := f.d.isLt; have := f.a.isLt; have := f.b.isLt; have := f.r.isLt; have := f.fn.isLt
  cases f; simp only [unpackSR, packSR, FSR.mk.injEq]
  refine ⟨?_, ?_, ?_, ?_, ?_⟩ <;> apply BitVec.eq_of_toNat_eq <;> simp only [BitVec.toNat_ofNat] <;> simp only at * <;> omega
theorem packSR_lt (f : FSR) : packSR f < 67108864 := by
  have := f.d.isLt; have := f.a.isLt; have := f.b.isLt; have := f.r.isLt; have := f.fn.isLt
  simp only [packSR]; omega

/-- Bits [25:0] of class SI (R40). -/
structure FSI where
  d : BitVec 6
  fn : BitVec 4
  r : BitVec 2
  i : BitVec 14
  deriving DecidableEq, Repr

/-- The bits of the fields. -/
def packSI (f : FSI) : Nat :=
  f.d.toNat * 1048576 + f.fn.toNat * 65536 + f.r.toNat * 16384 + f.i.toNat
/-- The fields of a word. -/
def unpackSI (w : Nat) : FSI :=
  ⟨BitVec.ofNat 6 (w / 1048576), BitVec.ofNat 4 (w / 65536), BitVec.ofNat 2 (w / 16384), BitVec.ofNat 14 w⟩
theorem unpackSI_pack (m : Nat) (f : FSI) : unpackSI (m * 67108864 + packSI f) = f := by
  have := f.d.isLt; have := f.fn.isLt; have := f.r.isLt; have := f.i.isLt
  cases f; simp only [unpackSI, packSI, FSI.mk.injEq]
  refine ⟨?_, ?_, ?_, ?_⟩ <;> apply BitVec.eq_of_toNat_eq <;> simp only [BitVec.toNat_ofNat] <;> simp only at * <;> omega
theorem packSI_lt (f : FSI) : packSI f < 67108864 := by
  have := f.d.isLt; have := f.fn.isLt; have := f.r.isLt; have := f.i.isLt
  simp only [packSI]; omega

/-- Bits [25:0] of class SF (R40). -/
structure FSF where
  d : BitVec 6
  f : BitVec 20
  deriving DecidableEq, Repr

/-- The bits of the fields. -/
def packSF (f : FSF) : Nat :=
  f.d.toNat * 1048576 + f.f.toNat
/-- The fields of a word. -/
def unpackSF (w : Nat) : FSF :=
  ⟨BitVec.ofNat 6 (w / 1048576), BitVec.ofNat 20 w⟩
theorem unpackSF_pack (m : Nat) (f : FSF) : unpackSF (m * 67108864 + packSF f) = f := by
  have := f.d.isLt; have := f.f.isLt
  cases f; simp only [unpackSF, packSF, FSF.mk.injEq]
  refine ⟨?_, ?_⟩ <;> apply BitVec.eq_of_toNat_eq <;> simp only [BitVec.toNat_ofNat] <;> simp only at * <;> omega
theorem packSF_lt (f : FSF) : packSF f < 67108864 := by
  have := f.d.isLt; have := f.f.isLt
  simp only [packSF]; omega

/-- Bits [25:0] of class SL (R40). -/
structure FSL where
  d : BitVec 6
  a : BitVec 6
  x : BitVec 1
  fn : BitVec 5
  k : BitVec 8
  deriving DecidableEq, Repr

/-- The bits of the fields. -/
def packSL (f : FSL) : Nat :=
  f.d.toNat * 1048576 + f.a.toNat * 16384 + f.x.toNat * 8192 + f.fn.toNat * 256 + f.k.toNat
/-- The fields of a word. -/
def unpackSL (w : Nat) : FSL :=
  ⟨BitVec.ofNat 6 (w / 1048576), BitVec.ofNat 6 (w / 16384), BitVec.ofNat 1 (w / 8192), BitVec.ofNat 5 (w / 256), BitVec.ofNat 8 w⟩
theorem unpackSL_pack (m : Nat) (f : FSL) : unpackSL (m * 67108864 + packSL f) = f := by
  have := f.d.isLt; have := f.a.isLt; have := f.x.isLt; have := f.fn.isLt; have := f.k.isLt
  cases f; simp only [unpackSL, packSL, FSL.mk.injEq]
  refine ⟨?_, ?_, ?_, ?_, ?_⟩ <;> apply BitVec.eq_of_toNat_eq <;> simp only [BitVec.toNat_ofNat] <;> simp only at * <;> omega
theorem packSL_lt (f : FSL) : packSL f < 67108864 := by
  have := f.d.isLt; have := f.a.isLt; have := f.x.isLt; have := f.fn.isLt; have := f.k.isLt
  simp only [packSL]; omega

/-- Bits [25:0] of class BR (R40). -/
structure FBR where
  fn : BitVec 4
  p : BitVec 4
  n : BitVec 1
  l : BitVec 1
  a : BitVec 6
  r : BitVec 3
  k : BitVec 7
  deriving DecidableEq, Repr

/-- The bits of the fields. -/
def packBR (f : FBR) : Nat :=
  f.fn.toNat * 4194304 + f.p.toNat * 262144 + f.n.toNat * 131072 + f.l.toNat * 65536 + f.a.toNat * 1024 + f.r.toNat * 128 + f.k.toNat
/-- The fields of a word. -/
def unpackBR (w : Nat) : FBR :=
  ⟨BitVec.ofNat 4 (w / 4194304), BitVec.ofNat 4 (w / 262144), BitVec.ofNat 1 (w / 131072), BitVec.ofNat 1 (w / 65536), BitVec.ofNat 6 (w / 1024), BitVec.ofNat 3 (w / 128), BitVec.ofNat 7 w⟩
theorem unpackBR_pack (m : Nat) (f : FBR) : unpackBR (m * 67108864 + packBR f) = f := by
  have := f.fn.isLt; have := f.p.isLt; have := f.n.isLt; have := f.l.isLt; have := f.a.isLt; have := f.r.isLt; have := f.k.isLt
  cases f; simp only [unpackBR, packBR, FBR.mk.injEq]
  refine ⟨?_, ?_, ?_, ?_, ?_, ?_, ?_⟩ <;> apply BitVec.eq_of_toNat_eq <;> simp only [BitVec.toNat_ofNat] <;> simp only at * <;> omega
theorem packBR_lt (f : FBR) : packBR f < 67108864 := by
  have := f.fn.isLt; have := f.p.isLt; have := f.n.isLt; have := f.l.isLt; have := f.a.isLt; have := f.r.isLt; have := f.k.isLt
  simp only [packBR]; omega

/-- Bits [25:0] of class VR (R40). -/
structure FVR where
  d : BitVec 4
  a : BitVec 5
  b : BitVec 5
  t : BitVec 4
  m : BitVec 3
  fn : BitVec 5
  deriving DecidableEq, Repr

/-- The bits of the fields. -/
def packVR (f : FVR) : Nat :=
  f.d.toNat * 4194304 + f.a.toNat * 131072 + f.b.toNat * 4096 + f.t.toNat * 256 + f.m.toNat * 32 + f.fn.toNat
/-- The fields of a word. -/
def unpackVR (w : Nat) : FVR :=
  ⟨BitVec.ofNat 4 (w / 4194304), BitVec.ofNat 5 (w / 131072), BitVec.ofNat 5 (w / 4096), BitVec.ofNat 4 (w / 256), BitVec.ofNat 3 (w / 32), BitVec.ofNat 5 w⟩
theorem unpackVR_pack (m : Nat) (f : FVR) : unpackVR (m * 67108864 + packVR f) = f := by
  have := f.d.isLt; have := f.a.isLt; have := f.b.isLt; have := f.t.isLt; have := f.m.isLt; have := f.fn.isLt
  cases f; simp only [unpackVR, packVR, FVR.mk.injEq]
  refine ⟨?_, ?_, ?_, ?_, ?_, ?_⟩ <;> apply BitVec.eq_of_toNat_eq <;> simp only [BitVec.toNat_ofNat] <;> simp only at * <;> omega
theorem packVR_lt (f : FVR) : packVR f < 67108864 := by
  have := f.d.isLt; have := f.a.isLt; have := f.b.isLt; have := f.t.isLt; have := f.m.isLt; have := f.fn.isLt
  simp only [packVR]; omega

/-- Bits [25:0] of class VI (R40). -/
structure FVI where
  d : BitVec 4
  fn : BitVec 1
  t : BitVec 4
  m : BitVec 3
  i : BitVec 14
  deriving DecidableEq, Repr

/-- The bits of the fields. -/
def packVI (f : FVI) : Nat :=
  f.d.toNat * 4194304 + f.fn.toNat * 2097152 + f.t.toNat * 131072 + f.m.toNat * 16384 + f.i.toNat
/-- The fields of a word. -/
def unpackVI (w : Nat) : FVI :=
  ⟨BitVec.ofNat 4 (w / 4194304), BitVec.ofNat 1 (w / 2097152), BitVec.ofNat 4 (w / 131072), BitVec.ofNat 3 (w / 16384), BitVec.ofNat 14 w⟩
theorem unpackVI_pack (m : Nat) (f : FVI) : unpackVI (m * 67108864 + packVI f) = f := by
  have := f.d.isLt; have := f.fn.isLt; have := f.t.isLt; have := f.m.isLt; have := f.i.isLt
  cases f; simp only [unpackVI, packVI, FVI.mk.injEq]
  refine ⟨?_, ?_, ?_, ?_, ?_⟩ <;> apply BitVec.eq_of_toNat_eq <;> simp only [BitVec.toNat_ofNat] <;> simp only at * <;> omega
theorem packVI_lt (f : FVI) : packVI f < 67108864 := by
  have := f.d.isLt; have := f.fn.isLt; have := f.t.isLt; have := f.m.isLt; have := f.i.isLt
  simp only [packVI]; omega

/-- Bits [25:0] of class VF (R40). -/
structure FVF where
  d : BitVec 4
  fn : BitVec 1
  tf : BitVec 1
  f : BitVec 20
  deriving DecidableEq, Repr

/-- The bits of the fields. -/
def packVF (f : FVF) : Nat :=
  f.d.toNat * 4194304 + f.fn.toNat * 2097152 + f.tf.toNat * 1048576 + f.f.toNat
/-- The fields of a word. -/
def unpackVF (w : Nat) : FVF :=
  ⟨BitVec.ofNat 4 (w / 4194304), BitVec.ofNat 1 (w / 2097152), BitVec.ofNat 1 (w / 1048576), BitVec.ofNat 20 w⟩
theorem unpackVF_pack (m : Nat) (f : FVF) : unpackVF (m * 67108864 + packVF f) = f := by
  have := f.d.isLt; have := f.fn.isLt; have := f.tf.isLt; have := f.f.isLt
  cases f; simp only [unpackVF, packVF, FVF.mk.injEq]
  refine ⟨?_, ?_, ?_, ?_⟩ <;> apply BitVec.eq_of_toNat_eq <;> simp only [BitVec.toNat_ofNat] <;> simp only at * <;> omega
theorem packVF_lt (f : FVF) : packVF f < 67108864 := by
  have := f.d.isLt; have := f.fn.isLt; have := f.tf.isLt; have := f.f.isLt
  simp only [packVF]; omega

/-- Bits [25:0] of class VL (R40). -/
structure FVL where
  d : BitVec 4
  a : BitVec 5
  x : BitVec 1
  k : BitVec 8
  t : BitVec 4
  m : BitVec 3
  fn : BitVec 1
  deriving DecidableEq, Repr

/-- The bits of the fields. -/
def packVL (f : FVL) : Nat :=
  f.d.toNat * 4194304 + f.a.toNat * 131072 + f.x.toNat * 65536 + f.k.toNat * 256 + f.t.toNat * 16 + f.m.toNat * 2 + f.fn.toNat
/-- The fields of a word. -/
def unpackVL (w : Nat) : FVL :=
  ⟨BitVec.ofNat 4 (w / 4194304), BitVec.ofNat 5 (w / 131072), BitVec.ofNat 1 (w / 65536), BitVec.ofNat 8 (w / 256), BitVec.ofNat 4 (w / 16), BitVec.ofNat 3 (w / 2), BitVec.ofNat 1 w⟩
theorem unpackVL_pack (m : Nat) (f : FVL) : unpackVL (m * 67108864 + packVL f) = f := by
  have := f.d.isLt; have := f.a.isLt; have := f.x.isLt; have := f.k.isLt; have := f.t.isLt; have := f.m.isLt; have := f.fn.isLt
  cases f; simp only [unpackVL, packVL, FVL.mk.injEq]
  refine ⟨?_, ?_, ?_, ?_, ?_, ?_, ?_⟩ <;> apply BitVec.eq_of_toNat_eq <;> simp only [BitVec.toNat_ofNat] <;> simp only at * <;> omega
theorem packVL_lt (f : FVL) : packVL f < 67108864 := by
  have := f.d.isLt; have := f.a.isLt; have := f.x.isLt; have := f.k.isLt; have := f.t.isLt; have := f.m.isLt; have := f.fn.isLt
  simp only [packVL]; omega

/-- Bits [25:0] of class VP (R40). -/
structure FVP where
  d : BitVec 4
  a : BitVec 5
  b : BitVec 5
  t : BitVec 4
  p : BitVec 4
  fn : BitVec 4
  deriving DecidableEq, Repr

/-- The bits of the fields. -/
def packVP (f : FVP) : Nat :=
  f.d.toNat * 4194304 + f.a.toNat * 131072 + f.b.toNat * 4096 + f.t.toNat * 256 + f.p.toNat * 16 + f.fn.toNat
/-- The fields of a word. -/
def unpackVP (w : Nat) : FVP :=
  ⟨BitVec.ofNat 4 (w / 4194304), BitVec.ofNat 5 (w / 131072), BitVec.ofNat 5 (w / 4096), BitVec.ofNat 4 (w / 256), BitVec.ofNat 4 (w / 16), BitVec.ofNat 4 w⟩
theorem unpackVP_pack (m : Nat) (f : FVP) : unpackVP (m * 67108864 + packVP f) = f := by
  have := f.d.isLt; have := f.a.isLt; have := f.b.isLt; have := f.t.isLt; have := f.p.isLt; have := f.fn.isLt
  cases f; simp only [unpackVP, packVP, FVP.mk.injEq]
  refine ⟨?_, ?_, ?_, ?_, ?_, ?_⟩ <;> apply BitVec.eq_of_toNat_eq <;> simp only [BitVec.toNat_ofNat] <;> simp only at * <;> omega
theorem packVP_lt (f : FVP) : packVP f < 67108864 := by
  have := f.d.isLt; have := f.a.isLt; have := f.b.isLt; have := f.t.isLt; have := f.p.isLt; have := f.fn.isLt
  simp only [packVP]; omega

/-- Bits [25:0] of class MM (R40). -/
structure FMM where
  g : BitVec 3
  fn : BitVec 5
  o : BitVec 2
  s : BitVec 3
  d : BitVec 6
  b : BitVec 6
  l : BitVec 1
  deriving DecidableEq, Repr

/-- The bits of the fields. -/
def packMM (f : FMM) : Nat :=
  f.g.toNat * 8388608 + f.fn.toNat * 262144 + f.o.toNat * 65536 + f.s.toNat * 8192 + f.d.toNat * 128 + f.b.toNat * 2 + f.l.toNat
/-- The fields of a word. -/
def unpackMM (w : Nat) : FMM :=
  ⟨BitVec.ofNat 3 (w / 8388608), BitVec.ofNat 5 (w / 262144), BitVec.ofNat 2 (w / 65536), BitVec.ofNat 3 (w / 8192), BitVec.ofNat 6 (w / 128), BitVec.ofNat 6 (w / 2), BitVec.ofNat 1 w⟩
theorem unpackMM_pack (m : Nat) (f : FMM) : unpackMM (m * 67108864 + packMM f) = f := by
  have := f.g.isLt; have := f.fn.isLt; have := f.o.isLt; have := f.s.isLt; have := f.d.isLt; have := f.b.isLt; have := f.l.isLt
  cases f; simp only [unpackMM, packMM, FMM.mk.injEq]
  refine ⟨?_, ?_, ?_, ?_, ?_, ?_, ?_⟩ <;> apply BitVec.eq_of_toNat_eq <;> simp only [BitVec.toNat_ofNat] <;> simp only at * <;> omega
theorem packMM_lt (f : FMM) : packMM f < 67108864 := by
  have := f.g.isLt; have := f.fn.isLt; have := f.o.isLt; have := f.s.isLt; have := f.d.isLt; have := f.b.isLt; have := f.l.isLt
  simp only [packMM]; omega

/-- Bits [25:0] of class XB (R40). -/
structure FXB where
  g : BitVec 3
  fn : BitVec 4
  x : BitVec 18
  l : BitVec 1
  deriving DecidableEq, Repr

/-- The bits of the fields. -/
def packXB (f : FXB) : Nat :=
  f.g.toNat * 8388608 + f.fn.toNat * 524288 + f.x.toNat * 2 + f.l.toNat
/-- The fields of a word. -/
def unpackXB (w : Nat) : FXB :=
  ⟨BitVec.ofNat 3 (w / 8388608), BitVec.ofNat 4 (w / 524288), BitVec.ofNat 18 (w / 2), BitVec.ofNat 1 w⟩
theorem unpackXB_pack (m : Nat) (f : FXB) : unpackXB (m * 67108864 + packXB f) = f := by
  have := f.g.isLt; have := f.fn.isLt; have := f.x.isLt; have := f.l.isLt
  cases f; simp only [unpackXB, packXB, FXB.mk.injEq]
  refine ⟨?_, ?_, ?_, ?_⟩ <;> apply BitVec.eq_of_toNat_eq <;> simp only [BitVec.toNat_ofNat] <;> simp only at * <;> omega
theorem packXB_lt (f : FXB) : packXB f < 67108864 := by
  have := f.g.isLt; have := f.fn.isLt; have := f.x.isLt; have := f.l.isLt
  simp only [packXB]; omega

/-- Bits [25:0] of class XP (R40). -/
structure FXP where
  g : BitVec 3
  fn : BitVec 4
  p : BitVec 4
  x : BitVec 14
  l : BitVec 1
  deriving DecidableEq, Repr

/-- The bits of the fields. -/
def packXP (f : FXP) : Nat :=
  f.g.toNat * 8388608 + f.fn.toNat * 524288 + f.p.toNat * 32768 + f.x.toNat * 2 + f.l.toNat
/-- The fields of a word. -/
def unpackXP (w : Nat) : FXP :=
  ⟨BitVec.ofNat 3 (w / 8388608), BitVec.ofNat 4 (w / 524288), BitVec.ofNat 4 (w / 32768), BitVec.ofNat 14 (w / 2), BitVec.ofNat 1 w⟩
theorem unpackXP_pack (m : Nat) (f : FXP) : unpackXP (m * 67108864 + packXP f) = f := by
  have := f.g.isLt; have := f.fn.isLt; have := f.p.isLt; have := f.x.isLt; have := f.l.isLt
  cases f; simp only [unpackXP, packXP, FXP.mk.injEq]
  refine ⟨?_, ?_, ?_, ?_, ?_⟩ <;> apply BitVec.eq_of_toNat_eq <;> simp only [BitVec.toNat_ofNat] <;> simp only at * <;> omega
theorem packXP_lt (f : FXP) : packXP f < 67108864 := by
  have := f.g.isLt; have := f.fn.isLt; have := f.p.isLt; have := f.x.isLt; have := f.l.isLt
  simp only [packXP]; omega

/-- Bits [25:0] of class DD (R40). -/
structure FDD where
  g : BitVec 3
  fn : BitVec 4
  ch : BitVec 1
  x : BitVec 17
  l : BitVec 1
  deriving DecidableEq, Repr

/-- The bits of the fields. -/
def packDD (f : FDD) : Nat :=
  f.g.toNat * 8388608 + f.fn.toNat * 524288 + f.ch.toNat * 262144 + f.x.toNat * 2 + f.l.toNat
/-- The fields of a word. -/
def unpackDD (w : Nat) : FDD :=
  ⟨BitVec.ofNat 3 (w / 8388608), BitVec.ofNat 4 (w / 524288), BitVec.ofNat 1 (w / 262144), BitVec.ofNat 17 (w / 2), BitVec.ofNat 1 w⟩
theorem unpackDD_pack (m : Nat) (f : FDD) : unpackDD (m * 67108864 + packDD f) = f := by
  have := f.g.isLt; have := f.fn.isLt; have := f.ch.isLt; have := f.x.isLt; have := f.l.isLt
  cases f; simp only [unpackDD, packDD, FDD.mk.injEq]
  refine ⟨?_, ?_, ?_, ?_, ?_⟩ <;> apply BitVec.eq_of_toNat_eq <;> simp only [BitVec.toNat_ofNat] <;> simp only at * <;> omega
theorem packDD_lt (f : FDD) : packDD f < 67108864 := by
  have := f.g.isLt; have := f.fn.isLt; have := f.ch.isLt; have := f.x.isLt; have := f.l.isLt
  simp only [packDD]; omega

/-- Bits [25:0] of class TT (R40). -/
structure FTT where
  g : BitVec 3
  fn : BitVec 4
  t : BitVec 1
  d : BitVec 6
  a : BitVec 6
  p : BitVec 4
  f : BitVec 1
  l : BitVec 1
  deriving DecidableEq, Repr

/-- The bits of the fields. -/
def packTT (f : FTT) : Nat :=
  f.g.toNat * 8388608 + f.fn.toNat * 524288 + f.t.toNat * 262144 + f.d.toNat * 4096 + f.a.toNat * 64 + f.p.toNat * 4 + f.f.toNat * 2 + f.l.toNat
/-- The fields of a word. -/
def unpackTT (w : Nat) : FTT :=
  ⟨BitVec.ofNat 3 (w / 8388608), BitVec.ofNat 4 (w / 524288), BitVec.ofNat 1 (w / 262144), BitVec.ofNat 6 (w / 4096), BitVec.ofNat 6 (w / 64), BitVec.ofNat 4 (w / 4), BitVec.ofNat 1 (w / 2), BitVec.ofNat 1 w⟩
theorem unpackTT_pack (m : Nat) (f : FTT) : unpackTT (m * 67108864 + packTT f) = f := by
  have := f.g.isLt; have := f.fn.isLt; have := f.t.isLt; have := f.d.isLt; have := f.a.isLt; have := f.p.isLt; have := f.f.isLt; have := f.l.isLt
  cases f; simp only [unpackTT, packTT, FTT.mk.injEq]
  refine ⟨?_, ?_, ?_, ?_, ?_, ?_, ?_, ?_⟩ <;> apply BitVec.eq_of_toNat_eq <;> simp only [BitVec.toNat_ofNat] <;> simp only at * <;> omega
theorem packTT_lt (f : FTT) : packTT f < 67108864 := by
  have := f.g.isLt; have := f.fn.isLt; have := f.t.isLt; have := f.d.isLt; have := f.a.isLt; have := f.p.isLt; have := f.f.isLt; have := f.l.isLt
  simp only [packTT]; omega

/-- Bits [25:0] of class SY (R40). -/
structure FSY where
  d : BitVec 6
  a : BitVec 6
  fn : BitVec 6
  r : BitVec 8
  deriving DecidableEq, Repr

/-- The bits of the fields. -/
def packSY (f : FSY) : Nat :=
  f.d.toNat * 1048576 + f.a.toNat * 16384 + f.fn.toNat * 256 + f.r.toNat
/-- The fields of a word. -/
def unpackSY (w : Nat) : FSY :=
  ⟨BitVec.ofNat 6 (w / 1048576), BitVec.ofNat 6 (w / 16384), BitVec.ofNat 6 (w / 256), BitVec.ofNat 8 w⟩
theorem unpackSY_pack (m : Nat) (f : FSY) : unpackSY (m * 67108864 + packSY f) = f := by
  have := f.d.isLt; have := f.a.isLt; have := f.fn.isLt; have := f.r.isLt
  cases f; simp only [unpackSY, packSY, FSY.mk.injEq]
  refine ⟨?_, ?_, ?_, ?_⟩ <;> apply BitVec.eq_of_toNat_eq <;> simp only [BitVec.toNat_ofNat] <;> simp only at * <;> omega
theorem packSY_lt (f : FSY) : packSY f < 67108864 := by
  have := f.d.isLt; have := f.a.isLt; have := f.fn.isLt; have := f.r.isLt
  simp only [packSY]; omega

/-- The operand field of Mpush words, 18 bits (their entries). -/
structure FMpush where
  q : BitVec 5
  f : BitVec 3
  p : BitVec 4
  u : BitVec 3
  r : BitVec 3
  deriving DecidableEq, Repr

/-- The bits of the fields. -/
def packMpush (f : FMpush) : Nat :=
  f.q.toNat * 8192 + f.f.toNat * 1024 + f.p.toNat * 64 + f.u.toNat * 8 + f.r.toNat
/-- The fields of a word. -/
def unpackMpush (w : Nat) : FMpush :=
  ⟨BitVec.ofNat 5 (w / 8192), BitVec.ofNat 3 (w / 1024), BitVec.ofNat 4 (w / 64), BitVec.ofNat 3 (w / 8), BitVec.ofNat 3 w⟩
theorem unpackMpush_pack (f : FMpush) : unpackMpush (BitVec.ofNat 18 (packMpush f)).toNat = f := by
  have := f.q.isLt; have := f.f.isLt; have := f.p.isLt; have := f.u.isLt; have := f.r.isLt
  cases f; simp only [unpackMpush, packMpush, FMpush.mk.injEq, BitVec.toNat_ofNat]
  refine ⟨?_, ?_, ?_, ?_, ?_⟩ <;> apply BitVec.eq_of_toNat_eq <;> simp only [BitVec.toNat_ofNat] <;> simp only at * <;> omega

/-- The operand field of Mmode words, 18 bits (their entries). -/
structure FMmode where
  m : BitVec 1
  f : BitVec 4
  a : BitVec 6
  r : BitVec 7
  deriving DecidableEq, Repr

/-- The bits of the fields. -/
def packMmode (f : FMmode) : Nat :=
  f.m.toNat * 131072 + f.f.toNat * 8192 + f.a.toNat * 128 + f.r.toNat
/-- The fields of a word. -/
def unpackMmode (w : Nat) : FMmode :=
  ⟨BitVec.ofNat 1 (w / 131072), BitVec.ofNat 4 (w / 8192), BitVec.ofNat 6 (w / 128), BitVec.ofNat 7 w⟩
theorem unpackMmode_pack (f : FMmode) : unpackMmode (BitVec.ofNat 18 (packMmode f)).toNat = f := by
  have := f.m.isLt; have := f.f.isLt; have := f.a.isLt; have := f.r.isLt
  cases f; simp only [unpackMmode, packMmode, FMmode.mk.injEq, BitVec.toNat_ofNat]
  refine ⟨?_, ?_, ?_, ?_⟩ <;> apply BitVec.eq_of_toNat_eq <;> simp only [BitVec.toNat_ofNat] <;> simp only at * <;> omega

/-- The operand field of Mpmask words, 18 bits (their entries). -/
structure FMpmask where
  m : BitVec 4
  r : BitVec 14
  deriving DecidableEq, Repr

/-- The bits of the fields. -/
def packMpmask (f : FMpmask) : Nat :=
  f.m.toNat * 16384 + f.r.toNat
/-- The fields of a word. -/
def unpackMpmask (w : Nat) : FMpmask :=
  ⟨BitVec.ofNat 4 (w / 16384), BitVec.ofNat 14 w⟩
theorem unpackMpmask_pack (f : FMpmask) : unpackMpmask (BitVec.ofNat 18 (packMpmask f)).toNat = f := by
  have := f.m.isLt; have := f.r.isLt
  cases f; simp only [unpackMpmask, packMpmask, FMpmask.mk.injEq, BitVec.toNat_ofNat]
  refine ⟨?_, ?_⟩ <;> apply BitVec.eq_of_toNat_eq <;> simp only [BitVec.toNat_ofNat] <;> simp only at * <;> omega

/-- The operand field of Asrd words, 18 bits (their entries). -/
structure FAsrd where
  q : BitVec 4
  a : BitVec 6
  x : BitVec 2
  r : BitVec 6
  deriving DecidableEq, Repr

/-- The bits of the fields. -/
def packAsrd (f : FAsrd) : Nat :=
  f.q.toNat * 16384 + f.a.toNat * 256 + f.x.toNat * 64 + f.r.toNat
/-- The fields of a word. -/
def unpackAsrd (w : Nat) : FAsrd :=
  ⟨BitVec.ofNat 4 (w / 16384), BitVec.ofNat 6 (w / 256), BitVec.ofNat 2 (w / 64), BitVec.ofNat 6 w⟩
theorem unpackAsrd_pack (f : FAsrd) : unpackAsrd (BitVec.ofNat 18 (packAsrd f)).toNat = f := by
  have := f.q.isLt; have := f.a.isLt; have := f.x.isLt; have := f.r.isLt
  cases f; simp only [unpackAsrd, packAsrd, FAsrd.mk.injEq, BitVec.toNat_ofNat]
  refine ⟨?_, ?_, ?_, ?_⟩ <;> apply BitVec.eq_of_toNat_eq <;> simp only [BitVec.toNat_ofNat] <;> simp only at * <;> omega

/-- The operand field of Aswr words, 18 bits (their entries). -/
structure FAswr where
  q : BitVec 5
  a : BitVec 6
  x : BitVec 2
  r : BitVec 5
  deriving DecidableEq, Repr

/-- The bits of the fields. -/
def packAswr (f : FAswr) : Nat :=
  f.q.toNat * 8192 + f.a.toNat * 128 + f.x.toNat * 32 + f.r.toNat
/-- The fields of a word. -/
def unpackAswr (w : Nat) : FAswr :=
  ⟨BitVec.ofNat 5 (w / 8192), BitVec.ofNat 6 (w / 128), BitVec.ofNat 2 (w / 32), BitVec.ofNat 5 w⟩
theorem unpackAswr_pack (f : FAswr) : unpackAswr (BitVec.ofNat 18 (packAswr f)).toNat = f := by
  have := f.q.isLt; have := f.a.isLt; have := f.x.isLt; have := f.r.isLt
  cases f; simp only [unpackAswr, packAswr, FAswr.mk.injEq, BitVec.toNat_ofNat]
  refine ⟨?_, ?_, ?_, ?_⟩ <;> apply BitVec.eq_of_toNat_eq <;> simp only [BitVec.toNat_ofNat] <;> simp only at * <;> omega

/-- The operand field of Macc words, 14 bits (their entries). -/
structure FMacc where
  a : BitVec 6
  c : BitVec 2
  x : BitVec 4
  r : BitVec 2
  deriving DecidableEq, Repr

/-- The bits of the fields. -/
def packMacc (f : FMacc) : Nat :=
  f.a.toNat * 256 + f.c.toNat * 64 + f.x.toNat * 4 + f.r.toNat
/-- The fields of a word. -/
def unpackMacc (w : Nat) : FMacc :=
  ⟨BitVec.ofNat 6 (w / 256), BitVec.ofNat 2 (w / 64), BitVec.ofNat 4 (w / 4), BitVec.ofNat 2 w⟩
theorem unpackMacc_pack (f : FMacc) : unpackMacc (BitVec.ofNat 14 (packMacc f)).toNat = f := by
  have := f.a.isLt; have := f.c.isLt; have := f.x.isLt; have := f.r.isLt
  cases f; simp only [unpackMacc, packMacc, FMacc.mk.injEq, BitVec.toNat_ofNat]
  refine ⟨?_, ?_, ?_, ?_⟩ <;> apply BitVec.eq_of_toNat_eq <;> simp only [BitVec.toNat_ofNat] <;> simp only at * <;> omega

/-- The operand field of Mdrain words, 14 bits (their entries). -/
structure FMdrain where
  q : BitVec 4
  t : BitVec 3
  k : BitVec 1
  a : BitVec 6
  deriving DecidableEq, Repr

/-- The bits of the fields. -/
def packMdrain (f : FMdrain) : Nat :=
  f.q.toNat * 1024 + f.t.toNat * 128 + f.k.toNat * 64 + f.a.toNat
/-- The fields of a word. -/
def unpackMdrain (w : Nat) : FMdrain :=
  ⟨BitVec.ofNat 4 (w / 1024), BitVec.ofNat 3 (w / 128), BitVec.ofNat 1 (w / 64), BitVec.ofNat 6 w⟩
theorem unpackMdrain_pack (f : FMdrain) : unpackMdrain (BitVec.ofNat 14 (packMdrain f)).toNat = f := by
  have := f.q.isLt; have := f.t.isLt; have := f.k.isLt; have := f.a.isLt
  cases f; simp only [unpackMdrain, packMdrain, FMdrain.mk.injEq, BitVec.toNat_ofNat]
  refine ⟨?_, ?_, ?_, ?_⟩ <;> apply BitVec.eq_of_toNat_eq <;> simp only [BitVec.toNat_ofNat] <;> simp only at * <;> omega

/-- The operand field of Dact words, 17 bits (their entries). -/
structure FDact where
  b : BitVec 4
  a : BitVec 6
  r : BitVec 7
  deriving DecidableEq, Repr

/-- The bits of the fields. -/
def packDact (f : FDact) : Nat :=
  f.b.toNat * 8192 + f.a.toNat * 128 + f.r.toNat
/-- The fields of a word. -/
def unpackDact (w : Nat) : FDact :=
  ⟨BitVec.ofNat 4 (w / 8192), BitVec.ofNat 6 (w / 128), BitVec.ofNat 7 w⟩
theorem unpackDact_pack (f : FDact) : unpackDact (BitVec.ofNat 17 (packDact f)).toNat = f := by
  have := f.b.isLt; have := f.a.isLt; have := f.r.isLt
  cases f; simp only [unpackDact, packDact, FDact.mk.injEq, BitVec.toNat_ofNat]
  refine ⟨?_, ?_, ?_⟩ <;> apply BitVec.eq_of_toNat_eq <;> simp only [BitVec.toNat_ofNat] <;> simp only at * <;> omega

/-- The operand field of Dcol words, 17 bits (their entries). -/
structure FDcol where
  b : BitVec 4
  o : BitVec 5
  k : BitVec 2
  d : BitVec 6
  deriving DecidableEq, Repr

/-- The bits of the fields. -/
def packDcol (f : FDcol) : Nat :=
  f.b.toNat * 8192 + f.o.toNat * 256 + f.k.toNat * 64 + f.d.toNat
/-- The fields of a word. -/
def unpackDcol (w : Nat) : FDcol :=
  ⟨BitVec.ofNat 4 (w / 8192), BitVec.ofNat 5 (w / 256), BitVec.ofNat 2 (w / 64), BitVec.ofNat 6 w⟩
theorem unpackDcol_pack (f : FDcol) : unpackDcol (BitVec.ofNat 17 (packDcol f)).toNat = f := by
  have := f.b.isLt; have := f.o.isLt; have := f.k.isLt; have := f.d.isLt
  cases f; simp only [unpackDcol, packDcol, FDcol.mk.injEq, BitVec.toNat_ofNat]
  refine ⟨?_, ?_, ?_, ?_⟩ <;> apply BitVec.eq_of_toNat_eq <;> simp only [BitVec.toNat_ofNat] <;> simp only at * <;> omega

/-- The operand field of Dwin words, 17 bits (their entries). -/
structure FDwin where
  n : BitVec 16
  r : BitVec 1
  deriving DecidableEq, Repr

/-- The bits of the fields. -/
def packDwin (f : FDwin) : Nat :=
  f.n.toNat * 2 + f.r.toNat
/-- The fields of a word. -/
def unpackDwin (w : Nat) : FDwin :=
  ⟨BitVec.ofNat 16 (w / 2), BitVec.ofNat 1 w⟩
theorem unpackDwin_pack (f : FDwin) : unpackDwin (BitVec.ofNat 17 (packDwin f)).toNat = f := by
  have := f.n.isLt; have := f.r.isLt
  cases f; simp only [unpackDwin, packDwin, FDwin.mk.injEq, BitVec.toNat_ofNat]
  refine ⟨?_, ?_⟩ <;> apply BitVec.eq_of_toNat_eq <;> simp only [BitVec.toNat_ofNat] <;> simp only at * <;> omega

/-- The operand field of Dmrw words, 17 bits (their entries). -/
structure FDmrw where
  m : BitVec 8
  a : BitVec 6
  r : BitVec 3
  deriving DecidableEq, Repr

/-- The bits of the fields. -/
def packDmrw (f : FDmrw) : Nat :=
  f.m.toNat * 512 + f.a.toNat * 8 + f.r.toNat
/-- The fields of a word. -/
def unpackDmrw (w : Nat) : FDmrw :=
  ⟨BitVec.ofNat 8 (w / 512), BitVec.ofNat 6 (w / 8), BitVec.ofNat 3 w⟩
theorem unpackDmrw_pack (f : FDmrw) : unpackDmrw (BitVec.ofNat 17 (packDmrw f)).toNat = f := by
  have := f.m.isLt; have := f.a.isLt; have := f.r.isLt
  cases f; simp only [unpackDmrw, packDmrw, FDmrw.mk.injEq, BitVec.toNat_ofNat]
  refine ⟨?_, ?_, ?_⟩ <;> apply BitVec.eq_of_toNat_eq <;> simp only [BitVec.toNat_ofNat] <;> simp only at * <;> omega

/-- The word with major opcode m and bits [25:0] p, chain bit 0 (R31). -/
def mkWord (m p : Nat) : Nat := m * 67108864 + p
/-- The major opcode of a word (R31). -/
def majOf (w : Nat) : Nat := w / 67108864 % 32
/-- The chain bit of a word (R31). -/
def chainOf (w : Nat) : Bool := w / 2147483648 % 2 = 1
theorem majOf_mkWord (m p : Nat) (hm : m < 32) (hp : p < 67108864) : majOf (mkWord m p) = m := by
  simp only [majOf, mkWord]; omega

/-! ## The decoders, one per major opcode -/

/-- Words of major 0x00. -/
def decMaj0 (f : FSR) : Option Instr :=
  match f.fn.toNat with
  | 0 =>
    if f.d = 0#6 ∧ f.a = 0#6 ∧ f.b = 0#6 ∧ f.r = 0#2 then some (.nop) else
    if f.r = 0#2 then some (.add (f.d) (f.a) (f.b)) else
    none
  | 1 =>
    if f.r = 0#2 then some (.sub (f.d) (f.a) (f.b)) else
    none
  | 2 =>
    if f.r = 0#2 then some (.mul (f.d) (f.a) (f.b)) else
    none
  | 3 =>
    if f.r = 0#2 then some (.mulh (f.d) (f.a) (f.b)) else
    none
  | 4 =>
    if f.r = 0#2 then some (.mulhn (f.d) (f.a) (f.b)) else
    none
  | 5 =>
    if f.r = 0#2 then some (.and (f.d) (f.a) (f.b)) else
    none
  | 6 =>
    if f.r = 0#2 then some (.or (f.d) (f.a) (f.b)) else
    none
  | 7 =>
    if f.r = 0#2 then some (.xor (f.d) (f.a) (f.b)) else
    none
  | 8 =>
    if f.r = 0#2 then some (.andn (f.d) (f.a) (f.b)) else
    none
  | 9 =>
    if f.r = 0#2 then some (.shl (f.d) (f.a) (f.b)) else
    none
  | 10 =>
    if f.r = 0#2 then some (.shr (f.d) (f.a) (f.b)) else
    none
  | 11 =>
    if f.r = 0#2 then some (.sra (f.d) (f.a) (f.b)) else
    none
  | 12 =>
    if f.r = 0#2 then some (.rotl (f.d) (f.a) (f.b)) else
    none
  | 13 =>
    if f.r = 0#2 then some (.min (f.d) (f.a) (f.b)) else
    none
  | 14 =>
    if f.r = 0#2 then some (.max (f.d) (f.a) (f.b)) else
    none
  | 15 =>
    if f.r = 0#2 then some (.minn (f.d) (f.a) (f.b)) else
    none
  | 16 =>
    if f.r = 0#2 then some (.maxn (f.d) (f.a) (f.b)) else
    none
  | 17 =>
    if f.r = 0#2 then some (.sel (f.d) (f.a) (f.b)) else
    none
  | 18 =>
    if f.r = 0#2 then some (.adda (f.d) (f.a) (f.b)) else
    none
  | 19 =>
    if f.r = 0#2 ∧ f.b = 0#6 then some (.clz (f.d) (f.a)) else
    none
  | 20 =>
    if f.r = 0#2 ∧ f.b = 0#6 then some (.popc (f.d) (f.a)) else
    none
  | 21 =>
    if f.r = 0#2 ∧ fits 4 f.d then some (.pcmpEq (f.d.setWidth 4) (f.a) (f.b)) else
    none
  | 22 =>
    if f.r = 0#2 ∧ fits 4 f.d then some (.pcmpNe (f.d.setWidth 4) (f.a) (f.b)) else
    none
  | 23 =>
    if f.r = 0#2 ∧ fits 4 f.d then some (.pcmpLt (f.d.setWidth 4) (f.a) (f.b)) else
    none
  | 24 =>
    if f.r = 0#2 ∧ fits 4 f.d then some (.pcmpGe (f.d.setWidth 4) (f.a) (f.b)) else
    none
  | 25 =>
    if f.r = 0#2 ∧ fits 4 f.d then some (.pcmpLtn (f.d.setWidth 4) (f.a) (f.b)) else
    none
  | 26 =>
    if f.r = 0#2 ∧ fits 4 f.d then some (.pcmpGen (f.d.setWidth 4) (f.a) (f.b)) else
    none
  | _ => none

/-- Words of major 0x01. -/
def decMaj1 (f : FSI) : Option Instr :=
  match f.fn.toNat with
  | 0 =>
    if f.r = 0#2 then some (.addi (f.d) (f.i)) else
    none
  | 1 =>
    if f.r = 0#2 then some (.shli (f.d) (f.i)) else
    none
  | 2 =>
    if f.r = 0#2 then some (.shri (f.d) (f.i)) else
    none
  | 3 =>
    if f.r = 0#2 then some (.srai (f.d) (f.i)) else
    none
  | 4 =>
    if f.r = 0#2 then some (.movi (f.d) (f.i)) else
    none
  | _ => none

/-- Words of major 0x02. -/
def decMaj2 (f : FSF) : Option Instr :=
  some (.movf (f.d) (f.f))

/-- Words of major 0x03. -/
def decMaj3 (f : FSL) (lit : Lit) : Option Instr :=
  match f.fn.toNat with
  | 0 =>
    if (f.x = 1#1 ∨ f.k = 0#8) then some (.addSl (f.d) (f.a) (Val.ofFields f.x f.k lit)) else
    none
  | 1 =>
    if (f.x = 1#1 ∨ f.k = 0#8) then some (.subSl (f.d) (f.a) (Val.ofFields f.x f.k lit)) else
    none
  | 2 =>
    if (f.x = 1#1 ∨ f.k = 0#8) then some (.mulSl (f.d) (f.a) (Val.ofFields f.x f.k lit)) else
    none
  | 3 =>
    if (f.x = 1#1 ∨ f.k = 0#8) then some (.mulhSl (f.d) (f.a) (Val.ofFields f.x f.k lit)) else
    none
  | 4 =>
    if (f.x = 1#1 ∨ f.k = 0#8) then some (.mulhnSl (f.d) (f.a) (Val.ofFields f.x f.k lit)) else
    none
  | 5 =>
    if (f.x = 1#1 ∨ f.k = 0#8) then some (.andSl (f.d) (f.a) (Val.ofFields f.x f.k lit)) else
    none
  | 6 =>
    if (f.x = 1#1 ∨ f.k = 0#8) then some (.orSl (f.d) (f.a) (Val.ofFields f.x f.k lit)) else
    none
  | 7 =>
    if (f.x = 1#1 ∨ f.k = 0#8) then some (.xorSl (f.d) (f.a) (Val.ofFields f.x f.k lit)) else
    none
  | 8 =>
    if (f.x = 1#1 ∨ f.k = 0#8) then some (.andnSl (f.d) (f.a) (Val.ofFields f.x f.k lit)) else
    none
  | 9 =>
    if (f.x = 1#1 ∨ f.k = 0#8) then some (.shlSl (f.d) (f.a) (Val.ofFields f.x f.k lit)) else
    none
  | 10 =>
    if (f.x = 1#1 ∨ f.k = 0#8) then some (.shrSl (f.d) (f.a) (Val.ofFields f.x f.k lit)) else
    none
  | 11 =>
    if (f.x = 1#1 ∨ f.k = 0#8) then some (.sraSl (f.d) (f.a) (Val.ofFields f.x f.k lit)) else
    none
  | 12 =>
    if (f.x = 1#1 ∨ f.k = 0#8) then some (.rotlSl (f.d) (f.a) (Val.ofFields f.x f.k lit)) else
    none
  | 13 =>
    if (f.x = 1#1 ∨ f.k = 0#8) then some (.minSl (f.d) (f.a) (Val.ofFields f.x f.k lit)) else
    none
  | 14 =>
    if (f.x = 1#1 ∨ f.k = 0#8) then some (.maxSl (f.d) (f.a) (Val.ofFields f.x f.k lit)) else
    none
  | 15 =>
    if (f.x = 1#1 ∨ f.k = 0#8) then some (.minnSl (f.d) (f.a) (Val.ofFields f.x f.k lit)) else
    none
  | 16 =>
    if (f.x = 1#1 ∨ f.k = 0#8) then some (.maxnSl (f.d) (f.a) (Val.ofFields f.x f.k lit)) else
    none
  | 17 =>
    if (f.x = 1#1 ∨ f.k = 0#8) then some (.selSl (f.d) (f.a) (Val.ofFields f.x f.k lit)) else
    none
  | 18 =>
    if (f.x = 1#1 ∨ f.k = 0#8) then some (.addaSl (f.d) (f.a) (Val.ofFields f.x f.k lit)) else
    none
  | 21 =>
    if fits 4 f.d ∧ (f.x = 1#1 ∨ f.k = 0#8) then some (.pcmpEqSl (f.d.setWidth 4) (f.a) (Val.ofFields f.x f.k lit)) else
    none
  | 22 =>
    if fits 4 f.d ∧ (f.x = 1#1 ∨ f.k = 0#8) then some (.pcmpNeSl (f.d.setWidth 4) (f.a) (Val.ofFields f.x f.k lit)) else
    none
  | 23 =>
    if fits 4 f.d ∧ (f.x = 1#1 ∨ f.k = 0#8) then some (.pcmpLtSl (f.d.setWidth 4) (f.a) (Val.ofFields f.x f.k lit)) else
    none
  | 24 =>
    if fits 4 f.d ∧ (f.x = 1#1 ∨ f.k = 0#8) then some (.pcmpGeSl (f.d.setWidth 4) (f.a) (Val.ofFields f.x f.k lit)) else
    none
  | 25 =>
    if fits 4 f.d ∧ (f.x = 1#1 ∨ f.k = 0#8) then some (.pcmpLtnSl (f.d.setWidth 4) (f.a) (Val.ofFields f.x f.k lit)) else
    none
  | 26 =>
    if fits 4 f.d ∧ (f.x = 1#1 ∨ f.k = 0#8) then some (.pcmpGenSl (f.d.setWidth 4) (f.a) (Val.ofFields f.x f.k lit)) else
    none
  | 31 =>
    if f.x = 0#1 ∧ f.a = 0#6 ∧ f.k = 0#8 then some (.movl (f.d) lit) else
    if f.x = 1#1 ∧ f.a = 0#6 then some (.movk (f.d) (f.k)) else
    none
  | _ => none

/-- Words of major 0x04. -/
def decMaj4 (f : FSR) : Option Instr :=
  match f.fn.toNat with
  | 0 =>
    if f.r = 0#2 then some (.fadd (f.d) (f.a) (f.b)) else
    none
  | 1 =>
    if f.r = 0#2 then some (.fsub (f.d) (f.a) (f.b)) else
    none
  | 2 =>
    if f.r = 0#2 then some (.fmul (f.d) (f.a) (f.b)) else
    none
  | 3 =>
    if f.r = 0#2 then some (.ffma (f.d) (f.a) (f.b)) else
    none
  | 4 =>
    if f.r = 0#2 ∧ fits 4 f.d then some (.fcmpEq (f.d.setWidth 4) (f.a) (f.b)) else
    none
  | 5 =>
    if f.r = 0#2 ∧ fits 4 f.d then some (.fcmpLt (f.d.setWidth 4) (f.a) (f.b)) else
    none
  | 6 =>
    if f.r = 0#2 ∧ fits 4 f.d then some (.fcmpLe (f.d.setWidth 4) (f.a) (f.b)) else
    none
  | 7 =>
    if f.r = 0#2 ∧ fits 4 f.d then some (.fcmpUn (f.d.setWidth 4) (f.a) (f.b)) else
    none
  | 8 =>
    if f.r = 0#2 then some (.fcvt (f.d) (f.a) (RMode.ofCode (part f.b 3 3)) (FCvtKind.ofCode (part f.b 0 3))) else
    none
  | 16 =>
    if f.r = 0#2 ∧ fits 4 f.d ∧ fits 4 f.a ∧ fits 4 f.b then some (.plogAnd (f.d.setWidth 4) (f.a.setWidth 4) (f.b.setWidth 4)) else
    none
  | 17 =>
    if f.r = 0#2 ∧ fits 4 f.d ∧ fits 4 f.a ∧ fits 4 f.b then some (.plogOr (f.d.setWidth 4) (f.a.setWidth 4) (f.b.setWidth 4)) else
    none
  | 18 =>
    if f.r = 0#2 ∧ fits 4 f.d ∧ fits 4 f.a ∧ fits 4 f.b then some (.plogXor (f.d.setWidth 4) (f.a.setWidth 4) (f.b.setWidth 4)) else
    none
  | 19 =>
    if f.r = 0#2 ∧ fits 4 f.d ∧ fits 4 f.a ∧ fits 4 f.b then some (.plogAndn (f.d.setWidth 4) (f.a.setWidth 4) (f.b.setWidth 4)) else
    none
  | 20 =>
    if f.r = 0#2 ∧ f.b = 0#6 ∧ fits 4 f.d then some (.pset (f.d.setWidth 4) (f.a)) else
    none
  | 24 =>
    if f.r = 0#2 ∧ fits 4 f.b then some (.tidx (f.d) (f.a) (f.b.setWidth 4)) else
    none
  | 25 =>
    if f.r = 0#2 ∧ fits 4 f.b then some (.tdim (f.d) (f.a) (f.b.setWidth 4)) else
    none
  | 26 =>
    if f.r = 0#2 ∧ f.d = 0#6 then some (.kst (f.a) (f.b)) else
    none
  | 32 =>
    if f.r = 0#2 ∧ f.a = 0#6 ∧ f.b = 0#6 then some (.tid (f.d)) else
    none
  | 33 =>
    if f.r = 0#2 ∧ f.a = 0#6 ∧ f.b = 0#6 then some (.cyc (f.d)) else
    none
  | 34 =>
    if f.r = 0#2 ∧ f.a = 0#6 then some (.rdsr (f.d) (SpecReg.ofCode f.b)) else
    none
  | 35 =>
    if f.r = 0#2 ∧ f.b = 0#6 then some (.wrsr (SpecReg.ofCode f.d) (f.a)) else
    none
  | _ => none

/-- Words of major 0x08. -/
def decMaj8 (f : FBR) : Option Instr :=
  match f.fn.toNat with
  | 0 =>
    if f.l = 0#1 ∧ f.a = 0#6 ∧ f.r = 0#3 then some (.br (⟨f.p, bitAt f.n 0⟩) (f.k)) else
    none
  | 1 =>
    if f.l = 0#1 ∧ f.a = 0#6 ∧ f.r = 0#3 then some (.brl (⟨f.p, bitAt f.n 0⟩) (f.k)) else
    none
  | 2 =>
    if f.l = 0#1 ∧ f.r = 0#3 ∧ f.k = 0#7 then some (.bri (⟨f.p, bitAt f.n 0⟩) (f.a)) else
    none
  | 3 =>
    if f.l = 0#1 ∧ f.a = 0#6 ∧ f.r = 0#3 ∧ f.k = 0#7 then some (.ret (⟨f.p, bitAt f.n 0⟩)) else
    none
  | _ => none

/-- Words of major 0x09. -/
def decMaj9 (f : FBR) (lit : Lit) : Option Instr :=
  match f.fn.toNat with
  | 0 =>
    if f.n = 0#1 ∧ f.r = 0#3 ∧ (f.l = 0#1 ∨ f.a = 0#6) then some (.loop (f.p) (RegLit.ofFields f.a f.l lit) (f.k)) else
    none
  | 1 | 2 | 3 | 4 | 5 | 6 | 7 | 8 =>
    if f.n = 0#1 ∧ f.r = 0#3 ∧ (f.l = 0#1 ∨ f.a = 0#6) then some (.loopr ((f.fn - 1).setWidth 3) (f.p) (RegLit.ofFields f.a f.l lit) (f.k)) else
    none
  | _ => none

/-- Words of major 0x0A. -/
def decMaj10 (f : FBR) : Option Instr :=
  match f.fn.toNat with
  | 0 =>
    if f.l = 0#1 ∧ f.a = 0#6 ∧ f.r = 0#3 ∧ f.k = 0#7 then some (.segj (⟨f.p, bitAt f.n 0⟩)) else
    none
  | 1 =>
    if f.l = 0#1 ∧ f.a = 0#6 ∧ f.r = 0#3 then some (.segsel (⟨f.p, bitAt f.n 0⟩) (f.k)) else
    none
  | _ => none

/-- Words of major 0x0B. -/
def decMaj11 (f : FBR) (lit : Lit) : Option Instr :=
  match f.fn.toNat with
  | 0 =>
    if f.l = 1#1 ∧ f.a = 0#6 ∧ f.r = 0#3 ∧ f.k = 0#7 then some (.tchk (⟨f.p, bitAt f.n 0⟩) lit) else
    none
  | 1 =>
    if f.p = 0#4 ∧ f.n = 0#1 ∧ f.l = 1#1 ∧ f.a = 0#6 ∧ f.r = 0#3 ∧ f.k = 0#7 then some (.joint lit) else
    none
  | 2 =>
    if f.p = 0#4 ∧ f.n = 0#1 ∧ f.l = 1#1 ∧ f.a = 0#6 ∧ f.r = 0#3 ∧ f.k = 0#7 then some (.waitcLit lit) else
    if f.p = 0#4 ∧ f.n = 0#1 ∧ f.l = 0#1 ∧ f.r = 0#3 ∧ f.k = 0#7 then some (.waitcReg (f.a)) else
    none
  | 3 =>
    if f.l = 0#1 ∧ f.a = 0#6 ∧ f.r = 0#3 ∧ f.k = 0#7 then some (.tend (⟨f.p, bitAt f.n 0⟩)) else
    none
  | 4 =>
    if f.l = 1#1 ∧ f.a = 0#6 ∧ f.r = 0#3 ∧ f.k = 0#7 then some (.trap (⟨f.p, bitAt f.n 0⟩) lit) else
    none
  | _ => none

/-- Words of major 0x0C. -/
def decMaj12 (f : FVR) : Option Instr :=
  match f.fn.toNat with
  | 0 =>
    some (.vadd (f.d) (QSrc.ofCode f.a) (QSrc.ofCode f.b) (Ty.ofCode f.t) (f.m))
  | 1 =>
    some (.vsub (f.d) (QSrc.ofCode f.a) (QSrc.ofCode f.b) (Ty.ofCode f.t) (f.m))
  | 2 =>
    some (.vmul (f.d) (QSrc.ofCode f.a) (QSrc.ofCode f.b) (Ty.ofCode f.t) (f.m))
  | 3 =>
    some (.vfma (f.d) (QSrc.ofCode f.a) (QSrc.ofCode f.b) (Ty.ofCode f.t) (f.m))
  | 4 =>
    some (.vfms (f.d) (QSrc.ofCode f.a) (QSrc.ofCode f.b) (Ty.ofCode f.t) (f.m))
  | 5 =>
    some (.vmin (f.d) (QSrc.ofCode f.a) (QSrc.ofCode f.b) (Ty.ofCode f.t) (f.m))
  | 6 =>
    some (.vmax (f.d) (QSrc.ofCode f.a) (QSrc.ofCode f.b) (Ty.ofCode f.t) (f.m))
  | 7 =>
    if f.b = 0#5 then some (.vabs (f.d) (QSrc.ofCode f.a) (Ty.ofCode f.t) (f.m)) else
    none
  | 8 =>
    if f.b = 0#5 then some (.vneg (f.d) (QSrc.ofCode f.a) (Ty.ofCode f.t) (f.m)) else
    none
  | 9 =>
    some (.vaddSat (f.d) (QSrc.ofCode f.a) (QSrc.ofCode f.b) (Ty.ofCode f.t) (f.m))
  | 10 =>
    some (.vsubSat (f.d) (QSrc.ofCode f.a) (QSrc.ofCode f.b) (Ty.ofCode f.t) (f.m))
  | 11 =>
    some (.vmulSat (f.d) (QSrc.ofCode f.a) (QSrc.ofCode f.b) (Ty.ofCode f.t) (f.m))
  | 12 =>
    some (.vfmaSat (f.d) (QSrc.ofCode f.a) (QSrc.ofCode f.b) (Ty.ofCode f.t) (f.m))
  | 13 =>
    some (.vfmsSat (f.d) (QSrc.ofCode f.a) (QSrc.ofCode f.b) (Ty.ofCode f.t) (f.m))
  | _ => none

/-- Words of major 0x0D. -/
def decMaj13 (f : FVI) : Option Instr :=
  match f.fn.toNat with
  | 0 =>
    some (.vaddVi (f.d) (Ty.ofCode f.t) (f.m) (f.i))
  | 1 =>
    some (.vbcastVi (f.d) (Ty.ofCode f.t) (f.m) (f.i))
  | _ => none

/-- Words of major 0x0E. -/
def decMaj14 (f : FVF) : Option Instr :=
  match f.fn.toNat with
  | 0 =>
    some (.vaddVf (f.d) (bitAt f.tf 0) (f.f))
  | 1 =>
    some (.vbcastVf (f.d) (bitAt f.tf 0) (f.f))
  | _ => none

/-- Words of major 0x0F. -/
def decMaj15 (f : FVL) (lit : Lit) : Option Instr :=
  match f.fn.toNat with
  | 0 =>
    if (f.x = 1#1 ∨ f.k = 0#8) then some (.vfmaVl (f.d) (QSrc.ofCode f.a) (Val.ofFields f.x f.k lit) (Ty.ofCode f.t) (f.m)) else
    none
  | 1 =>
    if (f.x = 1#1 ∨ f.k = 0#8) then some (.vaddVl (f.d) (QSrc.ofCode f.a) (Val.ofFields f.x f.k lit) (Ty.ofCode f.t) (f.m)) else
    none
  | _ => none

/-- Words of major 0x10. -/
def decMaj16 (f : FVR) : Option Instr :=
  match f.fn.toNat with
  | 0 =>
    some (.vand (f.d) (QSrc.ofCode f.a) (QSrc.ofCode f.b) (Ty.ofCode f.t) (f.m))
  | 1 =>
    some (.vor (f.d) (QSrc.ofCode f.a) (QSrc.ofCode f.b) (Ty.ofCode f.t) (f.m))
  | 2 =>
    some (.vxor (f.d) (QSrc.ofCode f.a) (QSrc.ofCode f.b) (Ty.ofCode f.t) (f.m))
  | 3 =>
    if f.b = 0#5 then some (.vnot (f.d) (QSrc.ofCode f.a) (Ty.ofCode f.t) (f.m)) else
    none
  | 4 =>
    some (.vshl (f.d) (QSrc.ofCode f.a) (QSrc.ofCode f.b) (Ty.ofCode f.t) (f.m))
  | 5 =>
    some (.vshr (f.d) (QSrc.ofCode f.a) (QSrc.ofCode f.b) (Ty.ofCode f.t) (f.m))
  | 6 =>
    some (.vsra (f.d) (QSrc.ofCode f.a) (QSrc.ofCode f.b) (Ty.ofCode f.t) (f.m))
  | 7 =>
    if f.b = 0#5 then some (.vpopc (f.d) (QSrc.ofCode f.a) (Ty.ofCode f.t) (f.m)) else
    none
  | 8 =>
    if fits 3 f.d then some (.vcmpEq (f.d.setWidth 3) (QSrc.ofCode f.a) (QSrc.ofCode f.b) (Ty.ofCode f.t) (f.m)) else
    none
  | 9 =>
    if fits 3 f.d then some (.vcmpNe (f.d.setWidth 3) (QSrc.ofCode f.a) (QSrc.ofCode f.b) (Ty.ofCode f.t) (f.m)) else
    none
  | 10 =>
    if fits 3 f.d then some (.vcmpLt (f.d.setWidth 3) (QSrc.ofCode f.a) (QSrc.ofCode f.b) (Ty.ofCode f.t) (f.m)) else
    none
  | 11 =>
    if fits 3 f.d then some (.vcmpLe (f.d.setWidth 3) (QSrc.ofCode f.a) (QSrc.ofCode f.b) (Ty.ofCode f.t) (f.m)) else
    none
  | 12 =>
    if fits 3 f.d then some (.vcmpUn (f.d.setWidth 3) (QSrc.ofCode f.a) (QSrc.ofCode f.b) (Ty.ofCode f.t) (f.m)) else
    none
  | 16 =>
    if f.t = 0#4 ∧ f.m = 0#3 ∧ fits 3 f.d ∧ fits 3 f.a ∧ fits 3 f.b then some (.vmlogAnd (f.d.setWidth 3) (f.a.setWidth 3) (f.b.setWidth 3)) else
    none
  | 17 =>
    if f.t = 0#4 ∧ f.m = 0#3 ∧ fits 3 f.d ∧ fits 3 f.a ∧ fits 3 f.b then some (.vmlogOr (f.d.setWidth 3) (f.a.setWidth 3) (f.b.setWidth 3)) else
    none
  | 18 =>
    if f.t = 0#4 ∧ f.m = 0#3 ∧ fits 3 f.d ∧ fits 3 f.a ∧ fits 3 f.b then some (.vmlogXor (f.d.setWidth 3) (f.a.setWidth 3) (f.b.setWidth 3)) else
    none
  | 19 =>
    if f.t = 0#4 ∧ f.m = 0#3 ∧ fits 3 f.d ∧ fits 3 f.a ∧ fits 3 f.b then some (.vmlogAndn (f.d.setWidth 3) (f.a.setWidth 3) (f.b.setWidth 3)) else
    none
  | 20 =>
    some (.vsel (f.d) (QSrc.ofCode f.a) (QSrc.ofCode f.b) (Ty.ofCode f.t) (f.m))
  | _ => none

/-- Words of major 0x11. -/
def decMaj17 (f : FVP) : Option Instr :=
  match f.fn.toNat with
  | 0 =>
    some (.vdot (f.d) (QSrc.ofCode f.a) (QSrc.ofCode f.b) (Ty.ofCode f.t) (Profile.ofCode f.p))
  | 1 =>
    some (.vdotAcc (f.d) (QSrc.ofCode f.a) (QSrc.ofCode f.b) (Ty.ofCode f.t) (Profile.ofCode f.p))
  | 2 =>
    if fits 3 f.b then some (.vred (f.d) (QSrc.ofCode f.a) (f.b.setWidth 3) (Ty.ofCode f.t) (Profile.ofCode f.p)) else
    none
  | 3 =>
    if fits 3 f.b then some (.vredAcc (f.d) (QSrc.ofCode f.a) (f.b.setWidth 3) (Ty.ofCode f.t) (Profile.ofCode f.p)) else
    none
  | 4 =>
    if f.b = 0#5 ∧ f.t = 8#4 ∧ f.p = 4#4 then some (.vrcp (f.d) (QSrc.ofCode f.a)) else
    none
  | 5 =>
    if f.b = 0#5 ∧ f.t = 8#4 ∧ f.p = 4#4 then some (.vrsq (f.d) (QSrc.ofCode f.a)) else
    none
  | 6 =>
    if f.b = 0#5 ∧ f.t = 8#4 ∧ f.p = 4#4 then some (.vexp2 (f.d) (QSrc.ofCode f.a)) else
    none
  | 7 =>
    if f.b = 0#5 ∧ f.t = 8#4 ∧ f.p = 4#4 then some (.vlog2 (f.d) (QSrc.ofCode f.a)) else
    none
  | 8 =>
    if f.t = 8#4 ∧ f.p = 4#4 then some (.vrcpf (f.d) (QSrc.ofCode f.a) (QSrc.ofCode f.b)) else
    none
  | 9 =>
    if f.t = 8#4 ∧ f.p = 4#4 then some (.vrsqf (f.d) (QSrc.ofCode f.a) (QSrc.ofCode f.b)) else
    none
  | 10 =>
    some (.vdotW (f.d) (QSrc.ofCode f.a) (QSrc.ofCode f.b) (Ty.ofCode f.t) (Profile.ofCode f.p))
  | 11 =>
    some (.vdotWAcc (f.d) (QSrc.ofCode f.a) (QSrc.ofCode f.b) (Ty.ofCode f.t) (Profile.ofCode f.p))
  | _ => none

/-- Words of major 0x12. -/
def decMaj18 (f : FVR) : Option Instr :=
  match f.fn.toNat with
  | 0 =>
    some (.vcvt (f.d) (QSrc.ofCode f.a) (bitAt f.b 4) (Ty.ofCode (part f.b 0 4)) (Ty.ofCode f.t) (RMode.ofCode f.m))
  | 1 =>
    if f.m = 0#3 ∧ fits 4 f.b then some (.vwiden (f.d) (QSrc.ofCode f.a) (Ty.ofCode (f.b.setWidth 4)) (Ty.ofCode f.t)) else
    none
  | 2 =>
    some (.vnarrow (f.d) (QSrc.ofCode f.a) (bitAt f.b 4) (Ty.ofCode (part f.b 0 4)) (Ty.ofCode f.t) (RMode.ofCode f.m))
  | 3 =>
    if f.t = 8#4 ∧ f.m = 0#3 then some (.vmxs (f.d) (QSrc.ofCode f.a) (RMode.ofCode (part f.b 2 3)) (part f.b 0 2)) else
    none
  | 4 =>
    some (.vperm (f.d) (QSrc.ofCode f.a) (QSrc.ofCode f.b) (Ty.ofCode f.t) (f.m))
  | 5 =>
    some (.vshuf (f.d) (QSrc.ofCode f.a) (QSrc.ofCode f.b) (Ty.ofCode f.t) (f.m))
  | 6 =>
    if fits 4 f.b then some (.vslideUp (f.d) (QSrc.ofCode f.a) (f.b.setWidth 4) (Ty.ofCode f.t) (f.m)) else
    none
  | 7 =>
    if fits 4 f.b then some (.vslideDn (f.d) (QSrc.ofCode f.a) (f.b.setWidth 4) (Ty.ofCode f.t) (f.m)) else
    none
  | 8 =>
    if f.a = 0#5 ∧ f.b = 0#5 then some (.viota (f.d) (Ty.ofCode f.t) (f.m)) else
    none
  | 9 =>
    if f.b = 0#5 ∧ fits 4 f.a then some (.vbcast (f.d) (f.a.setWidth 4) (Ty.ofCode f.t) (f.m)) else
    none
  | 10 =>
    if f.b = 0#5 then some (.vpackp (f.d) (QSrc.ofCode f.a) (Ty.ofCode f.t) (f.m)) else
    none
  | 11 =>
    if f.a = 0#5 ∧ f.b = 0#5 ∧ f.m = 0#3 then some (.vpackpFl (f.d) (Ty.ofCode f.t)) else
    none
  | 12 =>
    if f.b = 0#5 then some (.vunpk (f.d) (QSrc.ofCode f.a) (Ty.ofCode f.t) (f.m)) else
    none
  | 13 =>
    if f.b = 0#5 ∧ f.t = 0#4 ∧ f.m = 0#3 then some (.vmovq (f.d) (QSrc.ofCode f.a)) else
    none
  | 14 =>
    if f.a = 0#5 ∧ f.b = 0#5 ∧ f.t = 0#4 ∧ f.m = 0#3 then some (.vclr (f.d)) else
    none
  | 15 =>
    if f.d = 0#4 ∧ f.a = 0#5 ∧ f.b = 0#5 ∧ f.t = 0#4 ∧ f.m = 0#3 then some (.vclrStrm) else
    none
  | _ => none

/-- Words of major 0x14, at memory position pos (R36). -/
def decMaj20 (pos : Nat) (f : FMM) (lit : Lit) : Option Instr :=
  match f.fn.toNat with
  | 0 | 1 | 2 | 3 =>
    if pos = 1 ∧ f.o = 0#2 ∧ f.s = 0#3 then some (.ldsSigned (f.g) (part f.fn 0 2) (f.d) (⟨f.b, ofLitBit f.l lit⟩)) else
    if pos = 2 ∧ f.o = 0#2 ∧ f.s = 0#3 then some (.sldSigned (f.g) (part f.fn 0 2) (f.d) (⟨f.b, ofLitBit f.l lit⟩)) else
    if pos = 3 then some (.gldSigned (f.g) (part f.fn 0 2) (⟨MOrd.ofCode f.o, MScp.ofCode f.s⟩) (f.d) (⟨f.b, ofLitBit f.l lit⟩)) else
    none
  | 4 | 5 | 6 | 7 =>
    if pos = 1 ∧ f.o = 0#2 ∧ f.s = 0#3 then some (.ldsUnsigned (f.g) (part f.fn 0 2) (f.d) (⟨f.b, ofLitBit f.l lit⟩)) else
    if pos = 2 ∧ f.o = 0#2 ∧ f.s = 0#3 then some (.sldUnsigned (f.g) (part f.fn 0 2) (f.d) (⟨f.b, ofLitBit f.l lit⟩)) else
    if pos = 3 then some (.gldUnsigned (f.g) (part f.fn 0 2) (⟨MOrd.ofCode f.o, MScp.ofCode f.s⟩) (f.d) (⟨f.b, ofLitBit f.l lit⟩)) else
    none
  | 8 | 9 | 10 | 11 =>
    if pos = 1 ∧ f.o = 0#2 ∧ f.s = 0#3 then some (.sts (f.g) (part f.fn 0 2) (f.d) (⟨f.b, ofLitBit f.l lit⟩)) else
    if pos = 2 ∧ f.o = 0#2 ∧ f.s = 0#3 then some (.sst (f.g) (part f.fn 0 2) (f.d) (⟨f.b, ofLitBit f.l lit⟩)) else
    if pos = 3 then some (.gst (f.g) (part f.fn 0 2) (⟨MOrd.ofCode f.o, MScp.ofCode f.s⟩) (f.d) (⟨f.b, ofLitBit f.l lit⟩)) else
    none
  | 12 =>
    if pos = 1 ∧ f.o = 0#2 ∧ f.s = 0#3 ∧ fits 4 f.d then some (.ldv (f.g) (f.d.setWidth 4) (⟨f.b, ofLitBit f.l lit⟩)) else
    if pos = 3 ∧ fits 4 f.d then some (.gldv (f.g) (⟨MOrd.ofCode f.o, MScp.ofCode f.s⟩) (f.d.setWidth 4) (⟨f.b, ofLitBit f.l lit⟩)) else
    none
  | 13 =>
    if pos = 1 ∧ f.o = 0#2 ∧ f.s = 0#3 ∧ fits 4 f.d then some (.stv (f.g) (f.d.setWidth 4) (⟨f.b, ofLitBit f.l lit⟩)) else
    if pos = 3 ∧ fits 4 f.d then some (.gstv (f.g) (⟨MOrd.ofCode f.o, MScp.ofCode f.s⟩) (f.d.setWidth 4) (⟨f.b, ofLitBit f.l lit⟩)) else
    none
  | _ => none

/-- Words of major 0x15, at memory position pos (R36). -/
def decMaj21 (pos : Nat) (f : FMM) (lit : Lit) : Option Instr :=
  match f.fn.toNat with
  | 0 | 1 =>
    if pos = 3 ∧ f.l = 0#1 ∧ fits 4 f.d then some (.ggath (f.g) (bitAt f.fn 0) (⟨MOrd.ofCode f.o, MScp.ofCode f.s⟩) (f.d.setWidth 4) (f.b)) else
    none
  | 2 | 3 =>
    if pos = 3 ∧ f.l = 0#1 ∧ fits 4 f.d then some (.gscat (f.g) (bitAt f.fn 0) (⟨MOrd.ofCode f.o, MScp.ofCode f.s⟩) (f.d.setWidth 4) (f.b)) else
    none
  | 4 | 5 =>
    if pos = 3 then some (.gaadd (f.g) (bitAt f.fn 0) (⟨MOrd.ofCode f.o, MScp.ofCode f.s⟩) (f.d) (f.b) (ofLitBit f.l lit)) else
    none
  | 6 | 7 =>
    if pos = 3 then some (.gaor (f.g) (bitAt f.fn 0) (⟨MOrd.ofCode f.o, MScp.ofCode f.s⟩) (f.d) (f.b) (ofLitBit f.l lit)) else
    none
  | 8 | 9 =>
    if pos = 3 then some (.gaand (f.g) (bitAt f.fn 0) (⟨MOrd.ofCode f.o, MScp.ofCode f.s⟩) (f.d) (f.b) (ofLitBit f.l lit)) else
    none
  | 10 | 11 =>
    if pos = 3 then some (.gamaxI (f.g) (bitAt f.fn 0) (⟨MOrd.ofCode f.o, MScp.ofCode f.s⟩) (f.d) (f.b) (ofLitBit f.l lit)) else
    none
  | 12 | 13 =>
    if pos = 3 then some (.gamaxN (f.g) (bitAt f.fn 0) (⟨MOrd.ofCode f.o, MScp.ofCode f.s⟩) (f.d) (f.b) (ofLitBit f.l lit)) else
    none
  | 14 | 15 =>
    if pos = 3 then some (.gaminI (f.g) (bitAt f.fn 0) (⟨MOrd.ofCode f.o, MScp.ofCode f.s⟩) (f.d) (f.b) (ofLitBit f.l lit)) else
    none
  | 16 | 17 =>
    if pos = 3 then some (.gaminN (f.g) (bitAt f.fn 0) (⟨MOrd.ofCode f.o, MScp.ofCode f.s⟩) (f.d) (f.b) (ofLitBit f.l lit)) else
    none
  | 18 | 19 =>
    if pos = 3 then some (.gaxch (f.g) (bitAt f.fn 0) (⟨MOrd.ofCode f.o, MScp.ofCode f.s⟩) (f.d) (f.b) (ofLitBit f.l lit)) else
    none
  | 20 | 21 =>
    if pos = 3 ∧ f.l = 0#1 then some (.gacas (f.g) (bitAt f.fn 0) (⟨MOrd.ofCode f.o, MScp.ofCode f.s⟩) (f.d) (f.b)) else
    none
  | 22 =>
    if pos = 3 ∧ fits 4 f.d then some (.gaorv (f.g) (⟨MOrd.ofCode f.o, MScp.ofCode f.s⟩) (f.d.setWidth 4) (⟨f.b, ofLitBit f.l lit⟩)) else
    none
  | _ => none

/-- Words of major 0x16, at memory position pos (R36). -/
def decMaj22 (pos : Nat) (f : FMM) (lit : Lit) : Option Instr :=
  match f.fn.toNat with
  | 0 =>
    if pos = 3 ∧ f.l = 0#1 then some (.kvlook (f.g) (⟨MOrd.ofCode f.o, MScp.ofCode f.s⟩) (f.d) (f.b)) else
    none
  | 1 =>
    if pos = 3 ∧ fits 4 f.d then some (.kvgath (f.g) (⟨MOrd.ofCode f.o, MScp.ofCode f.s⟩) (f.d.setWidth 4) (f.b) (ofLitBit f.l lit)) else
    none
  | 2 =>
    if pos = 3 ∧ f.l = 0#1 ∧ fits 4 f.d then some (.kvapp (f.g) (⟨MOrd.ofCode f.o, MScp.ofCode f.s⟩) (f.d.setWidth 4) (f.b)) else
    none
  | 3 =>
    if pos = 3 ∧ f.l = 0#1 then some (.kvshr (f.g) (⟨MOrd.ofCode f.o, MScp.ofCode f.s⟩) (f.d) (f.b)) else
    none
  | 4 =>
    if pos = 3 ∧ f.l = 0#1 ∧ f.d = 0#6 then some (.kvrel (f.g) (⟨MOrd.ofCode f.o, MScp.ofCode f.s⟩) (f.b)) else
    none
  | 5 =>
    if pos = 3 ∧ f.l = 0#1 then some (.kvref (f.g) (⟨MOrd.ofCode f.o, MScp.ofCode f.s⟩) (f.d) (f.b)) else
    none
  | 8 =>
    if pos = 3 ∧ f.o = 0#2 ∧ f.s = 0#3 ∧ f.b = 0#6 ∧ f.l = 0#1 ∧ fits 2 f.d then some (.drain (f.g) (DrainPath.ofCode (f.d.setWidth 2))) else
    none
  | 9 =>
    if pos = 3 ∧ f.d = 0#6 ∧ f.b = 0#6 ∧ f.l = 0#1 then some (.fence (f.g) (⟨MOrd.ofCode f.o, MScp.ofCode f.s⟩)) else
    none
  | 10 =>
    if pos = 3 ∧ f.o = 0#2 ∧ f.s = 0#3 ∧ f.l = 0#1 ∧ fits 4 f.d ∧ fits 3 f.b then some (.barw (f.g) (f.d.setWidth 4) (f.b.setWidth 3)) else
    none
  | _ => none

/-- Words of major 0x17, at memory position pos (R36). -/
def decMaj23 (pos : Nat) (f : FMM) (lit : Lit) : Option Instr :=
  match f.fn.toNat with
  | 0 =>
    if (pos = 1 ∨ pos = 2) ∧ f.o = 0#2 ∧ f.s = 0#3 ∧ f.l = 0#1 ∧ fits 3 f.b then some (.agset (f.g) (f.d) (f.b.setWidth 3)) else
    none
  | 1 =>
    if (pos = 1 ∨ pos = 2) ∧ f.o = 0#2 ∧ f.s = 0#3 ∧ f.l = 0#1 ∧ fits 3 f.b then some (.agbind (f.g) (f.d) (f.b.setWidth 3)) else
    none
  | 2 =>
    if (pos = 1 ∨ pos = 2) ∧ f.o = 0#2 ∧ f.s = 0#3 ∧ f.d = 0#6 ∧ f.l = 1#1 ∧ fits 3 f.b then some (.agrun (f.g) (f.b.setWidth 3) lit) else
    none
  | 3 =>
    if (pos = 1 ∨ pos = 2) ∧ f.o = 0#2 ∧ f.s = 0#3 ∧ f.d = 0#6 ∧ f.l = 0#1 ∧ fits 3 f.b then some (.agstop (f.g) (f.b.setWidth 3)) else
    none
  | 31 =>
    if f.g = 0#3 ∧ f.o = 0#2 ∧ f.s = 0#3 ∧ f.d = 0#6 ∧ f.b = 0#6 ∧ f.l = 0#1 then some (.mhole) else
    none
  | _ => none

/-- Words of major 0x18. -/
def decMaj24 (f : FXB) (lit : Lit) : Option Instr :=
  match f.fn.toNat with
  | 0 =>
    let u := unpackMpush f.x.toNat
    if f.l = 1#1 ∧ u.r = 0#3 then some (.mpush (f.g) (QSrc.ofCode u.q) (u.f) (u.p) (u.u) (HSet.ofLit lit)) else
    none
  | 1 =>
    if f.x = 0#18 ∧ f.l = 1#1 then some (.mclr (f.g) (HSet.ofLit lit)) else
    none
  | 2 =>
    let u := unpackMmode f.x.toNat
    if f.l = 1#1 ∧ u.m = 1#1 ∧ u.r = 0#7 then some (.mmodeC (f.g) (u.f) (u.a) (HSet.ofLit lit)) else
    if f.l = 1#1 ∧ u.m = 0#1 ∧ u.f = 0#4 ∧ u.a = 0#6 ∧ u.r = 0#7 then some (.mmodeS (f.g) (HSet.ofLit lit)) else
    none
  | 3 =>
    let u := unpackMpmask f.x.toNat
    if f.l = 1#1 ∧ u.r = 0#14 then some (.mpmask (f.g) (u.m) (HSet.ofLit lit)) else
    none
  | 4 =>
    let u := unpackAsrd f.x.toNat
    if f.l = 0#1 ∧ u.r = 0#6 then some (.asrd (f.g) (u.q) (u.a) (u.x)) else
    none
  | 5 =>
    let u := unpackAswr f.x.toNat
    if f.l = 0#1 ∧ u.r = 0#5 then some (.aswr (f.g) (QSrc.ofCode u.q) (u.a) (u.x)) else
    none
  | _ => none

/-- Words of major 0x19. -/
def decMaj25 (f : FXP) (lit : Lit) : Option Instr :=
  match f.fn.toNat with
  | 0 =>
    if f.p = 1#4 ∧ f.x = 0#14 ∧ f.l = 1#1 then some (.mshift (f.g) (HSet.ofLit lit)) else
    none
  | 1 =>
    let u := unpackMacc f.x.toNat
    if f.l = 1#1 ∧ f.p = 1#4 ∧ u.r = 0#2 then some (.macc (f.g) (u.a) (u.c) (u.x) (HSet.ofLit lit)) else
    none
  | 2 =>
    let u := unpackMdrain f.x.toNat
    if f.l = 0#1 ∧ f.p = 1#4 then some (.mdrain (f.g) (u.q) (u.t) (bitAt u.k 0) (u.a)) else
    none
  | _ => none

/-- Words of major 0x1A. -/
def decMaj26 (f : FDD) (lit : Lit) : Option Instr :=
  match f.fn.toNat with
  | 0 =>
    let u := unpackDact f.x.toNat
    if u.r = 0#7 ∧ (f.l = 0#1 ∨ u.a = 0#6) then some (.dact (f.g) (bitAt f.ch 0) (u.b) (RegLit.ofFields u.a f.l lit)) else
    none
  | 1 =>
    let u := unpackDact f.x.toNat
    if f.l = 0#1 ∧ u.a = 0#6 ∧ u.r = 0#7 then some (.dpre (f.g) (bitAt f.ch 0) (u.b)) else
    none
  | 2 =>
    if f.x = 0#17 ∧ f.l = 0#1 then some (.dprea (f.g) (bitAt f.ch 0)) else
    none
  | 3 =>
    let u := unpackDcol f.x.toNat
    if f.l = 0#1 ∧ u.k = 0#2 then some (.drdM0 (f.g) (bitAt f.ch 0) (u.b) (u.o) (u.d)) else
    if f.l = 0#1 ∧ u.k = 1#2 then some (.drdSh (f.g) (bitAt f.ch 0) (u.b) (u.o) (u.d)) else
    if f.l = 0#1 ∧ u.k = 2#2 ∧ fits 4 u.d then some (.drdQ (f.g) (bitAt f.ch 0) (u.b) (u.o) (u.d.setWidth 4)) else
    none
  | 4 =>
    let u := unpackDcol f.x.toNat
    if f.l = 0#1 ∧ u.k = 0#2 then some (.dwrM0 (f.g) (bitAt f.ch 0) (u.b) (u.o) (u.d)) else
    if f.l = 0#1 ∧ u.k = 1#2 then some (.dwrSh (f.g) (bitAt f.ch 0) (u.b) (u.o) (u.d)) else
    if f.l = 0#1 ∧ u.k = 2#2 ∧ fits 5 u.d then some (.dwrQ (f.g) (bitAt f.ch 0) (u.b) (u.o) (QSrc.ofCode (u.d.setWidth 5))) else
    none
  | 5 =>
    if f.x = 0#17 ∧ f.l = 0#1 then some (.dref (f.g) (bitAt f.ch 0)) else
    none
  | 6 =>
    let u := unpackDact f.x.toNat
    if f.l = 0#1 ∧ u.a = 0#6 ∧ u.r = 0#7 then some (.drefb (f.g) (bitAt f.ch 0) (u.b)) else
    none
  | 7 =>
    let u := unpackDwin f.x.toNat
    if f.l = 0#1 ∧ u.r = 0#1 then some (.dwin (f.g) (bitAt f.ch 0) (u.n)) else
    none
  | _ => none

/-- Words of major 0x1B. -/
def decMaj27 (f : FDD) : Option Instr :=
  match f.fn.toNat with
  | 0 =>
    let u := unpackDmrw f.x.toNat
    if f.l = 0#1 ∧ u.r = 0#3 then some (.dmrw (f.g) (bitAt f.ch 0) (u.m) (u.a)) else
    none
  | 1 =>
    if f.x = 0#17 ∧ f.l = 0#1 then some (.dzq (f.g) (bitAt f.ch 0)) else
    none
  | _ => none

/-- Words of major 0x1C. -/
def decMaj28 (f : FTT) (lit : Lit) : Option Instr :=
  match f.fn.toNat with
  | 0 =>
    if f.d = 0#6 ∧ f.a = 0#6 ∧ f.p = 0#4 ∧ f.f = 0#1 ∧ f.l = 0#1 then some (.mtclr (f.g) (bitAt f.t 0)) else
    none
  | 1 =>
    if f.p = 0#4 ∧ f.f = 0#1 ∧ fits 5 f.d ∧ (f.l = 0#1 ∨ f.a = 0#6) then some (.mtld (f.g) (bitAt f.t 0) (QSrc.ofCode (f.d.setWidth 5)) (RegLit.ofFields f.a f.l lit)) else
    none
  | 2 =>
    if f.p = 0#4 ∧ f.f = 0#1 ∧ fits 4 f.d ∧ (f.l = 0#1 ∨ f.a = 0#6) then some (.mtst (f.g) (bitAt f.t 0) (f.d.setWidth 4) (RegLit.ofFields f.a f.l lit)) else
    none
  | 3 =>
    if f.p = 0#4 ∧ f.f = 0#1 ∧ (f.l = 0#1 ∨ f.d = 0#6) then some (.mtupd (f.g) (bitAt f.t 0) (f.a) (RegLit.ofFields f.d f.l lit)) else
    none
  | 4 =>
    if f.p = 0#4 ∧ f.f = 0#1 ∧ (f.l = 0#1 ∨ f.d = 0#6) then some (.mtadd (f.g) (bitAt f.t 0) (f.a) (RegLit.ofFields f.d f.l lit)) else
    none
  | 5 =>
    if f.p = 0#4 ∧ f.f = 0#1 ∧ (f.l = 0#1 ∨ f.a = 0#6) then some (.mtsum (f.g) (bitAt f.t 0) (f.d) (RegLit.ofFields f.a f.l lit)) else
    none
  | 6 =>
    if f.f = 0#1 ∧ (f.l = 0#1 ∨ f.a = 0#6) then some (.mtfind (f.g) (bitAt f.t 0) (f.d) (f.p) (RegLit.ofFields f.a f.l lit)) else
    none
  | 7 =>
    if f.d = 0#6 ∧ f.f = 0#1 ∧ (f.l = 0#1 ∨ f.a = 0#6) then some (.mtcut (f.g) (bitAt f.t 0) (f.p) (RegLit.ofFields f.a f.l lit)) else
    none
  | 8 =>
    if f.a = 0#6 ∧ f.p = 0#4 ∧ f.l = 0#1 then some (.mtroot (f.g) (bitAt f.t 0) (f.d) (bitAt f.f 0)) else
    none
  | 9 =>
    if f.p = 0#4 ∧ f.f = 0#1 ∧ (f.l = 0#1 ∨ f.a = 0#6) then some (.mtleaf (f.g) (bitAt f.t 0) (f.d) (RegLit.ofFields f.a f.l lit)) else
    none
  | 10 =>
    if f.a = 0#6 ∧ f.p = 0#4 ∧ f.f = 0#1 ∧ f.l = 0#1 then some (.mthor (f.g) (bitAt f.t 0) (f.d)) else
    none
  | _ => none

/-- Words of major 0x1E. -/
def decMaj30 (f : FSY) : Option Instr :=
  match f.fn.toNat with
  | 0 =>
    if f.a = 0#6 ∧ f.r = 0#8 then some (.ptid (f.d)) else
    none
  | 1 =>
    if f.a = 0#6 ∧ f.r = 0#8 then some (.rdwc (f.d)) else
    none
  | 2 =>
    if f.a = 0#6 ∧ f.r = 0#8 then some (.rdtc (f.d)) else
    none
  | _ => none

/-- Decodes one word at memory position pos (1 to 3; any value for other words) with the literal word lit that
follows it where it has one. `none`: no row of the map has these bits (R48). -/
def decodeWord (pos w : Nat) (lit : Lit) : Option Instr :=
  match majOf w with
  | 0 => decMaj0 (unpackSR w)
  | 1 => decMaj1 (unpackSI w)
  | 2 => decMaj2 (unpackSF w)
  | 3 => decMaj3 (unpackSL w) lit
  | 4 => decMaj4 (unpackSR w)
  | 8 => decMaj8 (unpackBR w)
  | 9 => decMaj9 (unpackBR w) lit
  | 10 => decMaj10 (unpackBR w)
  | 11 => decMaj11 (unpackBR w) lit
  | 12 => decMaj12 (unpackVR w)
  | 13 => decMaj13 (unpackVI w)
  | 14 => decMaj14 (unpackVF w)
  | 15 => decMaj15 (unpackVL w) lit
  | 16 => decMaj16 (unpackVR w)
  | 17 => decMaj17 (unpackVP w)
  | 18 => decMaj18 (unpackVR w)
  | 20 => decMaj20 pos (unpackMM w) lit
  | 21 => decMaj21 pos (unpackMM w) lit
  | 22 => decMaj22 pos (unpackMM w) lit
  | 23 => decMaj23 pos (unpackMM w) lit
  | 24 => decMaj24 (unpackXB w) lit
  | 25 => decMaj25 (unpackXP w) lit
  | 26 => decMaj26 (unpackDD w) lit
  | 27 => decMaj27 (unpackDD w)
  | 28 => decMaj28 (unpackTT w) lit
  | 30 => decMaj30 (unpackSY w)
  | _ => none

/-! ## The encoder -/

/-- The word of a tile instruction, chain bit 0, and its literal word; `none` for the rows that are no tile word. -/
def encTile : Instr → Option (Nat × Option Lit)
  | .nop => some (mkWord 0 (packSR ⟨0, 0, 0, 0, 0⟩), none)
  | .add d a b => some (mkWord 0 (packSR ⟨d, a, b, 0, 0⟩), none)
  | .sub d a b => some (mkWord 0 (packSR ⟨d, a, b, 0, 1⟩), none)
  | .mul d a b => some (mkWord 0 (packSR ⟨d, a, b, 0, 2⟩), none)
  | .mulh d a b => some (mkWord 0 (packSR ⟨d, a, b, 0, 3⟩), none)
  | .mulhn d a b => some (mkWord 0 (packSR ⟨d, a, b, 0, 4⟩), none)
  | .and d a b => some (mkWord 0 (packSR ⟨d, a, b, 0, 5⟩), none)
  | .or d a b => some (mkWord 0 (packSR ⟨d, a, b, 0, 6⟩), none)
  | .xor d a b => some (mkWord 0 (packSR ⟨d, a, b, 0, 7⟩), none)
  | .andn d a b => some (mkWord 0 (packSR ⟨d, a, b, 0, 8⟩), none)
  | .shl d a b => some (mkWord 0 (packSR ⟨d, a, b, 0, 9⟩), none)
  | .shr d a b => some (mkWord 0 (packSR ⟨d, a, b, 0, 10⟩), none)
  | .sra d a b => some (mkWord 0 (packSR ⟨d, a, b, 0, 11⟩), none)
  | .rotl d a b => some (mkWord 0 (packSR ⟨d, a, b, 0, 12⟩), none)
  | .min d a b => some (mkWord 0 (packSR ⟨d, a, b, 0, 13⟩), none)
  | .max d a b => some (mkWord 0 (packSR ⟨d, a, b, 0, 14⟩), none)
  | .minn d a b => some (mkWord 0 (packSR ⟨d, a, b, 0, 15⟩), none)
  | .maxn d a b => some (mkWord 0 (packSR ⟨d, a, b, 0, 16⟩), none)
  | .sel d a b => some (mkWord 0 (packSR ⟨d, a, b, 0, 17⟩), none)
  | .adda d a b => some (mkWord 0 (packSR ⟨d, a, b, 0, 18⟩), none)
  | .clz d a => some (mkWord 0 (packSR ⟨d, a, 0, 0, 19⟩), none)
  | .popc d a => some (mkWord 0 (packSR ⟨d, a, 0, 0, 20⟩), none)
  | .pcmpEq d a b => some (mkWord 0 (packSR ⟨d.setWidth 6, a, b, 0, 21⟩), none)
  | .pcmpNe d a b => some (mkWord 0 (packSR ⟨d.setWidth 6, a, b, 0, 22⟩), none)
  | .pcmpLt d a b => some (mkWord 0 (packSR ⟨d.setWidth 6, a, b, 0, 23⟩), none)
  | .pcmpGe d a b => some (mkWord 0 (packSR ⟨d.setWidth 6, a, b, 0, 24⟩), none)
  | .pcmpLtn d a b => some (mkWord 0 (packSR ⟨d.setWidth 6, a, b, 0, 25⟩), none)
  | .pcmpGen d a b => some (mkWord 0 (packSR ⟨d.setWidth 6, a, b, 0, 26⟩), none)
  | .addSl d a v => some (mkWord 3 (packSL ⟨d, a, v.xbit, 0, v.kbits⟩), v.literal)
  | .subSl d a v => some (mkWord 3 (packSL ⟨d, a, v.xbit, 1, v.kbits⟩), v.literal)
  | .mulSl d a v => some (mkWord 3 (packSL ⟨d, a, v.xbit, 2, v.kbits⟩), v.literal)
  | .mulhSl d a v => some (mkWord 3 (packSL ⟨d, a, v.xbit, 3, v.kbits⟩), v.literal)
  | .mulhnSl d a v => some (mkWord 3 (packSL ⟨d, a, v.xbit, 4, v.kbits⟩), v.literal)
  | .andSl d a v => some (mkWord 3 (packSL ⟨d, a, v.xbit, 5, v.kbits⟩), v.literal)
  | .orSl d a v => some (mkWord 3 (packSL ⟨d, a, v.xbit, 6, v.kbits⟩), v.literal)
  | .xorSl d a v => some (mkWord 3 (packSL ⟨d, a, v.xbit, 7, v.kbits⟩), v.literal)
  | .andnSl d a v => some (mkWord 3 (packSL ⟨d, a, v.xbit, 8, v.kbits⟩), v.literal)
  | .shlSl d a v => some (mkWord 3 (packSL ⟨d, a, v.xbit, 9, v.kbits⟩), v.literal)
  | .shrSl d a v => some (mkWord 3 (packSL ⟨d, a, v.xbit, 10, v.kbits⟩), v.literal)
  | .sraSl d a v => some (mkWord 3 (packSL ⟨d, a, v.xbit, 11, v.kbits⟩), v.literal)
  | .rotlSl d a v => some (mkWord 3 (packSL ⟨d, a, v.xbit, 12, v.kbits⟩), v.literal)
  | .minSl d a v => some (mkWord 3 (packSL ⟨d, a, v.xbit, 13, v.kbits⟩), v.literal)
  | .maxSl d a v => some (mkWord 3 (packSL ⟨d, a, v.xbit, 14, v.kbits⟩), v.literal)
  | .minnSl d a v => some (mkWord 3 (packSL ⟨d, a, v.xbit, 15, v.kbits⟩), v.literal)
  | .maxnSl d a v => some (mkWord 3 (packSL ⟨d, a, v.xbit, 16, v.kbits⟩), v.literal)
  | .selSl d a v => some (mkWord 3 (packSL ⟨d, a, v.xbit, 17, v.kbits⟩), v.literal)
  | .addaSl d a v => some (mkWord 3 (packSL ⟨d, a, v.xbit, 18, v.kbits⟩), v.literal)
  | .pcmpEqSl d a v => some (mkWord 3 (packSL ⟨d.setWidth 6, a, v.xbit, 21, v.kbits⟩), v.literal)
  | .pcmpNeSl d a v => some (mkWord 3 (packSL ⟨d.setWidth 6, a, v.xbit, 22, v.kbits⟩), v.literal)
  | .pcmpLtSl d a v => some (mkWord 3 (packSL ⟨d.setWidth 6, a, v.xbit, 23, v.kbits⟩), v.literal)
  | .pcmpGeSl d a v => some (mkWord 3 (packSL ⟨d.setWidth 6, a, v.xbit, 24, v.kbits⟩), v.literal)
  | .pcmpLtnSl d a v => some (mkWord 3 (packSL ⟨d.setWidth 6, a, v.xbit, 25, v.kbits⟩), v.literal)
  | .pcmpGenSl d a v => some (mkWord 3 (packSL ⟨d.setWidth 6, a, v.xbit, 26, v.kbits⟩), v.literal)
  | .movl d v => some (mkWord 3 (packSL ⟨d, 0, 0, 31, 0⟩), (some v))
  | .movk d k => some (mkWord 3 (packSL ⟨d, 0, 1, 31, k⟩), none)
  | .addi d i => some (mkWord 1 (packSI ⟨d, 0, 0, i⟩), none)
  | .shli d i => some (mkWord 1 (packSI ⟨d, 1, 0, i⟩), none)
  | .shri d i => some (mkWord 1 (packSI ⟨d, 2, 0, i⟩), none)
  | .srai d i => some (mkWord 1 (packSI ⟨d, 3, 0, i⟩), none)
  | .movi d i => some (mkWord 1 (packSI ⟨d, 4, 0, i⟩), none)
  | .movf d f => some (mkWord 2 (packSF ⟨d, f⟩), none)
  | .fadd d a b => some (mkWord 4 (packSR ⟨d, a, b, 0, 0⟩), none)
  | .fsub d a b => some (mkWord 4 (packSR ⟨d, a, b, 0, 1⟩), none)
  | .fmul d a b => some (mkWord 4 (packSR ⟨d, a, b, 0, 2⟩), none)
  | .ffma d a b => some (mkWord 4 (packSR ⟨d, a, b, 0, 3⟩), none)
  | .fcmpEq d a b => some (mkWord 4 (packSR ⟨d.setWidth 6, a, b, 0, 4⟩), none)
  | .fcmpLt d a b => some (mkWord 4 (packSR ⟨d.setWidth 6, a, b, 0, 5⟩), none)
  | .fcmpLe d a b => some (mkWord 4 (packSR ⟨d.setWidth 6, a, b, 0, 6⟩), none)
  | .fcmpUn d a b => some (mkWord 4 (packSR ⟨d.setWidth 6, a, b, 0, 7⟩), none)
  | .fcvt d a m k => some (mkWord 4 (packSR ⟨d, a, fcvtCode m k, 0, 8⟩), none)
  | .plogAnd d a b => some (mkWord 4 (packSR ⟨d.setWidth 6, a.setWidth 6, b.setWidth 6, 0, 16⟩), none)
  | .plogOr d a b => some (mkWord 4 (packSR ⟨d.setWidth 6, a.setWidth 6, b.setWidth 6, 0, 17⟩), none)
  | .plogXor d a b => some (mkWord 4 (packSR ⟨d.setWidth 6, a.setWidth 6, b.setWidth 6, 0, 18⟩), none)
  | .plogAndn d a b => some (mkWord 4 (packSR ⟨d.setWidth 6, a.setWidth 6, b.setWidth 6, 0, 19⟩), none)
  | .pset d a => some (mkWord 4 (packSR ⟨d.setWidth 6, a, 0, 0, 20⟩), none)
  | .tidx d a k => some (mkWord 4 (packSR ⟨d, a, k.setWidth 6, 0, 24⟩), none)
  | .tdim d a k => some (mkWord 4 (packSR ⟨d, a, k.setWidth 6, 0, 25⟩), none)
  | .kst a b => some (mkWord 4 (packSR ⟨0, a, b, 0, 26⟩), none)
  | .tid d => some (mkWord 4 (packSR ⟨d, 0, 0, 0, 32⟩), none)
  | .cyc d => some (mkWord 4 (packSR ⟨d, 0, 0, 0, 33⟩), none)
  | .rdsr d n => some (mkWord 4 (packSR ⟨d, 0, n.code, 0, 34⟩), none)
  | .wrsr n a => some (mkWord 4 (packSR ⟨n.code, a, 0, 0, 35⟩), none)
  | .ptid d => some (mkWord 30 (packSY ⟨d, 0, 0, 0⟩), none)
  | .rdwc d => some (mkWord 30 (packSY ⟨d, 0, 1, 0⟩), none)
  | .rdtc d => some (mkWord 30 (packSY ⟨d, 0, 2, 0⟩), none)
  | .br c k => some (mkWord 8 (packBR ⟨0, c.p, BitVec.ofBool c.n, 0, 0, 0, k⟩), none)
  | .brl c k => some (mkWord 8 (packBR ⟨1, c.p, BitVec.ofBool c.n, 0, 0, 0, k⟩), none)
  | .bri c a => some (mkWord 8 (packBR ⟨2, c.p, BitVec.ofBool c.n, 0, a, 0, 0⟩), none)
  | .ret c => some (mkWord 8 (packBR ⟨3, c.p, BitVec.ofBool c.n, 0, 0, 0, 0⟩), none)
  | .loop k n e => some (mkWord 9 (packBR ⟨0, k, 0, n.lbit, n.regField, 0, e⟩), n.literal)
  | .loopr x k n e => some (mkWord 9 (packBR ⟨x.setWidth 4 + 1, k, 0, n.lbit, n.regField, 0, e⟩), n.literal)
  | .segj c => some (mkWord 10 (packBR ⟨0, c.p, BitVec.ofBool c.n, 0, 0, 0, 0⟩), none)
  | .segsel c k => some (mkWord 10 (packBR ⟨1, c.p, BitVec.ofBool c.n, 0, 0, 0, k⟩), none)
  | .tchk c v => some (mkWord 11 (packBR ⟨0, c.p, BitVec.ofBool c.n, 1, 0, 0, 0⟩), (some v))
  | .joint v => some (mkWord 11 (packBR ⟨1, 0, 0, 1, 0, 0, 0⟩), (some v))
  | .waitcLit v => some (mkWord 11 (packBR ⟨2, 0, 0, 1, 0, 0, 0⟩), (some v))
  | .waitcReg a => some (mkWord 11 (packBR ⟨2, 0, 0, 0, a, 0, 0⟩), none)
  | .tend c => some (mkWord 11 (packBR ⟨3, c.p, BitVec.ofBool c.n, 0, 0, 0, 0⟩), none)
  | .trap c v => some (mkWord 11 (packBR ⟨4, c.p, BitVec.ofBool c.n, 1, 0, 0, 0⟩), (some v))
  | .vadd d a b t m => some (mkWord 12 (packVR ⟨d, a.code, b.code, t.code, m, 0⟩), none)
  | .vsub d a b t m => some (mkWord 12 (packVR ⟨d, a.code, b.code, t.code, m, 1⟩), none)
  | .vmul d a b t m => some (mkWord 12 (packVR ⟨d, a.code, b.code, t.code, m, 2⟩), none)
  | .vfma d a b t m => some (mkWord 12 (packVR ⟨d, a.code, b.code, t.code, m, 3⟩), none)
  | .vfms d a b t m => some (mkWord 12 (packVR ⟨d, a.code, b.code, t.code, m, 4⟩), none)
  | .vmin d a b t m => some (mkWord 12 (packVR ⟨d, a.code, b.code, t.code, m, 5⟩), none)
  | .vmax d a b t m => some (mkWord 12 (packVR ⟨d, a.code, b.code, t.code, m, 6⟩), none)
  | .vabs d a t m => some (mkWord 12 (packVR ⟨d, a.code, 0, t.code, m, 7⟩), none)
  | .vneg d a t m => some (mkWord 12 (packVR ⟨d, a.code, 0, t.code, m, 8⟩), none)
  | .vaddSat d a b t m => some (mkWord 12 (packVR ⟨d, a.code, b.code, t.code, m, 9⟩), none)
  | .vsubSat d a b t m => some (mkWord 12 (packVR ⟨d, a.code, b.code, t.code, m, 10⟩), none)
  | .vmulSat d a b t m => some (mkWord 12 (packVR ⟨d, a.code, b.code, t.code, m, 11⟩), none)
  | .vfmaSat d a b t m => some (mkWord 12 (packVR ⟨d, a.code, b.code, t.code, m, 12⟩), none)
  | .vfmsSat d a b t m => some (mkWord 12 (packVR ⟨d, a.code, b.code, t.code, m, 13⟩), none)
  | .vaddVi d t m i => some (mkWord 13 (packVI ⟨d, 0, t.code, m, i⟩), none)
  | .vbcastVi d t m i => some (mkWord 13 (packVI ⟨d, 1, t.code, m, i⟩), none)
  | .vaddVf d tf f => some (mkWord 14 (packVF ⟨d, 0, BitVec.ofBool tf, f⟩), none)
  | .vbcastVf d tf f => some (mkWord 14 (packVF ⟨d, 1, BitVec.ofBool tf, f⟩), none)
  | .vfmaVl d a v t m => some (mkWord 15 (packVL ⟨d, a.code, v.xbit, v.kbits, t.code, m, 0⟩), v.literal)
  | .vaddVl d a v t m => some (mkWord 15 (packVL ⟨d, a.code, v.xbit, v.kbits, t.code, m, 1⟩), v.literal)
  | .vand d a b t m => some (mkWord 16 (packVR ⟨d, a.code, b.code, t.code, m, 0⟩), none)
  | .vor d a b t m => some (mkWord 16 (packVR ⟨d, a.code, b.code, t.code, m, 1⟩), none)
  | .vxor d a b t m => some (mkWord 16 (packVR ⟨d, a.code, b.code, t.code, m, 2⟩), none)
  | .vnot d a t m => some (mkWord 16 (packVR ⟨d, a.code, 0, t.code, m, 3⟩), none)
  | .vshl d a b t m => some (mkWord 16 (packVR ⟨d, a.code, b.code, t.code, m, 4⟩), none)
  | .vshr d a b t m => some (mkWord 16 (packVR ⟨d, a.code, b.code, t.code, m, 5⟩), none)
  | .vsra d a b t m => some (mkWord 16 (packVR ⟨d, a.code, b.code, t.code, m, 6⟩), none)
  | .vpopc d a t m => some (mkWord 16 (packVR ⟨d, a.code, 0, t.code, m, 7⟩), none)
  | .vcmpEq v a b t m => some (mkWord 16 (packVR ⟨v.setWidth 4, a.code, b.code, t.code, m, 8⟩), none)
  | .vcmpNe v a b t m => some (mkWord 16 (packVR ⟨v.setWidth 4, a.code, b.code, t.code, m, 9⟩), none)
  | .vcmpLt v a b t m => some (mkWord 16 (packVR ⟨v.setWidth 4, a.code, b.code, t.code, m, 10⟩), none)
  | .vcmpLe v a b t m => some (mkWord 16 (packVR ⟨v.setWidth 4, a.code, b.code, t.code, m, 11⟩), none)
  | .vcmpUn v a b t m => some (mkWord 16 (packVR ⟨v.setWidth 4, a.code, b.code, t.code, m, 12⟩), none)
  | .vmlogAnd v a b => some (mkWord 16 (packVR ⟨v.setWidth 4, a.setWidth 5, b.setWidth 5, 0, 0, 16⟩), none)
  | .vmlogOr v a b => some (mkWord 16 (packVR ⟨v.setWidth 4, a.setWidth 5, b.setWidth 5, 0, 0, 17⟩), none)
  | .vmlogXor v a b => some (mkWord 16 (packVR ⟨v.setWidth 4, a.setWidth 5, b.setWidth 5, 0, 0, 18⟩), none)
  | .vmlogAndn v a b => some (mkWord 16 (packVR ⟨v.setWidth 4, a.setWidth 5, b.setWidth 5, 0, 0, 19⟩), none)
  | .vsel d a b t m => some (mkWord 16 (packVR ⟨d, a.code, b.code, t.code, m, 20⟩), none)
  | .vcvt d a sat e t r => some (mkWord 18 (packVR ⟨d, a.code, BitVec.ofBool sat ++ e.code, t.code, r.code, 0⟩), none)
  | .vwiden d a e t => some (mkWord 18 (packVR ⟨d, a.code, e.code.setWidth 5, t.code, 0, 1⟩), none)
  | .vnarrow d a sat e t r => some (mkWord 18 (packVR ⟨d, a.code, BitVec.ofBool sat ++ e.code, t.code, r.code, 2⟩), none)
  | .vmxs d a r x => some (mkWord 18 (packVR ⟨d, a.code, r.code ++ x, 8, 0, 3⟩), none)
  | .vperm d a b t m => some (mkWord 18 (packVR ⟨d, a.code, b.code, t.code, m, 4⟩), none)
  | .vshuf d a b t p => some (mkWord 18 (packVR ⟨d, a.code, b.code, t.code, p, 5⟩), none)
  | .vslideUp d a s t m => some (mkWord 18 (packVR ⟨d, a.code, s.setWidth 5, t.code, m, 6⟩), none)
  | .vslideDn d a s t m => some (mkWord 18 (packVR ⟨d, a.code, s.setWidth 5, t.code, m, 7⟩), none)
  | .viota d t m => some (mkWord 18 (packVR ⟨d, 0, 0, t.code, m, 8⟩), none)
  | .vbcast d s t m => some (mkWord 18 (packVR ⟨d, s.setWidth 5, 0, t.code, m, 9⟩), none)
  | .vpackp d a t m => some (mkWord 18 (packVR ⟨d, a.code, 0, t.code, m, 10⟩), none)
  | .vpackpFl d t => some (mkWord 18 (packVR ⟨d, 0, 0, t.code, 0, 11⟩), none)
  | .vunpk d a t m => some (mkWord 18 (packVR ⟨d, a.code, 0, t.code, m, 12⟩), none)
  | .vmovq d a => some (mkWord 18 (packVR ⟨d, a.code, 0, 0, 0, 13⟩), none)
  | .vclr d => some (mkWord 18 (packVR ⟨d, 0, 0, 0, 0, 14⟩), none)
  | .vclrStrm => some (mkWord 18 (packVR ⟨0, 0, 0, 0, 0, 15⟩), none)
  | .vdot d a b t p => some (mkWord 17 (packVP ⟨d, a.code, b.code, t.code, p.code, 0⟩), none)
  | .vdotAcc d a b t p => some (mkWord 17 (packVP ⟨d, a.code, b.code, t.code, p.code, 1⟩), none)
  | .vred d a m t p => some (mkWord 17 (packVP ⟨d, a.code, m.setWidth 5, t.code, p.code, 2⟩), none)
  | .vredAcc d a m t p => some (mkWord 17 (packVP ⟨d, a.code, m.setWidth 5, t.code, p.code, 3⟩), none)
  | .vrcp d a => some (mkWord 17 (packVP ⟨d, a.code, 0, 8, 4, 4⟩), none)
  | .vrsq d a => some (mkWord 17 (packVP ⟨d, a.code, 0, 8, 4, 5⟩), none)
  | .vexp2 d a => some (mkWord 17 (packVP ⟨d, a.code, 0, 8, 4, 6⟩), none)
  | .vlog2 d a => some (mkWord 17 (packVP ⟨d, a.code, 0, 8, 4, 7⟩), none)
  | .vrcpf d a b => some (mkWord 17 (packVP ⟨d, a.code, b.code, 8, 4, 8⟩), none)
  | .vrsqf d a b => some (mkWord 17 (packVP ⟨d, a.code, b.code, 8, 4, 9⟩), none)
  | .vdotW d a b t p => some (mkWord 17 (packVP ⟨d, a.code, b.code, t.code, p.code, 10⟩), none)
  | .vdotWAcc d a b t p => some (mkWord 17 (packVP ⟨d, a.code, b.code, t.code, p.code, 11⟩), none)
  | .ldsSigned g w d ma => some (mkWord 20 (packMM ⟨g, 0#3 ++ w, 0, 0, d, ma.ba, litBit ma.off⟩), ma.off)
  | .ldsUnsigned g w d ma => some (mkWord 20 (packMM ⟨g, 1#3 ++ w, 0, 0, d, ma.ba, litBit ma.off⟩), ma.off)
  | .sts g w d ma => some (mkWord 20 (packMM ⟨g, 2#3 ++ w, 0, 0, d, ma.ba, litBit ma.off⟩), ma.off)
  | .sldSigned g w d ma => some (mkWord 20 (packMM ⟨g, 0#3 ++ w, 0, 0, d, ma.ba, litBit ma.off⟩), ma.off)
  | .sldUnsigned g w d ma => some (mkWord 20 (packMM ⟨g, 1#3 ++ w, 0, 0, d, ma.ba, litBit ma.off⟩), ma.off)
  | .sst g w d ma => some (mkWord 20 (packMM ⟨g, 2#3 ++ w, 0, 0, d, ma.ba, litBit ma.off⟩), ma.off)
  | .gldSigned g w sx d ma => some (mkWord 20 (packMM ⟨g, 0#3 ++ w, sx.ord.code, sx.scp.code, d, ma.ba, litBit ma.off⟩), ma.off)
  | .gldUnsigned g w sx d ma => some (mkWord 20 (packMM ⟨g, 1#3 ++ w, sx.ord.code, sx.scp.code, d, ma.ba, litBit ma.off⟩), ma.off)
  | .gst g w sx d ma => some (mkWord 20 (packMM ⟨g, 2#3 ++ w, sx.ord.code, sx.scp.code, d, ma.ba, litBit ma.off⟩), ma.off)
  | .ldv g d ma => some (mkWord 20 (packMM ⟨g, 12, 0, 0, d.setWidth 6, ma.ba, litBit ma.off⟩), ma.off)
  | .stv g d ma => some (mkWord 20 (packMM ⟨g, 13, 0, 0, d.setWidth 6, ma.ba, litBit ma.off⟩), ma.off)
  | .gldv g sx d ma => some (mkWord 20 (packMM ⟨g, 12, sx.ord.code, sx.scp.code, d.setWidth 6, ma.ba, litBit ma.off⟩), ma.off)
  | .gstv g sx d ma => some (mkWord 20 (packMM ⟨g, 13, sx.ord.code, sx.scp.code, d.setWidth 6, ma.ba, litBit ma.off⟩), ma.off)
  | .ggath g w sx d b => some (mkWord 21 (packMM ⟨g, 0#4 ++ BitVec.ofBool w, sx.ord.code, sx.scp.code, d.setWidth 6, b, 0⟩), none)
  | .gscat g w sx d b => some (mkWord 21 (packMM ⟨g, 1#4 ++ BitVec.ofBool w, sx.ord.code, sx.scp.code, d.setWidth 6, b, 0⟩), none)
  | .gaadd g w sx d b l => some (mkWord 21 (packMM ⟨g, 2#4 ++ BitVec.ofBool w, sx.ord.code, sx.scp.code, d, b, litBit l⟩), l)
  | .gaor g w sx d b l => some (mkWord 21 (packMM ⟨g, 3#4 ++ BitVec.ofBool w, sx.ord.code, sx.scp.code, d, b, litBit l⟩), l)
  | .gaand g w sx d b l => some (mkWord 21 (packMM ⟨g, 4#4 ++ BitVec.ofBool w, sx.ord.code, sx.scp.code, d, b, litBit l⟩), l)
  | .gamaxI g w sx d b l => some (mkWord 21 (packMM ⟨g, 5#4 ++ BitVec.ofBool w, sx.ord.code, sx.scp.code, d, b, litBit l⟩), l)
  | .gamaxN g w sx d b l => some (mkWord 21 (packMM ⟨g, 6#4 ++ BitVec.ofBool w, sx.ord.code, sx.scp.code, d, b, litBit l⟩), l)
  | .gaminI g w sx d b l => some (mkWord 21 (packMM ⟨g, 7#4 ++ BitVec.ofBool w, sx.ord.code, sx.scp.code, d, b, litBit l⟩), l)
  | .gaminN g w sx d b l => some (mkWord 21 (packMM ⟨g, 8#4 ++ BitVec.ofBool w, sx.ord.code, sx.scp.code, d, b, litBit l⟩), l)
  | .gaxch g w sx d b l => some (mkWord 21 (packMM ⟨g, 9#4 ++ BitVec.ofBool w, sx.ord.code, sx.scp.code, d, b, litBit l⟩), l)
  | .gacas g w sx d b => some (mkWord 21 (packMM ⟨g, 10#4 ++ BitVec.ofBool w, sx.ord.code, sx.scp.code, d, b, 0⟩), none)
  | .gaorv g sx d ma => some (mkWord 21 (packMM ⟨g, 22, sx.ord.code, sx.scp.code, d.setWidth 6, ma.ba, litBit ma.off⟩), ma.off)
  | .kvlook g sx d b => some (mkWord 22 (packMM ⟨g, 0, sx.ord.code, sx.scp.code, d, b, 0⟩), none)
  | .kvgath g sx d b n => some (mkWord 22 (packMM ⟨g, 1, sx.ord.code, sx.scp.code, d.setWidth 6, b, litBit n⟩), n)
  | .kvapp g sx d b => some (mkWord 22 (packMM ⟨g, 2, sx.ord.code, sx.scp.code, d.setWidth 6, b, 0⟩), none)
  | .kvshr g sx d b => some (mkWord 22 (packMM ⟨g, 3, sx.ord.code, sx.scp.code, d, b, 0⟩), none)
  | .kvrel g sx b => some (mkWord 22 (packMM ⟨g, 4, sx.ord.code, sx.scp.code, 0, b, 0⟩), none)
  | .kvref g sx d b => some (mkWord 22 (packMM ⟨g, 5, sx.ord.code, sx.scp.code, d, b, 0⟩), none)
  | .drain g p => some (mkWord 22 (packMM ⟨g, 8, 0, 0, p.code.setWidth 6, 0, 0⟩), none)
  | .fence g sx => some (mkWord 22 (packMM ⟨g, 9, sx.ord.code, sx.scp.code, 0, 0, 0⟩), none)
  | .barw g b h => some (mkWord 22 (packMM ⟨g, 10, 0, 0, b.setWidth 6, h.setWidth 6, 0⟩), none)
  | .agset g d k => some (mkWord 23 (packMM ⟨g, 0, 0, 0, d, k.setWidth 6, 0⟩), none)
  | .agbind g q k => some (mkWord 23 (packMM ⟨g, 1, 0, 0, q, k.setWidth 6, 0⟩), none)
  | .agrun g k n => some (mkWord 23 (packMM ⟨g, 2, 0, 0, 0, k.setWidth 6, 1⟩), (some n))
  | .agstop g k => some (mkWord 23 (packMM ⟨g, 3, 0, 0, 0, k.setWidth 6, 0⟩), none)
  | .mhole => some (mkWord 23 (packMM ⟨0, 31, 0, 0, 0, 0, 0⟩), none)
  | .mpush g q f p u h => some (mkWord 24 (packXB ⟨g, 0, BitVec.ofNat 18 (packMpush ⟨q.code, f, p, u, 0⟩), 1⟩), (some h.toLit))
  | .mclr g h => some (mkWord 24 (packXB ⟨g, 1, 0, 1⟩), (some h.toLit))
  | .mmodeC g f r h => some (mkWord 24 (packXB ⟨g, 2, BitVec.ofNat 18 (packMmode ⟨1, f, r, 0⟩), 1⟩), (some h.toLit))
  | .mmodeS g h => some (mkWord 24 (packXB ⟨g, 2, BitVec.ofNat 18 (packMmode ⟨0, 0, 0, 0⟩), 1⟩), (some h.toLit))
  | .mpmask g m h => some (mkWord 24 (packXB ⟨g, 3, BitVec.ofNat 18 (packMpmask ⟨m, 0⟩), 1⟩), (some h.toLit))
  | .asrd g q a x => some (mkWord 24 (packXB ⟨g, 4, BitVec.ofNat 18 (packAsrd ⟨q, a, x, 0⟩), 0⟩), none)
  | .aswr g q a x => some (mkWord 24 (packXB ⟨g, 5, BitVec.ofNat 18 (packAswr ⟨q.code, a, x, 0⟩), 0⟩), none)
  | .mshift g h => some (mkWord 25 (packXP ⟨g, 0, 1, 0, 1⟩), (some h.toLit))
  | .macc g a c x h => some (mkWord 25 (packXP ⟨g, 1, 1, BitVec.ofNat 14 (packMacc ⟨a, c, x, 0⟩), 1⟩), (some h.toLit))
  | .mdrain g q t k a => some (mkWord 25 (packXP ⟨g, 2, 1, BitVec.ofNat 14 (packMdrain ⟨q, t, BitVec.ofBool k, a⟩), 0⟩), none)
  | .dact g ch b row => some (mkWord 26 (packDD ⟨g, 0, BitVec.ofBool ch, BitVec.ofNat 17 (packDact ⟨b, row.regField, 0⟩), row.lbit⟩), row.literal)
  | .dpre g ch b => some (mkWord 26 (packDD ⟨g, 1, BitVec.ofBool ch, BitVec.ofNat 17 (packDact ⟨b, 0, 0⟩), 0⟩), none)
  | .dprea g ch => some (mkWord 26 (packDD ⟨g, 2, BitVec.ofBool ch, 0, 0⟩), none)
  | .drdM0 g ch b o a => some (mkWord 26 (packDD ⟨g, 3, BitVec.ofBool ch, BitVec.ofNat 17 (packDcol ⟨b, o, 0, a⟩), 0⟩), none)
  | .drdSh g ch b o a => some (mkWord 26 (packDD ⟨g, 3, BitVec.ofBool ch, BitVec.ofNat 17 (packDcol ⟨b, o, 1, a⟩), 0⟩), none)
  | .drdQ g ch b o q => some (mkWord 26 (packDD ⟨g, 3, BitVec.ofBool ch, BitVec.ofNat 17 (packDcol ⟨b, o, 2, q.setWidth 6⟩), 0⟩), none)
  | .dwrM0 g ch b o a => some (mkWord 26 (packDD ⟨g, 4, BitVec.ofBool ch, BitVec.ofNat 17 (packDcol ⟨b, o, 0, a⟩), 0⟩), none)
  | .dwrSh g ch b o a => some (mkWord 26 (packDD ⟨g, 4, BitVec.ofBool ch, BitVec.ofNat 17 (packDcol ⟨b, o, 1, a⟩), 0⟩), none)
  | .dwrQ g ch b o q => some (mkWord 26 (packDD ⟨g, 4, BitVec.ofBool ch, BitVec.ofNat 17 (packDcol ⟨b, o, 2, q.code.setWidth 6⟩), 0⟩), none)
  | .dref g ch => some (mkWord 26 (packDD ⟨g, 5, BitVec.ofBool ch, 0, 0⟩), none)
  | .drefb g ch b => some (mkWord 26 (packDD ⟨g, 6, BitVec.ofBool ch, BitVec.ofNat 17 (packDact ⟨b, 0, 0⟩), 0⟩), none)
  | .dwin g ch n => some (mkWord 26 (packDD ⟨g, 7, BitVec.ofBool ch, BitVec.ofNat 17 (packDwin ⟨n, 0⟩), 0⟩), none)
  | .dmrw g ch m a => some (mkWord 27 (packDD ⟨g, 0, BitVec.ofBool ch, BitVec.ofNat 17 (packDmrw ⟨m, a, 0⟩), 0⟩), none)
  | .dzq g ch => some (mkWord 27 (packDD ⟨g, 1, BitVec.ofBool ch, 0, 0⟩), none)
  | .mtclr g t => some (mkWord 28 (packTT ⟨g, 0, BitVec.ofBool t, 0, 0, 0, 0, 0⟩), none)
  | .mtld g t q x => some (mkWord 28 (packTT ⟨g, 1, BitVec.ofBool t, q.code.setWidth 6, x.regField, 0, 0, x.lbit⟩), x.literal)
  | .mtst g t q x => some (mkWord 28 (packTT ⟨g, 2, BitVec.ofBool t, q.setWidth 6, x.regField, 0, 0, x.lbit⟩), x.literal)
  | .mtupd g t a y => some (mkWord 28 (packTT ⟨g, 3, BitVec.ofBool t, y.regField, a, 0, 0, y.lbit⟩), y.literal)
  | .mtadd g t a y => some (mkWord 28 (packTT ⟨g, 4, BitVec.ofBool t, y.regField, a, 0, 0, y.lbit⟩), y.literal)
  | .mtsum g t d x => some (mkWord 28 (packTT ⟨g, 5, BitVec.ofBool t, d, x.regField, 0, 0, x.lbit⟩), x.literal)
  | .mtfind g t d p x => some (mkWord 28 (packTT ⟨g, 6, BitVec.ofBool t, d, x.regField, p, 0, x.lbit⟩), x.literal)
  | .mtcut g t p x => some (mkWord 28 (packTT ⟨g, 7, BitVec.ofBool t, 0, x.regField, p, 0, x.lbit⟩), x.literal)
  | .mtroot g t d full => some (mkWord 28 (packTT ⟨g, 8, BitVec.ofBool t, d, 0, 0, BitVec.ofBool full, 0⟩), none)
  | .mtleaf g t d x => some (mkWord 28 (packTT ⟨g, 9, BitVec.ofBool t, d, x.regField, 0, 0, x.lbit⟩), x.literal)
  | .mthor g t d => some (mkWord 28 (packTT ⟨g, 10, BitVec.ofBool t, d, 0, 0, 0, 0⟩), none)
  | _ => none

/-- The memory position that an instruction takes: 1 M0, 2 M1, 3 M2; 0 for a generator word or MHOLE, which
have a choice, and for words of other pipes (R36). -/
def memPos : Instr → Nat
  | .ldsSigned .. => 1
  | .ldsUnsigned .. => 1
  | .sts .. => 1
  | .ldv .. => 1
  | .stv .. => 1
  | .sldSigned .. => 2
  | .sldUnsigned .. => 2
  | .sst .. => 2
  | .gldSigned .. => 3
  | .gldUnsigned .. => 3
  | .gst .. => 3
  | .gldv .. => 3
  | .gstv .. => 3
  | .ggath .. => 3
  | .gscat .. => 3
  | .gaadd .. => 3
  | .gaor .. => 3
  | .gaand .. => 3
  | .gamaxI .. => 3
  | .gamaxN .. => 3
  | .gaminI .. => 3
  | .gaminN .. => 3
  | .gaxch .. => 3
  | .gacas .. => 3
  | .gaorv .. => 3
  | .kvlook .. => 3
  | .kvgath .. => 3
  | .kvapp .. => 3
  | .kvshr .. => 3
  | .kvrel .. => 3
  | .kvref .. => 3
  | .drain .. => 3
  | .fence .. => 3
  | .barw .. => 3
  | _ => 0
/-! ## Splitting a bundle (R49) and its checks (R34 to R37, R48) -/

/-- Why a bundle is illegal. Every one of them is the illegal-instruction fault of R35 and R48. -/
inductive DecErr where
  /-- A word that no row of the map has, or a word at a memory position it may not take. -/
  | unassigned
  /-- A field or literal value that the word's entry does not accept. -/
  | illegalField
  /-- More than six words (R34). -/
  | tooLong
  /-- A literal at word 0 of a packet (R35). -/
  | literalAtWordZero
  /-- The chain or a literal runs past word 254 (R33). -/
  | pastEnd
  /-- More words of one pipe than R34 allows. -/
  | pipeLimit
  deriving DecidableEq, Repr

/-- The word is followed by its literal (R38, R49). -/
def wantsLit (w : Nat) : Bool :=
  let m := majOf w
  if m = 3 then w / 8192 % 2 = 0
  else if m = 15 then w / 65536 % 2 = 0
  else if 8 ≤ m ∧ m ≤ 11 then w / 65536 % 2 = 1
  else if 20 ≤ m ∧ m ≤ 28 then w % 2 = 1
  else false

/-- Splits the half into the words of the bundle at index w (R49), n words being already taken: each word with its
literal (0 where it has none), and the index of the next bundle. -/
def splitBundle (get : Nat → Nat) : Nat → Nat → Nat → Except DecErr (List (Nat × Lit) × Nat)
  | 0, _, _ => .error .tooLong
  | fuel + 1, w, n =>
    if w ≥ 255 then .error .pastEnd
    else
      let x := get w
      let withLit (lit : Lit) (w' n' : Nat) : Except DecErr (List (Nat × Lit) × Nat) :=
        if n' > 6 then .error .tooLong
        else if chainOf x then
          match splitBundle get fuel w' n' with
          | .error e => .error e
          | .ok (ws, nx) => .ok ((x, lit) :: ws, nx)
        else .ok ([(x, lit)], w')
      if wantsLit x then
        if (w + 1) % 3 = 0 then .error .literalAtWordZero
        else if w + 1 ≥ 255 then .error .pastEnd
        else withLit (BitVec.ofNat 32 (get (w + 1))) (w + 2) (n + 2)
      else withLit 0 (w + 1) (n + 1)

/-- Gives each word its pipe number as R203 numbers them (0 S0, 1 S1, 2 B, 3 V, 4 M0, 5 M1, 6 M2, 7 X, 8 D, 9 T)
and decodes it; s and m count the S and memory words before it, used the other pipes taken (R34, R36). -/
def decodeWords : List (Nat × Lit) → Nat → Nat → List Nat → Except DecErr (List (Nat × Instr))
  | [], _, _, _ => .ok []
  | (w, lit) :: rest, s, m, used =>
    let go (pipe pos s' m' : Nat) (used' : List Nat) : Except DecErr (List (Nat × Instr)) :=
      match decodeWord pos w lit with
      | none => .error .unassigned
      | some i =>
        if Machine.fieldsLegal i then
          match decodeWords rest s' m' used' with
          | .error e => .error e
          | .ok l => .ok ((pipe, i) :: l)
        else .error .illegalField
    match Machine.pipeClass (majOf w) with
    | none => .error .unassigned
    | some 0 => if s ≥ 2 then .error .pipeLimit else go s 0 (s + 1) m used
    | some 4 => if m ≥ 3 then .error .pipeLimit else go (4 + m) (m + 1) s (m + 1) used
    | some c => if used.contains c then .error .pipeLimit else go c 0 s m (c :: used)

/-- Inserts a word by its pipe number. -/
def insertPipe (x : Nat × Instr) : List (Nat × Instr) → List (Nat × Instr)
  | [] => [x]
  | y :: ys => if x.1 ≤ y.1 then x :: y :: ys else y :: insertPipe x ys

/-- The words of a bundle in pipe order (R70, R71: the order in which their effects of one cycle count). -/
def sortPipes (l : List (Nat × Instr)) : List (Nat × Instr) := l.foldr insertPipe []

/-- Decodes the bundle at word w of a half: its words in pipe order and the index of the next bundle. -/
def decodeBundle (get : Nat → Nat) (w : Nat) : Except DecErr (List (Nat × Instr) × Nat) :=
  match splitBundle get 7 w 0 with
  | .error e => .error e
  | .ok (ws, nx) =>
    match decodeWords ws 0 0 [] with
    | .error e => .error e
    | .ok l => .ok (sortPipes l, nx)

/-- Encodes an instruction: its word without the chain bit, then its literal if it has one. -/
def encode (i : Instr) : Option (List Nat) :=
  match encTile i with
  | none => none
  | some (w, none) => some [w]
  | some (w, some l) => some [w, l.toNat]

/-- The instruction that the decoder reads from a word whose bits are w, at the first memory position at which the
word has a meaning (R36: LDS, SLD and GLD share one encoding). Operand words that the table gives no bits are 0. -/
def decodeTableWord (nbits w : Nat) : Option Instr :=
  let x := w % 4294967296
  let lit := if nbits > 32 then BitVec.ofNat 32 (w / 4294967296) else (0 : Lit)
  match decodeWord 1 x lit with
  | some i => some i
  | none =>
    match decodeWord 2 x lit with
    | some i => some i
    | none => decodeWord 3 x lit

end Sys2Proof
end

