-- ==== Sys2Proof/Machine/Num.lean ====
section
/-! DEFINITION. Numbers (R51 to R62): floating-point formats, exact values, the one rounding of the device, the
conversions, MX blocks, UM24 and XA96 arithmetic, and lanes of queue vectors. All arithmetic is exact on integers
and is narrowed once at the end. -/

namespace Sys2Proof.Machine

/-- How a format codes infinity and NaN (R51): both as IEEE 754 does, NaN only (E4M3), or neither. -/
inductive FKind where
  | ieee | nanOnly | finite
  deriving DecidableEq, Repr

/-- A floating-point format: exponent and mantissa widths, bias (R51). -/
structure FFmt where
  ew   : Nat
  mw   : Nat
  bias : Nat
  kind : FKind
  deriving DecidableEq, Repr

def fp32 : FFmt := ⟨8, 23, 127, .ieee⟩
def fbf16 : FFmt := ⟨8, 7, 127, .ieee⟩
def fp16 : FFmt := ⟨5, 10, 15, .ieee⟩
def fe4m3 : FFmt := ⟨4, 3, 7, .nanOnly⟩
def fe5m2 : FFmt := ⟨5, 2, 15, .ieee⟩
def fe3m2 : FFmt := ⟨3, 2, 3, .finite⟩
def fe2m3 : FFmt := ⟨2, 3, 1, .finite⟩
def fe2m1 : FFmt := ⟨2, 1, 1, .finite⟩

/-- An exact value: NaN, a signed infinity, or (−1)^neg × m × 2^e, m = 0 being a signed zero. -/
inductive FVal where
  | nan
  | inf (neg : Bool)
  | fin (neg : Bool) (m : Nat) (e : Int)
  deriving DecidableEq, Repr

/-- The sign bit's place. -/
def signPos (f : FFmt) : Nat := f.ew + f.mw
/-- The encoding of the largest finite magnitude (R51). -/
def maxBits (f : FFmt) : Nat :=
  match f.kind with
  | .ieee => (2 ^ f.ew - 1) * 2 ^ f.mw - 1
  | .nanOnly => 2 ^ (f.ew + f.mw) - 2
  | .finite => 2 ^ (f.ew + f.mw) - 1
/-- The encoding of +∞. -/
def infBits (f : FFmt) : Nat := (2 ^ f.ew - 1) * 2 ^ f.mw
/-- The canonical NaN (R53); +0 in a format without NaN (R55). -/
def nanBits (f : FFmt) : Nat :=
  match f.kind with
  | .ieee => if f.mw = 2 then 0x7F else infBits f + 2 ^ (f.mw - 1)
  | .nanOnly => 0x7F
  | .finite => 0
/-- Puts a sign on a magnitude. -/
def withSign (f : FFmt) (neg : Bool) (mag : Nat) : Nat := if neg then mag + 2 ^ signPos f else mag

/-- The value of an encoding (R51). -/
def fdec (f : FFmt) (b : Nat) : FVal :=
  let neg := b / 2 ^ signPos f % 2 = 1
  let ex := b / 2 ^ f.mw % 2 ^ f.ew
  let ma := b % 2 ^ f.mw
  let top := 2 ^ f.ew - 1
  let num : FVal :=
    if ex = 0 then .fin neg ma (1 - (f.bias : Int) - f.mw)
    else .fin neg (2 ^ f.mw + ma) ((ex : Int) - f.bias - f.mw)
  match f.kind with
  | .ieee => if ex = top then (if ma = 0 then .inf neg else .nan) else num
  | .nanOnly => if ex = top ∧ ma = 2 ^ f.mw - 1 then .nan else num
  | .finite => num

/-- m / 2^sh rounded to an integer by rm, the number being negative when neg (R54); a negative sh multiplies. -/
def roundShift (rm : RMode) (neg : Bool) (m : Nat) (sh : Int) : Nat :=
  if sh ≤ 0 then m * 2 ^ (-sh).toNat
  else
    let k := sh.toNat
    -- below a quarter of a unit only "not zero" matters
    let (q, r, h) := if k > Nat.log2 m + 2 then (0, if m = 0 then 0 else 1, 2) else (m / 2 ^ k, m % 2 ^ k, 2 ^ (k - 1))
    let up : Bool :=
      match rm with
      | .rne => decide (r > h) || (decide (r = h) && decide (q % 2 = 1))
      | .rtz => false
      | .rdn => neg && decide (r ≠ 0)
      | .rup => !neg && decide (r ≠ 0)
      | .rna => decide (r ≥ h)
      | .reserved => false
    if up then q + 1 else q

/-- A rounded result: its encoding, and the overflow and invalid flags it sets (R57). -/
structure FRes where
  bits : Nat
  ovf  : Bool
  nv   : Bool
  deriving DecidableEq, Repr

/-- The encoding of an overflowed result (R55). -/
def ovfBits (f : FFmt) (rm : RMode) (sat neg : Bool) : Nat :=
  let mx := withSign f neg (maxBits f)
  let big := withSign f neg (infBits f)
  if sat then mx else
  match f.kind with
  | .finite => mx
  | .nanOnly =>
    match rm with
    | .rne | .rna => nanBits f
    | _ => mx
  | .ieee =>
    match rm with
    | .rne | .rna => big
    | .rtz | .reserved => mx
    | .rdn => if neg then big else mx
    | .rup => if neg then mx else big

/-- Rounds an exact value to a format (R54, R55). A value that is itself infinite stays infinite; NaN becomes
canonical. -/
def fround (f : FFmt) (rm : RMode) (sat : Bool) : FVal → FRes
  | .nan => ⟨nanBits f, false, f.kind = .finite⟩
  | .inf neg => ⟨withSign f neg (infBits f), false, false⟩
  | .fin neg m e =>
    if m = 0 then ⟨withSign f neg 0, false, false⟩
    else
      let emin : Int := 1 - (f.bias : Int)
      let top : Int := (Nat.log2 m : Int) + e
      let q : Int := (if top < emin then emin else top) - f.mw
      let n := roundShift rm neg m (q - e)
      let mag := (q - (emin - f.mw)).toNat * 2 ^ f.mw + n
      if mag > maxBits f then ⟨ovfBits f rm sat neg, true, false⟩
      else ⟨withSign f neg mag, false, false⟩

/-- Converts a value to a format: as `fround`, with the rule of R55 for an infinite source. -/
def fconv (f : FFmt) (rm : RMode) (sat : Bool) (x : FVal) : FRes :=
  match x with
  | .inf neg =>
    match f.kind, rm with
    | .ieee, .rtz | .ieee, .rdn | .ieee, .rup => ⟨withSign f neg (infBits f), false, false⟩
    | .ieee, _ => ⟨ovfBits f rm sat neg, false, false⟩
    | _, _ => ⟨ovfBits f rm sat neg, true, false⟩
  | _ => fround f rm sat x

/-- The sign of a value that is not NaN. -/
def fneg? : FVal → Bool
  | .nan => false
  | .inf n => n
  | .fin n _ _ => n
def isNan : FVal → Bool
  | .nan => true
  | _ => false
def isInf : FVal → Bool
  | .inf _ => true
  | _ => false
def isZero : FVal → Bool
  | .fin _ 0 _ => true
  | _ => false
/-- The value with its sign turned. -/
def fnegate : FVal → FVal
  | .nan => .nan
  | .inf n => .inf (!n)
  | .fin n m e => .fin (!n) m e

/-- The exact sum of two values (R52); an exact zero sum has the sign that RNE gives. -/
def faddV : FVal → FVal → FVal
  | .nan, _ => .nan
  | _, .nan => .nan
  | .inf a, .inf b => if a = b then .inf a else .nan
  | .inf a, _ => .inf a
  | _, .inf b => .inf b
  | .fin a m e, .fin b n g =>
    let l := if e ≤ g then e else g
    let x := m * 2 ^ (e - l).toNat
    let y := n * 2 ^ (g - l).toNat
    if a = b then .fin a (x + y) l
    else if x > y then .fin a (x - y) l
    else if x < y then .fin b (y - x) l
    else .fin false 0 0

/-- The exact product of two values (R52). -/
def fmulV : FVal → FVal → FVal
  | .nan, _ => .nan
  | _, .nan => .nan
  | .inf a, .inf b => .inf (a != b)
  | .inf a, .fin b m _ => if m = 0 then .nan else .inf (a != b)
  | .fin a m _, .inf b => if m = 0 then .nan else .inf (a != b)
  | .fin a m e, .fin b n g => .fin (a != b) (m * n) (e + g)

/-- A NaN made from operands that are not NaN sets NV (R57). -/
def madeNan (r : FVal) (ops : List FVal) : Bool := isNan r && !(ops.any isNan)

/-- An arithmetic result in a format: rounded once, RNE, with its flags (R52 to R57). -/
def farith (f : FFmt) (sat : Bool) (r : FVal) (ops : List FVal) : FRes :=
  let x := fround f .rne sat r
  ⟨x.bits, x.ovf, madeNan r ops⟩

/-- x < y, both finite or infinite; −0 equals +0. -/
def fltV (x y : FVal) : Bool :=
  match x, y with
  | .nan, _ => false
  | _, .nan => false
  | .inf a, .inf b => a && !b
  | .inf a, _ => a
  | _, .inf b => !b
  | .fin a m e, .fin b n g =>
    let l := if e ≤ g then e else g
    let v : Int := (if a then -1 else 1) * ((m * 2 ^ (e - l).toNat : Nat) : Int)
    let u : Int := (if b then -1 else 1) * ((n * 2 ^ (g - l).toNat : Nat) : Int)
    decide (v < u)
/-- x equals y; −0 equals +0, NaN equals nothing. -/
def feqV (x y : FVal) : Bool := !isNan x && !isNan y && !fltV x y && !fltV y x

/-- The value of an integer. -/
def fofInt (x : Int) : FVal := .fin (decide (x < 0)) x.natAbs 0

/-- A value rounded to an integer by rm and clamped to [lo, hi]; whether NV is set (R56, R57). -/
def ftoInt (rm : RMode) (lo hi : Int) : FVal → Int × Bool
  | .nan => (0, true)
  | .inf neg => (if neg then lo else hi, true)
  | .fin neg m e =>
    let n := roundShift rm neg m (-e)
    let v : Int := if neg then -(n : Int) else n
    if v < lo then (lo, true) else if v > hi then (hi, true) else (v, false)

/-- FP32 to UM24 with scale s: the mass and the flags OF, NV. A source above the range sets OF (R62) and NV (R57); a
negative one sets no flag, because R62 says so (log 31). -/
def toUm24 (s : Int) : FVal → FRes
  | .nan => ⟨0, false, true⟩
  | .inf neg => if neg then ⟨0, false, false⟩ else ⟨0xFFFFFF, true, true⟩
  | .fin neg m e =>
    if neg || m = 0 then ⟨0, false, false⟩
    else
      let top : Int := (Nat.log2 m : Int) + e + s
      if top > 24 then ⟨0xFFFFFF, true, true⟩
      else
        let n := roundShift .rne false m (-(e + s))
        if n > 0xFFFFFF then ⟨0xFFFFFF, true, true⟩ else ⟨n, false, false⟩

/-! ## Two's complement -/

/-- The signed reading of the low w bits. -/
def sgn (w : Nat) (x : Nat) : Int :=
  let y := x % 2 ^ w
  if y < 2 ^ (w - 1) then (y : Int) else (y : Int) - (2 ^ w : Nat)
/-- The low w bits of an integer. -/
def lowBits (w : Nat) (x : Int) : Nat := (x % (2 ^ w : Nat)).toNat
/-- x clamped to [lo, hi]. -/
def clampI (lo hi x : Int) : Int := if x < lo then lo else if x > hi then hi else x
/-- ⌊x × 2^k⌋ for any k. -/
def scaleFloor (x : Int) (k : Int) : Int :=
  if k ≥ 0 then x * (2 ^ k.toNat : Nat) else
    if (-k).toNat > Nat.log2 x.natAbs + 1 then (if x < 0 then -1 else 0) else Int.fdiv x (2 ^ (-k).toNat : Nat)
/-- The number of one bits among the low w. -/
def ones (x : Nat) : Nat → Nat
  | 0 => 0
  | w + 1 => x % 2 + ones (x / 2) w

/-! ## Element types -/

/-- The format of a float element type. -/
def tyFmt : Ty → FFmt
  | .f32 => fp32
  | .bf16 => fbf16
  | .f16 => fp16
  | .e4m3 => fe4m3
  | .e5m2 => fe5m2
  | .e2m1 => fe2m1
  | _ => fp32
/-- The limits of an integer element type. -/
def tyLo (t : Ty) : Int := if tySigned t then -((2 ^ (8 * tyW t - 1) : Nat) : Int) else 0
def tyHi (t : Ty) : Int := if tySigned t then ((2 ^ (8 * tyW t - 1) : Nat) : Int) - 1 else ((2 ^ (8 * tyW t) : Nat) : Int) - 1
/-- The integer that an element holds. -/
def tyVal (t : Ty) (x : Nat) : Int := if tySigned t then sgn (8 * tyW t) x else (x : Int)

/-! ## Lanes (R138) -/

/-- Lane i of w bytes. -/
def lane (w : Nat) (v : QVec) (i : Nat) : Nat := v.toNat / 2 ^ (8 * w * i) % 2 ^ (8 * w)
/-- The lanes of a vector. -/
def lanes (w : Nat) (v : QVec) : List Nat := (List.range (512 / w)).map (lane w v)
/-- Joins lanes of w bytes, lane 0 lowest. -/
def joinLanes (w : Nat) : List Nat → Nat
  | [] => 0
  | x :: r => x % 2 ^ (8 * w) + 2 ^ (8 * w) * joinLanes w r
/-- The vector of a list of lanes. -/
def ofLanes (w : Nat) (l : List Nat) : QVec := BitVec.ofNat 4096 (joinLanes w l)
/-- Byte k of a vector. -/
def qbyte (v : QVec) (k : Nat) : Nat := v.toNat / 2 ^ (8 * k) % 256
/-- Nibble k of a vector (R58). -/
def qnib (v : QVec) (k : Nat) : Nat := v.toNat / 2 ^ (4 * k) % 16
/-- Bit k of a vector. -/
def qbit (v : QVec) (k : Nat) : Nat := v.toNat / 2 ^ k % 2
/-- Joins nibbles, nibble 0 lowest. -/
def joinNibs : List Nat → Nat
  | [] => 0
  | x :: r => x % 16 + 16 * joinNibs r
/-- Joins values of k bits. -/
def joinBits (k : Nat) : List Nat → Nat
  | [] => 0
  | x :: r => x % 2 ^ k + 2 ^ k * joinBits k r

/-! ## MX blocks (R58 to R60) -/

/-- ⌊log₂⌋ of a nonzero finite value. -/
def flog2 : FVal → Int
  | .fin _ m e => (Nat.log2 m : Int) + e
  | _ => 0
/-- |x| < |y| for finite values. -/
def fltMag (x y : FVal) : Bool :=
  match x, y with
  | .fin _ m e, .fin _ n g => fltV (.fin false m e) (.fin false n g)
  | _, _ => false

/-- The result of converting a block: scale byte, element codes, flags. -/
structure MxRes where
  scale : Nat
  codes : List Nat
  ovf   : Bool
  nv    : Bool
  deriving DecidableEq, Repr

/-- The largest exponent of an MX element type, in the codes of VMXS (R60). -/
def mxEmax (x : MxTy) : Int := match x.toNat with | 0 => 0 | 1 => 2 | 2 => 4 | _ => 2
/-- The element format of an MX type other than mxi8. -/
def mxFmt (x : MxTy) : FFmt := match x.toNat with | 1 => fe2m1 | 2 => fe3m2 | _ => fe2m3
/-- One element x / 2^E rounded to its code (R60 step 4). -/
def mxElem (ty : MxTy) (rm : RMode) (E : Int) : FVal → Nat
  | .fin neg m e =>
    if ty = 0#2 then
      let n := roundShift rm neg m (-(e - E + 6))
      lowBits 8 (clampI (-128) 127 (if neg then -(n : Int) else n))
    else (fround (mxFmt ty) rm true (.fin neg m (e - E))).bits
  | _ => 0
/-- Converts a block of 32 FP32 values (R60). -/
def mxBlock (ty : MxTy) (rm : RMode) (xs : List FVal) : MxRes :=
  if xs.any (fun x => isNan x || isInf x) then ⟨0xFF, xs.map (fun _ => 0), false, true⟩
  else
    let big := xs.foldl (fun a x => if fltMag a x then x else a) (.fin false 0 0)
    if isZero big then ⟨0, xs.map (fun _ => 0), false, false⟩
    else
      let raw := flog2 big - mxEmax ty
      let E := clampI (-127) 127 raw
      ⟨(E + 127).toNat, xs.map (mxElem ty rm E), decide (raw > 127), false⟩

/-! ## XA96 (R63, R66) -/

/-- An XA96 entry's significand and exponent. -/
def xaS (x : XA) : Int := sgn 80 (x.toNat / 65536)
def xaL (x : XA) : Int := sgn 16 x.toNat
/-- The entry with significand s and exponent l. -/
def xaMk (s l : Int) : XA := BitVec.ofNat 96 (lowBits 80 s * 65536 + lowBits 16 l)
/-- The empty state (R63). -/
def xaEmpty : XA := xaMk 0 (-32768)
/-- The NaN state as hardware writes it (R63). -/
def xaNan : XA := xaMk 0 32767
/-- The MACC step of R66: the sum, and whether it saturated. -/
def xaAdd (a i : XA) : XA × Bool :=
  if xaL a = 32767 ∨ xaL i = 32767 then (xaNan, false)
  else
    let l := if xaL a ≤ xaL i then xaL i else xaL a
    let s := scaleFloor (xaS a) (xaL a - l) + scaleFloor (xaS i) (xaL i - l)
    let c := clampI (-(2 ^ 79 : Nat)) ((2 ^ 79 : Nat) - 1) s
    (xaMk c l, decide (c ≠ s))
/-- The MDRAIN of R66 into a format, with its flags. -/
def xaDrain (f : FFmt) (x : XA) : FRes :=
  if xaL x = 32767 then ⟨nanBits f, false, true⟩
  else
    let s := xaS x
    if s = 0 then ⟨0, false, false⟩ else fround f .rne false (.fin (decide (s < 0)) s.natAbs (xaL x))

/-- A block sum for MSHIFT: b_j × 2^(e_j − L) summed with floors, L = max e_j − 40 (R66). -/
def ochreShift (bs : List Int) (es : List Int) : XA :=
  let eh := es.foldl (fun a e => if a < e then e else a) (es.headD 0)
  let l := eh - 40
  let s := (List.zipWith (fun b e => scaleFloor b (e - l)) bs es).foldl (· + ·) 0
  xaMk s l

end Sys2Proof.Machine
end

