-- ==== Sys2Proof/Machine/Tab.lean ====
section
/-! DEFINITION. Sparse tables in one canonical form: pairs of key and value, keys strictly rising, no value equal to
the one that an unlisted key reads as. Memories, register files and every table of the state are such tables. -/

namespace Sys2Proof.Machine

/-- A sparse table from keys to values; memory is one over bytes (`Host.Cell`). -/
abbrev Tab (α : Type) := List (Nat × α)

/-- A memory: one byte a cell. -/
abbrev Memory := List Host.Cell

/-- The value at a key; d is what an unlisted key reads as. -/
def tabGet {α : Type} (d : α) : Tab α → Nat → α
  | [], _ => d
  | (k, v) :: r, x => if k = x then v else tabGet d r x

/-- The table without a key. -/
def tabDel {α : Type} (t : Tab α) (x : Nat) : Tab α := t.filter (fun p => p.1 != x)

/-- Inserts a pair before the first larger key. -/
def tabPut {α : Type} (t : Tab α) (x : Nat) (v : α) : Tab α :=
  match t with
  | [] => [(x, v)]
  | (k, w) :: r => if x < k then (x, v) :: (k, w) :: r else (k, w) :: tabPut r x v

/-- Writes a value at a key; writing what an unlisted key reads as removes the entry. -/
def tabSet {α : Type} [DecidableEq α] (d : α) (t : Tab α) (x : Nat) (v : α) : Tab α :=
  if v = d then tabDel t x else tabPut (tabDel t x) x v

/-- The canonical form: strictly rising keys, and no entry with the default value. -/
def tabWf {α : Type} [DecidableEq α] (d : α) : Tab α → Bool
  | [] => true
  | (_, v) :: [] => v != d
  | (k, v) :: (k', v') :: r => v != d && decide (k < k') && tabWf d ((k', v') :: r)

/-! ## Bytes -/

/-- What a byte that nothing has written reads as (log 2). -/
def emptyByte : Byte := 0

/-- One byte of a memory. -/
def byteAt (m : Memory) (a : Nat) : Byte := tabGet emptyByte m a

/-- Writes one byte. -/
def setByte (m : Memory) (a : Nat) (b : Byte) : Memory := tabSet emptyByte m a b

/-- The memory is in canonical form. -/
def Memory.wf (m : Memory) : Bool := tabWf emptyByte m

/-- The n bytes from address a as a number, the lowest address in the lowest bits (R3). -/
def loadLE (m : Memory) (a : Nat) : Nat → Nat
  | 0 => 0
  | n + 1 => loadLE m a n + (byteAt m (a + n)).toNat * 256 ^ n

/-- Writes the low n bytes of v from address a up (R3). -/
def storeLE (m : Memory) (a : Nat) (v : Nat) : Nat → Memory
  | 0 => m
  | n + 1 => setByte (storeLE m a v n) (a + n) (BitVec.ofNat 8 (v / 256 ^ n))

/-- The n bytes from address a as a list. -/
def loadBytes (m : Memory) (a n : Nat) : List Byte := (List.range n).map (fun i => byteAt m (a + i))

/-- Writes a list of bytes from address a up. -/
def storeBytes (m : Memory) (a : Nat) : List Byte → Memory
  | [] => m
  | b :: r => storeBytes (setByte m a b) (a + 1) r

end Sys2Proof.Machine
end

