-- ==== Sys2Proof/Machine/State.lean ====
section
/-! DEFINITION. The state of the machine as plain data: tiles, shafts, channels, memory, timetables and domains, the
berth moves, the Quay queues, the Harbour complex, and the model's own fields that say what happens next; and the
state after reset. INVENTORY.md lists every field with its rule and reset value. -/

namespace Sys2Proof.Machine

/-! ## Tiles -/

/-- A bundle's place in the code image: segment header packet, half, first word (R204). -/
structure BRef where
  seg  : Nat
  half : Nat
  word : Nat
  deriving DecidableEq, Repr

/-- An entry of a queue register: the vector, and the number of the access that reserved it (R71, R169). -/
structure QEnt where
  resv : Option Nat
  val  : QVec
  deriving DecidableEq, Repr

/-- A shape entry: extents with their reciprocal pairs, outermost first; D is the length (R101, R127). -/
structure Shape where
  dims : List (BitVec 32 × BitVec 32 × BitVec 5)
  deriving DecidableEq, Repr

/-- A walk in progress: the cycle of the first push, the vectors of the walk, the AGRUN's cycle and bundle (R183). -/
structure AgRun where
  start : Nat
  total : Nat
  issue : Nat
  bun   : BRef
  deriving DecidableEq, Repr

/-- The spaces an address generator may record (R181). -/
inductive AgSpace where
  | none | m0 | shaft
  deriving DecidableEq, Repr

/-- An address generator (R181 to R183). -/
structure Agen where
  base  : Word
  s0 : BitVec 32
  n0 : BitVec 32
  s1 : BitVec 32
  n1 : BitVec 32
  s2 : BitVec 32
  n2 : BitVec 32
  space : AgSpace
  port  : Option Nat
  run   : Option AgRun
  deriving DecidableEq, Repr

/-- A mass tree: leaves and nodes (key 65536·level + index), the horizon (R186, R187). -/
structure MTree where
  nodes   : Tab Nat
  horizon : Nat
  deriving DecidableEq, Repr

/-- The kinds of mass-tree query (R195 to R197). -/
inductive MtKind where
  | sum | find | cut | root | full | leaf | hor | store
  deriving DecidableEq, Repr

/-- A query in flight: what it is, where it stands, where its result goes, its operand as it was given and the values it
has read, last first (R194, R200). -/
structure MtQuery where
  kind  : MtKind
  arg   : Nat
  hs    : Nat
  level : Nat
  acc   : Nat
  k     : Nat
  miss  : Bool
  reg   : Nat
  pd    : PredN
  q     : QN
  horOk : Bool
  op    : Nat
  seen  : List Nat
  deriving DecidableEq, Repr

/-- The places of a D-slot transfer (R285). -/
inductive DPlace where
  | m0 (a : Nat) | sh (hm ofs : Nat) | q (n : QN)
  deriving DecidableEq, Repr

/-- What a delayed action of a tile does when its cycle comes. -/
inductive Act where
  | reg (r : Nat) (v : Word)
  | pred (p : PredN) (b : Bool)
  | mask (m : MaskN) (v : BitVec 512)
  | lc (k : Nat) (v : BitVec 32)
  | stages (first : Bool)
  | flags (reg : SpecReg) (v : Word)
  | wrsr (n : SpecReg) (v : Word)
  | kb (i : Nat) (v : BitVec 32)
  | push (q : QN) (v : QVec)
  | agPush (k : Nat) (q : QN) (v : QVec)
  | agSet (k : Nat) (sp : AgSpace) (base b1 b2 b3 : Word)
  | agBind (k q : Nat)
  | agFree (k : Nat)
  | m0Load (a w : Nat) (signed : Bool) (r : Nat)
  | m0LoadV (a : Nat) (q : QN)
  | m0Store (a w : Nat) (v : Word)
  | m0StoreV (a : Nat) (v : QVec)
  | shLoad (hm ofs w : Nat) (signed : Bool) (r : Nat)
  | shStore (hm ofs w : Nat) (v : Word)
  | mmode (hm : Nat) (compute : Bool) (fmt : FmtN) (w : Word)
  | mclr (hm : Nat)
  | mpmask (hm : Nat) (m : Nat)
  | mpush (hm : Nat) (fmt : FmtN) (plane seg : Nat) (v sc : QVec)
  | mshift (hm : Nat)
  | macc (hm g : Nat)
  | bsumIn (hm : Nat) (b : Tab (BitVec 32)) (np : Nat) (lat : Option (FmtN × List Byte))
  | pxIn (hm : Nat) (px : Tab XA)
  | maccLand (row cb : Nat) (members : List Nat) (got : List (Nat × List XA))
  | mdrain (row : Nat) (ty : OutTy) (clr : Bool) (q : QN)
  | asrd (row g : Nat) (q : QN)
  | aswr (row g : Nat) (v : QVec)
  | drd (ch bank row col : Nat) (line : Nat) (bad : Bool) (dst : DPlace)
  | dwrRead (ch bank row col : Nat) (src : DPlace) (at_ : Nat)
  | dwrQ (ch bank row col : Nat) (v : Nat)
  | mtLeaf (t : TreeN) (l : List (Nat × Nat))
  | mtLevel (t : TreeN) (level : Nat) (leaves : List (Nat × Nat)) (l : List Nat)
  | mtClr (t : TreeN)
  | mtHor (t : TreeN) (h : Nat)
  | mtQ (t : TreeN) (x : MtQuery)
  deriving DecidableEq, Repr

/-- A delayed action: its cycle, the issue cycle, pipe and bundle of its word (R69 to R71, R212). -/
structure Pend where
  due   : Nat
  issue : Nat
  pipe  : Nat
  bun   : BRef
  act   : Act
  deriving DecidableEq, Repr

/-- What an outstanding access does at its home (R168 to R173, R311 to R315). -/
inductive AccOp where
  | load (w : Nat) (signed : Bool) (r : Nat)
  | loadV (q : QN)
  | gather (w : Nat) (q : QN)
  | store
  | atom (fn w : Nat) (y : Word) (cmp : Word) (signed : Bool) (r : Nat)
  | orv
  | kvlook (key : Word) (r : Nat)
  | kvref (key : Word) (r : Nat)
  | kvgath (key : Word) (n : Nat) (q : QN)
  | kvapp (key : Word) (kv vv : QVec)
  | kvshr (key dst : Word)
  | kvrel (key : Word)
  | fence
  | none
  deriving DecidableEq, Repr

/-- One separately performed part of an access: its element index, address, length and data (R83, R84, R171). -/
structure Part where
  idx  : Nat
  va   : Nat
  len  : Nat
  data : Nat
  done : Bool
  got  : Nat
  deriving DecidableEq, Repr

/-- An M2, berth or remote-shaft access that was issued and is not yet released (R79 to R90). -/
structure Acc where
  id    : Nat
  issue : Nat
  pipe  : Nat
  bun   : BRef
  m1    : Bool
  op    : AccOp
  ord   : MOrd
  scp   : MScp
  parts : List Part
  walk  : Bool
  done  : Bool
  result : Word
  /-- A gather that holds a move: the source address it reads from (R312). -/
  src   : Option (Nat × Nat)
  /-- A remote access that met an interface without its repair: it performs after the resume (R214, R247). -/
  stuck : Bool
  /-- The cycle at which word of an access performed on another die is back at the tile's (R87). -/
  back  : Nat
  deriving DecidableEq, Repr

/-- What holds the issue of a tile (R106, R137, R176, R178); a B word and a memory word of one bundle may each hold it. -/
inductive Wait where
  | none
  | joint (cyc : Nat) (bun : BRef)
  | waitc (cyc : Nat) (bun : BRef)
  | drain (p : DrainPath) (since : Nat) (upTo : Nat) (bun : BRef)
  | barw (level inst b : Nat) (since : Nat) (bun : BRef)
  deriving DecidableEq, Repr

/-- An active hardware loop (R134): counter, first and last packet, rotating, epilogue stages. -/
structure LoopSt where
  k     : Nat
  first : Nat
  last  : Nat
  rot   : Bool
  epi   : Nat
  deriving DecidableEq, Repr

/-- A taken branch in its delay bundles (R132): target word, its bundle, whether the target may be misaligned, and
the bundles left before the target issues. -/
structure BrSt where
  target : Nat
  bun    : BRef
  left   : Nat
  deriving DecidableEq, Repr

/-- The Pilot: cycle at which the present fill began, chosen successor, whether it has V = 1, READY (R130, R136). -/
structure Pilot where
  start : Nat
  busy  : Bool
  sel   : Bool
  none  : Bool
  ready : Bool
  deriving DecidableEq, Repr

/-- One logical tile: the state a task sees (R94), its place in time, and its fault registers (R203 to R205). -/
structure Tile where
  a      : Tab Word
  rs     : Nat
  rb     : Nat
  preds  : BitVec 16
  lc     : Tab (BitVec 32)
  loops  : List LoopSt
  queues : Tab (List QEnt)
  vm     : Tab (BitVec 512)
  sh     : Tab Shape
  kb     : Tab (BitVec 32)
  af     : Tab (BitVec 16)
  mt0    : MTree
  mt1    : MTree
  gens   : Tab Agen
  code   : List (List (BitVec 32))
  segs   : List Nat
  half   : Nat
  pc     : Nat
  pilot  : Pilot
  branch : Option BrSt
  /-- Delay slots of the last branch still to issue, taken or not (R133). -/
  delay  : Nat
  vstat  : Word
  pack   : List Nat
  sstat  : Word
  astat  : Word
  /-- Pending scalar destinations: physical register and the access that will write it (R72). -/
  pendR  : List (Nat × Nat)
  out    : List Acc
  elastic : Bool
  /-- The mode from the next bundle on, set by DRAIN, BARW and JOINT (log 14). -/
  modeNext : Option Bool
  /-- How many accesses the tile has issued; numbers them. -/
  nacc   : Nat
  /-- The bundle issued last was the last of the innermost loop's body (R134). -/
  loopEnd : Bool
  wait   : Wait
  /-- A DRAIN or BARW that holds issue: the wait of the third memory position (R176, R178). -/
  hold   : Wait
  next   : Nat
  started : Bool
  ended  : Bool
  cal    : List Pend
  /-- The bundle being issued and the pipes' words before it in this cycle. -/
  bun    : BRef
  tt     : Nat
  firmware : Bool
  /-- The cycle at which a resume lets a diverged JOINT complete, or a TRAP pass, and the cause that says which (R214). -/
  skip   : Option (Nat × Nat)
  tcause : Word
  tfpc   : Word
  tbpc   : Word
  taddr  : Word
  tcyc   : Word
  m0     : Memory
  acc    : Tab XA
  /-- The pushes of this cycle that first took a queue above 4 entries: queue, pipe, bundle (R71). -/
  spill  : List (Nat × Nat × BRef)
  deriving DecidableEq, Repr

/-! ## Shafts (R233 to R249) -/

/-- One half-macro: array, mode state, beat state. -/
structure Half where
  bytes  : Memory
  mode   : Bool
  fmt    : FmtN
  wscale : Word
  bsum   : Tab (BitVec 32)
  np     : Nat
  afmt   : FmtN
  asc    : Word
  pm     : Nat
  px     : Tab XA
  deriving DecidableEq, Repr

/-- A repair register VREP (R245). -/
structure Vrep where
  valid : Bool
  lanes : List Nat
  deriving DecidableEq, Repr

/-! ## Channels (R271 to R297) -/

/-- The commands of a channel (R285). -/
inductive DCmd where
  | act (b row : Nat) | pre (b : Nat) | prea | rd (b col : Nat) | wr (b col : Nat) | ref | refb (b : Nat) | other
  deriving DecidableEq, Repr

/-- Whose traffic the issuer of a channel serves (R18, R280): the parts of an outstanding access of a tile that perform together,
named by the first, a queue, a request that waits, a berth move, the digest engines at a joint of a timetable. -/
inductive Who where
  | acc (tile id part : Nat) | queue (q : Nat) | input (n : Nat) | move (k : Nat) | digest (tt joint : Nat)
  deriving DecidableEq, Repr

/-- A line of 64 bytes that a request moves: its place in the channel, and its column commands, true for a write. -/
structure ReqLine where
  bank : Nat
  row  : Nat
  col  : Nat
  cols : List Bool
  deriving DecidableEq, Repr

/-- A request at a channel: all the lines of the channel that its requester moves together (R280; log 20). -/
structure Req where
  who   : Who
  lines : List ReqLine
  deriving DecidableEq, Repr

/-- Bytes that an engine reads or writes. -/
structure Touch where
  place : Nat
  n     : Nat
  wr    : Bool
  deriving DecidableEq, Repr

/-- A channel's published timing (R26): the eighteen fields in their order, retention, fabric latencies, geometry. -/
structure Timing where
  fields : List Nat
  tret   : Nat
  fabrd  : Nat
  fabwr  : Nat
  banks  : Nat
  groups : Nat
  rows   : Nat
  cols   : Nat
  lp6    : Bool
  deriving DecidableEq, Repr

/-- One bank: open row, last command cycles, ephemeral state (R274, R278). -/
structure Bank where
  row   : Option Nat
  act   : Option Nat
  pre   : Option Nat
  rd    : Option Nat
  wr    : Option Nat
  refb  : Option Nat
  eph   : Bool
  limit : Nat
  expired : Bool
  byWin : Bool
  deriving DecidableEq, Repr

/-- The request that the window issuer is serving, and its commands that are still to come (R280). -/
structure Serve where
  req  : Req
  rest : List DCmd
  deriving DecidableEq, Repr

/-- One pseudo-channel or LP6 channel. -/
structure Chan where
  comp   : Option Nat
  t0     : Nat
  banks  : Tab Bank
  acts   : List (Nat × Nat)
  lastCol : Tab Nat
  data   : List Nat
  lastWr : Option Nat
  ref    : Option Nat
  refb   : Option Nat
  credit : Nat
  round  : List Nat
  win    : Option (Nat × Nat)
  /-- The bundle of the DWIN 0 that closed the window, its cycle and its tile's number (R281). -/
  closed : Option (Nat × BRef)
  /-- The requests of the window issuer, in their order of arrival (R91, R280). -/
  queue  : List Req
  serve  : Option Serve
  mode   : Tab Byte
  held   : List (Nat × Nat)
  /-- The commands of the hold's sequencer, last first, with clocks counted on from the frozen cycle (R282). -/
  seq    : List (Nat × DCmd)
  /-- The timetable whose ephemeral banks the channel has until it ends (R278). -/
  ephTt  : Option Nat
  handed : Bool
  deriving DecidableEq, Repr

/-! ## Memory and translation (R79, R166) -/

/-- Where a page is homed (R88, R350). -/
inductive Home where
  | here | host | peer (dev : Nat)
  deriving DecidableEq, Repr

/-- The page orders (R79). -/
inductive POrd where
  | so | rc | uo
  deriving DecidableEq, Repr

/-- The page sizes (R1). -/
inductive PgSize where
  | k64 | m2 | g1
  deriving DecidableEq, Repr

/-- A page of a table as a record: the table is named by the address of its top level (R349; log 7). -/
structure Page where
  root : Word
  va   : Nat
  size : PgSize
  pa   : Nat
  ord  : POrd
  wr   : Bool
  home : Home
  deriving DecidableEq, Repr

/-- The translation cache of a die: pinned entries with their timetable, filled entries, oldest first (R166). -/
structure Tcache where
  pinned : List (Nat × Page)
  filled : List Page
  deriving DecidableEq, Repr

/-! ## Timetables and domains (R16, R19) -/

/-- The states of a timetable slot (R19); Empty is the absence of the record. -/
inductive TtSt where
  | loaded | armed | running | frozen | ended | aborted
  deriving DecidableEq, Repr

/-- A loaded timetable: slot, partitions, image, launch data, completion record. -/
structure TT where
  slot  : Nat
  parts : List Nat
  st    : TtSt
  img   : List Byte
  ttid  : Word
  t0    : Nat
  dom   : Nat
  record : Option (Nat × Nat)
  after : Option Nat
  endTc : Nat
  firmware : Bool
  /-- Partitions whose slot a CTTLD.un has emptied while others of the timetable hold it still (R333). -/
  un    : List Nat
  deriving DecidableEq, Repr

/-- A timetable domain (R16, R282). -/
structure Dom where
  parts   : List Nat
  tc      : Nat
  frozen  : Bool
  faulted : Bool
  /-- The dies whose heat requests a hold, each with the cycle of its request (R30, R87, R282). -/
  holds   : List (Nat × Nat)
  /-- Frozen by a hold or thermal hold, to resume when its reason ends (R30). -/
  thermal : Bool
  live    : Bool
  /-- A digest wait holds the domain (R352). -/
  digest  : Bool
  /-- Frozen because its process's quantum ended (R337). -/
  preempted : Bool
  /-- Resume was refused, or decided against: the Harbour complex aborts it (R19, R215). -/
  doomed  : Bool
  /-- The hosts that decided to resume a divergence (R352). -/
  go      : List Nat
  deriving DecidableEq, Repr

/-- An open barrier episode (R178): level instance, barrier, participants, arrivals, the cycle Tc. -/
structure Episode where
  level : Nat
  inst  : Nat
  b     : Nat
  tt    : Nat
  dies  : List Nat
  parts : List Nat
  came  : List (Nat × Nat)
  tc    : Option Nat
  deriving DecidableEq, Repr

/-- The state that bundles of the current cycle may change and a precise fault restores (log 5). -/
structure Ckpt where
  dom   : Nat
  tiles : Tab Tile
  chans : Tab Chan
  eps   : List Episode
  deriving DecidableEq, Repr

/-- A snapshot of a timetable of a frozen domain (R210 to R212): its header fields, and what its sections hold as plain
data, half-macros by logical tile and macro throughout; the arrays are part of it when it is portable (log 29). -/
structure Snap where
  dom    : Nat
  tt     : Nat
  magic  : Nat
  layout : Nat
  tcf    : Nat
  t0     : Nat
  slice  : Nat
  profiles : Nat
  ndie   : Nat
  serial : Nat
  epoch  : Nat
  caps   : Tab Nat
  nfault : Nat
  primary : Nat
  ttid   : Word
  portable : Bool
  /-- FLAGS.FAULT: the domain record is valid. -/
  fault  : Bool
  /-- The partitions of the timetable, which R215 compares, and the open barrier episodes of its tiles. -/
  parts  : List Nat
  eps    : List Episode
  tiles  : Tab Tile
  chans  : Tab Chan
  shafts : Tab Half
  /-- The digest at OFS_DIG. -/
  digest : List Byte
  deriving DecidableEq, Repr

/-- The discovery table (R22 to R26). -/
structure Disc where
  serial  : Nat
  epoch   : Nat
  slice   : Nat
  profiles : Nat
  therm   : Nat
  dead    : List Nat
  /-- Logical identity to (SHAFTPH, HOST); unlisted: the identity (R24, R354). -/
  remap   : Tab (Nat × Nat)
  /-- The entry of each channel; unlisted: the typical figures of its kind (R26, R276). -/
  chans   : Tab Timing
  deriving DecidableEq, Repr

/-! ## Berth moves (R317) -/

/-- A move of a berth between tiers. -/
structure Move where
  part   : Nat
  n      : Nat
  pool   : Nat
  up     : Bool
  src    : Nat
  dst    : Nat
  hold   : Nat
  state  : Nat
  report : Nat
  q      : Nat
  /-- The bytes of the berth that have been copied, and the line that has been read and not yet written (R303, R317). -/
  pos    : Nat
  buf    : Option Nat
  deriving DecidableEq, Repr

/-! ## Quay queues (R324 to R331) -/

/-- Where a queue's next command word comes from (R330): the slot line, or a called buffer. -/
inductive CPlace where
  | slot (k : Nat) | buf (va : Nat)
  deriving DecidableEq, Repr

/-- What a queue's command in progress waits for: a CWAIT, a load with what it has read of its image, a copy with the line that it
has read and not yet written, a place for a move, a window or an earlier write. -/
inductive CWaitSt where
  | none
  | poll (cc : Nat) (d : Nat) (va : Nat) (val : Word) (left : Option Nat) (last : Word)
  | load (d : Nat) (va : Nat) (parts : Nat) (s : Nat) (got : List Byte)
  | copy (dst src left : Nat) (buf : Option Nat)
  | move
  | window
  deriving DecidableEq, Repr

/-- One command queue. -/
structure Queue where
  en    : Bool
  base  : Word
  nslot : Word
  qhm   : Word
  tail  : Nat
  head  : Nat
  err   : Nat
  word  : Nat
  st    : Nat
  erra  : Word
  c     : Tab Word
  /-- The return addresses of CCALL (R330). -/
  stack : List Nat
  line  : Option (List Nat)
  at_   : CPlace
  ir    : Word
  wait  : CWaitSt
  bad08 : Bool
  mapped : Bool
  deriving DecidableEq, Repr

/-- A partition (R349, R344, R303, R351). -/
structure Partn where
  pcfg   : Word
  ptroot : Word
  tbase  : Nat
  keys   : Tab (List Byte)
  /-- Replica record: peer device and partition, regions (die, base, length). -/
  rep    : Option (Nat × Nat × List (Nat × Nat × Nat))
  deriving DecidableEq, Repr

/-! ## The Harbour complex (R339 to R346) -/

/-- A region-table entry (R339). -/
structure Region where
  valid  : Bool
  base   : Nat
  len    : Nat
  rights : BitVec 4
  gen    : Byte
  deriving DecidableEq, Repr

/-- A process of a run list: its quantum in µs, its queues, the capability for its queue table (R337), and the regions of
the region table that are its own (R339). -/
structure Proc where
  quantum : Nat
  queues  : List Nat
  table   : BitVec 128
  regions : List Nat
  deriving DecidableEq, Repr

/-- The run list of a share group: its number in PCFG.GROUP, its processes, whose turn it is, and whether that turn is
over but for the commands in progress (R337, R349). -/
structure RunList where
  group : Nat
  procs : List Proc
  turn  : Nat
  ending : Bool
  deriving DecidableEq, Repr

/-- A firmware core (R338): the integer and the floating-point registers of RV64GC, its program counter, and the
capabilities that it holds, with their tags. -/
structure HcCore where
  x    : Tab Word
  f    : Tab Word
  fcsr : BitVec 32
  pc   : Word
  caps : Tab (BitVec 128 × Bool)
  deriving DecidableEq, Repr

/-- An entry of the error log. -/
inductive LogEnt where
  | corrected (where_ : Nat) | badRepair (shaft iface : Nat) | repaired (shaft iface lane : Nat)
  | capFault (core : Nat) | other (n : Nat)
  deriving DecidableEq, Repr

/-- The dump (R342): the fields of its header, and its length once it is written. -/
structure Dump where
  kind   : Nat
  core   : Nat
  cause  : Nat
  fpc    : Word
  fcap   : BitVec 128
  ftag   : Bool
  fsize  : Nat
  faddr  : Nat
  len    : Nat
  deriving DecidableEq, Repr

/-- The Harbour complex. -/
structure Harbour where
  meas    : List (BitVec 256)
  stages  : List (List Byte)
  /-- Some stage failed verification: only side-band inventory, health and reset are answered (R343). -/
  locked  : Bool
  /-- The digest of the key that verifies the first stage after the ROM, in fuses (R343). -/
  fuse    : BitVec 256
  regions : Tab Region
  fw      : Memory
  tags    : List Nat
  cores   : Tab HcCore
  runs    : List RunList
  log     : List LogEnt
  dump    : Option Dump
  halted  : Bool
  /-- A fatal error whose dump is still to be written: the domains freeze first (R341). -/
  dying   : Bool
  /-- The repair registers hold the fused record's lanes and have VALID set, where nothing else was written (R246). -/
  restored : Bool
  /-- Failing lanes that are still to be replaced: shaft, interface, lane (R247). -/
  badLanes : List (Nat × Nat × Nat)
  /-- Interfaces whose repair failed: shaft and interface (R247). -/
  lost    : List (Nat × Nat)
  /-- The anchorage regions that the CXL.mem window maps: offset in the window, physical address, length (R348). -/
  window  : List (Nat × Nat × Nat)
  /-- The device's identifier in its load-store domain (R350). -/
  device  : Nat
  deriving DecidableEq, Repr

/-- A digest exchange in progress (R351, R352). -/
structure Exch where
  dom   : Nat
  tt    : Nat
  joint : Nat
  upTo  : Nat
  mine  : Option (List Byte)
  done  : Bool
  equal : Bool
  /-- What the digest engines have read so far, line by line. -/
  read  : List Byte
  deriving DecidableEq, Repr

/-- What the device sends to the outside. -/
inductive OutMsg where
  | msix (v : Nat)
  | sideband (cmd : Nat) (data : List Byte)
  | quote (data : List Byte)
  | divergence (dom : Nat)
  | cxlRead (addr : Nat) (data : List Byte)
  | cxlWriteDone (addr : Nat)
  | linkData (dev tag : Nat) (data : List Byte)
  | linkReplay (port : Nat)
  | digests (dom : Nat) (peers : List (Nat × Nat)) (data : List Byte)
  | mctp (data : List Byte)
  deriving DecidableEq, Repr

/-! ## What happens next -/

/-- The operands of an engine step or outside event. -/
structure EvArgs where
  a : Nat
  b : Nat
  c : Nat
  v : Word
  flag : Bool
  bytes : List Byte
  bytes2 : List Byte
  list : List (Nat × Nat × Nat)
  cap : BitVec 128
  cap2 : BitVec 128
  /-- The request has waited for its windows under this number, and goes on (R18). -/
  go   : Option Nat
  /-- A snapshot image brought in from outside (R216). -/
  snap : Option Snap
  deriving DecidableEq, Repr

/-- No operands. -/
def EvArgs.zero : EvArgs := ⟨0, 0, 0, 0, false, [], [], [], 0, 0, none, none⟩

/-- A request that waits for windows of its channels: its number, what it is, what it touches, and the source with whose
requests it keeps its order (R18, R350). -/
structure Waiting where
  n   : Nat
  i   : Instr
  x   : EvArgs
  l   : List Touch
  src : Option Nat
  deriving DecidableEq, Repr

/-- What a step does next: an engine step, a tile to issue its bundle, a further word of a bundle, the checkpoint
before the bundles, the end of the bundles and of the cycle, a queue to execute its next command word. -/
inductive Work where
  | ev (i : Instr) (x : EvArgs)
  | issue (tile : Nat)
  | word (tile pipe : Nat) (i : Instr)
  | ckpt (dom : Nat)
  | close (dom : Nat)
  | last (dom : Nat)
  | cmd (q : Nat)
  deriving DecidableEq, Repr

/-- Reasons a step can stop with a fault. -/
inductive Fault where
  /-- The state's agenda names a tile outside the package (logical identity 768 or above, R12). Raised by `step`
  only, in states that no run reaches; safe. -/
  | noSuchTile
  deriving DecidableEq, Repr

/-- Reasons a step has no meaning. -/
inductive Refusal where
  /-- The instruction has no meaning yet; raised by the dispatcher's arm of that name; safe. -/
  | notModelled (mnemonic : String)
  deriving DecidableEq, Repr

/-- The whole machine. -/
structure State where
  /-- The tile and the pipe (R203) whose word is being executed. -/
  cur    : Nat
  pipe   : Nat
  ev     : EvArgs
  free   : Nat
  agenda : List Work
  inputs : List (Instr × EvArgs)
  /-- Requests from outside the timetables that wait for a window of their channel, oldest first, each under a number of
  its own (R18). -/
  waiting : List Waiting
  nwait  : Nat
  /-- Lines that the issuers of compiled channels have moved for a requester which has not yet used them (R280). -/
  grants : List (Who × Nat)
  ckpt   : Option Ckpt
  tiles  : Tab Tile
  halves : Tab Half
  vreps  : Tab Vrep
  /-- The fused repair record: LANE0 to LANE3 of each interface (R245). -/
  fused  : Tab (List Nat)
  smaps  : Tab (BitVec 128)
  chans  : Tab Chan
  mem    : Memory
  pages  : List Page
  caches : Tab Tcache
  tts    : Tab TT
  doms   : Tab Dom
  eps    : List Episode
  snaps  : List Snap
  disc   : Disc
  queues : Tab Queue
  parts  : Tab Partn
  moves  : Tab Move
  hc     : Harbour
  temps  : Tab Nat
  exchs  : List Exch
  ecc    : List (Nat × Nat)
  wallNs : Nat
  lanes  : Nat
  ports  : List Nat
  routes : List (Nat × List Nat)
  out    : List OutMsg
  deriving DecidableEq, Repr

/-! ## Defaults: what an unlisted entry of each table reads as -/

def BRef.zero : BRef := ⟨0, 0, 0⟩
def Shape.none : Shape := ⟨[]⟩
def Agen.idle : Agen := ⟨0, 0, 0, 0, 0, 0, 0, .none, none, none⟩
def MTree.clear : MTree := ⟨[], 32768⟩
def Pilot.off : Pilot := ⟨0, false, false, false, false⟩
/-- A tile at power-on (log 1): as at task start (R104), but without a task. TCAUSE has PIPE 0xF (R203); the lanes of
vm0 and the value of p0 are fixed by their readers. -/
def Tile.reset : Tile :=
  { a := [], rs := 0, rb := 0, preds := 0, lc := [], loops := [], queues := [], vm := [], sh := [], kb := [], af := [],
    mt0 := MTree.clear, mt1 := MTree.clear, gens := [], code := [], segs := [], half := 0, pc := 0, pilot := Pilot.off,
    branch := none, delay := 0, vstat := 0, pack := [], sstat := 0, astat := 0, pendR := [], out := [],
    elastic := false, modeNext := none, nacc := 0, loopEnd := false, wait := .none, hold := .none, next := 0, started := false, ended := false,
    cal := [], bun := BRef.zero, tt := 0, firmware := false, skip := none,
    tcause := 0x0000000000F00000, tfpc := 0, tbpc := 0, taddr := 0, tcyc := 0, m0 := [], acc := [], spill := [] }
/-- A half-macro after reset (R244, R249). -/
def Half.reset : Half :=
  { bytes := [], mode := false, fmt := 0, wscale := 0, bsum := [], np := 0, afmt := 0, asc := 0x7F7F7F7F7F7F7F7F,
    pm := 8, px := [] }
/-- The lanes of an interface without a failing lane. -/
def noLanes : List Nat := [0x3FFF, 0x3FFF, 0x3FFF, 0x3FFF]
/-- A repair register at reset: VALID is 0 (R245). -/
def Vrep.reset : Vrep := ⟨false, noLanes⟩
def Bank.idle : Bank := ⟨none, none, none, none, none, none, false, 0, false, false⟩
def Chan.idle : Chan :=
  { comp := none, t0 := 0, banks := [], acts := [], lastCol := [], data := [], lastWr := none, ref := none, refb := none,
    credit := 0, round := [], win := none, closed := none, queue := [], serve := none, mode := [], held := [], seq := [], ephTt := none, handed := false }
def Tcache.empty : Tcache := ⟨[], []⟩
def TT.none : TT := ⟨0, [], .aborted, [], 0, 0, 0, Option.none, Option.none, 0, false, []⟩
def Dom.none : Dom := ⟨[], 0, false, false, [], false, false, false, false, false, []⟩
def Queue.off : Queue :=
  { en := false, base := 0, nslot := 0, qhm := 0, tail := 0, head := 0, err := 0, word := 0, st := 0, erra := 0, c := [],
    stack := [], line := none, at_ := .slot 0, ir := 0, wait := .none, bad08 := false, mapped := true }
def Partn.reset : Partn := ⟨0, 0, 0, [], none⟩
def Move.none : Move := ⟨0, 0, 0, false, 0, 0, 0, 0, 0, 0, 0, .none⟩
def HcCore.reset : HcCore := ⟨[], [], 0, 0, []⟩
def Region.none : Region := ⟨false, 0, 0, 0, 0⟩
/-- Every physical site live except the thermal vias of rows 3 and 4 (R230); the key is 4 × (132 × die + shaft) + layer. -/
def smapReset (k : Nat) : BitVec 128 :=
  let sh := k / 4 % 132
  if sh / 16 = 3 ∨ sh / 16 = 4 then BitVec.allOnes 128 ^^^ (0xFFFF#128 <<< 56) else BitVec.allOnes 128

/-- The typical figures of R276. -/
def hbmTypical : Timing :=
  { fields := [27, 27, 55, 82, 4, 6, 21, 1, 2, 30, 6, 8, 45, 12, 2730, 250, 140, 21840], tret := 22400000, fabrd := 9,
    fabwr := 7, banks := 16, groups := 4, rows := 65536, cols := 16, lp6 := false }
def lp6Typical : Timing :=
  { fields := [13, 13, 30, 43, 4, 4, 21, 2, 4, 24, 6, 9, 25, 13, 2730, 196, 98, 21840], tret := 22400000, fabrd := 14,
    fabwr := 12, banks := 16, groups := 4, rows := 1048576, cols := 32, lp6 := true }
/-- The typical entry of a channel. -/
def chanTypical (ch : Nat) : Timing := if ch < 768 then hbmTypical else lp6Typical
/-- The discovery table as bring-up builds it here (log 10). -/
def Disc.reset : Disc :=
  { serial := 0, epoch := 0, slice := 1, profiles := 0x1E, therm := 7, dead := [0, 0, 0, 0, 0, 0], remap := [], chans := [] }
/-- The capability of region 0 with every right and KIND 0 (R339). -/
def rootCap : BitVec 128 := BitVec.ofNat 128 (15 * 2 ^ 120 + 2 ^ 32)
/-- The firmware cores at bring-up: the boot ROM, which runs on HC2, holds the only capability (R338, R339; log 23). -/
def bootCores : Tab HcCore := [(2, { HcCore.reset with caps := [(0, (rootCap, true))] })]
/-- The Harbour complex after reset: region 0 covers firmware memory with every right and KIND 0 (R339); its length
is the model's (log 1). -/
def Harbour.reset : Harbour :=
  { meas := [0, 0, 0, 0], stages := [], locked := false, fuse := 0, regions := [(0, ⟨true, 0, 2 ^ 32, 15, 0⟩)], fw := [], tags := [],
    cores := bootCores, runs := [], log := [], dump := none, halted := false, dying := false, restored := false, badLanes := [], lost := [], window := [],
    device := 0 }

/-- The machine right after reset. -/
def State.reset : State :=
  { cur := 0, pipe := 0, ev := EvArgs.zero, free := 0, agenda := [], inputs := [], waiting := [], nwait := 0, grants := [], ckpt := none, tiles := [],
    halves := [], vreps := [], fused := [], smaps := [], chans := [], mem := [], pages := [], caches := [], tts := [], doms := [],
    eps := [], snaps := [], disc := Disc.reset, queues := [], parts := [], moves := [], hc := Harbour.reset, temps := [],
    exchs := [], ecc := [], wallNs := 0, lanes := 16, ports := List.range 18, routes := [], out := [] }

end Sys2Proof.Machine
end

