-- ==== Sys2Proof/Machine/Ops.lean ====
section
/-! DEFINITION. The named operations over the state: tiles and their time, registers (R94 to R97), queues (R71,
R98, R169), delayed actions (R69, R70), pages (R166), shafts (R229 to R246), and taking a fault (R201 to R208), which
every exception of the machine goes through, with its return. -/

namespace Sys2Proof.Machine

/-! ## Tables of the state -/

def tileOf (s : State) (id : Nat) : Tile := tabGet Tile.reset s.tiles id
def setTile (s : State) (id : Nat) (t : Tile) : State := { s with tiles := tabSet Tile.reset s.tiles id t }
def updTile (s : State) (id : Nat) (f : Tile → Tile) : State := setTile s id (f (tileOf s id))
def halfOf (s : State) (k : Nat) : Half := tabGet Half.reset s.halves k
def setHalf (s : State) (k : Nat) (h : Half) : State := { s with halves := tabSet Half.reset s.halves k h }
def chanAt (s : State) (k : Nat) : Chan := tabGet Chan.idle s.chans k
def setChan (s : State) (k : Nat) (c : Chan) : State := { s with chans := tabSet Chan.idle s.chans k c }
def ttOf (s : State) (k : Nat) : TT := tabGet TT.none s.tts k
def setTt (s : State) (k : Nat) (x : TT) : State := { s with tts := tabSet TT.none s.tts k x }
def domAt (s : State) (k : Nat) : Dom := tabGet Dom.none s.doms k
def setDom (s : State) (k : Nat) (d : Dom) : State := { s with doms := tabSet Dom.none s.doms k d }
def queueAt (s : State) (k : Nat) : Queue := tabGet Queue.off s.queues k
def setQueue (s : State) (k : Nat) (q : Queue) : State := { s with queues := tabSet Queue.off s.queues k q }
def partAt (s : State) (k : Nat) : Partn := tabGet Partn.reset s.parts k
def setPart (s : State) (k : Nat) (p : Partn) : State := { s with parts := tabSet Partn.reset s.parts k p }
def cacheAt (s : State) (die : Nat) : Tcache := tabGet Tcache.empty s.caches die
def setCache (s : State) (die : Nat) (c : Tcache) : State := { s with caches := tabSet Tcache.empty s.caches die c }
def moveAt (s : State) (k : Nat) : Move := tabGet Move.none s.moves k
def setMove (s : State) (k : Nat) (m : Move) : State := { s with moves := tabSet Move.none s.moves k m }

/-- The tile whose word is being executed. -/
def me (s : State) : Tile := tileOf s s.cur
/-- The state with that tile changed. -/
def onMe (s : State) (f : Tile → Tile) : State := updTile s s.cur f
/-- A fresh free value, and the state that has used it (log 6). -/
def draw (s : State) : Nat × State := (Config.free s.free, { s with free := s.free + 1 })
/-- A fresh free byte. -/
def drawByte (s : State) : Byte × State := (Config.freeByte s.free, { s with free := s.free + 1 })
/-- Puts work before the rest of the agenda. -/
def before (w : List Work) (s : State) : State := { s with agenda := w ++ s.agenda }
/-- Sends a message to the outside. -/
def send (m : OutMsg) (s : State) : State := { s with out := s.out ++ [m] }

/-! ## Places in the package (R12, R16, R26, R271) -/

def dieOf (id : Nat) : Nat := id / 128
def rowOf (id : Nat) : Nat := id % 128 / 16
def colOf (id : Nat) : Nat := id % 16
/-- The quadrant of a tile (R12). -/
def quadOf (id : Nat) : Nat := rowOf id / 4 * 2 + colOf id / 8
/-- The partition of a tile: one quadrant, numbered 4 × die + quadrant (R12, R349). -/
def partOf (id : Nat) : Nat := 4 * dieOf id + quadOf id
/-- The channel of a tile's D slot: its pseudo-channel, or its LP6 channel (R26, R271). -/
def dChan (id : Nat) (lp : Bool) : Nat := if lp then 768 + 8 * dieOf id + colOf id / 2 else id
/-- The tile owns an LP6 channel (R11). -/
def ownsLp (id : Nat) : Bool := rowOf id = 0 && colOf id % 2 = 0
/-- The tile that owns a channel. -/
def chanOwner (ch : Nat) : Nat := if ch < 768 then ch else (ch - 768) / 8 * 128 + 2 * ((ch - 768) % 8)

/-! ## Time -/

/-- The domain of a tile. -/
def domOf (s : State) (id : Nat) : Nat := (ttOf s (tileOf s id).tt).dom
/-- TC of a tile's domain. -/
def tcAt (s : State) (id : Nat) : Nat := (domAt s (domOf s id)).tc
/-- TC at which the word being executed issues. -/
def now (s : State) : Nat := tcAt s s.cur
/-- T0 of a tile's timetable. -/
def t0At (s : State) (id : Nat) : Nat := (ttOf s (tileOf s id).tt).t0
/-- CYC of the word being executed: TC − T0 (R108). -/
def cyc (s : State) : Nat := now s - t0At s s.cur
/-- The tiles that have a task of the domain, from the start of its timetable on. -/
def domTiles (s : State) (d : Nat) : List Nat :=
  (s.tiles.filter (fun p => p.2.tt != 0 && (ttOf s p.2.tt).dom = d)).map (·.1)

/-! ## Timetable images (R50, R102, R332) -/

/-- The n bytes at offset o of an image, little-endian. -/
def imgLE (img : List Byte) (o : Nat) : Nat → Nat
  | 0 => 0
  | n + 1 => imgLE img o n + (img.getD (o + n) 0).toNat * 256 ^ n
/-- The joint entry n: cycle, defined, hold, digest (R332). -/
def jointEntry (img : List Byte) (n : Nat) : Nat × Bool × Bool × Bool :=
  let x := imgLE img (imgLE img 0x1C 4 + 8 * n) 8
  (x % 2 ^ 32, x / 2 ^ 32 % 2 = 1, x / 2 ^ 33 % 2 = 1, x / 2 ^ 34 % 2 = 1)
/-- The hierarchy entry h: domain code and scope code; none when not declared (R177). -/
def hierEntry (img : List Byte) (h : Nat) : Option (Nat × Nat) :=
  let x := imgLE img (imgLE img 0x20 4 + 4 * h) 4
  if x % 256 = 0xFF then none else some (x % 256, x / 256 % 256)
/-- The owner of a wheel position: the record index, none for 0xFFFF (R82, R332). -/
def wheelOwner (img : List Byte) (p : Nat) : Option Nat :=
  let x := imgLE img (imgLE img 0x24 4 + 2 * p) 2
  if x = 0xFFFF then none else some x
/-- The number of task records, and the offset of record i (R102, R332). -/
def nTask (img : List Byte) : Nat := imgLE img 0x0C 4
def taskOfs (img : List Byte) (i : Nat) : Nat := imgLE img 0x10 4 + 32 * i
/-- The logical identity of record i (R102). -/
def taskTile (img : List Byte) (i : Nat) : Nat :=
  imgLE img (taskOfs img i) 1 * 128 + imgLE img (taskOfs img i + 1) 1
/-- The start cycle of record i (R102). -/
def taskStart (img : List Byte) (i : Nat) : Nat := imgLE img (taskOfs img i + 4) 4
/-- The tiles of the timetable. -/
def taskTiles (img : List Byte) : List Nat := (List.range (nTask img)).map (taskTile img)
/-- Word w of packet p of the code image (R332). -/
def codeWord (img : List Byte) (p w : Nat) : Nat := imgLE img (imgLE img 0x14 4 + 12 * p + 4 * w) 4
/-- NPK of the segment whose header packet is p (R50). -/
def segNpk (img : List Byte) (p : Nat) : Nat := codeWord img p 0 % 128
/-- The successor n of a segment: none when its V bit is 0 (R50). -/
def segNext (img : List Byte) (p : Nat) (n1 : Bool) : Option Nat :=
  let x := codeWord img p (if n1 then 2 else 1)
  if x / 2 ^ 31 % 2 = 1 then some (x % 2 ^ 20) else none
/-- The code words of a segment, as the Pilot loads them (R33, R50). -/
def segWords (img : List Byte) (p : Nat) : List (BitVec 32) :=
  (List.range (3 * segNpk img p)).map (fun i => BitVec.ofNat 32 (codeWord img (p + 1 + i / 3) (i % 3)))
/-- The slice factor of the timetable (R107). -/
def imgSlice (img : List Byte) : Nat := imgLE img 6 1

/-! ## Scalar registers (R94 to R97) -/

/-- The physical register that a name denotes (R95). -/
def physReg (t : Tile) (n : Nat) : Nat :=
  if 32 ≤ n ∧ n < 32 + t.rs then 32 + (n - 32 + t.rb) % t.rs else n
/-- The value of a named register; a0 reads 0. -/
def rdReg (t : Tile) (r : Reg) : Word := if r = 0 then 0 else tabGet 0 t.a (physReg t r.toNat)
/-- Writes a physical register; register 0 stays 0. -/
def wrPhys (t : Tile) (r : Nat) (v : Word) : Tile := if r = 0 then t else { t with a := tabSet 0 t.a r v }
/-- A predicate; p0 reads true. -/
def rdPred (t : Tile) (p : PredN) : Bool := p == 0 || t.preds.getLsbD p.toNat
/-- Writes a predicate; p0 ignores writes. -/
def wrPred (t : Tile) (p : PredN) (b : Bool) : Tile :=
  if p = 0 then t
  else { t with preds := (t.preds &&& ~~~(1#16 <<< p.toNat)) ||| (if b then 1#16 <<< p.toNat else 0) }
/-- A mask; vm0 reads all ones. -/
def rdMask (t : Tile) (m : MaskN) : BitVec 512 := if m = 0 then BitVec.allOnes 512 else tabGet 0 t.vm m.toNat
/-- Writes a mask; vm0 ignores writes. -/
def wrMask (t : Tile) (m : MaskN) (v : BitVec 512) : Tile := if m = 0 then t else { t with vm := tabSet 0 t.vm m.toNat v }
/-- A loop counter. -/
def rdLc (t : Tile) (k : Nat) : BitVec 32 := tabGet 0 t.lc k
def wrLc (t : Tile) (k : Nat) (v : BitVec 32) : Tile := { t with lc := tabSet 0 t.lc k v }
/-- A constant-bank entry. -/
def rdKb (t : Tile) (k : Nat) : BitVec 32 := tabGet 0 t.kb k
/-- An af register. -/
def rdAf (t : Tile) (k : Nat) : BitVec 16 := tabGet 0 t.af k
/-- An address generator. -/
def agOf (t : Tile) (k : Nat) : Agen := tabGet Agen.idle t.gens k
def setAg (t : Tile) (k : Nat) (g : Agen) : Tile := { t with gens := tabSet Agen.idle t.gens k g }
/-- A shape entry. -/
def shapeOf (t : Tile) (k : ShapeN) : Shape := tabGet Shape.none t.sh k.toNat

/-! ## Queues (R71, R98, R169) -/

/-- The entries of a queue. -/
def qOf (t : Tile) (q : QN) : List QEnt := tabGet [] t.queues q.toNat
def setQ (t : Tile) (q : QN) (l : List QEnt) : Tile := { t with queues := tabSet [] t.queues q.toNat l }
/-- A push enters at the tail. -/
def pushQ (t : Tile) (q : QN) (v : QVec) : Tile := setQ t q (qOf t q ++ [⟨none, v⟩])
/-- A push that lands: the one that first takes the queue above 4 entries in its cycle is noted (R71). -/
def landQ (t : Tile) (q : QN) (v : QVec) (pipe : Nat) (b : BRef) : Tile :=
  let t := pushQ t q v
  if (qOf t q).length > 4 ∧ ¬ t.spill.any (fun o => o.1 = q.toNat) then { t with spill := t.spill ++ [(q.toNat, pipe, b)] } else t
/-- The queue is a generator's port (R98). -/
def isPort (t : Tile) (q : QN) : Bool := t.gens.any (fun p => p.2.port == some q.toNat)
/-- Takes the sources in order, popping or peeking; none when an entry is absent. -/
def takeQs (t : Tile) : List QSrc → Option (List QVec × Tile)
  | [] => some ([], t)
  | x :: rest =>
    match qOf t x.q with
    | [] => none
    | e :: more =>
      if e.resv.isSome then none else
      match takeQs (if x.pk then t else setQ t x.q more) rest with
      | none => none
      | some (vs, t') => some (e.val :: vs, t')

/-! ## Delayed actions (R69, R70) -/

/-- Whether an action comes before another of its cycle: earlier issue, then earlier pipe (R70, R71). -/
def pendBefore (x y : Pend) : Bool := x.issue < y.issue || (x.issue = y.issue && x.pipe ≤ y.pipe)
/-- Inserts an action in that order, after its equals. -/
def insertPend (x : Pend) : List Pend → List Pend
  | [] => [x]
  | y :: ys => if pendBefore y x then y :: insertPend x ys else x :: y :: ys
def addPend (t : Tile) (x : Pend) : Tile := { t with cal := insertPend x t.cal }
/-- Schedules an action of the word being executed at issue + lat. The sum is not reduced modulo 2^64: what is due after the
last value of TC is never due (log 18). -/
def later (s : State) (lat : Nat) (x : Act) : State :=
  onMe s (fun t => addPend t ⟨now s + lat, now s, s.pipe, t.bun, x⟩)
/-- A scalar result: the destination is resolved at issue, a0 is discarded (R95, R119). -/
def landReg (s : State) (d : Reg) (lat : Nat) (v : Word) : State :=
  if d = 0 then s else later s lat (.reg (physReg (me s) d.toNat) v)
/-- A predicate result; p0 is discarded (R119). -/
def landPred (s : State) (d : PredN) (lat : Nat) (b : Bool) : State :=
  if d = 0 then s else later s lat (.pred d b)
/-- A mask result; vm0 is discarded (R41). -/
def landMask (s : State) (d : MaskN) (lat : Nat) (v : BitVec 512) : State :=
  if d = 0 then s else later s lat (.mask d v)
/-- A queue result. -/
def landPush (s : State) (q : QN) (lat : Nat) (v : QVec) : State := later s lat (.push q v)

/-! ## Taking a fault (R201 to R208) -/

/-- A fault found: cause, subcode, TRAP code, failing address. -/
structure Trap where
  cause : Nat
  sub   : Nat
  code  : Nat
  addr  : Word
  deriving DecidableEq, Repr

/-- TFPC or TBPC naming a bundle (R204): WORD has eight bits, and a misaligned target above them keeps its low ones (log 16). -/
def pcWord (b : BRef) : Word := BitVec.ofNat 64 (2 ^ 63 + b.seg * 512 + b.half * 256 + b.word % 256)
/-- TCAUSE (R203). -/
def causeWord (x : Trap) (pipe : Nat) : Word :=
  BitVec.ofNat 64 (x.code % 2 ^ 16 * 2 ^ 48 + x.sub % 256 * 2 ^ 32 + pipe % 16 * 2 ^ 20 + x.cause % 256)
/-- The cause that a tile records. -/
def causeOf (t : Tile) : Nat := t.tcause.toNat % 256

/-- Marks a domain as faulted: it freezes at the next boundary. -/
def markFault (s : State) (d : Nat) : State := setDom s d { domAt s d with faulted := true }

/-- Records a fault in a tile: a cause already recorded with a lower or equal code stays (R208). -/
def recordTrap (x : Trap) (pipe : Nat) (b : BRef) (tb : Option BRef) (t : Tile) : Tile :=
  if causeOf t ≠ 0 ∧ causeOf t ≤ x.cause then t
  else { t with tcause := causeWord x pipe, tfpc := pcWord b, tbpc := (match tb with | some r => pcWord r | none => 0),
                taddr := x.addr }

/-- TAKING AN EXCEPTION: the tile records the cause, the faulting bundle in TFPC (and, for a misaligned branch target,
the branch in TBPC), the failing address in TADDR, and its domain freezes: no bundle of it issues from this cycle on,
the bundles of this cycle have no effect (TC_TICK restores the state before them), TCYC gets the freeze cycle (R206). -/
def takeTrap (x : Trap) (pipe : Nat) (b : BRef) (tb : Option BRef) (id : Nat) (s : State) : State :=
  markFault (updTile s id (recordTrap x pipe b tb)) (domOf s id)

/-- The fault of the word being executed. -/
def trapHere (x : Trap) (s : State) : State := takeTrap x s.pipe (me s).bun none s.cur s

/-- The return from a freeze at cycle tc, per tile (R214): the fault registers go back to their values without a fault
(log 32); the TRAP, or the diverged JOINT, that froze the tile passes when its bundle issues again at tc; a remote access that
met an interface without its repair may perform; what was on its way from another die has come (R87). -/
def clearTrap (tc : Nat) (t : Tile) : Tile :=
  { t with skip := if causeOf t = 0x18 ∨ causeOf t = 0x17 then some (tc, causeOf t) else none, tcause := 0x0000000000F00000, tfpc := 0, tbpc := 0,
           taddr := 0, tcyc := 0, out := t.out.map (fun x => { x with stuck := false, back := 0 }) }

/-- The lower cause of two, the first when equal (R208). -/
def worse (x y : Option Trap) : Option Trap :=
  match x, y with
  | none, y => y
  | x, none => x
  | some a, some b => if b.cause < a.cause then some b else some a
/-- The fault that a word with these checks reports (R208). -/
def worst : List (Option Trap) → Option Trap
  | [] => none
  | x :: r => worse x (worst r)

/-- A word: its checks, and its effect when none fails. -/
def doWord (s : State) (checks : List (Option Trap)) (effect : State → State) : Host.Outcome State Fault Refusal :=
  match worst checks with
  | some x => .next (trapHere x s)
  | none => .next (effect s)

/-! ## Checks shared by the words -/

def trapIf (b : Bool) (cause sub : Nat) (addr : Word) : Option Trap := if b then some ⟨cause, sub, 0, addr⟩ else none
/-- A place holds an uncorrectable error (R209): structure code, tile or other owner, entry index (log 30). -/
def eccBad (s : State) (code owner idx : Nat) : Bool := s.ecc.contains (code, owner * 2 ^ 32 + idx)
/-- The fault of a structure without addresses: its code and the entry (R205, R209). -/
def eccTrap (s : State) (code owner idx : Nat) : Option Trap :=
  trapIf (eccBad s code owner idx) 0x16 0 (BitVec.ofNat 64 (code * 2 ^ 56 + idx))
/-- The access was issued by an earlier bundle: the words of one bundle do not see each other's destinations (R34). -/
def issuedBefore (s : State) (id : Nat) : Bool := (me s).out.any (fun x => x.id = id && decide (x.issue < now s))
/-- The physical register is pending (R72). -/
def regPending (s : State) (r : Reg) : Bool :=
  (me s).pendR.any (fun p => p.1 = physReg (me s) r.toNat && issuedBefore s p.2)
/-- The queue holds a reservation of an earlier bundle: it is pending (R72). -/
def qPending (s : State) (q : QN) : Bool :=
  (qOf (me s) q).any (fun e => match e.resv with | some id => issuedBefore s id | none => false)
/-- A destination register: a timing fault when it is pending (R72). -/
def dstReg (s : State) (r : Reg) : Option Trap := trapIf (regPending s r) 5 4 0
/-- A source register (R72, R209). -/
def useReg (s : State) (r : Reg) : Option Trap :=
  worse (dstReg s r) (eccTrap s 6 s.cur (physReg (me s) r.toNat))
/-- A queue that a word pops, peeks or pushes: a timing fault when it is pending (R72). -/
def useQ (s : State) (q : QN) : Option Trap := trapIf (qPending s q) 5 4 0
/-- A queue destination: pending, or a port (R72, R98). -/
def dstQ (s : State) (q : QN) : Option Trap := worse (useQ s q) (trapIf (isPort (me s) q) 5 5 0)
/-- The sources hold the entries that the word takes (R71). -/
def haveQs (t : Tile) (l : List QSrc) : Option Trap := trapIf (takeQs t l).isNone 8 0 0
/-- Every queue source of a word: not pending, readable, present (R71, R72, R209). -/
def srcQs (s : State) (l : List QSrc) : List (Option Trap) :=
  haveQs (me s) l :: l.map (fun x => worse (useQ s x.q) (eccTrap s 6 s.cur (64 + x.q.toNat)))
/-- A word forbidden in elastic code (R105). -/
def rigidOnly (t : Tile) : Option Trap := trapIf t.elastic 5 1 0
/-- An illegal-instruction fault found at issue. -/
def illegalIf (b : Bool) : Option Trap := trapIf b 1 0 0

/-- A privileged word in a tile task (R48). -/
def privCheck (s : State) : Option Trap := trapIf (!(me s).firmware) 2 0 0

/-- Stage predicate of a guard (R42). -/
def guardOn (t : Tile) (g : Guard) : Bool := g == 0 || t.preds.getLsbD (7 + g.toNat)
/-- A guarded word: no effect at all when its guard is false (R42). -/
def guarded (s : State) (g : Guard) (k : Host.Outcome State Fault Refusal) : Host.Outcome State Fault Refusal :=
  if guardOn (me s) g then k else .next s

/-! ## Shafts (R165, R229 to R246) -/

/-- The physical shaft of a logical tile (R24). -/
def shaftOf (s : State) (id : Nat) : Nat := (tabGet (id % 128, id % 128) s.disc.remap id).1
/-- The physical tile that runs a logical tile (R24). -/
def hostOf (s : State) (id : Nat) : Nat := (tabGet (id % 128, id % 128) s.disc.remap id).2
/-- The key of a logical tile's shaft. -/
def shaftKey (s : State) (id : Nat) : Nat := 132 * dieOf id + shaftOf s id
/-- The site map of a shaft-layer, by 4 × shaft key + layer (R230). -/
def smapAt (s : State) (k : Nat) : Nat := (tabGet (smapReset k) s.smaps k).toNat
/-- The position of the (m+1)-th set bit from position p on; a number beyond every site where there is none (R231). -/
def nthSet (x : Nat) : Nat → Nat → Nat → Nat
  | 0, _, m => 2 ^ 20 + m
  | fuel + 1, p, m =>
    if x / 2 ^ p % 2 = 0 then nthSet x fuel (p + 1) m else if m = 0 then p else nthSet x fuel (p + 1) (m - 1)
/-- The physical site that a logical macro occupies (R231). -/
def siteOf (s : State) (k m : Nat) : Nat := nthSet (smapAt s k) 128 0 m
/-- The key of a half-macro of a logical tile's shaft: shaft, layer, site, half. -/
def hmKey (s : State) (id layer macro_ half : Nat) : Nat :=
  (shaftKey s id * 4 + layer) * 256 + 2 * siteOf s (shaftKey s id * 4 + layer) macro_ + half
/-- The layer of a half-macro key. -/
def hmLayer (k : Nat) : Nat := k / 256 % 4
/-- The logical macro of a half-macro key (R231). -/
def hmMacro (s : State) (k : Nat) : Nat := ones (smapAt s (k / 256) % 2 ^ (k / 2 % 128)) 128
/-- The logical macro count of a shaft-layer (R231). -/
def macroCount (s : State) (id layer : Nat) : Nat :=
  let live := ones (smapAt s (shaftKey s id * 4 + layer)) 128
  let nominal := if shaftOf s id / 16 = 3 ∨ shaftOf s id / 16 = 4 then 104 else 120
  if live < nominal then live else nominal
/-- The lanes of an interface in the fused record, by 4 × shaft key + interface (R245). -/
def fusedAt (s : State) (k : Nat) : List Nat := tabGet noLanes s.fused k
/-- A lane number that VREP may hold with VALID set (R245). -/
def laneOk (l : Nat) : Bool := !decide (9856 ≤ l ∧ l ≤ 16382)
/-- What an interface's register holds where nothing was written since the reset, or since firmware has copied the fused
record: the lanes are copied, and VALID is then set unless a lane's number forbids it (R245, R246). -/
def vrepStart (s : State) (k : Nat) : Vrep := if s.hc.restored then ⟨(fusedAt s k).all laneOk, fusedAt s k⟩ else Vrep.reset
/-- The repair register of an interface (R245). -/
def vrepAt (s : State) (k : Nat) : Vrep := tabGet (vrepStart s k) s.vreps k
def setVrep (s : State) (k : Nat) (v : Vrep) : State := { s with vreps := tabSet (vrepStart s k) s.vreps k v }
/-- Every interface from the control die to the layer is valid (R246). -/
def lanesOk (s : State) (id layer : Nat) : Bool :=
  (List.range (layer + 1)).all (fun k => (vrepAt s (shaftKey s id * 4 + k)).valid)

/-- An M1 address (R165). -/
structure M1Addr where
  rem   : Bool
  tgt   : Nat
  layer : Nat
  macro_ : Nat
  half  : Nat
  ofs   : Nat
  deriving DecidableEq, Repr
def m1Fields (a : Word) : M1Addr :=
  let x := a.toNat
  ⟨x / 2 ^ 39 % 2 = 1, x / 2 ^ 32 % 128, x / 2 ^ 23 % 4, x / 2 ^ 16 % 128, x / 2 ^ 15 % 2, x % 2 ^ 15⟩
/-- Bits outside the layout of R165. -/
def m1Outside (a : Word) : Bool :=
  a.toNat / 2 ^ 40 ≠ 0 || a.toNat / 2 ^ 25 % 2 ^ 7 ≠ 0 || (!(m1Fields a).rem && (m1Fields a).tgt ≠ 0)
/-- The tile whose shaft an M1 address of tile id names. -/
def m1Tile (id : Nat) (a : M1Addr) : Nat := if a.rem then 128 * dieOf id + a.tgt else id
/-- The half-macro that an M1 address of tile id names. -/
def m1Half (s : State) (id : Nat) (a : M1Addr) : Nat := hmKey s (m1Tile id a) a.layer a.macro_ a.half

/-- The half-macro that a pending action touches at its due cycle (R74, R250). -/
def actHalf : Act → Option Nat
  | .shLoad hm .. | .shStore hm .. | .mmode hm .. | .mclr hm | .mpmask hm _ | .mpush hm .. | .mshift hm | .macc hm _ =>
    some hm
  | .drd _ _ _ _ _ _ (.sh hm _) => some hm
  | .dwrRead _ _ _ _ (.sh hm _) _ => some hm
  | _ => none
/-- The half-macro takes part in the quota at the action's due cycle (R241). -/
def actQuota : Act → Option Nat
  | .mpush hm .. | .mshift hm | .macc hm _ => some hm
  | _ => none
/-- The M0 address that a pending action touches at its due cycle (R74). -/
def actM0 : Act → Option Nat
  | .m0Load a .. | .m0LoadV a _ | .m0Store a .. | .m0StoreV a _ => some a
  | .drd _ _ _ _ _ _ (.m0 a) => some a
  | .dwrRead _ _ _ _ (.m0 a) _ => some a
  | _ => none
/-- The action is an update of the accumulation store (R258). -/
def actAs : Act → Bool
  | .maccLand .. | .aswr .. => true
  | _ => false

/-- The mode that a half-macro will hold at a cycle, the tile's pending mode switches counted (R239). -/
def modeAt (s : State) (t : Tile) (hm c : Nat) : Bool × FmtN :=
  t.cal.foldl (fun m p => match p.act with
    | .mmode h cmp f _ => if h = hm ∧ p.due < c then (cmp, if cmp then f else 0) else m
    | _ => m) ((halfOf s hm).mode, (halfOf s hm).fmt)

/-- The address of read s of a generator's walk (R183). -/
def agAddr (g : Agen) (k : Nat) : Int :=
  let n0 := g.n0.toNat
  let n1 := g.n1.toNat
  (g.base.toNat : Int) + g.s0.toInt * ((k % n0 : Nat) : Int) + g.s1.toInt * ((k / n0 % n1 : Nat) : Int)
    + g.s2.toInt * ((k / (n0 * n1) : Nat) : Int)
/-- The read that a running generator makes at a cycle: its index (R75, R183). -/
def agReadAt (g : Agen) (c : Nat) : Option Nat :=
  match g.run with
  | none => none
  | some r => if r.start ≤ c + 2 ∧ c + 2 - r.start < r.total then some (c + 2 - r.start) else none
/-- A generator over M0 reads the bank at the cycle (R74). -/
def agHitsM0 (t : Tile) (c bank : Nat) : Bool :=
  t.gens.any (fun p => p.2.space = .m0 && match agReadAt p.2 c with
    | some k => decide ((agAddr p.2 k).toNat / 131072 = bank)
    | none => false)
/-- A generator of a tile over the shaft reads the half-macro at the cycle. -/
def agHitsHm (s : State) (id c hm : Nat) : Bool :=
  (tileOf s id).gens.any (fun p => p.2.space = .shaft && match agReadAt p.2 c with
    | some k => decide (m1Half s id (m1Fields (BitVec.ofInt 64 (agAddr p.2 k))) = hm)
    | none => false)
/-- An M0 access at cycle c meets another of its bank (R74). -/
def m0Busy (s : State) (c a : Nat) : Bool :=
  let t := me s
  t.cal.any (fun p => decide (p.due = c) && (match actM0 p.act with | some b => decide (b / 131072 = a / 131072) | none => false))
    || agHitsM0 t c (a / 131072)
/-- A shaft access of a tile at cycle c meets another of its half-macro (R74, R239): one that is due, or a read that a running
generator has still to make unless it is stopped (R184; log 12). -/
def hmBusy (s : State) (id c hm : Nat) : Bool :=
  (tileOf s id).cal.any (fun p => decide (p.due = c) && actHalf p.act == some hm) || agHitsHm s id c hm
/-- The half-macros that take part at a cycle (R241). -/
def quotaAt (t : Tile) (c : Nat) : List Nat :=
  (t.cal.filterMap (fun p => if p.due = c then actQuota p.act else none)).eraseDups

/-! ## Pages (R79, R166) -/

/-- The bytes of a page (R1). -/
def pgBytes : PgSize → Nat
  | .k64 => 2 ^ 16
  | .m2 => 2 ^ 21
  | .g1 => 2 ^ 30
/-- The page of a table covers a virtual address. -/
def pageHas (root : Word) (va : Nat) (p : Page) : Bool :=
  p.root == root && decide (p.va ≤ va) && decide (va < p.va + pgBytes p.size)
/-- The table of a partition (R349). -/
def rootOf (s : State) (part : Nat) : Word := (partAt s part).ptroot
/-- The place from which the dump region stands: the last 8 GiB of the anchorage tier, whose 48 channels of 32 GiB follow the 768 of HBM4
(R341; log 8). -/
def dumpBase : Nat := 3263 * 2 ^ 33
/-- n bytes from a place touch the dump region. -/
def inDump (p n : Nat) : Bool := decide (p < dumpBase + 2 ^ 33 ∧ dumpBase < p + n)
/-- A page whose DEV names the device itself is homed here (R350). -/
def homePage (dev : Nat) (p : Page) : Page := if p.home = .peer dev then { p with home := .here } else p
/-- The page-table entry that translates an address, none into the dump region (R341); the discovery table stands in every partition (R22). -/
def pageOf (s : State) (part va : Nat) : Option Page :=
  if 0x00FFFF0000000000 ≤ va ∧ va < 0x00FFFF0000000000 + 2 ^ 21 then
    some ⟨rootOf s part, 0x00FFFF0000000000, .m2, 2 ^ 62, .so, false, .here⟩
  else (s.pages.find? (fun g => pageHas (rootOf s part) va g && !inDump g.pa (pgBytes g.size))).map (homePage s.hc.device)
/-- The bits above 56 equal bit 56 (R166). -/
def canonical (va : Nat) : Bool := va / 2 ^ 56 = 0 || va / 2 ^ 56 = 255
/-- The translation is pinned in the tile's die, or cached at all. -/
def isPinned (s : State) (die part va : Nat) : Bool := (cacheAt s die).pinned.any (fun p => pageHas (rootOf s part) va p.2)
def isCached (s : State) (die part va : Nat) : Bool :=
  isPinned s die part va || (cacheAt s die).filled.any (pageHas (rootOf s part) va)
/-- Host and peer memory stand at places of their own in `mem` (log 7). -/
def homeBase : Home → Nat
  | .here => 0
  | .host => 2 ^ 64
  | .peer d => 2 ^ 65 + d * 2 ^ 64
/-- The place in `mem` of a virtual address of a page. -/
def placeOf (p : Page) (va : Nat) : Nat := homeBase p.home + p.pa + (va - p.va)

end Sys2Proof.Machine
end

