-- ==== Sys2Proof/Machine/Operands.lean ====
section
/-! DEFINITION. Operand forms (R38, R39): how literals, constant-bank entries and immediates widen, and the shapes of
scalar words: sources read at issue, the destination written at issue + latency (R119). -/

namespace Sys2Proof.Machine

/-- The 32 bits of a literal or constant-bank operand. -/
def val32 (t : Tile) : Val → BitVec 32
  | .lit v => v
  | .kb k => rdKb t k.toNat
/-- A literal or constant-bank operand of a scalar word, sign-extended (R39). -/
def val64 (t : Tile) (v : Val) : Word := (val32 t v).signExtend 64
/-- A 14-bit immediate, sign-extended (R39). -/
def imm64 (i : Imm14) : Word := i.signExtend 64
/-- The FP32 pattern of a truncated-float immediate (R39). -/
def fimm32 (f : Fimm) : BitVec 32 := f ++ 0#12
/-- The same converted to BF16 at decode (R39). -/
def fimmBf16 (f : Fimm) : Nat := (fconv fbf16 .rne false (fdec fp32 (fimm32 f).toNat)).bits
/-- A register that a literal may replace, zero-extended where it is a literal. -/
def rlWord (t : Tile) : RegLit → Word
  | .reg r => rdReg t r
  | .lit v => v.zeroExtend 64
/-- The check of such an operand. -/
def rlUse (s : State) : RegLit → Option Trap
  | .reg r => useReg s r
  | .lit _ => none

/-- A scalar word: its sources and destination are not pending, its result lands at issue + lat (R119). -/
def sWord (s : State) (src : List Reg) (d : Reg) (lat : Nat) (v : Word) : Host.Outcome State Fault Refusal :=
  doWord s (dstReg s d :: src.map (useReg s)) (fun s => landReg s d lat v)
/-- A two-source scalar word. -/
def sBin (s : State) (d a b : Reg) (lat : Nat) (f : Word → Word → Word) : Host.Outcome State Fault Refusal :=
  sWord s [a, b] d lat (f (rdReg (me s) a) (rdReg (me s) b))
/-- A scalar word with a literal or constant-bank source. -/
def sVal (s : State) (d a : Reg) (v : Val) (lat : Nat) (f : Word → Word → Word) : Host.Outcome State Fault Refusal :=
  sWord s [a] d lat (f (rdReg (me s) a) (val64 (me s) v))
/-- A comparison that writes a predicate. -/
def sCmp (s : State) (src : List Reg) (d : PredN) (lat : Nat) (b : Bool) : Host.Outcome State Fault Refusal :=
  doWord s (src.map (useReg s)) (fun s => landPred s d lat b)

/-- A queue that a word pops: the destination of an accumulating form (R41, R138), the data of a store (R168). -/
def accSrc (d : QN) : QSrc := ⟨false, d⟩

end Sys2Proof.Machine
end

