-- ==== Sys2Proof/Machine/Flags.lean ====
section
/-! DEFINITION. Sticky flags (R57, R70, R130) and the special registers: their views (R97, R130, R140, R264) and what
a write does to each (R5). -/

namespace Sys2Proof.Machine

/-- The OF and NV bits of SSTAT and VSTAT. -/
def ofNv (ovf nv : Bool) : Word := (if ovf then 2 else 0) ||| (if nv then 1 else 0)
/-- The OF and NV bits of ASTAT (R264). -/
def ofNvA (ovf nv : Bool) : Word := (if ovf then 4 else 0) ||| (if nv then 2 else 0)
/-- Sets sticky flags at issue + lat. -/
def landFlags (s : State) (reg : SpecReg) (lat : Nat) (v : Word) : State :=
  if v = 0 then s else later s lat (.flags reg v)

/-- TROT (R97). -/
def trotWord (t : Tile) : Word := BitVec.ofNat 64 (t.rs % 64 * 256 + t.rb % 32)
/-- PRED (R130). -/
def predWord (t : Tile) : Word := (t.preds ||| 1).zeroExtend 64
/-- SEGST (R130). -/
def segstWord (t : Tile) : Word :=
  BitVec.ofNat 64 (t.half % 2 + (if t.pilot.ready then 2 else 0) + (if t.pilot.sel then 4 else 0)
    + (if t.pilot.none then 8 else 0))
/-- What RDSR reads (R130); a reserved number does not decode. -/
def specRead (t : Tile) : SpecReg → Word
  | .trot => trotWord t
  | .sstat => t.sstat
  | .vstat => t.vstat
  | .pred => predWord t
  | .lc0 => (rdLc t 0).zeroExtend 64
  | .lc1 => (rdLc t 1).zeroExtend 64
  | .lc2 => (rdLc t 2).zeroExtend 64
  | .segst => segstWord t
  | .af k => (rdAf t k.toNat).zeroExtend 64
  | .astat => t.astat
  | .reserved => 0

/-- Clears the flags of `mask` that are written 1 (R5). -/
def w1c (old v mask : Word) : Word := old &&& ~~~(v &&& mask)
/-- MSCALE of VSTAT (R140). -/
def mscaleMask : Word := 0x0000FF0000000000
/-- What a write does to each special register when it lands (R5, R97, R100, R130, R140, R264). -/
def specWrite (t : Tile) (n : SpecReg) (v : Word) : Tile :=
  match n with
  | .trot => t
  | .segst => t
  | .reserved => t
  | .sstat => { t with sstat := w1c t.sstat v 3 }
  | .astat => { t with astat := w1c t.astat v 7 }
  | .vstat => { t with vstat := (w1c t.vstat v 3 &&& ~~~mscaleMask) ||| (v &&& mscaleMask) }
  | .pred => { t with preds := v.setWidth 16 &&& 0xFFFE }
  | .lc0 => wrLc t 0 (v.setWidth 32)
  | .lc1 => wrLc t 1 (v.setWidth 32)
  | .lc2 => wrLc t 2 (v.setWidth 32)
  | .af k => { t with af := tabSet 0 t.af k.toNat (v.setWidth 16 &&& 0xFF00) }
/-- A setting of sticky flags when it lands (R70). -/
def setFlags (t : Tile) (n : SpecReg) (v : Word) : Tile :=
  match n with
  | .sstat => { t with sstat := t.sstat ||| v }
  | .vstat => { t with vstat := t.vstat ||| v }
  | .astat => { t with astat := t.astat ||| v }
  | _ => t
/-- The write names a reserved af format (R100). -/
def afReserved (n : SpecReg) (v : Word) : Bool :=
  match n with
  | .af _ => !fmtOk (v.extractLsb' 12 4)
  | _ => false
/-- MSCALE as a signed number (R140). -/
def mscaleOf (t : Tile) : Int := (t.vstat.extractLsb' 40 8).toInt

end Sys2Proof.Machine
end

