-- ==== Sys2Proof/Machine/MemTile.lean ====
section
/-! DEFINITION. Loads and stores of the scratchpad and of the shaft (R163 to R168): the words at the first and second
memory position, and their accesses at the cycles of R73 and R85. -/

namespace Sys2Proof.Machine

/-! ## Addresses and checks (R163 to R166) -/

/-- The effective address of a memory word (R163). -/
def memEA (t : Tile) (ma : MemA) : Word :=
  rdReg t ma.ba + (match ma.off with | some v => v.signExtend 64 | none => 0)
/-- The bytes of a scalar access width. -/
def wBytes (w : Width) : Nat := 2 ^ w.toNat
/-- A translation fault at an address (R202). -/
def xlate (b : Bool) (sub : Nat) (a : Word) : Option Trap := trapIf b 0x11 sub a
/-- The checks of an M0 access of n aligned bytes that samples or writes at cycle c (R74, R164). -/
def m0Checks (s : State) (c : Nat) (a : Word) (n : Nat) : List (Option Trap) :=
  let out := decide (a.toNat ≥ 2 ^ 21)
  let mis := decide (a.toNat % n ≠ 0)
  [xlate out 1 a, xlate mis 2 a, trapIf (!out && !mis && m0Busy s c a.toNat) 9 0 0]
/-- The address checks of an M1 access of n aligned bytes (R165, R166). -/
def m1AddrChecks (s : State) (a : Word) (n : Nat) : List (Option Trap) :=
  let f := m1Fields a
  let t := m1Tile s.cur f
  let badT := f.rem && (decide (t = s.cur) || !(domAt s (domOf s s.cur)).parts.contains (partOf t))
  [xlate (m1Outside a) 1 a, xlate (decide (a.toNat % n ≠ 0)) 2 a,
   xlate (!m1Outside a && (decide (f.ofs ≥ 30720) || badT || decide (f.macro_ ≥ macroCount s t f.layer))) 3 a]
/-- The checks of an own-shaft access to a half-macro at cycle c, once its address is right: mode, interfaces, one
access a cycle (R74, R168, R239, R246). -/
def hmChecks (s : State) (c : Nat) (a : Word) (hm : Nat) : List (Option Trap) :=
  [trapIf (modeAt s (me s) hm c).1 0xA 0 a, trapIf (!lanesOk s s.cur (hmLayer hm)) 0x14 0 a,
   trapIf (hmBusy s s.cur c hm) 9 0 0]
/-- An own-shaft word: its access is noted even when a check fails, so that a further word of the bundle which names the same
half-macro at that cycle finds it busy and the lower cause is recorded (R74, R208, R250, R265); the freeze undoes the bundle (R206). -/
def shWord (s : State) (checks : List (Option Trap)) (effect : State → State) : Host.Outcome State Fault Refusal :=
  match worst checks with
  | some x => .next (trapHere x (effect s))
  | none => .next (effect s)
/-- Sign- or zero-extension of a loaded value of w bytes (R167). -/
def extend (signed : Bool) (w x : Nat) : Word :=
  if signed then BitVec.ofInt 64 (sgn (8 * w) x) else BitVec.ofNat 64 (x % 2 ^ (8 * w))
/-- A vector of 512 bytes as a list of bytes, and back. -/
def vecBytes (v : QVec) : List Byte := (List.range 512).map (fun i => v.extractLsb' (8 * i) 8)
def ofBytes (l : List Byte) : QVec := BitVec.ofNat 4096 (joinBits 8 (l.map (·.toNat)))

/-! ## Words of the scratchpad (R167, R168) -/

/-- A scalar load from M0: samples at issue + 1. -/
def ldM0 (s : State) (w : Width) (signed : Bool) (d : Reg) (ma : MemA) : Host.Outcome State Fault Refusal :=
  let a := memEA (me s) ma
  doWord s ([useReg s ma.ba, dstReg s d] ++ m0Checks s (now s + 1) a (wBytes w))
    (fun s => later s 1 (.m0Load a.toNat (wBytes w) signed (physReg (me s) d.toNat)))
/-- LDS, sign-extended (R167, R168). -/
def execLdsSigned (g : Guard) (w : Width) (d : Reg) (ma : MemA) (s : State) : Host.Outcome State Fault Refusal := guarded s g (ldM0 s w true d ma)
/-- LDS, zero-extended (R167, R168). -/
def execLdsUnsigned (g : Guard) (w : Width) (d : Reg) (ma : MemA) (s : State) : Host.Outcome State Fault Refusal := guarded s g (ldM0 s w false d ma)
/-- STS: writes at issue + 1 (R167, R168). -/
def execSts (g : Guard) (w : Width) (d : Reg) (ma : MemA) (s : State) : Host.Outcome State Fault Refusal :=
  let a := memEA (me s) ma
  guarded s g (doWord s ([useReg s ma.ba, useReg s d] ++ m0Checks s (now s + 1) a (wBytes w))
    (fun s' => later s' 1 (.m0Store a.toNat (wBytes w) (rdReg (me s) d))))
/-- LDV: the queue receives the vector at issue + 3 (R168). -/
def execLdv (g : Guard) (d : QN) (ma : MemA) (s : State) : Host.Outcome State Fault Refusal :=
  let a := memEA (me s) ma
  guarded s g (doWord s ([useReg s ma.ba, dstQ s d] ++ m0Checks s (now s + 1) a 512)
    (fun s => later s 1 (.m0LoadV a.toNat d)))
/-- STV: pops its vector at issue (R168). -/
def execStv (g : Guard) (d : QN) (ma : MemA) (s : State) : Host.Outcome State Fault Refusal :=
  let a := memEA (me s) ma
  guarded s g (doWord s ([useReg s ma.ba] ++ srcQs s [accSrc d] ++ m0Checks s (now s + 1) a 512)
    (fun s' => match takeQs (me s') [accSrc d] with
      | some (vs, t) => later (setTile s' s'.cur t) 1 (.m0StoreV a.toNat (vs.headD 0))
      | none => s'))

/-! ## Words of the shaft (R165, R168, R85) -/

/-- The access cycle of an own-shaft word on a layer (R73). -/
def shCycle (s : State) (layer : Nat) : Nat := now s + 1 + layer
/-- Adds an outstanding access and its number; `result` and the parts come from the word (R79, R85). -/
def addAcc (m1 : Bool) (op : AccOp) (ord : MOrd) (scp : MScp) (parts : List Part) (walk done : Bool) (s : State) : State :=
  onMe s (fun t => { t with nacc := t.nacc + 1,
                            out := t.out ++ [⟨t.nacc, now s, s.pipe, t.bun, m1, op, ord, scp, parts, walk, done, 0, none, false, 0⟩] })
/-- An access word whose guard is false counts as issued and is complete at issue (R90). -/
def emptyAcc (m1 : Bool) (s : State) : State := addAcc m1 .none .rlx .none [] false true s
/-- Makes a scalar destination pending for the access that is being added; a0 is not (R72, R168). -/
def pendReg (d : Reg) (s : State) : State :=
  if d = 0 then s else onMe s (fun t => { t with pendR := t.pendR ++ [(physReg t d.toNat, t.nacc)] })
/-- A guarded shaft word: with a false guard only a remote address counts as an issued access (R42, R90). -/
def guardedM1 (s : State) (g : Guard) (a : Word) (k : Host.Outcome State Fault Refusal) : Host.Outcome State Fault Refusal :=
  if guardOn (me s) g then k else .next (if (m1Fields a).rem then emptyAcc true s else s)
/-- A scalar load from a shaft. -/
def ldM1 (s : State) (w : Width) (signed : Bool) (d : Reg) (ma : MemA) : Host.Outcome State Fault Refusal :=
  let a := memEA (me s) ma
  let f := m1Fields a
  let hm := m1Half s s.cur f
  let c := shCycle s f.layer
  let pre := [rigidOnly (me s), useReg s ma.ba, dstReg s d] ++ m1AddrChecks s a (wBytes w)
  let r := physReg (me s) d.toNat
  if f.rem then
    doWord s pre (fun s => addAcc true (.load (wBytes w) signed r) .rlx .none
      [⟨0, a.toNat, wBytes w, 0, false, 0⟩] false false (pendReg d s))
  else if (worst (m1AddrChecks s a (wBytes w))).isSome then doWord s pre id
  else
    shWord s (pre ++ hmChecks s c a hm)
      (fun s => later s (1 + f.layer) (.shLoad hm f.ofs (wBytes w) signed r))
/-- SLD, sign-extended (R167, R168). -/
def execSldSigned (g : Guard) (w : Width) (d : Reg) (ma : MemA) (s : State) : Host.Outcome State Fault Refusal :=
  guardedM1 s g (memEA (me s) ma) (ldM1 s w true d ma)
/-- SLD, zero-extended (R167, R168). -/
def execSldUnsigned (g : Guard) (w : Width) (d : Reg) (ma : MemA) (s : State) : Host.Outcome State Fault Refusal :=
  guardedM1 s g (memEA (me s) ma) (ldM1 s w false d ma)
/-- SST (R167, R168). -/
def execSst (g : Guard) (w : Width) (d : Reg) (ma : MemA) (s : State) : Host.Outcome State Fault Refusal :=
  let a := memEA (me s) ma
  let f := m1Fields a
  let hm := m1Half s s.cur f
  let c := shCycle s f.layer
  let pre := [rigidOnly (me s), useReg s ma.ba, useReg s d] ++ m1AddrChecks s a (wBytes w)
  let v := rdReg (me s) d
  guardedM1 s g a (
    if f.rem then
      doWord s pre (addAcc true .store .rlx .none [⟨0, a.toNat, wBytes w, v.toNat, false, 0⟩] false false)
    else if (worst (m1AddrChecks s a (wBytes w))).isSome then doWord s pre id
    else
      shWord s (pre ++ hmChecks s c a hm)
        (fun s => later s (1 + f.layer) (.shStore hm f.ofs (wBytes w) v)))

/-- MHOLE fills a memory position and makes no access (R36, R37). -/
def execMhole (s : State) : Host.Outcome State Fault Refusal := .next s

/-! ## Accesses (R73, R74, R85, R93, R209) -/

/-- The first action of a tile that is due and of a kind, and the tile without it. -/
def takeDueFrom (c : Nat) (sel : Act → Bool) : List Pend → Option (Pend × List Pend)
  | [] => none
  | p :: r =>
    if p.due ≤ c ∧ sel p.act then some (p, r)
    else match takeDueFrom c sel r with
      | none => none
      | some (x, r') => some (x, p :: r')
/-- Takes a due action of a kind out of a tile's calendar. -/
def takeDue (s : State) (id : Nat) (sel : Act → Bool) : Option (Pend × State) :=
  let t := tileOf s id
  match takeDueFrom (tcAt s id) sel t.cal with
  | none => none
  | some (p, r) => some (p, setTile s id { t with cal := r })
/-- An action that follows from another one: same word, its own cycle. -/
def follow (id : Nat) (p : Pend) (due : Nat) (x : Act) (s : State) : State :=
  updTile s id (fun t => addPend t { p with due := due, act := x })
/-- A fault that an engine finds: no bundle of the domain issues from this cycle on, and the bundles already issued
keep their effects (R93, R206). -/
def engineTrap (x : Trap) (p : Pend) (id : Nat) (s : State) : State :=
  { takeTrap x p.pipe p.bun none id s with ckpt := none }
/-- A scalar result lands; register 0 takes none. -/
def followReg (id : Nat) (p : Pend) (due r : Nat) (v : Word) (s : State) : State :=
  if r = 0 then s else follow id p due (.reg r v) s
/-- A line of 64 bytes that n bytes from a touch holds a byte in error (R209, log 30). -/
def eccLines (s : State) (code owner a n : Nat) : Bool :=
  s.ecc.any (fun m => m.1 = code && decide (owner * 2 ^ 32 + a / 64 * 64 ≤ m.2) &&
    decide (m.2 < owner * 2 ^ 32 + (a + n - 1) / 64 * 64 + 64))
/-- A write updates the codes: errors that it covers are gone (R243, log 30). -/
def healed (code owner a n : Nat) (s : State) : State :=
  { s with ecc := s.ecc.filter (fun m => !(m.1 = code && decide (owner * 2 ^ 32 + a ≤ m.2) && decide (m.2 < owner * 2 ^ 32 + a + n))) }

/-! ## Errors in the array (R243): a mark of code 3 is a plane-bit that does not read as it was written -/

/-- The marked bits of a half-macro from bit lo on. -/
def bitMarks (s : State) (hm lo n : Nat) : Nat :=
  ((s.ecc.filter (fun m => m.1 = 3 && decide (hm * 2 ^ 32 + lo ≤ m.2) && decide (m.2 < hm * 2 ^ 32 + lo + n))).eraseDups).length
/-- The storage lines that n bytes from a touch. -/
def hmLines (a n : Nat) : List Nat := (List.range ((a + n - 1) / 64 + 1 - a / 64)).map (fun i => 64 * (a / 64 + i))
/-- A storage line that the access touches holds an error of two bits or more (R243). -/
def hmBad (s : State) (hm a n : Nat) : Bool := (hmLines a n).any (fun l => decide (bitMarks s hm (8 * l) 512 ≥ 2))
/-- A storage-mode read corrects an error of one bit in a line, and the error log gets it (R243). -/
def hmFix (hm a n : Nat) (s : State) : State :=
  match (hmLines a n).filter (fun l => decide (bitMarks s hm (8 * l) 512 = 1)) with
  | [] => s
  | l => { s with hc := { s.hc with log := s.hc.log ++ l.map (fun o => .corrected (hm * 2 ^ 32 + o)) } }
/-- A write of the array updates both codes: the errors that it covers are gone (R243). -/
def hmHeal (hm a n : Nat) (s : State) : State := healed 3 hm (8 * a) (8 * n) s
/-- A row's parity bits, one for each 120 plane-bits, show an error (R243). -/
def rowBad (s : State) (hm : Nat) : Bool :=
  s.ecc.any (fun m => m.1 = 3 && m.2 / 2 ^ 32 = hm && bitMarks s hm (120 * (m.2 % 2 ^ 32 / 120)) 120 % 2 = 1)
/-- The half-macro as a beat reads its rows: errors that the parity does not show are in the data (R243). -/
def seenHalf (s : State) (hm : Nat) (h : Half) : Half :=
  ((s.ecc.filter (fun m => m.1 = 3 && m.2 / 2 ^ 32 = hm)).eraseDups).foldl (fun h m =>
    let b := m.2 % 2 ^ 32
    { h with bytes := storeBytes h.bytes (b / 8) [byteAt h.bytes (b / 8) ^^^ (1#8 <<< (b % 8))] }) h

/-- The M0 access kinds. -/
def isM0 : Act → Bool
  | .m0Load .. | .m0LoadV .. | .m0Store .. | .m0StoreV .. => true
  | _ => false
/-- M0_ACCESS: one access of a tile samples or writes its bank (R168). The event names the tile. -/
def execM0Access (s : State) : Host.Outcome State Fault Refusal :=
  let id := s.ev.a
  match takeDue s id isM0 with
  | none => .next s
  | some (p, s) =>
    let c := tcAt s id
    let m := (tileOf s id).m0
    match p.act with
    | .m0Load a w signed r =>
      if eccLines s 2 id a w then .next (engineTrap ⟨0x16, 0, 0, BitVec.ofNat 64 a⟩ p id s)
      else .next (followReg id p (c + 2) r (extend signed w (loadLE m a w)) s)
    | .m0LoadV a q =>
      if eccLines s 2 id a 512 then .next (engineTrap ⟨0x16, 0, 0, BitVec.ofNat 64 a⟩ p id s)
      else .next (follow id p (c + 2) (.push q (ofBytes (loadBytes m a 512))) s)
    | .m0Store a w v =>
      if eccLines s 2 id a w then .next (engineTrap ⟨0x16, 0, 0, BitVec.ofNat 64 a⟩ p id s)
      else .next (updTile s id (fun t => { t with m0 := storeLE t.m0 a v.toNat w }))
    | .m0StoreV a v =>
      if eccLines s 2 id a 512 then .next (engineTrap ⟨0x16, 0, 0, BitVec.ofNat 64 a⟩ p id s)
      else .next (updTile s id (fun t => { t with m0 := storeBytes t.m0 a (vecBytes v) }))
    | _ => .next s

/-- The own-shaft access kinds. -/
def isSh : Act → Bool
  | .shLoad .. | .shStore .. => true
  | _ => false
/-- The M1 address of a place of the own shaft (R165). -/
def m1Word (s : State) (hm ofs : Nat) : Word :=
  BitVec.ofNat 64 (hmLayer hm * 2 ^ 23 + hmMacro s hm * 2 ^ 16 + hm % 2 * 2 ^ 15 + ofs)
/-- SHAFT_ACCESS: one own-shaft access of a tile samples or writes its half-macro (R73); an interface that has become
invalid holds it until the domain resumes (R247). The event names the tile. -/
def execShaftAccess (s0 : State) : Host.Outcome State Fault Refusal :=
  let id := s0.ev.a
  match takeDue s0 id isSh with
  | none => .next s0
  | some (p, s) =>
    match p.act with
    | .shLoad hm ofs w signed r =>
      if !lanesOk s id (hmLayer hm) then .next (engineTrap ⟨0x14, 0, 0, m1Word s hm ofs⟩ p id s0)
      else if hmBad s hm ofs w then .next (engineTrap ⟨0x16, 0, 0, m1Word s hm ofs⟩ p id s)
      else .next (hmFix hm ofs w (followReg id p (tcAt s id + 2) r (extend signed w (loadLE (halfOf s hm).bytes ofs w)) s))
    | .shStore hm ofs w v =>
      let h := halfOf s hm
      if !lanesOk s id (hmLayer hm) then .next (engineTrap ⟨0x14, 0, 0, m1Word s hm ofs⟩ p id s0)
      else .next (hmHeal hm ofs w (setHalf s hm { h with bytes := storeLE h.bytes ofs v.toNat w }))
    | _ => .next s

/-- The accesses of a tile with one replaced. -/
def setAcc (id : Nat) (x : Acc) (s : State) : State :=
  updTile s id (fun t => { t with out := t.out.map (fun y => if y.id = x.id then x else y) })
/-- The outstanding access of a number. -/
def accOf (t : Tile) (n : Nat) : Option Acc := t.out.find? (fun x => x.id = n)
/-- The word of an access, as the word that a fault reports. -/
def accPend (x : Acc) : Pend := ⟨0, x.issue, x.pipe, x.bun, .mtHor false 0⟩
/-- The owner's accesses leave the half-macro free in the next cycle; a frozen domain makes none (R85, R207). -/
def hmFree (s : State) (owner hm : Nat) : Bool :=
  (domAt s (domOf s owner)).frozen || !hmBusy s owner (tcAt s owner + 1) hm
/-- A remote access issued at `issue` on a layer may perform: at issue + 2 + L or later (R85). -/
def remoteDue (s : State) (id issue layer : Nat) : Bool :=
  (domAt s (domOf s id)).frozen || decide (issue + 2 + layer ≤ tcAt s id + 1)
/-- REMOTE_SHAFT_PERFORM: a remote access performs at its target's half-macro, in a cycle at c + 2 + L or later that
the owner leaves free, or the shaft detects its fault there (R85, R239, R246); one that meets an interface without its
repair stays, and performs after the resume, also when the domain was frozen already (R207, R214, R247). The event names the tile and the access. -/
def execRemoteShaftPerform (s : State) : Host.Outcome State Fault Refusal :=
  let id := s.ev.a
  match accOf (tileOf s id) s.ev.b with
  | none => .next s
  | some x =>
    match x.parts with
    | [pt] =>
      let a := BitVec.ofNat 64 pt.va
      let f := m1Fields a
      let hm := m1Half s id f
      let owner := m1Tile id f
      let h := halfOf s hm
      let fin (r : Word) (s : State) : State := setAcc id { x with done := true, result := r } s
      if x.done || x.stuck || !x.m1 || !remoteDue s id x.issue f.layer || !hmFree s owner hm then .next s
      else if h.mode then .next (engineTrap ⟨0xA, 0, 0, a⟩ (accPend x) id (fin 0 s))
      else if !lanesOk s owner f.layer then
        let s := setAcc id { x with stuck := true } s
        .next (if (domAt s (domOf s id)).frozen then updTile s id (recordTrap ⟨0x14, 0, 0, a⟩ x.pipe x.bun none)
          else engineTrap ⟨0x14, 0, 0, a⟩ (accPend x) id s)
      else
        match x.op with
        | .load w signed _ =>
          if hmBad s hm f.ofs w then .next (engineTrap ⟨0x16, 0, 0, a⟩ (accPend x) id (fin 0 s))
          else .next (hmFix hm f.ofs w (fin (extend signed w (loadLE h.bytes f.ofs w)) s))
        | .store => .next (fin 0 (hmHeal hm f.ofs pt.len (setHalf s hm { h with bytes := storeLE h.bytes f.ofs pt.data pt.len })))
        | _ => .next s
    | _ => .next s

end Sys2Proof.Machine
end

