-- ==== Sys2Proof/Machine/AddrGen.lean ====
section
/-! DEFINITION. Address generators (R75, R181 to R185): their words, their source reads and their pushes. -/

namespace Sys2Proof.Machine

/-! ## The words -/

/- AGSET, AGBIND and AGSTOP perform in elastic code at either position: of the generator words R105 names AGRUN only
(log 33). -/

/-- The space of the position of the word being executed: the first memory position is M0, the second the shaft (R181). -/
def agHere (s : State) : AgSpace := if s.pipe = 4 then .m0 else .shaft
/-- A word at a position that differs from the recorded space is illegal (R181). -/
def agPos (s : State) (g : Agen) : Option Trap := illegalIf (g.space ≠ .none && g.space ≠ agHere s)
/-- A misuse of a generator (R185). -/
def agMisuse (b : Bool) : Option Trap := trapIf b 5 6 0
/-- AGSET: the four registers are read at issue; the parameters and the space are recorded at issue + 1 (R182). -/
def execAgset (g : Guard) (d : Reg) (k : AgN) (s : State) : Host.Outcome State Fault Refusal :=
  let a := agOf (me s) k.toNat
  let r (i : BitVec 6) : Word := rdReg (me s) (d + i)
  guarded s g (doWord s [agPos s a, agMisuse a.run.isSome, useReg s d, useReg s (d + 1), useReg s (d + 2), useReg s (d + 3)]
    (fun s => later s 1 (.agSet k.toNat (agHere s) (r 0) (r 1) (r 2) (r 3))))
/-- AGBIND (R181, R185). -/
def execAgbind (g : Guard) (q : PortN) (k : AgN) (s : State) : Host.Outcome State Fault Refusal :=
  let a := agOf (me s) k.toNat
  let other := (me s).gens.any (fun p => p.1 ≠ k.toNat && p.2.port == some q.toNat)
  guarded s g (doWord s [agPos s a, agMisuse (a.run.isSome || other)]
    (fun s => later s 1 (.agBind k.toNat q.toNat)))
/-- The vectors of a walk. -/
def agTotal (a : Agen) : Nat := a.n0.toNat * a.n1.toNat * a.n2.toNat
/-- The corner addresses of a walk (R183). -/
def agCorners (a : Agen) : List Int :=
  [0, 1, 2, 3, 4, 5, 6, 7].map (fun (c : Nat) =>
    (a.base.toNat : Int) + (if c % 2 = 1 then a.s0.toInt * ((a.n0.toNat : Int) - 1) else 0)
      + (if c / 2 % 2 = 1 then a.s1.toInt * ((a.n1.toNat : Int) - 1) else 0)
      + (if c / 4 = 1 then a.s2.toInt * ((a.n2.toNat : Int) - 1) else 0))
/-- A number outside M0. -/
def outM0 (x : Int) : Bool := decide (x < 0 ∨ x ≥ 2 ^ 21)
/-- A stride that a walk uses is not a multiple of 512. -/
def badStride (n s : BitVec 32) : Bool := decide (n.toNat ≥ 2) && decide (s.toInt % 512 ≠ 0)
/-- The checks of a walk over M0, at issue (R183). -/
def agM0Checks (a : Agen) : List (Option Trap) :=
  if agTotal a = 0 then []
  else
    [(match (agCorners a).find? outM0 with | some x => some ⟨0x11, 1, 0, BitVec.ofInt 64 x⟩ | none => none),
     trapIf (decide (a.base.toNat % 512 ≠ 0) || badStride a.n0 a.s0 || badStride a.n1 a.s1 || badStride a.n2 a.s2)
       0x11 2 a.base]
/-- The walk would read a bank or a half-macro in a cycle in which an access already issued is there (R74, log 12). -/
def agMeets (s : State) (a : Agen) : Bool :=
  (me s).cal.any (fun p => match agReadAt a p.due with
    | none => false
    | some i =>
      let x := agAddr a i
      if a.space = .m0 then (match actM0 p.act with | some b => decide ((x.toNat) / 131072 = b / 131072) | none => false)
      else actHalf p.act == some (m1Half s s.cur (m1Fields (BitVec.ofInt 64 x))))
/-- AGRUN: the walk starts with its first push at issue + n; the port is released after the last (R183). -/
def execAgrun (g : Guard) (k : AgN) (n : Lit) (s : State) : Host.Outcome State Fault Refusal :=
  let a := agOf (me s) k.toNat
  let first := now s + n.toNat
  let a' : Agen := { a with run := some ⟨first, agTotal a, now s, (me s).bun⟩ }
  guarded s g (doWord s ([rigidOnly (me s), agPos s a, agMisuse (a.space == .none || a.port.isNone || a.run.isSome),
      illegalIf (a.space == .shaft && decide (n.toNat < 6))]
      ++ (if a.space = .m0 then agM0Checks a else []) ++ [trapIf (agMeets s a') 9 0 0])
    (fun s => later (onMe s (fun t => setAg t k.toNat a')) (n.toNat + agTotal a) (.agFree k.toNat)))
/-- The pending pushes and the release of generator k. -/
def isAgWork (k : Nat) : Act → Bool
  | .agPush j _ _ => j = k
  | .agFree j => j = k
  | _ => false
/-- AGSTOP: no read and no push from the next cycle on; the port is released then (R184). A generator is idle, and its
AGSTOP does nothing, when it runs no walk, also when it is bound (R98, R184; log 33). -/
def execAgstop (g : Guard) (k : AgN) (s : State) : Host.Outcome State Fault Refusal :=
  let a := agOf (me s) k.toNat
  guarded s g (doWord s [agPos s a] (fun s =>
    if a.run.isNone then s
    else later (onMe s (fun t => setAg { t with cal := t.cal.filter (fun p => !isAgWork k.toNat p.act) } k.toNat
      { a with run := none })) 1 (.agFree k.toNat)))

/-! ## The walk (R75, R183) -/

/-- The word that a fault of a walk reports. -/
def agPend (a : Agen) : Pend :=
  match a.run with
  | some r => ⟨0, r.issue, (if a.space = .m0 then 4 else 5), r.bun, .mtHor false 0⟩
  | none => ⟨0, 0, 0xF, BRef.zero, .mtHor false 0⟩
/-- Another generator of the tile reads the same bank or half-macro in the cycle: the one whose AGRUN was issued later,
against which the conflict is reported (R74). -/
def agClash (s : State) (id k : Nat) (a : Agen) (c : Nat) (x : Int) : Option Agen :=
  ((tileOf s id).gens.find? (fun p => p.1 ≠ k && p.2.space = a.space &&
    match agReadAt p.2 c with
    | none => false
    | some i =>
      let y := agAddr p.2 i
      if a.space = .m0 then decide (x.toNat / 131072 = y.toNat / 131072)
      else decide (m1Half s id (m1Fields (BitVec.ofInt 64 x)) = m1Half s id (m1Fields (BitVec.ofInt 64 y))))).map
    (fun p => if (agPend p.2).issue ≤ (agPend a).issue then a else p.2)
/-- What a read over the shaft checks at its cycle (R183, R239, R246). -/
def agShaftTrap (s : State) (id : Nat) (a : Word) : Option Trap :=
  let f := m1Fields a
  let hm := m1Half s id f
  worst [xlate (m1Outside a) 1 a, xlate (decide (a.toNat % 512 ≠ 0)) 2 a,
    xlate (f.rem || decide (f.ofs + 512 > 30720) || decide (f.macro_ ≥ macroCount s id f.layer)) 3 a,
    trapIf (halfOf s hm).mode 0xA 0 a, trapIf (!lanesOk s id f.layer) 0x14 0 a,
    trapIf (hmBad s hm f.ofs 512) 0x16 0 a]
/-- AG_SOURCE_READ: one generator reads 512 bytes for its push two cycles later (R75, R183). The event names the tile
and the generator. -/
def execAgSourceRead (s : State) : Host.Outcome State Fault Refusal :=
  let id := s.ev.a
  let k := s.ev.b
  let c := tcAt s id
  let a := agOf (tileOf s id) k
  match agReadAt a c with
  | none => .next s
  | some i =>
    let x := agAddr a i
    let push (v : QVec) (s : State) : State :=
      match a.port with
      | some q => follow id (agPend a) (c + 2) (.agPush k (BitVec.ofNat 4 q) v) s
      | none => s
    match agClash s id k a c x with
    | some b => .next (engineTrap ⟨9, 0, 0, 0⟩ (agPend b) id s)
    | none =>
      if a.space = .m0 then
        if eccLines s 2 id x.toNat 512 then .next (engineTrap ⟨0x16, 0, 0, BitVec.ofInt 64 x⟩ (agPend a) id s)
        else .next (push (ofBytes (loadBytes (tileOf s id).m0 x.toNat 512)) s)
      else
        let w := BitVec.ofInt 64 x
        match agShaftTrap s id w with
        | some f => .next (engineTrap f (agPend a) id s)
        | none =>
          let f := m1Fields w
          .next (hmFix (m1Half s id f) f.ofs 512 (push (ofBytes (loadBytes (halfOf s (m1Half s id f)).bytes f.ofs 512)) s))
/-- The push of one generator. -/
def isAgPush (k : Nat) : Act → Bool
  | .agPush j _ _ => j = k
  | _ => false
/-- AG_PUSH: the vector enters the port (R71, R183). The event names the tile and the generator. -/
def execAgPush (s : State) : Host.Outcome State Fault Refusal :=
  match takeDue s s.ev.a (isAgPush s.ev.b) with
  | none => .next s
  | some (p, s) =>
    match p.act with
    | .agPush _ q v => .next (updTile s s.ev.a (fun t => landQ t q v p.pipe p.bun))
    | _ => .next s

end Sys2Proof.Machine
end

