-- ==== Sys2Proof/Machine/MemGlobal.lean ====
section
/-! DEFINITION. Words of global memory (R166 to R174, R82): loads, stores, gathers and scatters at issue, with the
translation checks of R166 and R202; the access itself performs later (GlobalPerform). -/

namespace Sys2Proof.Machine

/-! ## Translation checks (R166, R202) -/

/-- The page is pinned for the tile's own timetable: declared resident (R166). -/
def isResident (s : State) (id va : Nat) : Bool :=
  (cacheAt s (dieOf id)).pinned.any (fun p => p.1 = (tileOf s id).tt && pageHas (rootOf s (partOf id)) va p.2)
/-- What the page tables say of one element: page fault, write permission, peer or host home (R166). -/
def pageTrap (s : State) (id : Nat) (wr far : Bool) (va : Nat) : Option Trap :=
  let a := BitVec.ofNat 64 va
  match pageOf s (partOf id) va with
  | none => some ⟨0x11, 4, 0, a⟩
  | some p =>
    if wr && !p.wr then some ⟨0x11, 5, 0, a⟩
    else if far && p.home ≠ .here then some ⟨0x11, 7, 0, a⟩
    else none
/-- What an access checks of its elements. -/
structure M2Chk where
  wr    : Bool
  far   : Bool
  align : Nat
  deriving DecidableEq, Repr
/-- The elements in order, up to the first that fails or, in elastic code, misses the translation cache: its fault,
and whether a walk is needed (R166, R171). -/
def m2Look (s : State) (id : Nat) (elastic : Bool) (k : M2Chk) : List Nat → Option Trap × Bool
  | [] => (none, false)
  | va :: r =>
    let a := BitVec.ofNat 64 va
    if !canonical va then (some ⟨0x11, 1, 0, a⟩, false)
    else if va % k.align ≠ 0 then (some ⟨0x11, 2, 0, a⟩, false)
    else if !elastic && !isResident s id va then (some ⟨0x11, 6, 0, a⟩, false)
    else if elastic && !isCached s (dieOf id) (partOf id) va then (none, true)
    else match pageTrap s id k.wr k.far va with
      | some x => (some x, false)
      | none => m2Look s id elastic k r
/-- A `.sc` word issues only at a wheel position that its tile owns (R82). -/
def wheelCheck (s : State) (o : MOrd) : Option Trap :=
  let img := (ttOf s (me s).tt).img
  trapIf (o == .sc && (wheelOwner img (now s % 4096)).map (taskTile img) != some s.cur) 0xC 0 0

/-! ## Parts of an access (R83, R84) -/

/-- A vector as its eight lines of 64 bytes, each of which lies in one page (R83, R166, R168). -/
def cutParts (va data : Nat) : List Part :=
  (List.range 8).map (fun i => ⟨i, va + 64 * i, 64, data / 256 ^ (64 * i) % 256 ^ 64, false, 0⟩)
/-- One part for each element of a gather or scatter (R171). -/
def elemParts (w : Nat) (ds : List Nat) (i : Nat) : List Nat → List Part
  | [] => []
  | va :: r => ⟨i, va, w, ds.getD i 0, false, 0⟩ :: elemParts w ds (i + 1) r
/-- An M2 word: its own checks, the wheel, and its elements; then the access is outstanding (R79, R166). -/
def m2Word (s : State) (pre : List (Option Trap)) (op : AccOp) (sx : Sfx) (k : M2Chk) (parts : List Part)
    (eff : State → State) : Host.Outcome State Fault Refusal :=
  let look := m2Look s s.cur (me s).elastic k (parts.map (·.va))
  doWord s (pre ++ [wheelCheck s sx.ord, look.1]) (fun s => addAcc false op sx.ord sx.scp parts look.2 false (eff s))
/-- A guarded M2 word: with a false guard it counts as issued and is complete (R42, R90). -/
def guardedM2 (s : State) (g : Guard) (k : Host.Outcome State Fault Refusal) : Host.Outcome State Fault Refusal :=
  if guardOn (me s) g then k else .next (emptyAcc false s)

/-! ## Loads and stores (R167 to R169) -/

/-- What a load, a store and an atomic check (R82, R166). -/
def ldChk (sx : Sfx) (align : Nat) : M2Chk := ⟨false, sx.ord == .sc, align⟩
def stChk (sx : Sfx) (align : Nat) : M2Chk := ⟨true, sx.ord == .sc, align⟩
def atChk (align : Nat) : M2Chk := ⟨true, true, align⟩
/-- A scalar load: its destination is pending until the DRAIN; a0 is not (R168). -/
def ldM2 (s : State) (w : Width) (signed : Bool) (sx : Sfx) (d : Reg) (ma : MemA) : Host.Outcome State Fault Refusal :=
  let n := wBytes w
  m2Word s [useReg s ma.ba, dstReg s d] (.load n signed (physReg (me s) d.toNat)) sx (ldChk sx n)
    [⟨0, (memEA (me s) ma).toNat, n, 0, false, 0⟩] (pendReg d)
/-- GLD, sign-extended (R167, R168). -/
def execGldSigned (g : Guard) (w : Width) (sx : Sfx) (d : Reg) (ma : MemA) (s : State) : Host.Outcome State Fault Refusal :=
  guardedM2 s g (ldM2 s w true sx d ma)
/-- GLD, zero-extended (R167, R168). -/
def execGldUnsigned (g : Guard) (w : Width) (sx : Sfx) (d : Reg) (ma : MemA) (s : State) : Host.Outcome State Fault Refusal :=
  guardedM2 s g (ldM2 s w false sx d ma)
/-- GST (R167, R168). -/
def execGst (g : Guard) (w : Width) (sx : Sfx) (d : Reg) (ma : MemA) (s : State) : Host.Outcome State Fault Refusal :=
  let n := wBytes w
  guardedM2 s g (m2Word s [useReg s ma.ba, useReg s d] .store sx (stChk sx n)
    [⟨0, (memEA (me s) ma).toNat, n, (rdReg (me s) d).toNat % 256 ^ n, false, 0⟩] id)
/-- A queue that a load reserves an entry of: a port is a timing fault (R98). A pending queue is none: several loads may have
reserved entries of it, which fill in issue order (R169; log 18). -/
def resvQ (s : State) (q : QN) : Option Trap := trapIf (isPort (me s) q) 5 5 0
/-- Reserves n entries for the access that is being added (R169). -/
def reserve (q : QN) (n : Nat) (s : State) : State :=
  onMe s (fun t => setQ t q (qOf t q ++ List.replicate n ⟨some t.nacc, 0⟩))
/-- GLDV (R168, R169). -/
def execGldv (g : Guard) (sx : Sfx) (d : QN) (ma : MemA) (s : State) : Host.Outcome State Fault Refusal :=
  guardedM2 s g (m2Word s [useReg s ma.ba, resvQ s d] (.loadV d) sx (ldChk sx 64)
    (cutParts (memEA (me s) ma).toNat 0) (reserve d 1))
/-- The queues without the entries that a word takes. -/
def popped (l : List QSrc) (s : State) : State :=
  match takeQs (me s) l with
  | some (_, t) => setTile s s.cur t
  | none => s
/-- The k-th vector that a word takes. -/
def taken (s : State) (l : List QSrc) (k : Nat) : QVec :=
  match takeQs (me s) l with
  | some (vs, _) => vs.getD k 0
  | none => 0
/-- GSTV pops its vector at issue (R168). -/
def execGstv (g : Guard) (sx : Sfx) (d : QN) (ma : MemA) (s : State) : Host.Outcome State Fault Refusal :=
  guardedM2 s g (m2Word s (useReg s ma.ba :: srcQs s [accSrc d]) .store sx (stChk sx 64)
    (cutParts (memEA (me s) ma).toNat (taken s [accSrc d] 0).toNat) (popped [accSrc d]))

/-! ## Gathers and scatters (R171) -/

/-- The width of a gather or an atomic. -/
def wideBytes (w : Wide) : Nat := if w then 8 else 4
/-- The element addresses: base and byte offsets in the first lanes of the index vector. -/
def elemAddrs (base : Word) (w : Wide) (x : QVec) : List Nat :=
  (List.range (if w then 64 else 128)).map (fun i => (base.toNat + lane 4 x i) % 2 ^ 64)
/-- The index queue: the next one. -/
def idxQ (d : QN) : QSrc := accSrc (d + 1)
/-- GGATH (R171). -/
def execGgath (g : Guard) (w : Wide) (sx : Sfx) (d : QN) (b : Reg) (s : State) : Host.Outcome State Fault Refusal :=
  let n := wideBytes w
  guardedM2 s g (m2Word s (useReg s b :: resvQ s d :: srcQs s [idxQ d]) (.gather n d) sx (ldChk sx n)
    (elemParts n [] 0 (elemAddrs (rdReg (me s) b) w (taken s [idxQ d] 0))) (fun s => reserve d 1 (popped [idxQ d] s)))
/-- GSCAT (R171). -/
def execGscat (g : Guard) (w : Wide) (sx : Sfx) (d : QN) (b : Reg) (s : State) : Host.Outcome State Fault Refusal :=
  let n := wideBytes w
  let src := [idxQ d, accSrc d]
  guardedM2 s g (m2Word s (useReg s b :: srcQs s src) .store sx (stChk sx n)
    (elemParts n (lanes n (taken s src 1)) 0 (elemAddrs (rdReg (me s) b) w (taken s src 0))) (popped src))

end Sys2Proof.Machine
end

