-- ==== Sys2Proof/Machine/Atomics.lean ====
section
/-! DEFINITION. Atomic words (R170, R172, R173) and FENCE (R81). -/

namespace Sys2Proof.Machine

/-- The operations of the scalar atomics, as the access records them (R172). -/
def fnAdd : Nat := 0
def fnOr : Nat := 1
def fnAnd : Nat := 2
def fnMaxI : Nat := 3
def fnMaxN : Nat := 4
def fnMinI : Nat := 5
def fnMinN : Nat := 6
def fnXch : Nat := 7
def fnCas : Nat := 8
/-- The value that an atomic leaves: old and y as w-byte numbers (R172). -/
def atomNew (fn w old y cmp : Nat) : Nat :=
  let b := 8 * w
  match fn with
  | 0 => (old + y) % 2 ^ b
  | 1 => old ||| y
  | 2 => old &&& y
  | 3 => if sgn b old < sgn b y then y else old
  | 4 => if old < y then y else old
  | 5 => if sgn b y < sgn b old then y else old
  | 6 => if y < old then y else old
  | 7 => y
  | _ => if old = cmp then y else old
/-- The signed comparisons of width 4 extend the old value by its sign, every other atomic by zeros (R172). -/
def atomSigned (fn w : Nat) : Bool := (fn = fnMaxI || fn = fnMinI) && w = 4
/-- The second operand: the sign-extended literal, or dr (R172). -/
def atomY (t : Tile) (d : Reg) : Option Lit → Word
  | some v => v.signExtend 64
  | none => rdReg t d
/-- A scalar atomic (R172). -/
def atomWord (s : State) (g : Guard) (fn : Nat) (w : Wide) (sx : Sfx) (d b : Reg) (y cmp : Word) (src : List Reg) :
    Host.Outcome State Fault Refusal :=
  let n := wideBytes w
  guardedM2 s g (m2Word s (useReg s b :: dstReg s d :: src.map (useReg s))
    (.atom fn n y cmp (atomSigned fn n) (physReg (me s) d.toNat)) sx (atChk n)
    [⟨0, (rdReg (me s) b).toNat, n, 0, false, 0⟩] (pendReg d))
/-- The register sources of an atomic with an optional literal. -/
def atomSrc (d : Reg) : Option Lit → List Reg
  | some _ => []
  | none => [d]
/-- An atomic whose second operand is dr or a literal. -/
def atom1 (s : State) (g : Guard) (fn : Nat) (w : Wide) (sx : Sfx) (d b : Reg) (l : Option Lit) :
    Host.Outcome State Fault Refusal :=
  atomWord s g fn w sx d b (atomY (me s) d l) 0 (atomSrc d l)
/-- GAADD (R172). -/
def execGaadd (g : Guard) (w : Wide) (sx : Sfx) (d b : Reg) (l : Option Lit) (s : State) : Host.Outcome State Fault Refusal := atom1 s g fnAdd w sx d b l
/-- GAOR (R172). -/
def execGaor (g : Guard) (w : Wide) (sx : Sfx) (d b : Reg) (l : Option Lit) (s : State) : Host.Outcome State Fault Refusal := atom1 s g fnOr w sx d b l
/-- GAAND (R172). -/
def execGaand (g : Guard) (w : Wide) (sx : Sfx) (d b : Reg) (l : Option Lit) (s : State) : Host.Outcome State Fault Refusal := atom1 s g fnAnd w sx d b l
/-- GAMAX, signed (R172). -/
def execGamaxI (g : Guard) (w : Wide) (sx : Sfx) (d b : Reg) (l : Option Lit) (s : State) : Host.Outcome State Fault Refusal := atom1 s g fnMaxI w sx d b l
/-- GAMAX, unsigned (R172). -/
def execGamaxN (g : Guard) (w : Wide) (sx : Sfx) (d b : Reg) (l : Option Lit) (s : State) : Host.Outcome State Fault Refusal := atom1 s g fnMaxN w sx d b l
/-- GAMIN, signed (R172). -/
def execGaminI (g : Guard) (w : Wide) (sx : Sfx) (d b : Reg) (l : Option Lit) (s : State) : Host.Outcome State Fault Refusal := atom1 s g fnMinI w sx d b l
/-- GAMIN, unsigned (R172). -/
def execGaminN (g : Guard) (w : Wide) (sx : Sfx) (d b : Reg) (l : Option Lit) (s : State) : Host.Outcome State Fault Refusal := atom1 s g fnMinN w sx d b l
/-- GAXCH (R172). -/
def execGaxch (g : Guard) (w : Wide) (sx : Sfx) (d b : Reg) (l : Option Lit) (s : State) : Host.Outcome State Fault Refusal := atom1 s g fnXch w sx d b l
/-- GACAS: dr is compared, a(dr+1) is the new value, both read at issue (R172). -/
def execGacas (g : Guard) (w : Wide) (sx : Sfx) (d b : Reg) (s : State) : Host.Outcome State Fault Refusal :=
  atomWord s g fnCas w sx d b (rdReg (me s) (d + 1)) (rdReg (me s) d) [d, d + 1]
/-- GAORV: bytes 0 to 63 of the popped vector are ORed into a line of 64 bytes (R173). -/
def execGaorv (g : Guard) (sx : Sfx) (d : QN) (ma : MemA) (s : State) : Host.Outcome State Fault Refusal :=
  guardedM2 s g (m2Word s (useReg s ma.ba :: srcQs s [accSrc d]) .orv sx (atChk 64)
    [⟨0, (memEA (me s) ma).toNat, 64, (taken s [accSrc d] 0).toNat % 256 ^ 64, false, 0⟩] (popped [accSrc d]))
/-- FENCE orders the tile's M2 accesses without waiting (R81). It accesses nothing, so `.sc` asks for no wheel position of
its tile (R82; log 34). -/
def execFence (g : Guard) (sx : Sfx) (s : State) : Host.Outcome State Fault Refusal :=
  guarded s g (.next (addAcc false .fence sx.ord sx.scp [] false true s))

end Sys2Proof.Machine
end

