-- ==== Sys2Proof/Machine/Beat.lean ====
section
/-! DEFINITION. Beat and mode instructions (R249 to R265): the X words at issue, their accesses at the half-macros
(R233 to R241), and the accumulation store. -/

namespace Sys2Proof.Machine

/-! ## Formats (R65, R235, R254) -/

/-- The width in planes of a format code. -/
def fmtWidth (f : FmtN) : Nat :=
  match f.toNat with
  | 0 => 8
  | 1 => 5
  | 2 => 10
  | 3 => 7
  | n => n - 6
/-- The columns of a half-macro in a weight format (R235). -/
def fmtCols (f : FmtN) : Nat := 960 / fmtWidth f
/-- The exponent of the unit of a format read in full. -/
def fmtUnit (f : FmtN) : Int :=
  match f.toNat with
  | 0 => -6
  | 1 => -1
  | 2 => -4
  | 3 => -3
  | n => 2 - ((n : Int) - 6)
/-- The segments of a vector in an activation format (R254). -/
def fmtSegs (f : FmtN) : Nat :=
  match f.toNat with
  | 1 => 4
  | 8 => 8
  | 9 | 10 => 4
  | _ => 2
/-- A finite format's value times 2^k. -/
def fixCode (f : FFmt) (k : Nat) (c : Nat) : Int :=
  match fdec f c with
  | .fin neg m e => (if neg then -1 else 1) * scaleFloor m (e + k)
  | _ => 0
/-- A 6-bit element code from the two planes of a vector (R59). -/
def mx6 (v : QVec) (i : Nat) : Nat := qnib v i * 4 + v.toNat / 2 ^ (2048 + 2 * i) % 4
/-- Bit i of stored plane p of a BNI vector with n elements a plane (R61). -/
def bniBit (v : QVec) (n p i : Nat) : Nat := qbit v (n * p + i)
/-- The activation bit of plane p for element i (R254, R255). -/
def actBit (f : FmtN) (v : QVec) (p i : Nat) : Nat :=
  let b := fmtWidth f
  match f.toNat with
  | 0 => qbyte v i / 2 ^ (b - 1 - p) % 2
  | 1 => lowBits 5 (fixCode fe2m1 1 (qnib v i)) / 2 ^ (b - 1 - p) % 2
  | 2 => lowBits 10 (fixCode fe3m2 4 (mx6 v i)) / 2 ^ (b - 1 - p) % 2
  | 3 => lowBits 7 (fixCode fe2m3 3 (mx6 v i)) / 2 ^ (b - 1 - p) % 2
  | _ => bniBit v (256 * fmtSegs f) p i

/-! ## Half-macro sets (R252, R253) -/

/-- A member of a set: layer, macro, key of the half-macro. -/
structure Member where
  layer : Nat
  macro_ : Nat
  hm    : Nat
  deriving DecidableEq, Repr
/-- The members in order: layer descending, macro ascending, half 0 first (R252). -/
def members (s : State) (h : HSet) : List Member :=
  ([3, 2, 1, 0].filter (fun l => h.lmask.getLsbD l)).flatMap (fun l =>
    (List.range (h.mcnt.toNat + 1)).flatMap (fun i =>
      ([0, 1].filter (fun b => h.hmask.getLsbD b)).map (fun b =>
        ⟨l, h.mbase.toNat + i, hmKey s s.cur l (h.mbase.toNat + i) b⟩)))
/-- The access cycle of a member. -/
def beatCycle (s : State) (m : Member) : Nat := now s + 1 + m.layer
/-- The address of the first member with a failing check. -/
def firstBad (ms : List Member) (bad : Member → Bool) (cause sub : Nat) : Option Trap :=
  (ms.find? bad).map (fun m => ⟨cause, sub, 0, BitVec.ofNat 64 (m.layer * 2 ^ 23 + m.macro_ * 2 ^ 16 + m.hm % 2 * 2 ^ 15)⟩)
/-- The half-macros taking part in some cycle would exceed 16 (R241); members whose macro does not exist count (R253; log 18). -/
def overQuota (s : State) (ms : List Member) : Bool :=
  [0, 1, 2, 3].any (fun l =>
    let new := (ms.filter (fun m => m.layer = l)).map (·.hm)
    !new.isEmpty && decide ((quotaAt (me s) (now s + 1 + l) ++ new).eraseDups.length > 16))
/-- The checks of a set word (R253, R265): a macro that does not exist has no mode; ok says whether a member's mode at its access cycle admits the word. -/
def setChecks (s : State) (h : HSet) (quota : Bool) (ok : Member → Bool × FmtN → Bool) : List (Option Trap) :=
  let ms := members s h
  [rigidOnly (me s),
   firstBad ms (fun m => decide (m.macro_ ≥ macroCount s s.cur m.layer)) 0x11 3,
   firstBad ms (fun m => decide (m.macro_ < macroCount s s.cur m.layer) && !ok m (modeAt s (me s) m.hm (beatCycle s m))) 0xA 0,
   trapIf (quota && overQuota s ms) 0xB 0 0,
   firstBad ms (fun m => !lanesOk s s.cur m.layer) 0x14 0,
   trapIf (ms.any (fun m => hmBusy s s.cur (beatCycle s m) m.hm)) 9 0 0]
/-- The word acts at every member at its access cycle. -/
def atMembers (x : Nat → Act) (ms : List Member) (s : State) : State :=
  ms.foldl (fun s m => later s (1 + m.layer) (x m.hm)) s
/-- Compute mode is required. -/
def needCompute (_ : Member) (m : Bool × FmtN) : Bool := m.1

/-! ## The set words (R255 to R263) -/

/-- MPUSH (R255). -/
def execMpush (g : Guard) (q : QSrc) (f : AfN) (p : PlaneN) (u : SegN) (h : HSet) (s : State) : Host.Outcome State Fault Refusal :=
  let af := rdAf (me s) f.toNat
  let fmt : FmtN := af.extractLsb' 12 4
  let sq : QN := af.extractLsb' 8 4
  let src : List QSrc := [q, ⟨q.pk, sq⟩]
  guarded s g (doWord s (illegalIf (decide (p.toNat ≥ fmtWidth fmt ∨ u.toNat ≥ fmtSegs fmt) || sq == q.q) ::
      (srcQs s src ++ setChecks s h true needCompute)) (fun s' =>
    match takeQs (me s') src with
    | some (vs, t) =>
      atMembers (fun hm => .mpush hm fmt p.toNat u.toNat (vs.getD 0 0) (vs.getD 1 0)) (members s h) (setTile s' s'.cur t)
    | none => s'))
/-- MCLR (R261). -/
def execMclr (g : Guard) (h : HSet) (s : State) : Host.Outcome State Fault Refusal :=
  guarded s g (doWord s (setChecks s h false needCompute) (atMembers .mclr (members s h)))
/-- MMODE into compute: the scales are read at issue (R263). -/
def execMmodeC (g : Guard) (f : FmtN) (r : Reg) (h : HSet) (s : State) : Host.Outcome State Fault Refusal :=
  guarded s g (doWord s (useReg s r :: setChecks s h false (fun _ m => !m.1))
    (atMembers (fun hm => .mmode hm true f (rdReg (me s) r)) (members s h)))
/-- MMODE into storage (R263). -/
def execMmodeS (g : Guard) (h : HSet) (s : State) : Host.Outcome State Fault Refusal :=
  guarded s g (doWord s (setChecks s h false (fun _ _ => true)) (atMembers (fun hm => .mmode hm false 0 0) (members s h)))
/-- MPMASK: a BNI format at least as wide (R262). -/
def execMpmask (g : Guard) (m : PlaneN) (h : HSet) (s : State) : Host.Outcome State Fault Refusal :=
  guarded s g (doWord s (setChecks s h false (fun _ x => x.1 && decide (8 ≤ x.2.toNat ∧ m.toNat ≤ fmtWidth x.2)))
    (atMembers (fun hm => .mpmask hm m.toNat) (members s h)))
/-- MSHIFT (R256). -/
def execMshift (g : Guard) (h : HSet) (s : State) : Host.Outcome State Fault Refusal :=
  guarded s g (doWord s (setChecks s h true needCompute) (atMembers .mshift (members s h)))
/-- An update of the accumulation store already lands in the cycle (R258). -/
def asBusy (s : State) (c : Nat) : Option Trap := trapIf ((me s).cal.any (fun p => decide (p.due = c) && actAs p.act)) 9 0 0
/-- The deepest layer of a set. -/
def deepest (ms : List Member) : Nat := (ms.map (·.layer)).foldl max 0
/-- MACC: its values leave the members at their access cycles and land together (R257). -/
def execMacc (g : Guard) (a : Reg) (c : ColG) (x : PerG) (h : HSet) (s : State) : Host.Outcome State Fault Refusal :=
  let row := (rdReg (me s) a).toNat + h.row.toNat
  let ms := members s h
  let lat := 4 + deepest ms
  guarded s g (doWord s (illegalIf (decide (row > 767)) :: useReg s a :: asBusy s (now s + lat) :: setChecks s h true needCompute)
    (fun s => later (atMembers (fun hm => .macc hm x.toNat) ms s) lat (.maccLand row c.toNat (ms.map (·.hm)) [])))

/-! ## The accumulation store (R257 to R260) -/

/-- The entry of a row and a column. -/
def asKey (row col : Nat) : Nat := 128 * row + col
def asGet (t : Tile) (row col : Nat) : XA := tabGet xaEmpty t.acc (asKey row col)
def asSet (t : Tile) (row col : Nat) (x : XA) : Tile := { t with acc := tabSet xaEmpty t.acc (asKey row col) x }
/-- The output format and width of MDRAIN. -/
def drainFmt (t : OutTy) : FFmt :=
  match t.toNat with
  | 0 => fp32
  | 1 => fbf16
  | 2 => fp16
  | 3 => fe4m3
  | _ => fe5m2
def drainW (t : OutTy) : Nat := match t.toNat with | 0 => 4 | 1 | 2 => 2 | _ => 1
/-- MDRAIN (R259). -/
def execMdrain (g : Guard) (q : QN) (t : OutTy) (k : Bool) (a : Reg) (s : State) : Host.Outcome State Fault Refusal :=
  let row := (rdReg (me s) a).toNat
  guarded s g (doWord s [rigidOnly (me s), illegalIf (decide (row + 4 / drainW t - 1 > 767)), useReg s a, dstQ s q]
    (fun s => later s 1 (.mdrain row t k q)))
/-- ASRD (R260). -/
def execAsrd (g : Guard) (q : QN) (a : Reg) (x : ColG) (s : State) : Host.Outcome State Fault Refusal :=
  let row := (rdReg (me s) a).toNat
  guarded s g (doWord s [rigidOnly (me s), illegalIf (decide (row > 767)), useReg s a, dstQ s q]
    (fun s => later s 1 (.asrd row x.toNat q)))
/-- ASWR (R260). -/
def execAswr (g : Guard) (q : QSrc) (a : Reg) (x : ColG) (s : State) : Host.Outcome State Fault Refusal :=
  let row := (rdReg (me s) a).toNat
  guarded s g (doWord s (rigidOnly (me s) :: illegalIf (decide (row > 767)) :: useReg s a :: asBusy s (now s + 1) :: srcQs s [q])
    (fun s' => match takeQs (me s') [q] with
      | some (vs, t) => later (setTile s' s'.cur t) 1 (.aswr row x.toNat (vs.headD 0))
      | none => s'))
/-- The 32 entries of a raw image, and the image of 32 entries (R260). -/
def rawGet (v : QVec) (i : Nat) : XA := v.extractLsb' (96 * i) 96
def rawJoin (l : List XA) : QVec := BitVec.ofNat 4096 (joinBits 96 (l.map (·.toNat)))
/-- The first entry of a run of the store that holds an uncorrectable error (R209). -/
def asEcc (s : State) (id a n : Nat) : Option Trap := worst ((List.range n).map (fun i => eccTrap s 4 id (a + i)))
/-- What ASWR writes when it lands. -/
def putAcc (t : Tile) (row g : Nat) (v : QVec) : Tile :=
  (List.range 32).foldl (fun t i => asSet t row (32 * g + i) (rawGet v i)) t

/-! ## At the half-macro (R233, R250, R255, R256) -/

/-- The bits of a row (R233). -/
def rowBits (h : Half) (r : Nat) : Nat := loadLE h.bytes (120 * r) 120
/-- The weight of a column in a row read to its top pm planes (R234, R255). -/
def weightAt (b pm row col : Nat) : Int := sgn b (row / 2 ^ (b * col)) / (2 ^ (b - pm) : Nat)
/-- The rows of block j that the activation bits select. -/
def rowsOn (h : Half) (f : FmtN) (v : QVec) (p u j : Nat) : List Nat :=
  ((List.range 32).filter (fun i => actBit f v p (256 * u + 32 * j + i) = 1)).map (fun i => rowBits h (32 * j + i))
/-- The block sum after a push (R255). -/
def pushSum (old : BitVec 32) (p : Nat) (x : Int) : BitVec 32 :=
  BitVec.ofInt 32 (if p = 0 then -x else 2 * old.toInt + x)
/-- The block sums of a half-macro after a push. -/
def pushSums (h : Half) (f : FmtN) (p u : Nat) (v : QVec) : Tab (BitVec 32) :=
  let b := fmtWidth h.fmt
  (List.range 8).flatMap (fun j =>
    let rows := rowsOn h f v p u j
    (List.range (fmtCols h.fmt)).map (fun col =>
      (8 * col + j, pushSum (tabGet 0 h.bsum (8 * col + j)) p
        ((rows.map (fun r => weightAt b h.pm r col)).foldl (· + ·) 0))))
/-- A list of pairs as a table without its default. -/
def tabOf {α : Type} [DecidableEq α] (d : α) (l : List (Nat × α)) : Tab α := l.foldl (fun t p => tabSet d t p.1 p.2) []
/-- The scale byte of a block. -/
def scaleByte (w : Word) (j : Nat) : Nat := (w.extractLsb' (8 * j) 8).toNat
/-- The periphery registers after MSHIFT (R256). -/
def shiftPx (h : Half) : List (Nat × XA) :=
  let cols := List.range (fmtCols h.fmt)
  let fa := fmtUnit h.afmt + fmtWidth h.afmt - h.np
  let fw := fmtUnit h.fmt + fmtWidth h.fmt - h.pm
  let es := (List.range 8).map (fun j => (scaleByte h.asc j : Int) - 127 + ((scaleByte h.wscale j : Int) - 127) + fa + fw)
  let nan := (List.range 8).any (fun j => scaleByte h.asc j = 255 || scaleByte h.wscale j = 255)
  if h.np = 0 then []
  else cols.map (fun c => (c, if nan then xaNan
    else ochreShift ((List.range 8).map (fun j => (tabGet 0 h.bsum (8 * c + j)).toInt)) es))
/-- The beat state that MMODE and MCLR leave (R249). -/
def clearBeat (h : Half) : Half := { h with bsum := [], np := 0, afmt := 0, asc := 0x7F7F7F7F7F7F7F7F, px := [] }
/-- MMODE at a half-macro (R238, R263). -/
def modeHalf (compute : Bool) (f : FmtN) (w : Word) (h : Half) : Half :=
  clearBeat { h with mode := compute, fmt := if compute then f else 0, wscale := if compute then w else 0,
                     pm := fmtWidth (if compute then f else 0) }
/-- A beat write that a later mode switch or clear discards (R251). -/
def isForce (hm : Nat) : Act → Bool
  | .bsumIn h .. => h = hm
  | .pxIn h _ => h = hm
  | _ => false
/-- Discards the beat writes in flight of a half-macro. -/
def dropForce (id hm : Nat) (s : State) : State :=
  updTile s id (fun t => { t with cal := t.cal.filter (fun p => !isForce hm p.act) })
/-- The values that a MACC takes from a member go to its landing. -/
def collect (p : Pend) (hm : Nat) (px : List XA) (t : Tile) : Tile :=
  { t with cal := t.cal.map (fun x => match x.act with
      | .maccLand row cb ms got =>
        if x.issue = p.issue ∧ x.pipe = p.pipe then { x with act := .maccLand row cb ms (got ++ [(hm, px)]) } else x
      | _ => x) }
/-- Mode words first, then, with the writes of earlier cycles in force, the beats. -/
def isBeat (mode : Bool) : Act → Bool
  | .mmode .. | .mclr .. | .mpmask .. => mode
  | .mpush .. | .mshift .. | .macc .. => !mode
  | _ => false
/-- The first of 32 periphery registers that holds an uncorrectable error (R209, log 30). -/
def pxEcc (s : State) (hm col : Nat) : Option Trap := worst ((List.range 32).map (fun i => eccTrap s 4 (768 + hm) (col + i)))
/-- BEAT_ACCESS: one X word acts at one half-macro at its access cycle (R250). The event names the tile, and with its
flag the mode words, which act before the beat writes of the cycle come into force. -/
def execBeatAccess (s0 : State) : Host.Outcome State Fault Refusal :=
  let id := s0.ev.a
  match takeDue s0 id (isBeat s0.ev.flag) with
  | none => .next s0
  | some (p, s) =>
    let c := tcAt s id
    let hm := (actHalf p.act).getD 0
    let h := halfOf s hm
    let a := m1Word s hm 0
    if !lanesOk s id (hmLayer hm) then .next (engineTrap ⟨0x14, 0, 0, a⟩ p id s0)
    else match p.act with
    | .mmode hm cmp f w => .next (dropForce id hm (setHalf s hm (modeHalf cmp f w h)))
    | .mclr hm => .next (dropForce id hm (setHalf s hm (clearBeat h)))
    | .mpmask hm m => .next (setHalf s hm { h with pm := m })
    | .mpush hm f pl u v sc =>
      if rowBad s hm then .next (engineTrap ⟨0x16, 0, 0, a⟩ p id s)
      else
        .next (follow id p (c + 1) (.bsumIn hm (tabOf 0 (pushSums (seenHalf s hm h) f pl u v)) (if pl = 0 then 1 else min (h.np + 1) 15)
          (if pl = 0 then some (f, (List.range 8).map (fun j => BitVec.ofNat 8 (qbyte sc (8 * u + j)))) else none)) s)
    | .mshift hm => .next (follow id p (c + 2) (.pxIn hm (tabOf xaEmpty (shiftPx h))) s)
    | .macc hm g =>
      match pxEcc s hm (32 * g) with
      | some f => .next (engineTrap f p id s)
      | none => .next (updTile s id (collect p hm ((List.range 32).map (fun i =>
        if 32 * g + i < fmtCols h.fmt then tabGet xaEmpty h.px (32 * g + i) else xaEmpty))))
    | _ => .next s
/-- The beat writes that come into force. -/
def isInForce : Act → Bool
  | .bsumIn .. | .pxIn .. => true
  | _ => false
/-- The eight scale bytes as a word. -/
def packScales (l : List Byte) : Word := BitVec.ofNat 64 (joinBits 8 (l.map (·.toNat)))
/-- BEAT_WRITE_IN_FORCE: block sums or periphery registers come into force (R250, R251). The event names the tile. -/
def execBeatWriteInForce (s : State) : Host.Outcome State Fault Refusal :=
  match takeDue s s.ev.a isInForce with
  | none => .next s
  | some (p, s) =>
    match p.act with
    | .bsumIn hm b np lat =>
      let h := { halfOf s hm with bsum := b, np := np }
      .next (setHalf s hm (match lat with
        | some (f, sc) => { h with afmt := f, asc := packScales sc }
        | none => h))
    | .pxIn hm px => .next (setHalf s hm { halfOf s hm with px := px })
    | _ => .next s

/-! ## Landings and reads of the store (R257 to R259) -/

/-- The fold of the members' values for one column, and whether it saturated (R257). -/
def foldCol (ms : List Nat) (got : List (Nat × List XA)) (i : Nat) : XA × Bool :=
  ms.foldl (fun v hm =>
    let r := xaAdd v.1 ((((got.find? (fun p => p.1 = hm)).map (·.2)).getD []).getD i xaEmpty)
    (r.1, v.2 || r.2)) (xaEmpty, false)
/-- The entries of a row with a fold added; the flag says whether a step saturated. -/
def landCols (row cb : Nat) (ms : List Nat) (got : List (Nat × List XA)) (t : Tile) : Tile × Bool :=
  (List.range 32).foldl (fun (x : Tile × Bool) i =>
    let v := foldCol ms got i
    let r := xaAdd (asGet x.1 row (32 * cb + i)) v.1
    (asSet x.1 row (32 * cb + i) r.1, x.2 || v.2 || r.2)) (t, false)
/-- The landings of MACC. -/
def isMaccLand : Act → Bool
  | .maccLand .. => true
  | _ => false
/-- MACC_LANDS: the folded results add into 32 entries, and MOF is set when a step saturates (R257). The event names the
tile. -/
def execMaccLands (s : State) : Host.Outcome State Fault Refusal :=
  let id := s.ev.a
  match takeDue s id isMaccLand with
  | none => .next s
  | some (p, s) =>
    match p.act with
    | .maccLand row cb ms got =>
      match asEcc s id (asKey row (32 * cb)) 32 with
      | some f => .next (engineTrap f p id s)
      | none =>
        let r := landCols row cb ms got (tileOf s id)
        let t := if r.2 then setFlags r.1 .astat 1 else r.1
        .next (setTile s id t)
    | _ => .next s
/-- The reads of the store. -/
def isAsRead : Act → Bool
  | .mdrain .. | .asrd .. => true
  | _ => false
/-- Empties n entries from a row (R258). -/
def clearRow (row n : Nat) (t : Tile) : Tile := (List.range n).foldl (fun t i => asSet t (row + i / 128) (i % 128) xaEmpty) t
/-- AS_READ: MDRAIN or ASRD reads the store (R258 to R260). The event names the tile. -/
def execAsRead (s : State) : Host.Outcome State Fault Refusal :=
  let id := s.ev.a
  match takeDue s id isAsRead with
  | none => .next s
  | some (p, s) =>
    let c := tcAt s id
    let t := tileOf s id
    match p.act with
    | .mdrain row ty clr q =>
      let n := 512 / drainW ty
      match asEcc s id (asKey row 0) n with
      | some f => .next (engineTrap f p id s)
      | none =>
        let r := (List.range n).map (fun i => xaDrain (drainFmt ty) (asGet t (row + i / 128) (i % 128)))
        let v := ofLanes (drainW ty) (r.map (·.bits))
        let fl := ofNvA (r.any (·.ovf)) (r.any (·.nv))
        let s := follow id p (c + 4) (.push q v) s
        let s := if fl = 0 then s else follow id p (c + 4) (.flags .astat fl) s
        .next (if clr then updTile s id (clearRow row n) else s)
    | .asrd row g q =>
      match asEcc s id (asKey row (32 * g)) 32 with
      | some f => .next (engineTrap f p id s)
      | none => .next (follow id p (c + 2) (.push q (rawJoin ((List.range 32).map (fun i => asGet t row (32 * g + i))))) s)
    | _ => .next s

end Sys2Proof.Machine
end

