-- ==== Sys2Proof/Machine/Dram.lean ====
section
/-! DEFINITION. The memory command slot (R271 to R281, R285 to R297): timing rows, refresh and retention, the D words
and their data transfers. -/

namespace Sys2Proof.Machine

/-! ## Timing (R26, R27, R274) -/

/-- The published timing of a channel (R26). -/
def timingOf (s : State) (ch : Nat) : Timing := tabGet (chanTypical ch) s.disc.chans ch
/-- A minimum interval or latency at slice factor f. -/
def ceilDiv (v f : Nat) : Nat := (v + f - 1) / f
/-- The checked value of field k of R26 at slice factor f (R27): tREFI and PPLIM are maximum intervals. -/
def field (tm : Timing) (f k : Nat) : Nat :=
  let v := tm.fields.getD k 0
  if f = 0 then v else if k = 14 ∨ k = 17 then v / f else ceilDiv v f
/-- The checked tRET, FABRD and FABWR. -/
def tRet (tm : Timing) (f : Nat) : Nat := if f = 0 then tm.tret else tm.tret / f
def fabRd (tm : Timing) (f : Nat) : Nat := if f = 0 then tm.fabrd else ceilDiv tm.fabrd f
def fabWr (tm : Timing) (f : Nat) : Nat := if f = 0 then tm.fabwr else ceilDiv tm.fabwr f
/-- The bank group of a bank (R274). -/
def groupOf (tm : Timing) (b : Nat) : Nat := if tm.banks = 0 then 0 else b * tm.groups / tm.banks
def bankAt (c : Chan) (b : Nat) : Bank := tabGet Bank.idle c.banks b
def setBank (c : Chan) (b : Nat) (x : Bank) : Chan := { c with banks := tabSet Bank.idle c.banks b x }
/-- The cycle x comes before o + d. -/
def tooSoon (x d : Nat) (o : Option Nat) : Bool :=
  match o with
  | none => false
  | some a => decide (x < a + d)

/-! ## Lines of the arrays (log 8) -/

/-- The number of a line: channel of R26, bank, row, column of 64 bytes. -/
def lineCode (ch b row col : Nat) : Nat := ((ch * 16 + b) * 2 ^ 20 + row) * 32 + col
/-- Exchanges two numbers. -/
def swapOne (x : Nat) (p : Nat × Nat) : Nat := if x = p.1 then p.2 else if x = p.2 then p.1 else x
/-- The physical line of a line number, and back. -/
def physLine (n : Nat) : Nat := Config.lineSwaps.foldl swapOne n
def lineOfPhys (n : Nat) : Nat := Config.lineSwaps.reverse.foldl swapOne n
/-- The place in memory of a line of a row (R291). -/
def linePlace (ch b row col : Nat) : Nat := 64 * physLine (lineCode ch b row col)
/-- The channel, bank, row and column that hold a physical address. -/
def chanOf (p : Nat) : Nat := lineOfPhys (p / 64) / 2 ^ 29
def bankOf (p : Nat) : Nat := lineOfPhys (p / 64) / 2 ^ 25 % 16
def rowOfPlace (p : Nat) : Nat := lineOfPhys (p / 64) / 32 % 2 ^ 20
def colOfPlace (p : Nat) : Nat := lineOfPhys (p / 64) % 32

/-! ## Timing rows (R274) -/

/-- The first cycle at which an interval d from an event is over. -/
def past (d : Nat) (o : Option Nat) : Nat := match o with | none => 0 | some a => a + d
/-- tRP: a bank must be precharged, and tRP must have passed. -/
def rpFrom (tm : Timing) (f : Nat) (c : Chan) (b : Nat) : Bool × Nat :=
  ((bankAt c b).row.isSome, past (field tm f 1) (bankAt c b).pre)
/-- A precharge of an open bank: tRAS, tWR, tRTP. -/
def preFrom (tm : Timing) (f : Nat) (c : Chan) (b : Nat) : List (Nat × Bool × Nat) :=
  let k := bankAt c b
  if k.row.isNone then []
  else [(2, false, past (field tm f 2) k.act), (9, false, past (field tm f 13 + field tm f 7 + field tm f 9) k.wr),
        (10, false, past (field tm f 10) k.rd)]
/-- A column command: tRCD, tCCD_S, tCCD_L, and tWTR for a read; the data cycles are a check of their own. -/
def colFrom (tm : Timing) (f : Nat) (c : Chan) (b : Nat) (rd : Bool) : List (Nat × Bool × Nat) :=
  let k := bankAt c b
  let B := field tm f 7
  let last (same : Bool) (d : Nat) : Nat :=
    (c.lastCol.map (fun p => if (p.1 == groupOf tm b) = same then p.2 + d else 0)).foldl max 0
  [(0, k.row.isNone, past (field tm f 0) k.act), (7, false, last false B), (8, false, last true (field tm f 8)),
   (11, false, if rd then past (field tm f 13 + B + field tm f 11) c.lastWr else 0)]
/-- The rows of R274 that a command is checked against: whether the state breaks each, and the first cycle that it
allows (R288). -/
def dFrom (tm : Timing) (f : Nat) (c : Chan) : DCmd → List (Nat × Bool × Nat)
  | .act b _ =>
    let k := bankAt c b
    [(1, rpFrom tm f c b), (3, false, past (field tm f 3) k.act),
     (4, false, past (field tm f 4) ((c.acts.find? (fun p => groupOf tm p.1 ≠ groupOf tm b)).map (·.2))),
     (5, false, past (field tm f 5) ((c.acts.find? (fun p => groupOf tm p.1 = groupOf tm b && p.1 ≠ b)).map (·.2))),
     (6, false, past (field tm f 6) ((c.acts[3]?).map (·.2))),
     (15, false, past (field tm f 15) c.ref), (16, false, past (field tm f 16) k.refb)]
  | .pre b => preFrom tm f c b ++ [(15, false, past (field tm f 15) c.ref)]
  | .prea => (List.range tm.banks).flatMap (preFrom tm f c) ++ [(15, false, past (field tm f 15) c.ref)]
  | .rd b _ => colFrom tm f c b true ++ [(15, false, past (field tm f 15) c.ref)]
  | .wr b _ => colFrom tm f c b false ++ [(15, false, past (field tm f 15) c.ref)]
  | .ref | .other =>
    (List.range tm.banks).map (fun b => (1, rpFrom tm f c b)) ++ [(15, false, past (field tm f 15) c.ref)]
  | .refb b =>
    [(1, rpFrom tm f c b), (15, false, past (field tm f 15) c.ref), (16, false, past (field tm f 16) c.refb)]
/-- Cycles from a column command to its data: none for other commands. -/
def dataLat (tm : Timing) (f : Nat) : DCmd → Option Nat
  | .rd .. => some (field tm f 12)
  | .wr .. => some (field tm f 13)
  | _ => none
/-- The data cycles of the command at x overlap those of another column command (R274, row 0x07). -/
def dataHit (tm : Timing) (f : Nat) (c : Chan) (x : Nat) (k : DCmd) : Bool :=
  let B := field tm f 7
  match dataLat tm f k with
  | some l => c.data.any (fun y => decide (x + l < y + B ∧ y < x + l + B))
  | none => false
/-- The rows that a command at x breaks. -/
def dRows (tm : Timing) (f : Nat) (c : Chan) (x : Nat) (k : DCmd) : List (Nat × Bool) :=
  (dFrom tm f c k).map (fun r => (r.1, r.2.1 || decide (x < r.2.2))) ++ [(7, dataHit tm f c x k)]
/-- A cycle from x on at which the command breaks no interval: the first, but that all data of earlier commands is
through (R282). -/
def legalFrom (tm : Timing) (f : Nat) (c : Chan) (k : DCmd) (x : Nat) : Nat :=
  let e := ((dFrom tm f c k).map (·.2.2)).foldl max x
  match dataLat tm f k with
  | some l => (c.data.map (fun y => y + field tm f 7 - l)).foldl max e
  | none => e
/-- The lowest violated row (R275). -/
def dViol (tm : Timing) (f : Nat) (c : Chan) (x : Nat) (k : DCmd) : Option Nat :=
  ((dRows tm f c x k).filter (·.2)).foldl (fun m p => match m with
    | none => some p.1
    | some y => some (if p.1 < y then p.1 else y)) none
/-- The bank has passed its retention deadline (R278). -/
def expiredAt (c : Chan) (x b : Nat) : Bool :=
  (bankAt c b).eph && ((bankAt c b).expired || decide (x ≥ (bankAt c b).limit))

/-- A credit for the refresh account, where pull-in allows one (R277). -/
def creditRef (tm : Timing) (f x : Nat) (c : Chan) : Chan :=
  if c.t0 + field tm f 14 * c.credit ≤ x + field tm f 17 then { c with credit := c.credit + 1 } else c
/-- Moves the retention deadline of an ephemeral bank that has not expired (R278, R295). -/
def moveLimit (tm : Timing) (f x : Nat) (b : Nat) (c : Chan) : Chan :=
  let k := bankAt c b
  if k.eph && !expiredAt c x b then setBank c b { k with limit := x + tRet tm f } else c
/-- Closes an open bank and records the cycle for tRP (R290). -/
def closeBank (x b : Nat) (c : Chan) : Chan :=
  let k := bankAt c b
  if k.row.isSome then setBank c b { k with row := none, pre := some x, byWin := false } else c
/-- A column command is recorded for tCCD, the data cycles, and tRTP or tWR with tWTR. -/
def recordCol (tm : Timing) (f x b : Nat) (rd : Bool) (c : Chan) : Chan :=
  let B := field tm f 7
  let k := bankAt c b
  let c := { c with lastCol := tabPut (tabDel c.lastCol (groupOf tm b)) (groupOf tm b) x,
                    data := (x + field tm f (if rd then 12 else 13)) :: c.data.filter (fun y => decide (x < y + B)),
                    lastWr := if rd then c.lastWr else some x }
  setBank c b (if rd then { k with rd := some x } else { k with wr := some x })
/-- What a legal command does to the channel's state; only the commands of D words move a retention deadline (R278, R289,
R290, R295, R297). -/
def dApply (tm : Timing) (f x : Nat) (byWin : Bool) (k : DCmd) (c : Chan) : Chan :=
  match k with
  | .act b row =>
    let q := bankAt c b
    let q := { q with row := some row, act := some x, byWin := byWin, limit := if q.eph && !byWin then x + tRet tm f else q.limit }
    { setBank c b q with acts := ((b, x) :: c.acts).take 16 }
  | .pre b => closeBank x b c
  | .prea => (List.range tm.banks).foldl (fun c b => closeBank x b c) c
  | .rd b _ => recordCol tm f x b true c
  | .wr b _ => recordCol tm f x b false c
  | .ref => creditRef tm f x ((List.range tm.banks).foldl (fun c b => moveLimit tm f x b c) { c with ref := some x })
  | .refb b =>
    let c := moveLimit tm f x b { c with refb := some x }
    let c := setBank c b { bankAt c b with refb := some x }
    if (bankAt c b).eph then c
    else
      let r := if c.round.contains b then c.round else b :: c.round
      if (List.range tm.banks).all (fun i => (bankAt c i).eph || r.contains i) then creditRef tm f x { c with round := [] }
      else { c with round := r }
  | .other => { c with ref := some x }

/-! ## The form of a D word (R287, R288) -/

/-- A window covers the cycle (R279). -/
def winCovers (c : Chan) (x : Nat) : Bool :=
  match c.win with
  | none => false
  | some (a, b) => decide (a ≤ x ∧ x ≤ b)
/-- The slice factor that a tile's timetable runs at (R107). -/
def factorOf (s : State) (id : Nat) : Nat := imgSlice (ttOf s (tileOf s id).tt).img
/-- The channel that a D word of the tile names. -/
def chHere (s : State) (lp : Bool) : Nat := dChan s.cur lp
/-- TADDR of a D word (R205). -/
def dAddr (ch b row col : Nat) : Word :=
  BitVec.ofNat 64 (ch * 2 ^ 48 + b * 2 ^ 40 + row % 2 ^ 24 * 2 ^ 16 + col)
/-- The address of a command: 0 in a field that it does not use; a column command uses the open row. -/
def cmdAddr (ch : Nat) (c : Chan) : DCmd → Word
  | .act b row => dAddr ch b row 0
  | .pre b => dAddr ch b 0 0
  | .rd b col => dAddr ch b ((bankAt c b).row.getD 0) col
  | .wr b col => dAddr ch b ((bankAt c b).row.getD 0) col
  | .refb b => dAddr ch b 0 0
  | _ => dAddr ch 0 0 0
/-- The checks that every command makes: rigid code, the window, the timing rows, retention (R281, R288). -/
def dChecks (s : State) (lp : Bool) (k : DCmd) : List (Option Trap) :=
  let ch := chHere s lp
  let c := chanAt s ch
  let tm := timingOf s ch
  let a := cmdAddr ch c k
  [rigidOnly (me s), trapIf (winCovers c (now s)) 0x10 0 a,
   (match dViol tm (factorOf s s.cur) c (now s) k with | some r => some ⟨0xD, r, 0, a⟩ | none => none),
   (match k with
    | .act b _ => trapIf (expiredAt c (now s) b) 0xF 0 a
    | .rd b _ => trapIf (expiredAt c (now s) b) 0xF 0 a
    | _ => none)]
/-- The command acts on its channel. -/
def dDo (lp : Bool) (k : DCmd) (s : State) : State :=
  let ch := chHere s lp
  setChan s ch (dApply (timingOf s ch) (factorOf s s.cur) (now s) false k (chanAt s ch))

/-- The word names a channel that its tile owns (R287). -/
def chLegal (s : State) (lp : Bool) : Option Trap := illegalIf (lp && !ownsLp s.cur)
/-- A D word: what makes it illegal counts whatever its guard, because R48 judges a word at decode; everything else only
when the guard holds (R42, R48, R287, R288; log 18). -/
def dWord (s : State) (g : Guard) (illegal checks : List (Option Trap)) (effect : State → State) : Host.Outcome State Fault Refusal :=
  match worst illegal with
  | some x => .next (trapHere x s)
  | none => guarded s g (doWord s checks effect)

/-! ## Activate, precharge, refresh (R289, R290, R295) -/

/-- A literal row is below the channel's rows per bank (R287). -/
def rowLegal (s : State) (ch : Bool) : RegLit → Option Trap
  | .lit v => illegalIf (decide (v.toNat ≥ (timingOf s (chHere s ch)).rows))
  | .reg _ => none
/-- DACT: a register row at or above the rows per bank is illegal at issue (R287). -/
def execDact (g : Guard) (ch : Bool) (b : BankN) (row : RegLit) (s : State) : Host.Outcome State Fault Refusal :=
  let r := (rlWord (me s) row).toNat
  dWord s g [chLegal s ch, rowLegal s ch row] (illegalIf (decide (r ≥ (timingOf s (chHere s ch)).rows)) :: rlUse s row ::
    dChecks s ch (.act b.toNat r)) (dDo ch (.act b.toNat r))
/-- DPRE. -/
def execDpre (g : Guard) (ch : Bool) (b : BankN) (s : State) : Host.Outcome State Fault Refusal :=
  dWord s g [chLegal s ch] (dChecks s ch (.pre b.toNat)) (dDo ch (.pre b.toNat))
/-- DPREA. -/
def execDprea (g : Guard) (ch : Bool) (s : State) : Host.Outcome State Fault Refusal :=
  dWord s g [chLegal s ch] (dChecks s ch .prea) (dDo ch .prea)
/-- DREF. -/
def execDref (g : Guard) (ch : Bool) (s : State) : Host.Outcome State Fault Refusal :=
  dWord s g [chLegal s ch] (dChecks s ch .ref) (dDo ch .ref)
/-- DREFB. -/
def execDrefb (g : Guard) (ch : Bool) (b : BankN) (s : State) : Host.Outcome State Fault Refusal :=
  dWord s g [chLegal s ch] (dChecks s ch (.refb b.toNat)) (dDo ch (.refb b.toNat))

/-! ## Reads and writes (R291 to R294) -/

/-- The column exists in the channel (R287). -/
def colCheck (s : State) (ch : Bool) (o : ColN) : Option Trap :=
  illegalIf (decide (o.toNat ≥ (timingOf s (chHere s ch)).cols))
/-- The checks of an M0 place at its access cycle (R291). -/
def placeM0 (s : State) (c : Nat) (a : Word) : List (Option Trap) := m0Checks s c a 64
/-- The checks of a half-macro line at its access cycle (R291). -/
def placeSh (s : State) (c : Nat) (a : Word) : List (Option Trap) :=
  let f := m1Fields a
  let adr := xlate f.rem 3 a :: m1AddrChecks s a 64
  if (worst adr).isSome then adr else adr ++ hmChecks s c a (m1Half s s.cur f)
/-- The landing cycle of a DRD, and the source cycle of a DWR (R276). -/
def drdLat (s : State) (ch : Bool) : Nat :=
  let tm := timingOf s (chHere s ch)
  field tm (factorOf s s.cur) 12 + fabRd tm (factorOf s s.cur)
def dwrLat (s : State) (ch : Bool) : Nat :=
  let tm := timingOf s (chHere s ch)
  max (field tm (factorOf s s.cur) 13 - fabWr tm (factorOf s s.cur)) 1
/-- The cycles until the data of a DWR is at the channel. -/
def wlLat (s : State) (ch : Bool) : Nat := field (timingOf s (chHere s ch)) (factorOf s s.cur) 13
/-- A DRD takes its line and sends it to a place (R292, log 15). -/
def drdGo (ch : Bool) (b : BankN) (o : ColN) (dst : DPlace) (s : State) : State :=
  let c := chHere s ch
  let row := (bankAt (chanAt s c) b.toNat).row.getD 0
  let p := linePlace c b.toNat row o.toNat
  let s' := dDo ch (.rd b.toNat o.toNat) s
  later s' (drdLat s ch) (.drd c b.toNat row o.toNat (loadLE s.mem p 64) (eccLines s 7 0 p 64) dst)
/-- DRD.m0. -/
def execDrdM0 (g : Guard) (ch : Bool) (b : BankN) (o : ColN) (a : Reg) (s : State) : Host.Outcome State Fault Refusal :=
  let x := rdReg (me s) a
  dWord s g [chLegal s ch, colCheck s ch o] (useReg s a :: (dChecks s ch (.rd b.toNat o.toNat) ++
    placeM0 s (now s + drdLat s ch) x)) (drdGo ch b o (.m0 x.toNat))
/-- DRD.sh. -/
def execDrdSh (g : Guard) (ch : Bool) (b : BankN) (o : ColN) (a : Reg) (s : State) : Host.Outcome State Fault Refusal :=
  let x := rdReg (me s) a
  dWord s g [chLegal s ch, colCheck s ch o] (useReg s a :: (dChecks s ch (.rd b.toNat o.toNat) ++
    placeSh s (now s + drdLat s ch) x)) (drdGo ch b o (.sh (m1Half s s.cur (m1Fields x)) (m1Fields x).ofs))
/-- DRD.q. -/
def execDrdQ (g : Guard) (ch : Bool) (b : BankN) (o : ColN) (q : QN) (s : State) : Host.Outcome State Fault Refusal :=
  dWord s g [chLegal s ch, colCheck s ch o] (dstQ s q :: dChecks s ch (.rd b.toNat o.toNat)) (drdGo ch b o (.q q))
/-- A DWR from a place that it reads at its source cycle (R293). -/
def dwrGo (ch : Bool) (b : BankN) (o : ColN) (src : DPlace) (s : State) : State :=
  let c := chHere s ch
  let row := (bankAt (chanAt s c) b.toNat).row.getD 0
  later (dDo ch (.wr b.toNat o.toNat) s) (dwrLat s ch) (.dwrRead c b.toNat row o.toNat src (now s + wlLat s ch))
/-- DWR.m0. -/
def execDwrM0 (g : Guard) (ch : Bool) (b : BankN) (o : ColN) (a : Reg) (s : State) : Host.Outcome State Fault Refusal :=
  let x := rdReg (me s) a
  dWord s g [chLegal s ch, colCheck s ch o] (useReg s a :: (dChecks s ch (.wr b.toNat o.toNat) ++
    placeM0 s (now s + dwrLat s ch) x)) (dwrGo ch b o (.m0 x.toNat))
/-- DWR.sh. -/
def execDwrSh (g : Guard) (ch : Bool) (b : BankN) (o : ColN) (a : Reg) (s : State) : Host.Outcome State Fault Refusal :=
  let x := rdReg (me s) a
  dWord s g [chLegal s ch, colCheck s ch o] (useReg s a :: (dChecks s ch (.wr b.toNat o.toNat) ++
    placeSh s (now s + dwrLat s ch) x)) (dwrGo ch b o (.sh (m1Half s s.cur (m1Fields x)) (m1Fields x).ofs))
/-- DWR.q: its line is popped or peeked at issue. -/
def execDwrQ (g : Guard) (ch : Bool) (b : BankN) (o : ColN) (q : QSrc) (s : State) : Host.Outcome State Fault Refusal :=
  dWord s g [chLegal s ch, colCheck s ch o] (srcQs s [q] ++ dChecks s ch (.wr b.toNat o.toNat)) (fun s' =>
    match takeQs (me s') [q] with
    | some (vs, t) =>
      let c := chHere s ch
      let row := (bankAt (chanAt s c) b.toNat).row.getD 0
      later (dDo ch (.wr b.toNat o.toNat) (setTile s' s'.cur t)) (wlLat s ch)
        (.dwrQ c b.toNat row o.toNat ((vs.headD 0).toNat % 2 ^ 512))
    | none => s')

/-! ## Windows and firmware words (R279, R296, R297) -/

/-- DWIN: opens a window for the n cycles after this one, or ends the open one with this cycle (R279, R281). -/
def execDwin (g : Guard) (ch : Bool) (n : WinLen) (s : State) : Host.Outcome State Fault Refusal :=
  let c := chHere s ch
  dWord s g [chLegal s ch] [rigidOnly (me s), trapIf (decide (n ≠ 0) && winCovers (chanAt s c) (now s)) 0x10 0 (dAddr c 0 0 0)]
    (fun s' =>
      let k := chanAt s' c
      if n ≠ 0 then setChan s' c { k with win := some (now s + 1, now s + n.toNat) }
      else match k.win with
        | some (a, _) =>
          if winCovers k (now s) then setChan s' c { k with win := some (a, now s), closed := some (now s, (me s).bun) } else s'
        | none => s')
/-- DMRW: privileged; writes a mode register of the channel's devices and occupies it for tRFC (R297). -/
def execDmrw (g : Guard) (ch : Bool) (m : ModeReg) (a : Reg) (s : State) : Host.Outcome State Fault Refusal :=
  let c := chHere s ch
  dWord s g [chLegal s ch, privCheck s] (useReg s a :: dChecks s ch .other) (fun s' =>
    let s' := dDo ch .other s'
    setChan s' c { chanAt s' c with mode := tabSet 0 (chanAt s' c).mode m.toNat ((rdReg (me s) a).setWidth 8) })
/-- DZQ: privileged; starts impedance calibration and occupies the channel for tRFC (R297). -/
def execDzq (g : Guard) (ch : Bool) (s : State) : Host.Outcome State Fault Refusal :=
  dWord s g [chLegal s ch, privCheck s] (dChecks s ch .other) (dDo ch .other)

/-! ## Transfers (R292 to R294) -/

/-- The line transfers of DRD. -/
def isDrd : Act → Bool
  | .drd .. => true
  | _ => false
/-- The address that a fault at a half-macro line reports. -/
def modeTrap (s : State) (hm ofs : Nat) : Trap := ⟨0xA, 0, 0, m1Word s hm ofs⟩
/-- DRD_LANDS: the line of a DRD reaches its place, or the domain freezes on an uncorrectable error, or on a
half-macro that has come to compute mode meanwhile (R238, R292, R294). The event names the tile. -/
def execDrdLands (s0 : State) : Host.Outcome State Fault Refusal :=
  let id := s0.ev.a
  match takeDue s0 id isDrd with
  | none => .next s0
  | some (p, s) =>
    match p.act with
    | .drd ch b row col line bad dst =>
      if bad then .next (engineTrap ⟨0x16, 0, 0, dAddr ch b row col⟩ p id s)
      else match dst with
        | .m0 a => .next (healed 2 id a 64 (updTile s id (fun t => { t with m0 := storeLE t.m0 a line 64 })))
        | .sh hm ofs =>
          let h := halfOf s hm
          if h.mode then .next (engineTrap (modeTrap s hm ofs) p id s)
          else if !lanesOk s id (hmLayer hm) then .next (engineTrap ⟨0x14, 0, 0, m1Word s hm ofs⟩ p id s0)
          else .next (hmHeal hm ofs 64 (setHalf s hm { h with bytes := storeLE h.bytes ofs line 64 }))
        | .q q => .next (updTile s id (fun t => landQ t q (BitVec.ofNat 4096 line) p.pipe p.bun))
    | _ => .next s
/-- The data movements of DWR. -/
def isDwr : Act → Bool
  | .dwrRead .. | .dwrQ .. => true
  | _ => false
/-- The data of a DWR goes on to the row, at its cycle (R293). -/
def toRow (id : Nat) (p : Pend) (due ch b row col v : Nat) (s : State) : State :=
  if due ≤ tcAt s id then healed 7 0 (linePlace ch b row col) 64 { s with mem := storeLE s.mem (linePlace ch b row col) v 64 }
  else follow id p due (.dwrQ ch b row col v) s
/-- DWR_SOURCE_READ: a DWR reads its source, or its data reaches the row (R293). The event names the tile. -/
def execDwrSourceRead (s0 : State) : Host.Outcome State Fault Refusal :=
  let id := s0.ev.a
  match takeDue s0 id isDwr with
  | none => .next s0
  | some (p, s) =>
    match p.act with
    | .dwrQ ch b row col v => .next (healed 7 0 (linePlace ch b row col) 64 { s with mem := storeLE s.mem (linePlace ch b row col) v 64 })
    | .dwrRead ch b row col src due =>
      match src with
      | .m0 a =>
        if eccLines s 2 id a 64 then .next (engineTrap ⟨0x16, 0, 0, BitVec.ofNat 64 a⟩ p id s)
        else .next (toRow id p due ch b row col (loadLE (tileOf s id).m0 a 64) s)
      | .sh hm ofs =>
        let h := halfOf s hm
        if h.mode then .next (engineTrap (modeTrap s hm ofs) p id s)
        else if !lanesOk s id (hmLayer hm) then .next (engineTrap ⟨0x14, 0, 0, m1Word s hm ofs⟩ p id s0)
        else if hmBad s hm ofs 64 then .next (engineTrap ⟨0x16, 0, 0, m1Word s hm ofs⟩ p id s)
        else .next (hmFix hm ofs 64 (toRow id p due ch b row col (loadLE h.bytes ofs 64) s))
      | .q _ => .next s
    | _ => .next s

end Sys2Proof.Machine
end

