-- ==== Sys2Proof/Machine/Discovery.lean ====
section
/-! DEFINITION. The discovery table as bytes (R22 to R26): what a load from its page and the host's discovery window
read; and reads of physical memory. -/

namespace Sys2Proof.Machine

/-- Byte k of a number, little-endian. -/
def leByte (v k : Nat) : Nat := v / 256 ^ k % 256
/-- The numbers of a table of (offset, size, value) at a byte; 0 where none stands. -/
def tableByte (o : Nat) : List (Nat × Nat × Nat) → Nat
  | [] => 0
  | (a, n, v) :: r => if a ≤ o ∧ o < a + n then leByte v (o - a) else tableByte o r
/-- The header (R23); n is the length of the signature. -/
def discHeader (s : State) (n : Nat) : List (Nat × Nat × Nat) :=
  let d := s.disc
  [(0x00, 4, 0x4C4E5944), (0x04, 2, 1), (0x06, 2, 64), (0x08, 8, d.serial), (0x10, 4, Config.discOfs 3 + n),
   (0x14, 1, d.slice), (0x15, 1, d.profiles), (0x16, 2, 1), (0x18, 8, d.epoch)]
  ++ (List.range 6).map (fun i => (0x20 + i, 1, d.dead.getD i 0))
  ++ [(0x28, 4, Config.discOfs 0), (0x2C, 4, Config.discOfs 1), (0x30, 4, Config.discOfs 2), (0x34, 4, Config.discOfs 3),
      (0x38, 2, 816), (0x3A, 2, d.therm)]
/-- Byte k of a channel's entry (R26). -/
def chanEntry (s : State) (ch k : Nat) : Nat :=
  let t := timingOf s ch
  if k < 36 then leByte (t.fields.getD (k / 2) 0) (k % 2)
  else tableByte k [(0x24, 4, t.tret), (0x28, 2, t.fabrd), (0x2A, 2, t.fabwr), (0x2C, 1, t.banks), (0x2D, 1, t.groups),
    (0x2E, 1, if t.lp6 then 1 else 0), (0x30, 4, t.rows), (0x34, 2, t.cols)]
/-- A byte below the signature; n is the signature's length. -/
def discBody (s : State) (n o : Nat) : Nat :=
  let r := Config.discOfs 0
  let c := Config.discOfs 1
  let h := Config.discOfs 2
  if o < 64 then tableByte o (discHeader s n)
  else if r ≤ o ∧ o < r + 1536 then
    leByte (shaftOf s ((o - r) / 2) % 256 * 256 + hostOf s ((o - r) / 2) % 256) ((o - r) % 2)
  else if c ≤ o ∧ o < c + 3072 then macroCount s ((o - c) / 4) ((o - c) % 4)
  else if h ≤ o ∧ o < h + 52224 then chanEntry s ((o - h) / 64) ((o - h) % 64)
  else 0
/-- The signature covers the bytes before it (R22); its length is that of a signature. -/
def discSig (s : State) : List Byte :=
  let n := (Config.falconSign []).length
  Config.falconSign ((List.range (Config.discOfs 3)).map (fun o => BitVec.ofNat 8 (discBody s n o)))
/-- A byte of the table's page (R22). -/
def discByte (s : State) (o : Nat) : Byte :=
  let f := Config.discOfs 3
  if f ≤ o then (discSig s).getD (o - f) 0
  else BitVec.ofNat 8 (discBody s (Config.falconSign []).length o)
/-- The place of a byte is in the discovery table's page. -/
def inDisc (p : Nat) : Bool := 2 ^ 62 ≤ p && p < 2 ^ 62 + 2 ^ 21
/-- A byte of physical memory, host and peer memory, or the discovery table. -/
def physByte (s : State) (p : Nat) : Byte := if inDisc p then discByte s (p - 2 ^ 62) else byteAt s.mem p
/-- The n bytes from a place as a number (R3). -/
def physLE (s : State) (p : Nat) : Nat → Nat
  | 0 => 0
  | n + 1 => physLE s p n + (physByte s (p + n)).toNat * 256 ^ n

end Sys2Proof.Machine
end

