-- ==== Sys2Proof/Machine/GlobalPerform.lean ====
section
/-! DEFINITION. M2 accesses at their home: the order of R79 to R84 as the condition under which a part may perform, the
end of a page walk (R166), and the access itself. -/

namespace Sys2Proof.Machine

/-! ## What an access is -/

/-- The berth operations (R309). -/
def isBerth : AccOp → Bool
  | .kvlook .. | .kvref .. | .kvgath .. | .kvapp .. | .kvshr .. | .kvrel .. => true
  | _ => false
/-- Loads and atomics, which `FENCE.acq` names (R81). -/
def isLdAt : AccOp → Bool
  | .load .. | .loadV .. | .gather .. | .atom .. | .orv | .kvlook .. | .kvref .. | .kvgath .. => true
  | _ => false
/-- Stores and atomics, which `FENCE.rel` names (R81). -/
def isStAt : AccOp → Bool
  | .store | .atom .. | .orv | .kvapp .. | .kvshr .. | .kvrel .. => true
  | _ => false
/-- The access is a fence. -/
def isFence (x : Acc) : Bool := x.op == .fence
/-- An earlier M2 access that has not performed. -/
def openM2 (x : Acc) : Bool := !x.m1 && !isFence x && !x.done
/-- The page order at an address of a tile's partition (R79). -/
def ordAt (s : State) (id va : Nat) : POrd := match pageOf s (partOf id) va with | some p => p.ord | none => .so
/-- Two parts share a byte, as their addresses tell: an element reached through two pages counts as two (R79; log 34). -/
def overlap (a b : Part) : Bool := decide (a.va < b.va + b.len ∧ b.va < a.va + a.len)

/-! ## Order (R79 to R84, R320) -/

/-- A fence f, with the accesses before it, holds back x (R81). -/
def fenceHolds (f : Acc) (earlier : List Acc) (x : Acc) : Bool :=
  match f.ord with
  | .acq => earlier.any (fun e => openM2 e && isLdAt e.op)
  | .rel => isStAt x.op && earlier.any openM2
  | _ => earlier.any openM2
/-- The fences among a tile's accesses before x hold it back; `seen` are the accesses before the rest. -/
def fencesHold (x : Acc) (seen : List Acc) : List Acc → Bool
  | [] => false
  | y :: r => (isFence y && fenceHolds y seen x) || fencesHold x (seen ++ [y]) r
/-- An earlier access y of the same tile holds back part p of x: suffixes (R80, R82), SO pages and common bytes on SO and
RC pages (R79); a berth word has no page and counts as RC (R320). -/
def accHolds (s : State) (id : Nat) (y x : Acc) (p : Part) : Bool :=
  openM2 y && (x.ord == .rel || x.ord == .sc || y.ord == .acq || y.ord == .sc ||
    !isBerth y.op && y.parts.any (fun q => !q.done &&
      ((ordAt s id p.va == .so && ordAt s id q.va == .so) || (overlap p q && ordAt s id p.va != .uo))))
/-- The lines of 64 bytes that n bytes from a place touch. -/
def linesOf (p n : Nat) : List Nat := if n = 0 then [] else (List.range ((p + n - 1) / 64 + 1 - p / 64)).map (· + p / 64)
/-- A place whose channel is open; or, for an access of a tile of domain fz, which runs to completion at a freeze, whose channel
that domain itself commands and is frozen (R18, R207, R272, R303). -/
def lineOpen (s : State) (fz : Option Nat) (p : Nat) : Bool :=
  if 2 ^ 62 ≤ p then true
  else match (chanAt s (chanOf p)).comp with
    | none => true
    | some tt => fz == some (ttOf s tt).dom && (domAt s (ttOf s tt).dom).frozen
/-- The compiled channel whose windows a part of a tile's access waits for; none when its data lie on open channels. -/
def partChan (s : State) (id : Nat) (p : Part) : Option Nat :=
  match pageOf s (partOf id) p.va with
  | some g => if lineOpen s (some (domOf s id)) (placeOf g p.va) then none else some (chanOf (placeOf g p.va))
  | none => none
/-- Two parts of an access perform together: a vector is split where the attributes of its pages differ (R83); on SO pages it
performs whole (R79), on others each compiled channel moves its lines in its own windows (R281; log 20). -/
def together (s : State) (id : Nat) (q p : Part) : Bool :=
  q.idx = p.idx || (decide (q.len > 8 ∧ p.len > 8) && ordAt s id q.va == ordAt s id p.va &&
    (ordAt s id p.va == .so || partChan s id q == partChan s id p))
/-- The parts that perform with a part. -/
def unitOf (s : State) (id : Nat) (x : Acc) (p : Part) : List Part := x.parts.filter (fun q => !q.done && together s id q p)
/-- The name of a part's unit at an issuer: its first part (R280). -/
def unitKey (s : State) (id : Nat) (x : Acc) (p : Part) : Who := .acc id x.id (((unitOf s id x p).map (·.idx)).headD p.idx)
/-- An earlier part q of the same access holds back part p: SO elements in ascending order, the parts of a straddling
access by the stronger attribute, scattered elements with common bytes (R83, R84, R171). -/
def partHolds (s : State) (id : Nat) (_x : Acc) (q p : Part) : Bool :=
  !q.done && decide (q.idx < p.idx) && !together s id q p &&
    ((ordAt s id p.va == .so && ordAt s id q.va == .so) || overlap p q ||
      (decide (q.len > 8 ∧ p.len > 8) && (ordAt s id p.va == .so || ordAt s id q.va == .so)))
/-- The accesses that a tile issued before x. -/
def earlierAcc (t : Tile) (x : Acc) : List Acc := t.out.filter (fun y => decide (y.id < x.id))
/-- The domain of a tile lies on other dies too. -/
def spansDies (s : State) (id : Nat) : Bool := (domAt s (domOf s id)).parts.any (fun p => p / 4 ≠ dieOf id)
/-- What was issued at a cycle has crossed to another die; in a frozen domain, whose TC stands still, everything has (R87,
R207). -/
def crossed (s : State) (id issue : Nat) : Bool := (domAt s (domOf s id)).frozen || decide (issue + 12 ≤ tcAt s id)
/-- A `.sc` access performs after every `.sc` access of the domain with a lower issue TC, of which it knows across dies
after a crossing (R82, R87). -/
def scHolds (s : State) (id : Nat) (x : Acc) : Bool :=
  x.ord == .sc && ((spansDies s id && !crossed s id x.issue) || s.tiles.any (fun p => domOf s p.1 = domOf s id &&
    p.2.out.any (fun y => y.ord == .sc && openM2 y && decide (y.issue < x.issue))))
/-- The die at which a place of DRAM stands; none for host and peer memory and the discovery table. -/
def dieOfPlace (p : Nat) : Option Nat :=
  if 2 ^ 62 ≤ p then none
  else
    let c := chanOf p
    if c < 768 then some (c / 128) else if c < 816 then some ((c - 768) / 8) else none
/-- The cycle at which an access performed now at a place is back at the tile: a crossing later from another die (R87). A frozen
domain's TC stands still, and the snapshot waits for everything (R207). -/
def backFrom (s : State) (id p : Nat) : Nat :=
  match dieOfPlace p with
  | none => 0
  | some d => if d = dieOf id || (domAt s (domOf s id)).frozen then 0 else tcAt s id + 12
/-- The access is complete at its tile (R87, R90). -/
def complete (c : Nat) (x : Acc) : Bool := x.done && decide (x.back ≤ c)
/-- The access has reached the die of a place (R87). -/
def reachedDie (s : State) (id : Nat) (x : Acc) (p : Nat) : Bool :=
  match dieOfPlace p with
  | none => true
  | some d => d = dieOf id || crossed s id x.issue
/-- Every line of n bytes from a place is open, or its channel's issuer has moved it for the requester inside a window
(R18, R280; log 20). -/
def served (s : State) (w : Who) (fz : Option Nat) (p n : Nat) : Bool :=
  (linesOf p n).all (fun l => lineOpen s fz (64 * l) || s.grants.contains (w, l))
/-- The requester has used what was moved for it. -/
def spend (w : Who) (s : State) : State := { s with grants := s.grants.filter (fun g => g.1 ≠ w) }
/-- Uses the lines of n bytes from a place. -/
def spendAt (w : Who) (p n : Nat) (s : State) : State :=
  { s with grants := s.grants.filter (fun g => g.1 ≠ w || !(linesOf p n).contains g.2) }
/-- What an access of the tile waits for before any of its parts: fences, suffixes, the `.sc` order, and p is what a
part waits for. -/
def orderFree (s : State) (id : Nat) (x : Acc) (p : Part) : Bool :=
  let e := earlierAcc (tileOf s id) x
  !fencesHold x [] e && !e.any (fun y => accHolds s id y x p) && !scHolds s id x
/-- A line of a replica region: the die whose engine digests it, the partition, the virtual address (R351). -/
structure DigLine where
  die  : Nat
  part : Nat
  va   : Nat
  deriving DecidableEq, Repr
/-- The lines of the regions of a timetable's partitions: those of each die in turn, and of each region in record order (R351). -/
def digestLines (s : State) (k : Nat) : List DigLine :=
  (List.range 6).flatMap (fun die => (ttOf s k).parts.flatMap (fun p => match (partAt s p).rep with
    | some (_, _, l) => (l.filter (fun r => r.1 = die)).flatMap (fun r => (List.range (r.2.2 / 64)).map (fun i => ⟨die, p, r.2.1 + 64 * i⟩))
    | none => []))
/-- The lines that the digest engines of an exchange have still to read. -/
def unread (s : State) (e : Exch) : List DigLine := (digestLines s e.tt).drop (e.read.length / 64)
/-- A line of a region shares a byte with n bytes from a place. -/
def lineHas (s : State) (a n : Nat) (l : DigLine) : Bool :=
  match pageOf s l.part l.va with
  | some g => decide (placeOf g l.va < a + n ∧ a < placeOf g l.va + 64)
  | none => false
/-- A store issued at a digest joint or later waits until the digest engine has read its lines (R351). -/
def digestHolds (s : State) (id : Nat) (x : Acc) (p : Part) : Bool :=
  isStAt x.op && s.exchs.any (fun e => e.mine.isNone && e.dom = domOf s id && decide (e.upTo ≤ x.issue) &&
    match pageOf s (partOf id) p.va with
    | some g => (unread s e).any (lineHas s (placeOf g p.va) p.len)
    | none => false)
/-- Part p of access x of a tile may perform as far as the order goes. -/
def partOrdered (s : State) (id : Nat) (x : Acc) (p : Part) : Bool :=
  openM2 x && !x.walk && !p.done && !isBerth x.op && orderFree s id x p && !digestHolds s id x p &&
    !x.parts.any (fun q => partHolds s id x q p)
/-- Some port that the routing table lists for a device is up (R350). -/
def routeUp (s : State) (dev : Nat) : Bool := s.routes.any (fun r => r.1 = dev && r.2.any s.ports.contains)
/-- A path leads to the page's home. -/
def reachable (s : State) (g : Page) : Bool := match g.home with | .peer d => routeUp s d | _ => true
/-- The access has reached the die of a part, and a path leads there. -/
def partThere (s : State) (id : Nat) (x : Acc) (p : Part) : Bool :=
  match pageOf s (partOf id) p.va with
  | some g => reachedDie s id x (placeOf g p.va) && reachable s g
  | none => true
/-- Part p of access x of a tile, with the parts that perform with it, may perform as far as their order and their way go: what
they touch is requested of the channels. -/
def unitMay (s : State) (id : Nat) (x : Acc) (p : Part) : Bool :=
  (unitOf s id x p).all (fun q => partOrdered s id x q && partThere s id x q)
/-- The channels of a part are there for its unit: open, or served in a window. -/
def partServed (s : State) (id : Nat) (w : Who) (p : Part) : Bool :=
  match pageOf s (partOf id) p.va with
  | some g => served s w (some (domOf s id)) (placeOf g p.va) p.len
  | none => true
/-- Part p of access x of a tile, with the parts that perform with it, may perform now. -/
def partReady (s : State) (id : Nat) (x : Acc) (p : Part) : Bool :=
  unitMay s id x p && (unitOf s id x p).all (partServed s id (unitKey s id x p))

/-! ## The access (R79, R172, R173, R209) -/

/-- The part with its result, and whether every part of the access has performed. -/
def partDone (i got : Nat) (x : Acc) : Acc :=
  let ps := x.parts.map (fun p => if p.idx = i then { p with done := true, got := got } else p)
  { x with parts := ps, done := ps.all (·.done) }
/-- The scalar result of an access whose only part read `got`. -/
def accResult (x : Acc) (got : Nat) : Word :=
  match x.op with
  | .load w signed _ => extend signed w got
  | .atom _ w _ _ signed _ => extend signed w got
  | _ => x.result
/-- A fault found while the domain is frozen is recorded unless the tile holds a lower cause (R207). -/
def recordLate (x : Trap) (pipe : Nat) (b : BRef) (t : Tile) : Tile :=
  if causeOf t ≠ 0 ∧ causeOf t < x.cause then t
  else { t with tcause := causeWord x pipe, tfpc := pcWord b, tbpc := 0, taddr := x.addr }
/-- The access fails: it does not perform, and its destination keeps its value (R206, R207, R209). -/
def accFail (x : Acc) (f : Trap) (id : Nat) (s : State) : State :=
  let s := setAcc id { x with op := .none, walk := false, done := true } s
  if (domAt s (domOf s id)).frozen then markFault (updTile s id (recordLate f x.pipe x.bun)) (domOf s id)
  else engineTrap f (accPend x) id s
/-- What a part reads, and memory after it. -/
def partEffect (s : State) (x : Acc) (p : Part) (a : Nat) : Nat × Memory :=
  match x.op with
  | .load .. | .loadV .. | .gather .. => (physLE s a p.len, s.mem)
  | .store => (0, storeLE s.mem a p.data p.len)
  | .atom fn w y cmp _ _ =>
    let old := physLE s a w
    (old, storeLE s.mem a (atomNew fn w old (y.toNat % 256 ^ w) (cmp.toNat % 256 ^ w)) w)
  | .orv => (0, storeLE s.mem a (physLE s a 64 ||| p.data) 64)
  | _ => (0, s.mem)
/-- The address of the first part whose line holds an uncorrectable error: it is looked for in every part before one
performs, so that no access is done in half (R171, R207, R209). -/
def partEcc (s : State) (id : Nat) (x : Acc) : Option Nat :=
  (x.parts.find? (fun p => !p.done && (match pageOf s (partOf id) p.va with
    | some g => eccLines s 7 0 (placeOf g p.va) p.len
    | none => false))).map (·.va)
/-- One part performs, of a unit of that name. -/
def performPart (id : Nat) (w : Who) (p : Part) (s : State) (x : Acc) : State × Acc :=
  match pageOf s (partOf id) p.va with
  | none => (s, x)
  | some g =>
    let a := placeOf g p.va
    let r := partEffect s x p a
    let y := partDone p.idx r.1 x
    (spendAt w a p.len { s with mem := r.2 }, { y with result := accResult x r.1, back := max x.back (backFrom s id a) })
/-- Parts perform one after another. -/
def performParts (id : Nat) (w : Who) : List Part → State × Acc → State × Acc
  | [], r => r
  | p :: ps, r => performParts id w ps (performPart id w p r.1 r.2)
/-- M2_ACCESS_PERFORM: one part of an access, with the parts that perform with it, performs at its home (R79, R83). The
event names the tile, the access and the part. -/
def execM2AccessPerform (s : State) : Host.Outcome State Fault Refusal :=
  let id := s.ev.a
  match accOf (tileOf s id) s.ev.b with
  | none => .next s
  | some x =>
    match x.parts.find? (fun p => p.idx = s.ev.c) with
    | none => .next s
    | some p =>
      if p.done || !partReady s id x p then .next s
      else
        let u := unitOf s id x p
        match u.find? (fun q => (pageOf s (partOf id) q.va).isNone) with
        | some q => .next (accFail x ⟨0x11, 4, 0, BitVec.ofNat 64 q.va⟩ id s)
        | none =>
          match partEcc s id x with
          | some va => .next (accFail x ⟨0x16, 0, 0, BitVec.ofNat 64 va⟩ id s)
          | none =>
            let r := performParts id (unitKey s id x p) u (s, x)
            .next (setAcc id r.2 r.1)

/-! ## Page walks (R166, R207) -/

/-- The entries of one die's cache, pinned ones counted once a page. -/
def pinCount (c : Tcache) : Nat := (c.pinned.map (·.2)).eraseDups.length
/-- A walk fills one of the unpinned entries, replacing the least recently filled one (R166). -/
def fillCache (c : Tcache) (p : Page) : Tcache :=
  let room := 2048 - pinCount c
  let f := if c.filled.contains p then c.filled else c.filled ++ [p]
  { c with filled := f.drop (f.length - room) }
/-- What an access checks of its elements at the end of its walk (R166). -/
def accChk (x : Acc) : M2Chk :=
  let far := x.ord == .sc
  match x.op with
  | .store => ⟨true, far, match x.parts with | p :: _ => if p.len > 8 then 64 else p.len | [] => 1⟩
  | .atom _ w .. => ⟨true, true, w⟩
  | .orv => ⟨true, true, 64⟩
  | .load w .. => ⟨false, far, w⟩
  | .gather w _ => ⟨false, far, w⟩
  | .loadV _ => ⟨false, far, 64⟩
  | _ => ⟨false, far, 1⟩
/-- The first element whose translation is not cached. -/
def firstMiss (s : State) (id : Nat) (ps : List Part) : Option Nat :=
  (ps.find? (fun p => !isCached s (dieOf id) (partOf id) p.va)).map (·.va)
/-- After the fill of one page: the next element that fails, or the walk goes on, or the access may perform. -/
def walkOn (s : State) (id : Nat) (x : Acc) : State :=
  let r := m2Look s id true (accChk x) (x.parts.map (·.va))
  match r.1 with
  | some f => accFail x f id s
  | none => setAcc id { x with walk := r.2 } s
/-- PAGE_WALK_END: the walk of an elastic miss fills an entry, or the access faults on the first of its elements that fails,
whichever entries other accesses have filled meanwhile (R166). The event names the tile and the access. -/
def execPageWalkEnd (s : State) : Host.Outcome State Fault Refusal :=
  let id := s.ev.a
  match accOf (tileOf s id) s.ev.b with
  | none => .next s
  | some x =>
    if !x.walk || x.done then .next s
    else match firstMiss s id x.parts with
      | none => .next (walkOn s id x)
      | some va =>
        match (m2Look s id true (accChk x) (x.parts.map (·.va))).1 with
        | some f => .next (accFail x f id s)
        | none =>
          match pageOf s (partOf id) va with
          | none => .next (accFail x ⟨0x11, 4, 0, BitVec.ofNat 64 va⟩ id s)
          | some g => .next (walkOn (setCache s (dieOf id) (fillCache (cacheAt s (dieOf id)) g)) id x)

end Sys2Proof.Machine
end

