-- ==== Sys2Proof/Machine/Process.lean ====
section
/-! DEFINITION. The process of a queue and its address space (R324, R337, R349), what an engine touches in memory, and
writes that an engine posts (R18, R280). -/

namespace Sys2Proof.Machine

/-! ## Share groups (R337, R349) -/

/-- The partitions of a mask. -/
def maskParts (m : Nat) : List Nat := (List.range 24).filter (fun i => m / 2 ^ i % 2 = 1)
/-- The run list whose processes own a queue. -/
def runOf (s : State) (q : Nat) : Option RunList := s.hc.runs.find? (fun r => r.procs.any (fun p => p.queues.contains q))
/-- PCFG.GROUP of a partition. -/
def partGroup (s : State) (p : Nat) : Nat := ((partAt s p).pcfg.extractLsb' 35 5).toNat
/-- The partitions of a share group. -/
def groupParts (s : State) (g : Nat) : List Nat := (List.range 24).filter (fun p => partGroup s p = g)
/-- The partitions of a queue's process: those of its run list's group; of group 0 while no run list names the queue
(log 26). -/
def procParts (s : State) (q : Nat) : List Nat := groupParts s (match runOf s q with | some r => r.group | none => 0)
/-- The page of an address in the address space of the queue's process: the first of its partitions, ascending, whose
table translates it (R324; log 26). -/
def qPage (s : State) (q va : Nat) : Option Page :=
  if canonical va then (procParts s q).findSome? (fun p => pageOf s p va) else none

/-! ## Traffic -/

/-- Everything that is touched is there for the requester (R18, R280, R303). -/
def servedAll (s : State) (w : Who) (fz : Option Nat) (l : List Touch) : Bool := l.all (fun t => served s w fz t.place t.n)
/-- An uncorrectable error stands in a line that is read, or written in part. -/
def touchBad (s : State) (l : List Touch) : Bool := l.any (fun t => (!t.wr || decide (t.n < 64)) && eccLines s 7 0 t.place t.n)
/-- Lines that were written whole hold no error any more. -/
def touchHeal (l : List Touch) (s : State) : State :=
  l.foldl (fun s t => if t.wr ∧ 64 ≤ t.n then healed 7 0 t.place t.n s else s) s

/-- A channel of what is touched is compiled and its domain frozen: engine traffic on it stands still (R323). -/
def standsStill (s : State) (l : List Touch) : Bool :=
  l.any (fun t => (linesOf t.place t.n).any (fun k => decide (k < 2 ^ 56) && match (chanAt s (chanOf (64 * k))).comp with
    | some tt => (domAt s (ttOf s tt).dom).frozen
    | none => false))
/-- Traffic of a queue or of a move may go on. -/
def mayMove (s : State) (w : Who) (l : List Touch) : Bool := servedAll s w none l && !standsStill s l

/-! ## Requests that wait (R18, R327, R334, R335, R348, R350) -/

/-- The lines of what is touched. -/
def touchLines (l : List Touch) : List Nat := l.flatMap (fun t => linesOf t.place t.n)
/-- An earlier waiting request goes first: it has the same source, or a line in common. -/
def goesFirst (w : Waiting) (l : List Touch) (src : Option Nat) : Bool :=
  (w.src.isSome && w.src == src) || (touchLines w.l).any (touchLines l).contains
/-- A request may go on at once: its lines are open, and no earlier one goes first. -/
def freeNow (s : State) (l : List Touch) (src : Option Nat) : Bool :=
  (touchLines l).all (fun k => lineOpen s none (64 * k)) && !s.waiting.any (fun w => goesFirst w l src)
/-- The request waits, under a number of its own. -/
def addWait (i : Instr) (x : EvArgs) (l : List Touch) (src : Option Nat) (s : State) : State :=
  { s with waiting := s.waiting ++ [⟨s.nwait, i, x, l, src⟩], nwait := s.nwait + 1 }
/-- A request from outside the timetables performs when it may, or when it has waited; else it waits. -/
def orWait (i : Instr) (l : List Touch) (src : Option Nat) (k : State → State) (s : State) : State :=
  if s.ev.go.isSome || freeNow s l src then k s else addWait i s.ev l src s
/-- An engine writes bytes in one go, at once where it may; else the write waits for the issuer of its channel. A source orders its
writes. -/
def postBytes (src : Option Nat) (p : Nat) (bs : List Byte) (s : State) : State :=
  let l : List Touch := [⟨p, bs.length, true⟩]
  if freeNow s l src then { s with mem := storeBytes s.mem p bs }
  else addWait .cxlMemAccess { EvArgs.zero with a := p, c := 1, flag := true, bytes := bs } l src s
/-- The bytes of a number, the lowest first. -/
def leBytes (v n : Nat) : List Byte := (List.range n).map (fun i => BitVec.ofNat 8 (leByte v i))

end Sys2Proof.Machine
end

