-- ==== Sys2Proof/Machine/Berth.lean ====
section
/-! DEFINITION. The berth engine and the key-value cache (R303 to R323): the table in memory, the berth words at issue,
and the operations that the engine performs. -/

namespace Sys2Proof.Machine

/-! ## The table (R304 to R306) -/

/-- A directory entry (R305). -/
structure BDir where
  l2   : Nat
  v    : Bool
  pool : Nat
  cap  : Nat
  nblk : Nat
  deriving DecidableEq, Repr
/-- A berth entry (R306). -/
structure BEnt where
  v   : Bool
  st  : Nat
  ref : Nat
  gen : Nat
  loc : Nat
  deriving DecidableEq, Repr
/-- The states of a berth (R306). -/
def bFree : Nat := 0
def bHbm : Nat := 1
def bMigr : Nat := 2
def bAnch : Nat := 3

def rd (m : Memory) (a n : Nat) : Nat := loadLE m a n
/-- The header's fields at a table base. -/
def bNpool (m : Memory) (tb : Nat) : Nat := rd m (tb + 6) 1
def bNent (m : Memory) (tb : Nat) : Nat := rd m (tb + 8) 4
def bDirAt (m : Memory) (tb sq : Nat) : Nat := tb + rd m (tb + 0x10) 8 + 16 * sq
def bEntAt (m : Memory) (tb n : Nat) : Nat := tb + rd m (tb + 0x18) 8 + 8 * n
/-- A pool descriptor's place. -/
def bPool (tb p : Nat) : Nat := tb + 0x100 + 0x80 * p
/-- The size of a pool's berths, its slice, and its tokens (R304). -/
def bSize (m : Memory) (tb p : Nat) : Nat := 16384 * 2 ^ rd m (bPool tb p) 1
def bSl (m : Memory) (tb p : Nat) : Nat := 64 * 2 ^ rd m (bPool tb p + 1) 1
def bTok (m : Memory) (tb p : Nat) : Nat := rd m (bPool tb p + 2) 2
/-- The FIFOs of a pool. -/
def entQ (tb p : Nat) : Nat := bPool tb p + 0x20
def hslQ (tb p : Nat) : Nat := bPool tb p + 0x30
def aslQ (tb p : Nat) : Nat := bPool tb p + 0x40
/-- Reads and writes a directory entry. -/
def rdDir (m : Memory) (tb sq : Nat) : BDir :=
  let a := bDirAt m tb sq
  let x := rd m a 8
  ⟨rd m (a + 8) 8, x / 2 ^ 63 % 2 = 1, x / 2 ^ 60 % 8, x / 2 ^ 17 % 2 ^ 17, x % 2 ^ 17⟩
def setNblk (m : Memory) (tb sq n : Nat) : Memory :=
  let a := bDirAt m tb sq
  storeLE m a (rd m a 8 / 2 ^ 17 * 2 ^ 17 + n % 2 ^ 17) 8
/-- Reads and writes a berth entry. -/
def entWord (e : BEnt) : Nat :=
  (if e.v then 2 ^ 63 else 0) + e.st % 4 * 2 ^ 61 + e.ref % 2 ^ 13 * 2 ^ 48 + e.gen % 2 ^ 16 * 2 ^ 32 + e.loc % 2 ^ 32
def wordEnt (x : Nat) : BEnt := ⟨x / 2 ^ 63 % 2 = 1, x / 2 ^ 61 % 4, x / 2 ^ 48 % 2 ^ 13, x / 2 ^ 32 % 2 ^ 16, x % 2 ^ 32⟩
def rdEnt (m : Memory) (tb n : Nat) : BEnt := wordEnt (rd m (bEntAt m tb n) 8)
def wrEnt (m : Memory) (tb n : Nat) (e : BEnt) : Memory := storeLE m (bEntAt m tb n) (entWord e) 8
/-- Block b of a sequence: its place, its berth. -/
def blkAt (tb : Nat) (d : BDir) (b : Nat) : Nat := tb + d.l2 + 4 * b
def rdBlk (m : Memory) (tb : Nat) (d : BDir) (b : Nat) : Nat := rd m (blkAt tb d b) 4
/-- The entries that a FIFO holds, taking one, adding one (R304). -/
def fifoCount (m : Memory) (q : Nat) : Nat := (rd m (q + 12) 4 + 2 ^ 32 - rd m (q + 8) 4) % 2 ^ 32
def fifoSlot (m : Memory) (tb q x : Nat) : Nat := tb + 64 * rd m q 4 + 4 * (x % rd m (q + 4) 4)
def fifoTake (m : Memory) (tb q : Nat) : Nat × Memory :=
  let h := rd m (q + 8) 4
  (rd m (fifoSlot m tb q h) 4, storeLE m (q + 8) ((h + 1) % 2 ^ 32) 4)
def fifoAdd (m : Memory) (tb q v : Nat) : Memory :=
  let t := rd m (q + 12) 4
  storeLE (storeLE m (fifoSlot m tb q t) v 4) (q + 12) ((t + 1) % 2 ^ 32) 4
/-- The physical address of a slot of a tier (R306). -/
def slotBase (m : Memory) (tb p : Nat) (anch : Bool) (loc : Nat) : Nat :=
  rd m (bPool tb p + (if anch then 0x10 else 8)) 8 + loc * bSize m tb p

/-! ## Alloc and Free (R310) -/

def bAlloc (m : Memory) (tb p : Nat) : Nat × Memory :=
  let a := fifoTake m tb (entQ tb p)
  let b := fifoTake a.2 tb (hslQ tb p)
  (a.1, wrEnt b.2 tb a.1 { rdEnt b.2 tb a.1 with v := true, st := bHbm, ref := 1, loc := b.1 })
def bRelease (m : Memory) (tb p n : Nat) : Memory :=
  let e := rdEnt m tb n
  let m := fifoAdd m tb (if e.st = bAnch then aslQ tb p else hslQ tb p) e.loc
  let m := wrEnt m tb n { e with st := bFree, ref := 0, gen := (e.gen + 1) % 2 ^ 16 }
  fifoAdd m tb (entQ tb p) n

/-! ## Moves (R317 to R319) -/

/-- The states of a move: none, copying, committed with its source slot still held, cancelled with gathers that still
hold it. -/
def mvNone : Nat := 0
def mvCopy : Nat := 1
def mvHeld : Nat := 2
def mvGone : Nat := 3
/-- The key of the move of a berth that is being copied. -/
def moveOf (s : State) (part n : Nat) : Option Nat :=
  (s.moves.find? (fun p => p.2.part = part && p.2.n = n && p.2.state = mvCopy)).map (·.1)
/-- The FIFO of a tier. -/
def tierQ (tb p : Nat) (anch : Bool) : Nat := if anch then aslQ tb p else hslQ tb p
/-- What a move reports: 1 commit, 2 cancellation (R335). -/
def repCommit : Nat := 1
def repCancel : Nat := 2
/-- The front end writes the report of a move at the address that its command named, in the queue's address space
(R335). -/
def reportMove (code : Nat) (v : Move) (s : State) : State :=
  match qPage s v.q v.report with
  | some g => postBytes none (placeOf g v.report) (leBytes code 8) s
  | none => s
/-- Cancels the move of a berth: the destination slot returns, the state goes back to the source tier, the command gets
its report (R319, R335). -/
def cancelMove (part n : Nat) (s : State) : State :=
  match moveOf s part n with
  | none => s
  | some k =>
    let v := moveAt s k
    let tb := (partAt s part).tbase
    let m := fifoAdd s.mem tb (tierQ tb v.pool (!v.up)) v.dst
    let m := wrEnt m tb n { rdEnt m tb n with st := if v.up then bAnch else bHbm }
    reportMove repCancel v (setMove (spend (.move k) { s with mem := m }) k (if v.hold = 0 then Move.none else { v with state := mvGone }))

/-! ## The key register (R308) -/

def kSeq (k : Word) : Nat := (k.extractLsb' 32 20).toNat
def kBlk (k : Word) : Nat := (k.extractLsb' 16 16).toNat
def kSlot (k : Word) : Nat := (k.extractLsb' 0 16).toNat
def kBad (k : Word) : Bool := k.extractLsb' 52 12 != 0

/-! ## The words at issue (R309) -/

/-- A berth word: its operands, then an outstanding access without a page of its own. -/
def berthWord (s : State) (g : Guard) (sx : Sfx) (pre : List (Option Trap)) (op : AccOp) (n : Nat) (eff : State → State) :
    Host.Outcome State Fault Refusal :=
  guardedM2 s g (doWord s pre (fun s => addAcc false op sx.ord sx.scp
    ((List.range n).map (fun i => ⟨i, 0, 0, 0, false, 0⟩)) false false (eff s)))
/-- KVLOOK (R311). -/
def execKvlook (g : Guard) (sx : Sfx) (d b : Reg) (s : State) : Host.Outcome State Fault Refusal :=
  berthWord s g sx [useReg s b, dstReg s d] (.kvlook (rdReg (me s) b) (physReg (me s) d.toNat)) 0 (pendReg d)
/-- KVREF (R311). -/
def execKvref (g : Guard) (sx : Sfx) (d b : Reg) (s : State) : Host.Outcome State Fault Refusal :=
  berthWord s g sx [useReg s b, dstReg s d] (.kvref (rdReg (me s) b) (physReg (me s) d.toNat)) 0 (pendReg d)
/-- The rows of a KVGATH (R309). -/
def gathRows : Option Lit → Nat
  | some v => v.toNat
  | none => 1
/-- KVGATH reserves n entries (R309, R312). -/
def execKvgath (g : Guard) (sx : Sfx) (d : QN) (b : Reg) (n : Option Lit) (s : State) : Host.Outcome State Fault Refusal :=
  berthWord s g sx [useReg s b, resvQ s d] (.kvgath (rdReg (me s) b) (gathRows n) d) (gathRows n) (reserve d (gathRows n))
/-- KVAPP pops its key and its value at issue (R313). -/
def execKvapp (g : Guard) (sx : Sfx) (d : QN) (b : Reg) (s : State) : Host.Outcome State Fault Refusal :=
  let src := [accSrc d, accSrc (d + 1)]
  berthWord s g sx (useReg s b :: srcQs s src) (.kvapp (rdReg (me s) b) (taken s src 0) (taken s src 1)) 0 (popped src)
/-- KVSHR (R314). -/
def execKvshr (g : Guard) (sx : Sfx) (d b : Reg) (s : State) : Host.Outcome State Fault Refusal :=
  berthWord s g sx [useReg s b, useReg s d] (.kvshr (rdReg (me s) b) (rdReg (me s) d)) 0 id
/-- KVREL (R315). -/
def execKvrel (g : Guard) (sx : Sfx) (b : Reg) (s : State) : Host.Outcome State Fault Refusal :=
  berthWord s g sx [useReg s b] (.kvrel (rdReg (me s) b)) 0 id

/-! ## Fault cases (R316) -/

/-- The key of a berth operation. -/
def accKey : AccOp → Word
  | .kvlook k _ => k
  | .kvref k _ => k
  | .kvgath k _ _ => k
  | .kvapp k _ _ => k
  | .kvshr k _ => k
  | .kvrel k => k
  | _ => 0
/-- The sequence does not exist, or its pool does not. -/
def badSeq (m : Memory) (tb sq : Nat) : Bool := !(rdDir m tb sq).v || decide ((rdDir m tb sq).pool ≥ bNpool m tb)
/-- A berth that a word reaches is none. -/
def badBerth (m : Memory) (tb n : Nat) : Bool :=
  decide (n ≥ bNent m tb) || !(rdEnt m tb n).v || (rdEnt m tb n).st = bFree
/-- Alloc finds an empty FIFO. -/
def noAlloc (m : Memory) (tb p : Nat) : Bool := fifoCount m (entQ tb p) = 0 || fifoCount m (hslQ tb p) = 0
/-- How often a berth stands in blocks below n of a sequence. -/
def timesIn (m : Memory) (tb : Nat) (d : BDir) (n b : Nat) : Nat :=
  ((List.range n).filter (fun i => rdBlk m tb d i = b)).length
/-- The operation has a fault case of R316. -/
def berthBad (m : Memory) (tb : Nat) (op : AccOp) : Bool :=
  let k := accKey op
  let d := rdDir m tb (kSeq k)
  let b := kBlk k
  kBad k || badSeq m tb (kSeq k) ||
  match op with
  | .kvlook .. | .kvref .. => kSlot k ≠ 0 || decide (b ≥ d.nblk) || badBerth m tb (rdBlk m tb d b)
  | .kvgath _ n _ =>
    decide (b ≥ d.nblk) || badBerth m tb (rdBlk m tb d b) || decide (kSlot k + n > bSize m tb d.pool / 512)
  | .kvapp .. =>
    decide (kSlot k ≥ bTok m tb d.pool) ||
    (if b = d.nblk ∧ b < d.cap then noAlloc m tb d.pool
     else decide (b ≥ d.nblk) || badBerth m tb (rdBlk m tb d b) ||
       (decide ((rdEnt m tb (rdBlk m tb d b)).ref > 1) && noAlloc m tb d.pool))
  | .kvshr _ x =>
    let e := rdDir m tb (x.toNat % 2 ^ 20)
    kSlot k ≠ 0 || decide (x.toNat ≥ 2 ^ 20) || decide (b > d.nblk) || badSeq m tb (x.toNat % 2 ^ 20) ||
      x.toNat = kSeq k || e.nblk ≠ 0 || e.pool ≠ d.pool || decide (e.cap < b) ||
      (List.range b).any (fun i => badBerth m tb (rdBlk m tb d i) ||
        decide ((rdEnt m tb (rdBlk m tb d i)).ref + timesIn m tb d b (rdBlk m tb d i) > 8191))
  | .kvrel _ =>
    kSlot k ≠ 0 || decide (b > d.nblk) ||
      (List.range (d.nblk - b)).any (fun i => badBerth m tb (rdBlk m tb d (b + i)))
  | _ => false

/-! ## The operations (R311 to R315) -/

/-- Where a berth lies: its tier and slot, or the source of its move (R312). -/
def berthBase (s : State) (part p n : Nat) : Nat :=
  let tb := (partAt s part).tbase
  let e := rdEnt s.mem tb n
  let anch := if e.st = bMigr then (match moveOf s part n with | some k => (moveAt s k).up | none => false) else decide (e.st = bAnch)
  slotBase s.mem tb p anch e.loc
/-- Copies n bytes. -/
def copyMem (m : Memory) (src dst n : Nat) : Memory := storeBytes m dst (loadBytes m src n)
/-- KVAPP up to its writes: extension by one block, cancellation of the berth's move, copy on write (R313). -/
def appPlace (part : Nat) (k : Word) (s : State) : State :=
  let tb := (partAt s part).tbase
  let d := rdDir s.mem tb (kSeq k)
  let b := kBlk k
  let s :=
    if b = d.nblk then
      let a := bAlloc s.mem tb d.pool
      { s with mem := setNblk (storeLE a.2 (blkAt tb d b) a.1 4) tb (kSeq k) (b + 1) }
    else s
  let n := rdBlk s.mem tb d b
  let s := cancelMove part n s
  if (rdEnt s.mem tb n).ref > 1 then
    let src := berthBase s part d.pool n
    let a := bAlloc s.mem tb d.pool
    let e := rdEnt a.2 tb n
    let m := copyMem a.2 src (slotBase a.2 tb d.pool false (rdEnt a.2 tb a.1).loc) (bSize a.2 tb d.pool)
    { s with mem := storeLE (wrEnt m tb n { e with ref := e.ref - 1 }) (blkAt tb d b) a.1 4 }
  else s
/-- The berth that holds the block of a key. -/
def keyBerth (s : State) (part : Nat) (k : Word) : Nat :=
  let tb := (partAt s part).tbase
  rdBlk s.mem tb (rdDir s.mem tb (kSeq k)) (kBlk k)
/-- Where a KVAPP writes its key slice and its value slice (R306, R313). -/
def slicesAt (s : State) (part : Nat) (k : Word) : Nat × Nat :=
  let tb := (partAt s part).tbase
  let p := (rdDir s.mem tb (kSeq k)).pool
  let a := berthBase s part p (keyBerth s part k) + kSlot k * bSl s.mem tb p
  (a, a + bSize s.mem tb p / 2)
/-- KVAPP at the engine (R313). -/
def opKvapp (part : Nat) (k : Word) (kv vv : QVec) (s : State) : State :=
  let s := appPlace part k s
  let tb := (partAt s part).tbase
  let sl := bSl s.mem tb (rdDir s.mem tb (kSeq k)).pool
  let a := slicesAt s part k
  { s with mem := storeLE (storeLE s.mem a.1 (kv.toNat % 256 ^ sl) sl) a.2 (vv.toNat % 256 ^ sl) sl }
/-- KVSHR at the engine: blocks i of the rest (R314). -/
def shareFrom (tb : Nat) (d e : BDir) : List Nat → Memory → Memory
  | [], m => m
  | i :: r, m =>
    let n := rdBlk m tb d i
    let x := rdEnt m tb n
    shareFrom tb d e r (wrEnt (storeLE m (blkAt tb e i) n 4) tb n { x with ref := x.ref + 1 })
def opKvshr (part : Nat) (k dst : Word) (s : State) : State :=
  let tb := (partAt s part).tbase
  let d := rdDir s.mem tb (kSeq k)
  let e := rdDir s.mem tb dst.toNat
  { s with mem := setNblk (shareFrom tb d e (List.range (kBlk k)) s.mem) tb dst.toNat (kBlk k) }
/-- KVREL at the engine: one block (R315). -/
def relOne (part tb : Nat) (d : BDir) (b : Nat) (s : State) : State :=
  let n := rdBlk s.mem tb d b
  let x := rdEnt s.mem tb n
  let s := { s with mem := wrEnt s.mem tb n { x with ref := x.ref - 1 } }
  if x.ref - 1 = 0 then
    let s := cancelMove part n s
    { s with mem := bRelease s.mem tb d.pool n }
  else s
/-- The blocks of the rest, ascending. -/
def relFrom (part tb : Nat) (d : BDir) : List Nat → State → State
  | [], s => s
  | b :: r, s => relFrom part tb d r (relOne part tb d b s)
def opKvrel (part : Nat) (k : Word) (s : State) : State :=
  let tb := (partAt s part).tbase
  let d := rdDir s.mem tb (kSeq k)
  let s := relFrom part tb d ((List.range (d.nblk - kBlk k)).map (kBlk k + ·)) s
  { s with mem := setNblk s.mem tb (kSeq k) (kBlk k) }
/-! ## What an operation touches (R303, R316) -/

/-- An entry taken from a FIFO, and one added. -/
def takeTouch (m : Memory) (tb q : Nat) : List Touch := [⟨q, 16, true⟩, ⟨fifoSlot m tb q (rd m (q + 8) 4), 4, false⟩]
def addTouch (m : Memory) (tb q : Nat) : List Touch := [⟨q, 16, true⟩, ⟨fifoSlot m tb q (rd m (q + 12) 4), 4, true⟩]
/-- An allocation. -/
def allocTouch (m : Memory) (tb p : Nat) : List Touch :=
  takeTouch m tb (entQ tb p) ++ takeTouch m tb (hslQ tb p) ++ [⟨bEntAt m tb (fifoTake m tb (entQ tb p)).1, 8, true⟩]
/-- The cancellation of a berth's move. -/
def cancelTouch (s : State) (part n : Nat) : List Touch :=
  let tb := (partAt s part).tbase
  match moveOf s part n with
  | some k => addTouch s.mem tb (tierQ tb (moveAt s k).pool (!(moveAt s k).up)) ++ [⟨bEntAt s.mem tb n, 8, true⟩]
  | none => []
/-- The block list and the entries of blocks. -/
def blockTouch (m : Memory) (tb : Nat) (d : BDir) (wr : Bool) (l : List Nat) : List Touch :=
  l.flatMap (fun b => [⟨blkAt tb d b, 4, false⟩, ⟨bEntAt m tb (rdBlk m tb d b), 8, wr⟩])
/-- What the lookup reads, whatever comes of it: header, directory, pool, blocks and entries. -/
def lookTouch (s : State) (part : Nat) (op : AccOp) : List Touch :=
  let tb := (partAt s part).tbase
  let k := accKey op
  let d := rdDir s.mem tb (kSeq k)
  let b := kBlk k
  [⟨tb, 0x20, false⟩, ⟨bDirAt s.mem tb (kSeq k), 16, false⟩, ⟨bPool tb d.pool, 128, false⟩] ++
  (match op with
   | .kvshr _ x => ⟨bDirAt s.mem tb (x.toNat % 2 ^ 20), 16, false⟩ :: blockTouch s.mem tb d false (List.range (min b d.nblk))
   | .kvrel _ => blockTouch s.mem tb d false ((List.range (d.nblk - b)).map (b + ·))
   | _ => if b < d.nblk then blockTouch s.mem tb d false [b] else [])
/-- What a KVAPP without a fault touches further. -/
def appTouch (s : State) (part : Nat) (k : Word) : List Touch :=
  let tb := (partAt s part).tbase
  let d := rdDir s.mem tb (kSeq k)
  let n := keyBerth s part k
  let z := bSize s.mem tb d.pool
  let t := appPlace part k s
  let a := slicesAt t part k
  let sl := bSl s.mem tb d.pool
  (if kBlk k = d.nblk then
     allocTouch s.mem tb d.pool ++ [⟨blkAt tb d (kBlk k), 4, true⟩, ⟨bDirAt s.mem tb (kSeq k), 16, true⟩]
   else cancelTouch s part n ++
     (if (rdEnt s.mem tb n).ref > 1 then
        [⟨berthBase s part d.pool n, z, false⟩] ++ allocTouch s.mem tb d.pool ++
          [⟨berthBase t part d.pool (keyBerth t part k), z, true⟩, ⟨bEntAt s.mem tb n, 8, true⟩, ⟨blkAt tb d (kBlk k), 4, true⟩]
      else [])) ++ [⟨a.1, sl, true⟩, ⟨a.2, sl, true⟩]
/-- What the release of blocks touches. -/
def relTouch (part tb : Nat) (d : BDir) : List Nat → State → List Touch
  | [], _ => []
  | b :: r, s =>
    let n := rdBlk s.mem tb d b
    let e := rdEnt s.mem tb n
    let t := relOne part tb d b s
    ⟨bEntAt s.mem tb n, 8, true⟩ ::
      ((if e.ref ≤ 1 then
          cancelTouch s part n ++
            addTouch (cancelMove part n s).mem tb (tierQ tb d.pool ((rdEnt (cancelMove part n s).mem tb n).st = bAnch)) ++ addTouch s.mem tb (entQ tb d.pool)
        else []) ++ relTouch part tb d r t)
/-- What an operation without a fault touches beside its lookup. -/
def dataTouch (s : State) (part : Nat) (op : AccOp) : List Touch :=
  let tb := (partAt s part).tbase
  let k := accKey op
  let d := rdDir s.mem tb (kSeq k)
  let b := kBlk k
  match op with
  | .kvgath _ r _ => [⟨berthBase s part d.pool (keyBerth s part k) + 512 * kSlot k, 512 * r, false⟩]
  | .kvapp .. => appTouch s part k
  | .kvshr _ x =>
    ⟨bDirAt s.mem tb (x.toNat % 2 ^ 20), 16, true⟩ :: (blockTouch s.mem tb d true (List.range b) ++
      (List.range b).map (fun i => ⟨blkAt tb (rdDir s.mem tb (x.toNat % 2 ^ 20)) i, 4, true⟩))
  | .kvrel _ => ⟨bDirAt s.mem tb (kSeq k), 16, true⟩ :: relTouch part tb d ((List.range (d.nblk - b)).map (b + ·)) s
  | _ => []
/-- Everything that an operation touches. -/
def berthTouch (s : State) (part : Nat) (op : AccOp) : List Touch :=
  lookTouch s part op ++ (if berthBad s.mem (partAt s part).tbase op then [] else dataTouch s part op)

/-! ## Cases that stand in lines without an error (R208, R209, R316) -/

/-- The key alone shows a case: reserved bits, SLOT, or a destination that R314 does not let a key name. -/
def keyCase (op : AccOp) : Bool :=
  let k := accKey op
  kBad k || match op with
  | .kvlook .. | .kvref .. | .kvrel _ => kSlot k ≠ 0
  | .kvshr _ x => kSlot k ≠ 0 || decide (x.toNat ≥ 2 ^ 20) || x.toNat = kSeq k
  | _ => false
/-- The header and the directory entry of the key's sequence show a case: the sequence, or the number of its blocks. -/
def dirCase (m : Memory) (tb : Nat) (op : AccOp) : Bool :=
  let k := accKey op
  let d := rdDir m tb (kSeq k)
  let b := kBlk k
  badSeq m tb (kSeq k) || match op with
  | .kvlook .. | .kvref .. | .kvgath .. => decide (b ≥ d.nblk)
  | .kvapp .. => decide (b ≥ d.nblk) && !decide (b = d.nblk ∧ b < d.cap)
  | .kvshr .. | .kvrel _ => decide (b > d.nblk)
  | _ => false
/-- The destination's directory entry shows a case of R314, beside the sequence's own. -/
def destCase (m : Memory) (tb : Nat) (op : AccOp) : Bool :=
  match op with
  | .kvshr k x =>
    let d := rdDir m tb (kSeq k)
    let e := rdDir m tb (x.toNat % 2 ^ 20)
    badSeq m tb (x.toNat % 2 ^ 20) || e.nblk ≠ 0 || e.pool ≠ d.pool || decide (e.cap < kBlk k)
  | _ => false
/-- The pool's descriptor shows a case: SLOT, or a FIFO that an Alloc finds empty. -/
def poolCase (m : Memory) (tb : Nat) (op : AccOp) : Bool :=
  let k := accKey op
  let d := rdDir m tb (kSeq k)
  match op with
  | .kvgath _ n _ => decide (kSlot k + n > bSize m tb d.pool / 512)
  | .kvapp .. => decide (kSlot k ≥ bTok m tb d.pool) || (decide (kBlk k = d.nblk ∧ kBlk k < d.cap) && noAlloc m tb d.pool)
  | _ => false
/-- The blocks whose berths a lookup reaches. -/
def lookBlocks (d : BDir) (op : AccOp) : List Nat :=
  let b := kBlk (accKey op)
  match op with
  | .kvshr .. => List.range (min b d.nblk)
  | .kvrel _ => (List.range (d.nblk - b)).map (b + ·)
  | _ => if b < d.nblk then [b] else []
/-- Lines that hold no uncorrectable error show a case of R316: it is the lower cause (R208). -/
def shownCase (s : State) (part : Nat) (op : AccOp) : Bool :=
  let m := s.mem
  let tb := (partAt s part).tbase
  let k := accKey op
  let d := rdDir m tb (kSeq k)
  let dir : List Touch := [⟨tb, 0x20, false⟩, ⟨bDirAt m tb (kSeq k), 16, false⟩]
  keyCase op || !touchBad s dir && (dirCase m tb op ||
    (match op with
     | .kvshr _ x => !touchBad s [⟨bDirAt m tb (x.toNat % 2 ^ 20), 16, false⟩] && destCase m tb op
     | _ => false) ||
    (!touchBad s [⟨bPool tb d.pool, 128, false⟩] && poolCase m tb op) ||
    (lookBlocks d op).any (fun b => !touchBad s (blockTouch m tb d false [b]) && badBerth m tb (rdBlk m tb d b)))

/-! ## Performing (R209, R316, R320, R321) -/

/-- A berth operation may perform as far as the order goes: earlier berth words of the tile have performed, and R80 to
R82 let it; toward other accesses it counts as one on an RC page of its own (R320). -/
def berthOrdered (s : State) (id : Nat) (x : Acc) : Bool :=
  let e := earlierAcc (tileOf s id) x
  isBerth x.op && !x.done && x.src.isNone && !e.any (fun y => openM2 y && isBerth y.op) && !fencesHold x [] e &&
    !e.any (fun y => openM2 y && (x.ord == .rel || x.ord == .sc || y.ord == .acq || y.ord == .sc))
/-- The name of a berth operation at an issuer. -/
def berthWho (id : Nat) (x : Acc) : Who := .acc id x.id 0
/-- A berth operation may perform: its channels are open, or their windows have served it (R303). -/
def berthReady (s : State) (id : Nat) (x : Acc) : Bool :=
  berthOrdered s id x && servedAll s (berthWho id x) (some (domOf s id)) (berthTouch s (partOf id) x.op)
/-- The rows of a gather go to its parts. -/
def gathParts (s : State) (a : Nat) (ps : List Part) : List Part :=
  ps.map (fun p => { p with got := rd s.mem (a + 512 * p.idx) 512, done := true })
/-- What a berth operation without a fault does (R311 to R315). A gather whose berth migrates holds the move until its
last row has been read, which is a second step (R312, R318). -/
def berthEffect (id : Nat) (x : Acc) (s : State) : State :=
  let part := partOf id
  let k := accKey x.op
  let tb := (partAt s part).tbase
  let d := rdDir s.mem tb (kSeq k)
  let n := keyBerth s part k
  let fin (r : Word) (s : State) : State := setAcc id { x with done := true, result := r } s
  match x.op with
  | .kvlook .. => fin (BitVec.ofNat 64 ((rdEnt s.mem tb n).gen * 2 ^ 32 + n)) s
  | .kvref .. => fin (BitVec.ofNat 64 (rd s.mem (bEntAt s.mem tb n) 8)) s
  | .kvgath .. =>
    let y := { x with parts := gathParts s (berthBase s part d.pool n + 512 * kSlot k) x.parts }
    match moveOf s part n with
    | some mv => setAcc id { y with src := some (mv, 0) } (setMove s mv { moveAt s mv with hold := (moveAt s mv).hold + 1 })
    | none => setAcc id { y with done := true } s
  | .kvapp _ kv vv => fin 0 (opKvapp part k kv vv s)
  | .kvshr _ dst => fin 0 (opKvshr part k dst s)
  | .kvrel _ => fin 0 (opKvrel part k s)
  | _ => s
/-- A gather that held a move gives it up: its last row has been read (R312, R318). -/
def gathEnd (id : Nat) (x : Acc) (mv : Nat) (s : State) : State :=
  let v := moveAt s mv
  let s := setMove s mv (if v.state = mvGone ∧ v.hold ≤ 1 then Move.none else { v with hold := v.hold - 1 })
  setAcc id { x with done := true, src := none } s
/-- BERTH_OP_PERFORM: one operation performs in full, or raises its fault and changes nothing: a case of R316 that readable lines
show, or else an uncorrectable error (R208, R209, R316, R321). The event names the tile and the access. -/
def execBerthOpPerform (s : State) : Host.Outcome State Fault Refusal :=
  let id := s.ev.a
  let part := partOf id
  match accOf (tileOf s id) s.ev.b with
  | none => .next s
  | some x =>
    match x.src with
    | some (mv, _) => .next (gathEnd id x mv s)
    | none =>
      if !berthReady s id x then .next s
      else
        let l := berthTouch s part x.op
        let t := spend (berthWho id x) s
        if shownCase s part x.op then .next (accFail x ⟨0x12, 0, 0, accKey x.op⟩ id t)
        else if touchBad s l then .next (accFail x ⟨0x16, 0, 0, accKey x.op⟩ id t)
        else if berthBad s.mem (partAt s part).tbase x.op then .next (accFail x ⟨0x12, 0, 0, accKey x.op⟩ id t)
        else .next (touchHeal l (berthEffect id x t))

end Sys2Proof.Machine
end

