-- ==== Sys2Proof/Machine/Control.lean ====
section
/-! DEFINITION. The B words: branches (R132, R133), hardware loops (R134), segments and the Pilot (R136), timed points,
waits and the end of a task (R105, R106, R109, R137). -/

namespace Sys2Proof.Machine

/-! ## Code of the executing half -/

/-- Word w of the executing half; a place without code holds the fill word (R33). -/
def halfWord (t : Tile) (w : Nat) : Nat := ((t.code.getD (t.half % 2) []).getD w 0xFFFFFFFF#32).toNat
/-- The word index after the bundle at w, none where no bundle stands (R49). -/
def nextBundle (t : Tile) (w : Nat) : Option Nat :=
  match splitBundle (halfWord t) 7 w 0 with
  | .ok (_, nx) => some nx
  | .error _ => none
/-- The condition of a B word, sampled at issue (R41, R132). -/
def condOn (t : Tile) (c : Cond) : Bool := rdPred t c.p != c.n
/-- The word stands in a delay bundle of a branch, taken or not (R133). -/
def inDelay (t : Tile) : Option Trap := illegalIf (decide (t.delay > 0))

/-! ## Branches (R132, R133) -/

/-- A branch issues: two delay bundles follow, then the target when it is taken. -/
def branchTo (taken : Bool) (target : Nat) (t : Tile) : Tile :=
  { t with delay := 3, branch := if taken then some ⟨target, t.bun, 2⟩ else t.branch }
/-- BR (R132). -/
def execBr (c : Cond) (k : PackN) (s : State) : Host.Outcome State Fault Refusal :=
  doWord s [inDelay (me s)] (fun s => onMe s (branchTo (condOn (me s) c) (3 * k.toNat)))
/-- The word index after the second delay bundle; free where no bundle stands there (R132). -/
def linkAfter (s : State) : Nat × State :=
  match nextBundle (me s) (me s).pc with
  | none => draw s
  | some w =>
    match nextBundle (me s) w with
    | none => draw s
    | some w' => (w', s)
/-- BRL: the link lands in a1 whether or not the branch is taken (R132). -/
def execBrl (c : Cond) (k : PackN) (s : State) : Host.Outcome State Fault Refusal :=
  doWord s [inDelay (me s), dstReg s 1]
    (fun s => let l := linkAfter s
      onMe (landReg l.2 1 1 (BitVec.ofNat 64 l.1)) (branchTo (condOn (me s) c) (3 * k.toNat)))
/-- BRI (R132). -/
def execBri (c : Cond) (a : Reg) (s : State) : Host.Outcome State Fault Refusal :=
  doWord s [inDelay (me s), useReg s a] (fun s => onMe s (branchTo (condOn (me s) c) (rdReg (me s) a).toNat))
/-- RET: the target is in a1 (R132). -/
def execRet (c : Cond) (s : State) : Host.Outcome State Fault Refusal :=
  doWord s [inDelay (me s), useReg s 1] (fun s => onMe s (branchTo (condOn (me s) c) (rdReg (me s) 1).toNat))

/-- The loops that stay active when control goes to word w: a loop whose body does not hold w ends, and every loop
inside it (R134). -/
def keepLoops (w : Nat) : List LoopSt → List LoopSt
  | [] => []
  | l :: r =>
    let rest := keepLoops w r
    if rest.length = r.length ∧ l.first ≤ w ∧ w ≤ l.last then l :: rest else rest
/-- A wait holds the tile's issue, or its next bundle is not due (R106, R137, R176, R178). -/
def held (t : Tile) (c : Nat) : Bool := t.wait != .none || t.hold != .none || decide (t.next > c)
/-- The index after the last word that the fetch of a bundle at w reads, whether or not it forms a bundle; n words are
taken (R49). -/
def fetchEnd (get : Nat → Nat) : Nat → Nat → Nat → Nat
  | 0, w, _ => w
  | fuel + 1, w, n =>
    if w ≥ 255 then w
    else
      let x := get w
      if x = 0xFFFFFFFF then w + 1
      else if wantsLit x then
        if (w + 1) % 3 = 0 ∨ w + 1 ≥ 255 then w + 1
        else if n + 2 > 6 || !chainOf x then w + 2 else fetchEnd get fuel (w + 2) (n + 2)
      else if n + 1 > 6 || !chainOf x then w + 1
      else fetchEnd get fuel (w + 1) (n + 1)
/-- A word from w up to nx of the executing half holds an uncorrectable error, in the code buffer, or in the code store
that the Pilot loaded it from (R209): its index in the store that has it, words of the code image for the code store
(log 30). -/
def codeEcc (s : State) (id : Nat) (t : Tile) (w nx : Nat) : Option Nat :=
  let ks := (List.range (nx - w)).map (· + w)
  match ks.find? (fun k => eccBad s 1 id (256 * (t.half % 2) + k)) with
  | some k => some (256 * (t.half % 2) + k)
  | none =>
    let base := 3 * (t.segs.getD (t.half % 2) 0 + 1)
    (ks.find? (fun k => eccBad s 1 (2 ^ 16 + t.tt) (base + k))).map (· + base)
/-- The fault of a word of code (R205, R209). -/
def codeTrap (k : Nat) : Trap := ⟨0x16, 0, 0, BitVec.ofNat 64 (2 ^ 56 + k)⟩
/-- BRANCH_TARGET_FETCH: the bundle at c + 3 comes from the target, or its fetch faults: on a target that is none, or on
an uncorrectable error of its words (R133, R204, R209). The event names the tile. -/
def execBranchTargetFetch (s : State) : Host.Outcome State Fault Refusal :=
  let t := tileOf s s.ev.a
  match t.branch with
  | none => .next s
  | some b =>
    if b.left > 0 || held t (tcAt s s.ev.a) then .next s
    else if b.target ≥ 255 ∨ b.target % 3 ≠ 0 then
      .next (takeTrap ⟨3, 0, 0, 0⟩ 0xF ⟨t.segs.getD (t.half % 2) 0, t.half, b.target⟩ (some b.bun) s.ev.a s)
    else match codeEcc s s.ev.a t b.target (fetchEnd (halfWord t) 7 b.target 0) with
      | some k => .next (takeTrap (codeTrap k) 0xF ⟨t.segs.getD (t.half % 2) 0, t.half, b.target⟩ (some b.bun) s.ev.a s)
      | none => .next (setTile s s.ev.a { t with pc := b.target, branch := none, loops := keepLoops b.target t.loops })

/-! ## Hardware loops (R134) -/

/-- The count of a loop word. -/
def loopCount (t : Tile) : RegLit → Nat
  | .reg r => (rdReg t r).toNat % 2 ^ 32
  | .lit v => v.toNat
/-- The checks of a loop word (R134). -/
def loopBad (t : Tile) (k e : Nat) (rot : Bool) : Bool :=
  t.loops.any (fun l => l.k = k) || decide (t.loops.length ≥ 3) || decide (3 * e + 2 < t.pc) || (rot && decide (t.rs = 0))
/-- A loop word takes effect: the body starts after its bundle, or is skipped when the count is 0. A skipped inner loop
that shares its end packet with the loop around it decides nothing for that loop, which stays active (log 32). -/
def startLoop (k e n : Nat) (rot : Bool) (epi : Nat) (s : State) : State :=
  if n = 0 then onMe s (fun t => { t with pc := 3 * e + 3, loopEnd := false })
  else
    let s := later s 1 (.lc k (BitVec.ofNat 32 n))
    let s := if rot then later s 1 (.stages (decide (n > epi))) else s
    onMe s (fun t => { t with loops := ⟨k, t.pc, 3 * e + 2, rot, epi⟩ :: t.loops })
/-- LOOP (R134). -/
def execLoop (k : LoopN) (n : RegLit) (e : PackN) (s : State) : Host.Outcome State Fault Refusal :=
  doWord s [inDelay (me s), illegalIf (loopBad (me s) k.toNat e.toNat false), rlUse s n]
    (startLoop k.toNat e.toNat (loopCount (me s) n) false 0)
/-- LOOPR with x epilogue stages (R134). -/
def execLoopr (x : EpiN) (k : LoopN) (n : RegLit) (e : PackN) (s : State) : Host.Outcome State Fault Refusal :=
  doWord s [inDelay (me s), illegalIf (loopBad (me s) k.toNat e.toNat true), rlUse s n]
    (startLoop k.toNat e.toNat (loopCount (me s) n) true x.toNat)
/-- The stage shift p(k+1) ← p(k) for k = 14 to 8, and p8 ← b (R96). -/
def shiftStages (p : BitVec 16) (b : Bool) : BitVec 16 :=
  (p &&& 0x00FF) ||| ((p &&& 0x7F00) <<< 1) ||| (if b then 0x0100 else 0)
/-- The body's last bundle has issued: the innermost loops decide, inner first (R95, R96, R134). -/
def loopBack (t : Tile) : List LoopSt → Tile
  | [] => { t with loops := [] }
  | l :: r =>
    if t.pc ≠ l.last + 1 then { t with loops := l :: r }
    else
      let n := rdLc t l.k - 1
      let t := wrLc t l.k n
      if n = 0 then loopBack t r
      else
        let t := { t with pc := l.first, loops := l :: r }
        if l.rot then
          { t with rb := if t.rs = 0 then 0 else (t.rb + t.rs - 1) % t.rs,
                   preds := shiftStages t.preds (decide (n.toNat > l.epi)) }
        else t
/-- LOOP_BACK: at the boundary after the last bundle of a body, also where a wait of that bundle holds the next one; a
write to the counter that lands at this boundary comes after the decrement (R70, R134; log 32). The event names the
tile. -/
def execLoopBack (s : State) : Host.Outcome State Fault Refusal :=
  let t := tileOf s s.ev.a
  if t.loopEnd then .next (setTile s s.ev.a (loopBack { t with loopEnd := false } t.loops)) else .next s

/-! ## Segments and the Pilot (R136) -/

/-- The image of a tile's timetable. -/
def imgOf (s : State) (t : Tile) : List Byte := (ttOf s t.tt).img
/-- The Pilot begins filling the idle half at cycle f with successor n of the executing segment. SEL, READY and NONE of SEGST show the
fill to a read from the next cycle on, the first of the fill (R92, R136; log 32). -/
def startFill (img : List Byte) (f : Nat) (n1 : Bool) (t : Tile) : Tile :=
  let succ := segNext img (t.segs.getD (t.half % 2) 0) n1
  { t with pilot := ⟨f, succ.isSome, n1, succ.isNone, false⟩,
           segs := match succ with | some p => t.segs.set (1 - t.half % 2) p | none => t.segs }
/-- The successor that is being filled or held. -/
def fillingNow (t : Tile) : Option Nat := if t.pilot.none then none else t.segs[1 - t.half % 2]?
/-- SEGJ (R136). -/
def execSegj (c : Cond) (s : State) : Host.Outcome State Fault Refusal :=
  let t := me s
  let on := condOn t c
  doWord s [inDelay t, illegalIf (on && !t.loops.isEmpty), trapIf (on && !t.pilot.ready) 4 0 0]
    (fun s => if on then
      onMe s (fun t => startFill (imgOf s t) (now s + 1) false { t with half := 1 - t.half % 2, pc := 0, loopEnd := false })
      else s)
/-- SEGSEL: a successor differs from the one being filled when it is another segment; one that names the same segment, or
none as the other, restarts nothing (R136; log 32). -/
def execSegsel (c : Cond) (k : PackN) (s : State) : Host.Outcome State Fault Refusal :=
  let t := me s
  let n1 := decide (k = 1)
  .next (if condOn t c && decide (segNext (imgOf s t) (t.segs.getD (t.half % 2) 0) n1 ≠ fillingNow t) then
    onMe s (startFill (imgOf s t) (now s + 1) n1) else s)
/-- PILOT_FILL_DONE: a fill begun at f completes during f + 21; the half holds the segment, then fill words (R33, R136).
The event names the tile. -/
def execPilotFillDone (s : State) : Host.Outcome State Fault Refusal :=
  let t := tileOf s s.ev.a
  if t.pilot.busy ∧ tcAt s s.ev.a = t.pilot.start + 21 then
    let h := 1 - t.half % 2
    .next (setTile s s.ev.a
      { t with pilot := { t.pilot with busy := false, ready := true },
               code := t.code.set h (segWords (imgOf s t) (t.segs.getD h 0)) })
  else .next s

/-! ## Timed points and waits (R105, R106, R137) -/

/-- TCHK (R137): late is SUB 2, early SUB 3 (R202). -/
def execTchk (c : Cond) (v : Lit) (s : State) : Host.Outcome State Fault Refusal :=
  let x := cyc s % 2 ^ 32
  let bad := condOn (me s) c && decide (x ≠ v.toNat)
  doWord s [rigidOnly (me s), trapIf bad 5 (if x > v.toNat then 2 else 3) 0] (fun s => s)
/-- From the next bundle on the tile is elastic, or rigid unless a DRAIN or BARW of the same bundle begins an elastic
segment (R105, log 14). -/
def modeFrom (elastic : Bool) (t : Tile) : Tile := { t with modeNext := some (elastic || t.modeNext == some true) }
/-- The word stands in the bundle that a resume after this cause issues again at its cycle (R214). -/
def passes (s : State) (cause : Nat) : Bool := (me s).skip == some (now s, cause)
/-- JOINT (R106): waits for its cycle; the one that a divergence stopped passes after the resume (R214). -/
def execJoint (v : Lit) (s : State) : Host.Outcome State Fault Refusal :=
  let t := me s
  let j := jointEntry (imgOf s t) v.toNat
  doWord s [inDelay t, illegalIf (decide (256 ≤ v.toNat) || !j.2.1), trapIf (!passes s 0x17 && decide (cyc s > j.1)) 6 0 0]
    (fun s' => onMe s' (fun t =>
      if passes s 0x17 || decide (cyc s = j.1) then modeFrom false t
      else { t with wait := .joint (t0At s s.cur + j.1) t.bun }))
/-- JOINT_RELEASE: a waiting JOINT completes at its cycle; the next bundle issues in the cycle after (R106). The event
names the tile. -/
def execJointRelease (s : State) : Host.Outcome State Fault Refusal :=
  let t := tileOf s s.ev.a
  match t.wait with
  | .joint j _ =>
    if tcAt s s.ev.a = j then .next (setTile s s.ev.a (modeFrom false { t with wait := .none, next := max t.next (j + 1) }))
    else .next s
  | _ => .next s
/-- The shared meaning of WAITC (R137): CYC is compared as an unsigned number (log 32). -/
def waitUntil (s : State) (src : Option Trap) (v : Nat) : Host.Outcome State Fault Refusal :=
  doWord s [inDelay (me s), src, trapIf (decide (cyc s < v) && !(me s).elastic) 5 8 0]
    (fun s' => onMe s' (fun t => if cyc s ≥ v then t else { t with wait := .waitc (t0At s s.cur + v) t.bun }))
/-- WAITC with a literal, which widens to the 64 bits of CYC by its sign (R39, R137). -/
def execWaitcLit (v : Lit) (s : State) : Host.Outcome State Fault Refusal :=
  waitUntil s none (v.signExtend 64).toNat
/-- WAITC with a register (R137). -/
def execWaitcReg (a : Reg) (s : State) : Host.Outcome State Fault Refusal := waitUntil s (useReg s a) (rdReg (me s) a).toNat
/-- WAITC_RELEASE (R137). The event names the tile. -/
def execWaitcRelease (s : State) : Host.Outcome State Fault Refusal :=
  let t := tileOf s s.ev.a
  match t.wait with
  | .waitc v _ =>
    if tcAt s s.ev.a ≥ v then .next (setTile s s.ev.a { t with wait := .none, next := max t.next (tcAt s s.ev.a + 1) }) else .next s
  | _ => .next s
/-- TEND (R109): the tile issues nothing further. -/
def execTend (c : Cond) (s : State) : Host.Outcome State Fault Refusal :=
  doWord s [inDelay (me s)] (fun s => onMe s (fun t => if condOn t c then { t with ended := true } else t))
/-- TRAP (R137): the program trap with its code; after a resume the same TRAP is a no-op (R214). -/
def execTrap (c : Cond) (v : Lit) (s : State) : Host.Outcome State Fault Refusal :=
  let t := me s
  let on := condOn t c && !passes s 0x18
  doWord s [inDelay t, if on then some ⟨0x18, 0, v.toNat, 0⟩ else none] (fun s => s)

end Sys2Proof.Machine
end

