-- ==== Sys2Proof/Machine/Channels.lean ====
section
/-! DEFINITION. Channels beside the D words (R272, R273, R277 to R279, R282): hand-over and return, refresh deadline,
retention, the end of a window, keep-alive refresh. -/

namespace Sys2Proof.Machine

/-! ## DRAM assumptions of an image (R332) -/

/-- The DRAM entries of an image: their offsets. -/
def dramEntries (img : List Byte) : List Nat := (List.range (imgLE img 0x2C 4)).map (fun i => imgLE img 0x28 4 + 64 * i)
def entChan (img : List Byte) (o : Nat) : Nat := imgLE img o 2
def entMask (img : List Byte) (o : Nat) : Nat := imgLE img (o + 2) 2
def entCompiled (img : List Byte) (o : Nat) : Bool := imgLE img (o + 4) 4 % 2 = 1
/-- The channels that an image marks compiled and whose owner has a task, with their ephemeral banks (R272). -/
def compiledChans (img : List Byte) : List (Nat × Nat) :=
  ((dramEntries img).filter (fun o => entCompiled img o && (taskTiles img).contains (chanOwner (entChan img o)))).map
    (fun o => (entChan img o, entMask img o))

/-! ## Hand-over (R273) and start -/

/-- A channel in the start state: precharged, with no history. -/
def startChan (c : Chan) : Chan := { Chan.idle with mode := c.mode, handed := true }
/-- CHANNEL_HANDOVER: the Harbour complex brings the compiled channels of an Armed timetable to the start state, through
the issuer (R273). The event names the timetable. -/
def execChannelHandover (s : State) : Host.Outcome State Fault Refusal :=
  let x := ttOf s s.ev.a
  if x.st = .armed then
    .next ((compiledChans x.img).foldl (fun s p => setChan s p.1 (startChan (chanAt s p.1))) s)
  else .next s
/-- At T0 the channel is compiled: no refresh credited, every ephemeral deadline at T0 + tRET (R272, R273). -/
def compileChan (s : State) (tt : Nat) (p : Nat × Nat) : State :=
  let x := ttOf s tt
  let tm := timingOf s p.1
  let eph := (List.range tm.banks).filter (fun b => p.2 / 2 ^ b % 2 = 1)
  let c := { startChan (chanAt s p.1) with comp := some tt, t0 := x.t0, ephTt := some tt, handed := false }
  setChan s p.1 (eph.foldl (fun c b => setBank c b { bankAt c b with eph := true, limit := x.t0 + tRet tm (imgSlice x.img) }) c)

/-! ## Deadlines (R277, R278) -/

/-- The cycle of the domain that commands a compiled channel. -/
def chanTc (s : State) (c : Chan) : Nat := match c.comp with | some tt => (domAt s (ttOf s tt).dom).tc | none => 0
/-- The slice factor of the timetable that commands a channel. -/
def chanFactor (s : State) (c : Chan) : Nat := match c.comp with | some tt => imgSlice (ttOf s tt).img | none => 1
/-- The refresh deadline D (R277). -/
def refDeadline (tm : Timing) (f : Nat) (c : Chan) : Nat := c.t0 + field tm f 14 * (c.credit + 1) + field tm f 17
/-- The word at which the tile's next bundle stands: after a loop-back or a branch that is still to be made. -/
def nextPc (t : Tile) : Nat :=
  match t.branch with
  | some b => if b.left = 0 then b.target else t.pc
  | none => if t.loopEnd then (loopBack { t with loopEnd := false } t.loops).pc else t.pc
/-- The bundle due at the cycle, or the waiting bundle (R277, R283). -/
def dueBundle (t : Tile) : BRef :=
  match t.hold, t.wait with
  | .drain _ _ _ b, _ => b
  | .barw _ _ _ _ b, _ => b
  | _, .joint _ b => b
  | _, .waitc _ b => b
  | _, _ => ⟨t.segs.getD (t.half % 2) 0, t.half, nextPc t⟩
/-- REFRESH_DEADLINE: TC has reached the deadline of a compiled channel (R277). The event names the channel. -/
def execRefreshDeadline (s : State) : Host.Outcome State Fault Refusal :=
  let c := chanAt s s.ev.a
  if c.comp.isSome ∧ chanTc s c ≥ refDeadline (timingOf s s.ev.a) (chanFactor s c) c then
    let id := chanOwner s.ev.a
    .next (engineTrap ⟨0xE, 0, 0, BitVec.ofNat 64 (s.ev.a * 2 ^ 48)⟩ ⟨0, 0, 0xF, dueBundle (tileOf s id), .mtHor false 0⟩ id s)
  else .next s
/-- TC of the domain whose timetable has ephemeral banks of the channel, also after the channel's return to open (R278). -/
def ephTc (s : State) (c : Chan) : Nat := match c.ephTt with | some tt => (domAt s (ttOf s tt).dom).tc | none => 0
/-- RETENTION_EXPIRY: an ephemeral bank is expired from its deadline on, until its timetable is over (R278). The event names the
channel and the bank. -/
def execRetentionExpiry (s : State) : Host.Outcome State Fault Refusal :=
  let c := chanAt s s.ev.a
  let k := bankAt c s.ev.b
  if k.eph ∧ c.ephTt.isSome ∧ ephTc s c ≥ k.limit then .next (setChan s s.ev.a (setBank c s.ev.b { k with expired := true }))
  else .next s

/-! ## The end of a window (R279) -/

/-- The banks that a window opened. -/
def winBanks (c : Chan) : List Nat := (c.banks.filter (fun p => p.2.byWin && p.2.row.isSome)).map (·.1)
/-- What was moved on a channel and its requester has not used is requested again: data move inside the channel's windows only
(R281; log 20). -/
def dropGrants (s : State) (ch : Nat) : State := { s with grants := s.grants.filter (fun g => chanOf (64 * g.2) ≠ ch) }
/-- WINDOW_EXPIRY: the window ended with its last cycle; the issuer has precharged what it opened, and a request that a DWIN 0 cut
short is made again (R279, R280). The event names the channel. -/
def execWindowExpiry (s : State) : Host.Outcome State Fault Refusal :=
  let c := chanAt s s.ev.a
  match c.win with
  | some (_, b) => if chanTc s c > b then .next (setChan (dropGrants s s.ev.a) s.ev.a { c with win := none, serve := none }) else .next s
  | none => .next s

/-! ## Return to open (R272) -/

/-- A D word of the tile makes its last effect after cycle T: a transfer that has not landed or reached its row. -/
def dPending (t : Tile) (T : Nat) : Bool :=
  t.cal.any (fun p => match p.act with
    | .drd .. => decide (T < p.due)
    | .dwrRead _ _ _ _ _ at_ => decide (T < at_)
    | .dwrQ .. => decide (T < p.due)
    | _ => false)
/-- T is the cycle from whose end on the channel is open: a cycle after the owner's TEND by which its D words have made their last
effects, or one at which the timetable is over (R272). -/
def backToOpen (s : State) (ch : Nat) (c : Chan) (T : Nat) : Bool :=
  let t := tileOf s (chanOwner ch)
  match c.comp with
  | none => false
  | some tt =>
    ((ttOf s tt).st = .ended || (ttOf s tt).st = .aborted) || (t.tt = tt && t.ended && decide (t.next ≤ T) && !dPending t T)
/-- The open channel: its window ends and the issuer precharges every bank left open, as soon as the rows of R274 let it;
timing state and account stay, and the sequencer of a hold has no row to open again (R272, R282). -/
def openChan (tm : Timing) (f x : Nat) (c : Chan) : Chan :=
  (c.banks.map (·.1)).foldl (fun c b => closeBank (legalFrom tm f c (.pre b) x) b c)
    { c with comp := none, win := none, queue := [], serve := none, closed := none, held := [], seq := [] }
/-- The channel of a timetable returns to open. -/
def toOpen (s : State) (ch : Nat) : State :=
  let c := chanAt s ch
  setChan (dropGrants s ch) ch (openChan (timingOf s ch) (chanFactor s c) (chanTc s c) c)
/-- CHANNEL_TO_OPEN (R272). The event names the channel. -/
def execChannelToOpen (s : State) : Host.Outcome State Fault Refusal :=
  let c := chanAt s s.ev.a
  if backToOpen s s.ev.a c (chanTc s c) then .next (toOpen s s.ev.a) else .next s

/-! ## The sequencer of a frozen channel (R213, R282) -/

/-- The rows that were open at the freeze are open again: those recorded, and those not yet precharged. -/
def withRows (c : Chan) : Chan := c.held.foldl (fun c p => setBank c p.1 { bankAt c p.1 with row := some p.2 }) { c with held := [] }
/-- The channel as the sequencer's commands have left it, the histories of the freeze and its own together. -/
def seqChan (tm : Timing) (f : Nat) (c : Chan) : Chan := c.seq.reverse.foldl (fun d p => dApply tm f p.1 true p.2 d) (withRows c)
/-- The clock from which the next command may stand. -/
def seqFrom (x : Nat) (c : Chan) : Nat := match c.seq with | p :: _ => p.1 + 1 | [] => x
/-- The clock at which the next refresh is due: every tREFI clocks. -/
def refFrom (tm : Timing) (f x : Nat) (c : Chan) : Nat :=
  match c.seq.find? (fun p => p.2 == .ref) with | some p => max (p.1 + field tm f 14) (seqFrom x c) | none => seqFrom x c
/-- The sequencer adds a command at the first clock from y on that the rows of R274 allow. -/
def seqAdd (tm : Timing) (f y : Nat) (k : DCmd) (c : Chan) : Chan := { c with seq := (legalFrom tm f (seqChan tm f c) k y, k) :: c.seq }
/-- The next command of the sequencer: it precharges the open banks and records their rows, then it refreshes. -/
def holdStep (tm : Timing) (f x : Nat) (c : Chan) : Chan :=
  match c.banks.find? (fun p => p.2.row.isSome) with
  | some (b, k) =>
    let d := seqAdd tm f (seqFrom x c) (.pre b) c
    setBank { d with held := d.held ++ [(b, k.row.getD 0)] } b { bankAt d b with row := none }
  | none => seqAdd tm f (refFrom tm f x c) .ref c
/-- KEEP_ALIVE_REFRESH: the sequencer of a frozen compiled channel issues its next command: the precharge of an open bank,
whose row it records, or an all-bank refresh; the histories of the freeze, the account and the deadlines stay (R213,
R282). The event names the channel. -/
def execKeepAliveRefresh (s : State) : Host.Outcome State Fault Refusal :=
  let ch := s.ev.a
  let c := chanAt s ch
  match c.comp with
  | some tt =>
    if (domAt s (ttOf s tt).dom).frozen then .next (setChan s ch (holdStep (timingOf s ch) (chanFactor s c) (chanTc s c) c)) else .next s
  | none => .next s
/-- The recorded rows, in ascending bank order. -/
def heldRows (c : Chan) : List (Nat × Nat) :=
  (List.range 16).filterMap (fun b => c.held.find? (fun p => p.1 = b))
/-- At resume the sequencer reactivates the recorded rows one after another, when the rows of R274 let it; then the checks
use the histories of the freeze again (R214, R282). -/
def reopenRows (tm : Timing) (f x : Nat) (c : Chan) : Chan :=
  withRows ((heldRows c).foldl (fun c p => seqAdd tm f (seqFrom x c) (.act p.1 p.2) c) c)

/-! ## The end of an ephemeral bank (R278) -/

/-- Every line of a bank takes free values (log 6). -/
def loseBank (tm : Timing) (ch b : Nat) (s : State) : State :=
  let n := tm.rows * tm.cols
  let mem := (List.range n).foldl (fun m i => storeBytes m (linePlace ch b (i / tm.cols) (i % tm.cols))
    ((List.range 64).map (fun j => Config.freeByte (s.free + 64 * i + j)))) s.mem
  { s with mem := mem, free := s.free + 64 * n }
/-- The timetable is over: its ephemeral banks are ordinary again, and what an expired one holds is undefined (R278). -/
def endEphemeral (s : State) (ch : Nat) : State :=
  let c := chanAt s ch
  let lost := (c.banks.filter (fun p => p.2.expired)).map (·.1)
  let s := lost.foldl (fun s b => loseBank (timingOf s ch) ch b s) s
  setChan s ch ((c.banks.map (·.1)).foldl (fun c b => setBank c b { bankAt c b with eph := false, expired := false }) { c with ephTt := none })

end Sys2Proof.Machine
end

