-- ==== Sys2Proof/Machine/QuayBase.lean ====
section
/-! DEFINITION. The Quay front end (R324 to R328): queues, slots, the command word and its decoder, queue errors, and
accesses of a queue to memory. -/

namespace Sys2Proof.Machine

/-! ## The command word (R328) -/

def irOp (w : Word) : Nat := (w.extractLsb' 56 8).toNat
def irD (w : Word) : Nat := (w.extractLsb' 52 4).toNat
def irA (w : Word) : Nat := (w.extractLsb' 48 4).toNat
def irB (w : Word) : Nat := (w.extractLsb' 44 4).toNat
def irX (w : Word) : Nat := (w.extractLsb' 40 4).toNat
def irImm (w : Word) : BitVec 32 := w.setWidth 32
/-- Builds a command word. -/
def cmdWord (op d a b x : Nat) (imm : BitVec 32) : Word :=
  BitVec.ofNat 8 op ++ (BitVec.ofNat 4 d ++ (BitVec.ofNat 4 a ++ (BitVec.ofNat 4 b ++ (BitVec.ofNat 4 x ++ (0#8 ++ imm)))))
/-- The fields that an entry does not use are 0 (R328). -/
def zeroExcept (w : Word) (d a b imm : Bool) : Bool :=
  (d || irD w = 0) && (a || irA w = 0) && (b || irB w = 0) && (imm || irImm w = 0) && w.extractLsb' 32 8 = 0
/-- The arithmetic commands: X = 1 takes the immediate in place of cb (R329). -/
def arith (w : Word) (i : Instr) : Option Instr :=
  if irX w = 0 ∧ zeroExcept w true true true false then some i
  else if irX w = 1 ∧ zeroExcept w true true false true then some i
  else none
/-- An entry without modifier. -/
def plainCmd (w : Word) (d a b imm : Bool) (i : Instr) : Option Instr :=
  if irX w = 0 ∧ zeroExcept w d a b imm then some i else none
/-- The command that a word names; none is error 0x01 (R328 to R335). -/
def decodeCmd (w : Word) : Option Instr :=
  let x := irX w
  let imm := (irImm w).toNat
  match irOp w with
  | 0x00 => plainCmd w false false false false .cnop
  | 0x01 =>
    if x = 0 ∧ zeroExcept w true false false true then some .cli
    else if x = 1 ∧ zeroExcept w true false false false then some .cliLiteral
    else none
  | 0x02 => plainCmd w true true false false .cmov
  | 0x03 => arith w .cadd
  | 0x04 => arith w .csub
  | 0x05 => arith w .cand
  | 0x06 => arith w .cor
  | 0x07 => arith w .cshl
  | 0x08 => arith w .cshr
  | 0x10 => if x ≤ 1 ∧ zeroExcept w true true false true then some .cld else none
  | 0x11 => if x ≤ 1 ∧ zeroExcept w false true true true then some .cst else none
  | 0x18 => if x ≤ 6 ∧ zeroExcept w false true true true then some .cb else none
  | 0x19 => plainCmd w false true false true .cloop
  | 0x1A => plainCmd w false true false true .ccall
  | 0x1B => plainCmd w false false false false .cret
  | 0x1C => if 1 ≤ x ∧ x ≤ 6 ∧ zeroExcept w true true true true then some .cwait else none
  | 0x1D => if x = 0 ∧ zeroExcept w false true true true ∧ imm / 2 ^ 12 % 2 ^ 19 = 0 then some .csig else none
  | 0x20 =>
    if x ≤ 1 ∧ zeroExcept w true true true false then some .cttld
    else if (x = 2 ∨ x = 3) ∧ zeroExcept w true false true false then some .cttldUn
    else none
  | 0x21 =>
    if x ≤ 1 ∧ zeroExcept w true true true false then some .claunchTc
    else if (x = 4 ∨ x = 5) ∧ zeroExcept w true true true false then some .claunchRel
    else if (x = 2 ∨ x = 3) ∧ zeroExcept w true true true true ∧ imm < 256 then some .claunchJt
    else if (x = 6 ∨ x = 7) ∧ zeroExcept w true true false false then some .claunchWd
    else none
  | 0x22 => plainCmd w true true true false .ccopy
  | 0x23 => if x = 0 ∧ zeroExcept w true true true true ∧ imm < 32 then some .cdemote else none
  | 0x24 => if x = 0 ∧ zeroExcept w true true true true ∧ imm < 32 then some .cpromote else none
  | 0x28 => plainCmd w false false false false .cfence
  | 0x29 => plainCmd w false false false false .chalt
  | _ => none

/-! ## Registers of a queue (R328) -/

/-- The queue whose command is being executed: the event names it. -/
def qHere (s : State) : Queue := queueAt s s.ev.a
def updQueue (s : State) (q : Nat) (f : Queue → Queue) : State := setQueue s q (f (queueAt s q))
/-- c0 reads 0 and ignores writes. -/
def cReg (q : Queue) (n : Nat) : Word := if n = 0 then 0 else tabGet 0 q.c n
def setC (n : Nat) (v : Word) (q : Queue) : Queue := if n = 0 then q else { q with c := tabSet 0 q.c n v }
def cD (q : Queue) : Word := cReg q (irD q.ir)
def cA (q : Queue) : Word := cReg q (irA q.ir)
def cB (q : Queue) : Word := cReg q (irB q.ir)
def cImm (q : Queue) : Word := (irImm q.ir).signExtend 64
/-- y of R329: cb, or the immediate. -/
def cY (q : Queue) : Word := if irX q.ir = 1 then cImm q else cB q

/-! ## Memory as a queue sees it (R324, R330) -/

/-- The n bytes at an address as one number; none where a translation fails. -/
def qLoad (s : State) (q va : Nat) : Nat → Option Nat
  | 0 => some 0
  | n + 1 =>
    match qLoad s q va n, qPage s q (va + n) with
    | some x, some g => some (x + (physByte s (placeOf g (va + n))).toNat * 256 ^ n)
    | _, _ => none
/-- The access may write. -/
def qCanWrite (s : State) (q va : Nat) : Bool := match qPage s q va with | some g => g.wr | none => false
/-- Writes n bytes that lie in one page. -/
def qStore (s : State) (q va v n : Nat) : State :=
  match qPage s q va with
  | some g => { s with mem := storeLE s.mem (placeOf g va) v n }
  | none => s
/-- The places of n bytes at an address, one by one where pages let them stand apart. -/
def qTouch (s : State) (q va n : Nat) (wr : Bool) : List Touch :=
  match qPage s q va, qPage s q (va + n - 1) with
  | some g, some h =>
    if g = h then [⟨placeOf g va, n, wr⟩]
    else (List.range n).filterMap (fun i => (qPage s q (va + i)).map (fun g => ⟨placeOf g (va + i), 1, wr⟩))
  | _, _ => []
/-- The n bytes are on open channels, or a window has served the queue (R18, R280, R335). -/
def qServed (s : State) (q va n : Nat) : Bool := servedAll s (.queue q) none (qTouch s q va n false)
/-- A queue as the source of writes that wait; devices of the links are below 2⁶, the firmware cores from 2¹⁶ on. -/
def queueSrc (q : Nat) : Nat := 2 ^ 17 + q
/-- A write of the front end for a queue that its command does not wait for. -/
def qPost (s : State) (q va v n : Nat) : State :=
  match qPage s q va with
  | some g => if g.wr then postBytes (some (queueSrc q)) (placeOf g va) (leBytes v n) s else s
  | none => s

/-! ## Where a queue stands (R325, R327, R330) -/

/-- The number of words of the line. -/
def lineNw (q : Queue) : Nat := (q.line.getD []).headD 0 / 2 ^ 16 % 8
/-- The place k words on. -/
def placeAfter (p : CPlace) (k : Int) : CPlace :=
  match p with
  | .slot i => .slot (i + k).toNat
  | .buf va => .buf ((va + 8 * k) % (2 ^ 64 : Nat)).toNat
/-- The number of slots. -/
def slotsOf (x : Queue) : Nat := if x.nslot = 0 then 1 else x.nslot.toNat
/-- Address of slot HEAD (R325). -/
def slotVa (q : Queue) : Nat := q.base.toNat + 64 * (q.head % slotsOf q)
/-- Address of the word at a place. -/
def placeVa (q : Queue) (p : CPlace) : Nat :=
  match p with
  | .slot i => slotVa q + 8 + 8 * i
  | .buf va => va
/-- A queue error: the queue stops before its command has any effect, with the word's index in its slot and its address
(R335). -/
def qErr (s : State) (q code : Nat) : State :=
  updQueue s q (fun x => { x with st := 2, err := code, word := (match x.at_ with | .slot i => i | .buf _ => 0),
                                  erra := BitVec.ofNat 64 (placeVa x x.at_), wait := .none })
/-- The slot is complete: HEAD advances and the head mirror receives it (R327). -/
def completeSlot (s : State) (q : Nat) : State :=
  let x := queueAt s q
  let h := (x.head + 1) % 2 ^ 64
  qPost (setQueue s q { x with head := h, line := none, at_ := .slot 0, wait := .none }) q x.qhm.toNat h 8
/-- Every earlier write of the queue has performed (R336). -/
def allPerformed (s : State) (q : Nat) : Bool := s.waiting.all (fun w => w.src ≠ some (queueSrc q))
/-- The queue goes on at a place; the place after the last word of the slot completes it. -/
def goTo (s : State) (q : Nat) (p : CPlace) : State :=
  let s := updQueue s q (fun x => { x with at_ := p, wait := .none })
  match p with
  | .slot i => if i ≥ lineNw (queueAt s q) then completeSlot s q else s
  | .buf _ => s
/-- The command is complete: the next word follows; what was moved for it is used up. -/
def qNext (s : State) (q : Nat) : State := goTo (spend (.queue q) s) q (placeAfter (queueAt s q).at_ 1)
/-- The queue's command is in progress: it waits for a window of a channel that it uses, or for an earlier write (R18, R336, R337). -/
def cPause (s : State) : Host.Outcome State Fault Refusal := .next (updQueue s s.ev.a (fun x => { x with wait := .window }))
/-- The word at a place: of the line as it was read, or of a buffer; none where its translation fails. -/
def wordAt (s : State) (q : Nat) (p : CPlace) : Option Word :=
  match p with
  | .slot i => some (BitVec.ofNat 64 (((queueAt s q).line.getD []).getD (i + 1) 0))
  | .buf va => (qLoad s q va 8).map (BitVec.ofNat 64)

/-- SLOT_EXECUTE: the front end reads slot HEAD and begins when HEAD < TAIL and its stamp matches (R325, R326). The event
names the queue. -/
def execSlotExecute (s : State) : Host.Outcome State Fault Refusal :=
  let q := s.ev.a
  let x := queueAt s q
  let va := slotVa x
  if !x.en || x.st ≠ 1 || !x.mapped || x.line.isSome || x.wait ≠ .none then .next s
  else if x.bad08 then .next (qErr (updQueue s q (fun x => { x with bad08 := false })) q 8)
  else if x.head ≥ x.tail then .next s
  else match qLoad s q va 64 with
    | none => .next (qErr s q 2)
    | some v =>
      if !qServed s q va 64 then .next s
      else
      let s := spend (.queue q) s
      let l := (List.range 8).map (fun i => v / 2 ^ (64 * i) % 2 ^ 64)
      let h := l.headD 0
      if h % 2 ^ 16 ≠ x.head % 2 ^ 16 then .next s
      else if h / 2 ^ 16 % 8 = 0 ∨ h / 2 ^ 19 ≠ 0 then .next (qErr s q 9)
      else .next (updQueue s q (fun x => { x with line := some l, at_ := .slot 0 }))
end Sys2Proof.Machine
end

