-- ==== Sys2Proof/Machine/Commands.lean ====
section
/-! DEFINITION. Commands of a queue (R329 to R331, R335, R336): arithmetic, memory and control, waits and signals,
copies and berth moves. The event that runs a command names its queue; the operands are the fields of the word that the
queue holds. -/

namespace Sys2Proof.Machine

/-! ## Arithmetic (R329) -/

/-- cd receives a value and the next word follows. -/
def cSet (s : State) (v : Word) : Host.Outcome State Fault Refusal :=
  let q := s.ev.a
  .next (qNext (updQueue s q (fun x => setC (irD x.ir) v x)) q)
/-- CNOP. -/
def execCnop (s : State) : Host.Outcome State Fault Refusal := .next (qNext s s.ev.a)
/-- CLI with the immediate. -/
def execCli (s : State) : Host.Outcome State Fault Refusal := cSet s (cImm (qHere s))
/-- CLI with the next word as its literal, which is skipped; at the last word of a slot it has none. -/
def execCliLiteral (s : State) : Host.Outcome State Fault Refusal :=
  let q := s.ev.a
  let x := qHere s
  let p := placeAfter x.at_ 1
  match p with
  | .slot i =>
    if i ≥ lineNw x then .next (qErr s q 0x0A)
    else match wordAt s q p with
      | some v => .next (goTo (updQueue s q (fun y => setC (irD y.ir) v y)) q (placeAfter p 1))
      | none => .next (qErr s q 2)
  | .buf va => match wordAt s q p with
    | some v =>
      if !qServed s q va 8 then cPause s
      else .next (goTo (spend (.queue q) (updQueue s q (fun y => setC (irD y.ir) v y))) q (placeAfter p 1))
    | none => .next (qErr s q 2)
/-- CMOV. -/
def execCmov (s : State) : Host.Outcome State Fault Refusal := cSet s (cA (qHere s))
/-- CADD. -/
def execCadd (s : State) : Host.Outcome State Fault Refusal := cSet s (cA (qHere s) + cY (qHere s))
/-- CSUB. -/
def execCsub (s : State) : Host.Outcome State Fault Refusal := cSet s (cA (qHere s) - cY (qHere s))
/-- CAND. -/
def execCand (s : State) : Host.Outcome State Fault Refusal := cSet s (cA (qHere s) &&& cY (qHere s))
/-- COR. -/
def execCor (s : State) : Host.Outcome State Fault Refusal := cSet s (cA (qHere s) ||| cY (qHere s))
/-- CSHL. -/
def execCshl (s : State) : Host.Outcome State Fault Refusal := cSet s (cA (qHere s) <<< ((cY (qHere s)).toNat % 64))
/-- CSHR. -/
def execCshr (s : State) : Host.Outcome State Fault Refusal := cSet s (cA (qHere s) >>> ((cY (qHere s)).toNat % 64))

/-! ## Memory (R330) -/

/-- The address ca + imm. -/
def cAddr (q : Queue) : Nat := (cA q + cImm q).toNat
/-- The bytes of a CLD or CST. -/
def cBytes (q : Queue) : Nat := if irX q.ir = 1 then 4 else 8
/-- CLD. -/
def execCld (s : State) : Host.Outcome State Fault Refusal :=
  let q := s.ev.a
  let x := qHere s
  let a := cAddr x
  if a % cBytes x ≠ 0 then .next (qErr s q 3)
  else match qLoad s q a (cBytes x) with
    | none => .next (qErr s q 2)
    | some v => if qServed s q a (cBytes x) then cSet s (BitVec.ofNat 64 v) else cPause s
/-- CST. -/
def execCst (s : State) : Host.Outcome State Fault Refusal :=
  let q := s.ev.a
  let x := qHere s
  let a := cAddr x
  if a % cBytes x ≠ 0 then .next (qErr s q 3)
  else if !qCanWrite s q a then .next (qErr s q 2)
  else if !qServed s q a (cBytes x) then cPause s
  else .next (qNext (qStore s q a ((cB x).toNat % 256 ^ cBytes x) (cBytes x)) q)

/-! ## Control (R330) -/

/-- The conditions of CB and CWAIT. -/
def ccHolds (cc : Nat) (a b : Word) : Bool :=
  match cc with
  | 0 => true
  | 1 => a == b
  | 2 => a != b
  | 3 => decide (a.toInt < b.toInt)
  | 4 => decide (b.toInt ≤ a.toInt)
  | 5 => decide (a.toNat < b.toNat)
  | _ => decide (b.toNat ≤ a.toNat)
/-- A branch by the word's offset; in a slot its target lies in words 0 to NW. -/
def cBranch (s : State) (q : Nat) : State :=
  let x := queueAt s q
  let k := (irImm x.ir).toInt
  match x.at_ with
  | .slot i =>
    if (i : Int) + k < 0 ∨ (i : Int) + k > lineNw x then qErr s q 4 else goTo s q (.slot ((i : Int) + k).toNat)
  | .buf _ => goTo s q (placeAfter x.at_ k)
/-- CB. -/
def execCb (s : State) : Host.Outcome State Fault Refusal :=
  let x := qHere s
  .next (if ccHolds (irX x.ir) (cA x) (cB x) then cBranch s s.ev.a else qNext s s.ev.a)
/-- CLOOP: ca as it reads after the write decides; the decrement is part of the command, so a bad target leaves ca
(R328, R330, R335). -/
def execCloop (s : State) : Host.Outcome State Fault Refusal :=
  let q := s.ev.a
  let x := qHere s
  let s' := updQueue s q (setC (irA x.ir) (cA x - 1))
  if cA (queueAt s' q) = 0 then .next (qNext s' q)
  else
    let b := cBranch s' q
    .next (if (queueAt b q).st = 2 then qErr s q 4 else b)
/-- CCALL pushes the address of the next word. -/
def execCcall (s : State) : Host.Outcome State Fault Refusal :=
  let q := s.ev.a
  let x := qHere s
  let a := cAddr x
  if x.stack.length ≥ 4 then .next (qErr s q 5)
  else if a % 8 ≠ 0 then .next (qErr s q 3)
  else if (qPage s q a).isNone then .next (qErr s q 2)
  else .next (goTo (updQueue s q (fun y => { y with stack := placeVa y (placeAfter y.at_ 1) :: y.stack })) q (.buf a))
/-- The place of an address: a word of the slot that is being executed, or its end, or a word of a buffer (R330; log 26). -/
def placeOfVa (q : Queue) (va : Nat) : CPlace :=
  match (List.range (lineNw q + 1)).find? (fun i => placeVa q (.slot i) = va) with
  | some i => .slot i
  | none => .buf va
/-- CRET. -/
def execCret (s : State) : Host.Outcome State Fault Refusal :=
  let q := s.ev.a
  match (qHere s).stack with
  | [] => .next (qErr s q 6)
  | p :: r => .next (goTo (updQueue s q (fun y => { y with stack := r })) q (placeOfVa (qHere s) p))
/-- CFENCE: it completes when every earlier access of the queue has performed: those of its commands have, since each performs before
its command completes, and the writes of the head mirror may still wait (R327, R336). -/
def execCfence (s : State) : Host.Outcome State Fault Refusal := if allPerformed s s.ev.a then .next (qNext s s.ev.a) else cPause s
/-- CHALT. -/
def execChalt (s : State) : Host.Outcome State Fault Refusal :=
  let q := s.ev.a
  .next (updQueue (completeSlot s q) q (fun y => { y with en := false, st := 0 }))

/-! ## CWAIT and CSIG (R331) -/

/-- CWAIT reads once, and goes on, or polls (R331). -/
def execCwait (s : State) : Host.Outcome State Fault Refusal :=
  let q := s.ev.a
  let x := qHere s
  let a := (cA x).toNat
  let t := (irImm x.ir).toNat
  if a % 8 ≠ 0 then .next (qErr s q 3)
  else match qLoad s q a 8 with
    | none => .next (qErr s q 2)
    | some v =>
      let w := BitVec.ofNat 64 v
      if !qServed s q a 8 then cPause s
      else if ccHolds (irX x.ir) w (cB x) || t = 0 then cSet s w
      else .next (updQueue (spend (.queue q) s) q (fun y => { y with
        wait := .poll (irX x.ir) (irD x.ir) a (cB x) (if t = 0xFFFFFFFF then none else some t) w }))
/-- CWAIT_SATISFIED: a CWAIT reads again, goes on when the condition holds, and else keeps the value as the last one
read; a read whose translation fails is an error. The event names the queue. -/
def execCwaitSatisfied (s : State) : Host.Outcome State Fault Refusal :=
  let q := s.ev.a
  match (queueAt s q).wait with
  | .poll cc d va val t _ =>
    match qLoad s q va 8 with
    | none => .next (qErr s q 2)
    | some n =>
      let v := BitVec.ofNat 64 n
      if !qServed s q va 8 then .next s
      else if ccHolds cc v val then .next (qNext (updQueue s q (setC d v)) q)
      else .next (updQueue (spend (.queue q) s) q (fun y => { y with wait := .poll cc d va val t v }))
  | _ => .next s
/-- CWAIT_TIMEOUT: the time is over; cd receives the last value read (R331). The event names the queue. -/
def execCwaitTimeout (s : State) : Host.Outcome State Fault Refusal :=
  let q := s.ev.a
  match (queueAt s q).wait with
  | .poll _ d _ _ (some _) last => .next (qNext (updQueue s q (setC d last)) q)
  | _ => .next s
/-- CSIG: the write, as a release after every earlier access of the queue, then the interrupt; the vectors of the table are 0 to 2,047
(R331, R336; log 26). -/
def execCsig (s : State) : Host.Outcome State Fault Refusal :=
  let q := s.ev.a
  let x := qHere s
  let a := (cA x).toNat
  let imm := (irImm x.ir).toNat
  if imm % 4096 ≥ Config.msixVectors then .next (qErr s q 1)
  else if a % 8 ≠ 0 then .next (qErr s q 3)
  else if !qCanWrite s q a then .next (qErr s q 2)
  else if !qServed s q a 8 || !allPerformed s q then cPause s
  else
    let s := qStore s q a (cB x).toNat 8
    .next (qNext (if imm / 2 ^ 31 = 1 then send (.msix (imm % 4096)) s else s) q)

/-! ## CCOPY (R335) -/

/-- Every line of a copy is mapped, and its destination may be written: an error stops the queue before the command has any
effect (R335). -/
def copyOk (s : State) (q dst src n : Nat) : Bool :=
  (List.range (n / 64)).all (fun i => (qPage s q (src + 64 * i)).isSome && qCanWrite s q (dst + 64 * i))
/-- The line at src, which may have been read already; the inner none while its channel does not let it be read, the outer one where
its translation fails. -/
def copyLine (s : State) (q src : Nat) (buf : Option Nat) : Option (Option Nat) :=
  match buf with
  | some v => some (some v)
  | none => (qLoad s q src 64).map (fun v => if qServed s q src 64 then some v else none)
/-- The next line of a copy: it is read where the channel of its source lets it, and written where that of its destination does; a
translation that fails stops the queue (R335). -/
def copyStep (s : State) (q dst src left : Nat) (buf : Option Nat) (fin : Bool) : State :=
  match copyLine s q src buf with
  | none => qErr s q 2
  | some none => s
  | some (some v) =>
    if !qCanWrite s q dst then qErr s q 2
    else if !qServed s q dst 64 then
      (if buf.isSome then s else updQueue (spend (.queue q) s) q (fun y => { y with wait := .copy dst src left (some v) }))
    else
      let s := qStore s q dst v 64
      if fin then qNext s q
      else updQueue (spend (.queue q) s) q (fun y => { y with wait := .copy (dst + 64) (src + 64) (left - 64) none })
/-- CCOPY: the checks, then one line after another; the last one is CCOPY_COMPLETE. A length that is no multiple of 64
below 2³² makes the word illegal (R335; log 26). -/
def execCcopy (s : State) : Host.Outcome State Fault Refusal :=
  let q := s.ev.a
  let x := qHere s
  match x.wait with
  | .copy dst src left buf => if left > 64 then .next (copyStep s q dst src left buf false) else .next s
  | _ =>
    let n := (cB x).toNat
    if n % 64 ≠ 0 ∨ n ≥ 2 ^ 32 then .next (qErr s q 1)
    else if n = 0 then .next (qNext s q)
    else if (cD x).toNat % 64 ≠ 0 ∨ (cA x).toNat % 64 ≠ 0 then .next (qErr s q 3)
    else if !copyOk s q (cD x).toNat (cA x).toNat n then .next (qErr s q 2)
    else .next (updQueue s q (fun y => { y with wait := .copy (cD x).toNat (cA x).toNat n none }))
/-- CCOPY_COMPLETE: the last line performs (R335). The event names the queue. -/
def execCcopyComplete (s : State) : Host.Outcome State Fault Refusal :=
  let q := s.ev.a
  match (queueAt s q).wait with
  | .copy dst src left buf => if left ≤ 64 then .next (copyStep s q dst src left buf true) else .next s
  | _ => .next s

/-! ## Berth moves (R317, R335) -/

/-- The moves of a die's engine that have not ended; their keys are die + 6·j. -/
def engineMoves (s : State) (die : Nat) : List (Nat × Move) := s.moves.filter (fun p => p.1 % 6 = die && p.2.state = mvCopy)
/-- A place for a further move, while fewer than 16 have not ended (R317). -/
def freeMove (s : State) (die : Nat) : Option Nat :=
  if (engineMoves s die).length < 16 then
    ((List.range (s.moves.length + 1)).map (fun j => die + 6 * j)).find? (fun k => (moveAt s k).state = mvNone)
  else none
/-- The key names no berth (R335). -/
def noBerth (m : Memory) (tb : Nat) (k : Word) : Bool :=
  let d := rdDir m tb (kSeq k)
  kBad k || kSlot k ≠ 0 || badSeq m tb (kSeq k) || decide (kBlk k ≥ d.nblk) || badBerth m tb (rdBlk m tb d (kBlk k))
/-- What the start of a move touches (R303). -/
def moveTouch (s : State) (p : Nat) (up start : Bool) (k : Word) : List Touch :=
  let tb := (partAt s p).tbase
  let d := rdDir s.mem tb (kSeq k)
  lookTouch s p (.kvlook k 0) ++
    (if start then takeTouch s.mem tb (tierQ tb d.pool (!up)) ++ [⟨bEntAt s.mem tb (keyBerth s p k), 8, true⟩] else [])
/-- The status of a move's start (R335). -/
def moveStatus (m : Memory) (tb : Nat) (up : Bool) (k : Word) : Nat :=
  let d := rdDir m tb (kSeq k)
  if noBerth m tb k then 3
  else if (rdEnt m tb (rdBlk m tb d (kBlk k))).st ≠ (if up then bAnch else bHbm) then 1
  else if fifoCount m (tierQ tb d.pool (!up)) = 0 then 2
  else 0
/-- The move starts: it takes a destination slot, and the berth is migrating (R317). -/
def beginMove (s : State) (q p key a : Nat) (up : Bool) (k : Word) : State :=
  let tb := (partAt s p).tbase
  let d := rdDir s.mem tb (kSeq k)
  let n := rdBlk s.mem tb d (kBlk k)
  let f := fifoTake s.mem tb (tierQ tb d.pool (!up))
  let m := wrEnt f.2 tb n { rdEnt f.2 tb n with st := bMigr }
  setMove { s with mem := m } key ⟨p, n, d.pool, up, (rdEnt s.mem tb n).loc, f.1, 0, mvCopy, a, q, 0, none⟩
/-- CDEMOTE and CPROMOTE: the checks, the wait for a free move and for the table's windows, the status and the start (R303,
R317, R335). -/
def startMove (s : State) (up : Bool) : Host.Outcome State Fault Refusal :=
  let q := s.ev.a
  let x := qHere s
  let p := (irImm x.ir).toNat % 32
  let a := (cA x).toNat
  let k := cB x
  if !(procParts s q).contains p then .next (qErr s q 0x0B)
  else if a % 8 ≠ 0 then .next (qErr s q 3)
  else if !qCanWrite s q a then .next (qErr s q 2)
  else match freeMove s (p / 4) with
    | none => .next (updQueue s q (fun y => { y with wait := .move }))
    | some key =>
      let st := moveStatus s.mem (partAt s p).tbase up k
      if !mayMove s (.queue q) (moveTouch s p up (st = 0) k) then .next (updQueue s q (fun y => { y with wait := .move }))
      else if st ≠ 0 then cSet s (BitVec.ofNat 64 st)
      else cSet (beginMove s q p key a up k) 0
/-- CDEMOTE: toward the anchorage tier. -/
def execCdemote (s : State) : Host.Outcome State Fault Refusal := startMove s false
/-- CPROMOTE: toward HBM4. -/
def execCpromote (s : State) : Host.Outcome State Fault Refusal := startMove s true
/-- Where the next byte of a move's copy comes from, and where it goes. -/
def moveFrom (s : State) (v : Move) : Nat := slotBase s.mem (partAt s v.part).tbase v.pool v.up v.src + v.pos
def moveTo (s : State) (v : Move) : Nat := slotBase s.mem (partAt s v.part).tbase v.pool (!v.up) v.dst + v.pos
/-- The bytes of a move that are still to be copied. -/
def moveLeft (s : State) (v : Move) : Nat := bSize s.mem (partAt s v.part).tbase v.pool - v.pos
/-- What the commit of a move touches beside what is still to be copied. -/
def tableTouch (s : State) (v : Move) : List Touch :=
  let tb := (partAt s v.part).tbase
  [⟨bPool tb v.pool, 128, false⟩, ⟨bEntAt s.mem tb v.n, 8, true⟩]
/-- What the rest of the copy and the commit of a move touch. -/
def commitTouch (s : State) (v : Move) : List Touch :=
  [⟨moveFrom s v, moveLeft s v, false⟩, ⟨moveTo s v, moveLeft s v, true⟩] ++ tableTouch s v
/-- What the next line of a move touches: its source, or its destination once it has been read. -/
def lineTouchOf (s : State) (v : Move) : List Touch :=
  let n := min 64 (moveLeft s v)
  if v.buf.isSome then [⟨moveTo s v, n, true⟩] else [⟨moveFrom s v, n, false⟩]
/-- Everything that is left of a move may be done at once. -/
def mayCommit (s : State) (k : Nat) (v : Move) : Bool := v.buf.isNone && mayMove s (.move k) (commitTouch s v)
/-- The next line of a move may be read or written. -/
def mayCopy (s : State) (k : Nat) (v : Move) : Bool := decide (0 < moveLeft s v) && mayMove s (.move k) (lineTouchOf s v)
/-- The next line of a move is read, or written (R303, R317). -/
def copyOne (s : State) (k : Nat) (v : Move) : State :=
  let n := min 64 (moveLeft s v)
  match v.buf with
  | none => setMove (spend (.move k) s) k { v with buf := some (loadLE s.mem (moveFrom s v) n) }
  | some x =>
    setMove (touchHeal (lineTouchOf s v) (spend (.move k) { s with mem := storeLE s.mem (moveTo s v) x n })) k { v with buf := none, pos := v.pos + n }
/-- MOVE_COMMIT: where everything that is left may be done at once, it is done, the berth takes the destination tier and slot, and the
command gets its report; else the next line is copied where its channel lets it (R303, R317, R335). The event names the move. -/
def execMoveCommit (s : State) : Host.Outcome State Fault Refusal :=
  let k := s.ev.a
  let v := moveAt s k
  let tb := (partAt s v.part).tbase
  if v.state ≠ mvCopy then .next s
  else if mayCommit s k v then
    let m := copyMem s.mem (moveFrom s v) (moveTo s v) (moveLeft s v)
    let m := wrEnt m tb v.n { rdEnt m tb v.n with st := if v.up then bHbm else bAnch, loc := v.dst }
    .next (reportMove repCommit v (setMove (touchHeal (commitTouch s v) (spend (.move k) { s with mem := m })) k { v with state := mvHeld }))
  else .next (if mayCopy s k v then copyOne s k v else s)
/-- What the return of a slot touches. -/
def returnTouch (s : State) (v : Move) : List Touch :=
  addTouch s.mem (partAt s v.part).tbase (tierQ (partAt s v.part).tbase v.pool v.up)
/-- MOVE_SLOT_RETURN: the source slot of a committed move returns once no gather holds the move (R318). The event names
the move. -/
def execMoveSlotReturn (s : State) : Host.Outcome State Fault Refusal :=
  let k := s.ev.a
  let v := moveAt s k
  let tb := (partAt s v.part).tbase
  if v.state ≠ mvHeld || v.hold ≠ 0 || !mayMove s (.move k) (returnTouch s v) then .next s
  else .next (setMove (spend (.move k) { s with mem := fifoAdd s.mem tb (tierQ tb v.pool v.up) v.src }) k Move.none)

end Sys2Proof.Machine
end

