-- ==== Sys2Proof/Machine/Landing.lean ====
section
/-! DEFINITION. WRITE_LANDS (R69 to R71): the delayed write of a word to a register, predicate, mask, counter, flag,
generator or queue is made at the boundary into its landing cycle. -/

namespace Sys2Proof.Machine

/-- The writes that the event makes: everything but the sticky flags, or the sticky flags, which are set after the
clears of their cycle (R70). -/
def isLanding (flag : Bool) : Act → Bool
  | .flags .. => flag
  | .reg .. | .pred .. | .mask .. | .lc .. | .stages .. | .wrsr .. | .kb .. | .push .. | .agSet .. | .agBind .. | .agFree ..
  | .aswr .. => !flag
  | _ => false
/-- What a write changes in the tile. -/
def landTile (p : Pend) (t : Tile) : Tile :=
  match p.act with
  | .reg r v => wrPhys t r v
  | .pred p b => wrPred t p b
  | .mask m v => wrMask t m v
  | .lc k v => wrLc t k v
  | .stages b => { t with preds := (t.preds &&& 0x00FF) ||| (if b then 0x0100 else 0) }
  | .flags n v => setFlags t n v
  | .wrsr n v => specWrite t n v
  | .kb i v => { t with kb := tabSet 0 t.kb i v }
  | .push q v => landQ t q v p.pipe p.bun
  | .agSet k sp base b1 b2 b3 =>
    setAg t k { agOf t k with base := base, s0 := b1.extractLsb' 32 32, n0 := b1.setWidth 32, s1 := b2.extractLsb' 32 32,
                              n1 := b2.setWidth 32, s2 := b3.extractLsb' 32 32, n2 := b3.setWidth 32, space := sp }
  | .agBind k q => setAg t k { agOf t k with port := some q }
  | .agFree k => setAg t k { agOf t k with port := none, run := none }
  | .aswr row g v => putAcc t row g v
  | _ => t
/-- The entries that an ASWR would write hold an uncorrectable error (R209, R265). -/
def landBad (s : State) (id : Nat) (p : Pend) : Option Trap :=
  match p.act with
  | .aswr row g _ => asEcc s id (asKey row (32 * g)) 32
  | _ => none
/-- WRITE_LANDS: the next write that is due lands (R69). The event names the tile, and with its flag the sticky flags. -/
def execWriteLands (s : State) : Host.Outcome State Fault Refusal :=
  match takeDue s s.ev.a (isLanding s.ev.flag) with
  | none => .next s
  | some (p, s) =>
    match landBad s s.ev.a p with
    | some f => .next (engineTrap f p s.ev.a s)
    | none => .next (updTile s s.ev.a (landTile p))

end Sys2Proof.Machine
end

