-- ==== Sys2Proof/Machine/MassTree.lean ====
section
/-! DEFINITION. Mass trees (R186 to R200): the T words, their level writes, their level reads and the horizon. -/

namespace Sys2Proof.Machine

/-! ## The tree (R186, R187) -/

/-- The tree that a T word names. -/
def treeOf (t : Tile) (b : TreeN) : MTree := if b then t.mt1 else t.mt0
def setTree (t : Tile) (b : TreeN) (m : MTree) : Tile := if b then { t with mt1 := m } else { t with mt0 := m }
/-- The key of node k of level l. -/
def nodeKey (l k : Nat) : Nat := 65536 * l + k
def node (m : MTree) (l k : Nat) : Nat := tabGet 0 m.nodes (nodeKey l k)
def setNode (m : MTree) (l k v : Nat) : MTree := { m with nodes := tabSet 0 m.nodes (nodeKey l k) v }
/-- The largest mass (R62). -/
def massMax : Nat := 2 ^ 24 - 1
/-- A node of a tree holds an uncorrectable error (R209, log 30). -/
def nodeEcc (s : State) (id : Nat) (b : TreeN) (l k : Nat) : Option Trap :=
  eccTrap s 5 id (nodeKey l k + (if b then 2 ^ 24 else 0))

/-! ## Writes at issue (R189 to R191, R193) -/

/-- MTCLR: the tree is clear from issue + 1 on (R193). -/
def execMtclr (g : Guard) (t : TreeN) (s : State) : Host.Outcome State Fault Refusal :=
  guarded s g (.next (later s 1 (.mtClr t)))
/-- MTLD: the 128 lanes of the popped vector go to block b (R191). -/
def execMtld (g : Guard) (t : TreeN) (q : QSrc) (x : RegLit) (s : State) : Host.Outcome State Fault Refusal :=
  let b := (rlWord (me s) x).toNat % 256
  guarded s g (doWord s (rlUse s x :: srcQs s [q]) (fun s' => match takeQs (me s') [q] with
    | some (vs, u) =>
      later (setTile s' s'.cur u) 1 (.mtLeaf t ((List.range 128).map (fun j => (128 * b + j, lane 4 (vs.headD 0) j % 2 ^ 24))))
    | none => s'))
/-- MTUPD: one leaf gets the value's low 24 bits (R191). -/
def execMtupd (g : Guard) (t : TreeN) (a : Reg) (y : RegLit) (s : State) : Host.Outcome State Fault Refusal :=
  guarded s g (doWord s [useReg s a, rlUse s y] (fun s' =>
    later s' 1 (.mtLeaf t [((rdReg (me s) a).toNat % 2 ^ 15, (rlWord (me s) y).toNat % 2 ^ 24)])))
/-- The signed value of MTADD (R190). -/
def addVal (t : Tile) : RegLit → Int
  | .reg r => (rdReg t r).toInt
  | .lit v => v.toInt
/-- MTADD: the leaf in force plus a signed value, clamped; a clamp sets SSTAT.OF (R191). -/
def execMtadd (g : Guard) (t : TreeN) (a : Reg) (y : RegLit) (s : State) : Host.Outcome State Fault Refusal :=
  let k := (rdReg (me s) a).toNat % 2 ^ 15
  let x := (node (treeOf (me s) t) 0 k : Int) + addVal (me s) y
  let c := clampI 0 massMax x
  guarded s g (doWord s [useReg s a, rlUse s y, nodeEcc s s.cur t 0 k] (fun s =>
    landFlags (later s 1 (.mtLeaf t [(k, c.toNat)])) .sstat 1 (ofNv (decide (c ≠ x)) false)))

/-! ## Queries at issue (R189, R190, R194 to R197) -/

/-- A query starts: it reads level 15 and the horizon in the next cycle (R194). -/
def startQ (t : TreeN) (x : MtQuery) (s : State) : State := later s 1 (.mtQ t x)
/-- A query of a kind with an argument and a scalar destination. -/
def mtQuery (s : State) (kind : MtKind) (arg : Nat) (d : Reg) (p : PredN) (q : QN) : MtQuery :=
  ⟨kind, arg, 0, 15, 0, 0, false, physReg (me s) d.toNat, p, q, true, arg, []⟩
/-- MTST (R195). -/
def execMtst (g : Guard) (t : TreeN) (q : QN) (x : RegLit) (s : State) : Host.Outcome State Fault Refusal :=
  guarded s g (doWord s [rlUse s x, dstQ s q] (startQ t (mtQuery s .store ((rlWord (me s) x).toNat % 256) 0 0 q)))
/-- MTSUM (R195). -/
def execMtsum (g : Guard) (t : TreeN) (d : Reg) (x : RegLit) (s : State) : Host.Outcome State Fault Refusal :=
  guarded s g (doWord s [rlUse s x, dstReg s d] (startQ t (mtQuery s .sum (min (rlWord (me s) x).toNat 32768) d 0 0)))
/-- MTFIND (R196). -/
def execMtfind (g : Guard) (t : TreeN) (d : Reg) (p : PredN) (x : RegLit) (s : State) : Host.Outcome State Fault Refusal :=
  guarded s g (doWord s [rlUse s x, dstReg s d] (startQ t (mtQuery s .find (rlWord (me s) x).toNat d p 0)))
/-- MTCUT: a threshold of 0 finds no leaf (R197). -/
def execMtcut (g : Guard) (t : TreeN) (p : PredN) (x : RegLit) (s : State) : Host.Outcome State Fault Refusal :=
  let v := (rlWord (me s) x).toNat
  guarded s g (doWord s [rlUse s x] (startQ t { mtQuery s .cut (v - 1) 0 p 0 with miss := decide (v = 0), op := v }))
/-- MTROOT (R195). -/
def execMtroot (g : Guard) (t : TreeN) (d : Reg) (full : Bool) (s : State) : Host.Outcome State Fault Refusal :=
  guarded s g (doWord s [dstReg s d] (startQ t (mtQuery s (if full then .full else .root) 32768 d 0 0)))
/-- MTLEAF (R195). -/
def execMtleaf (g : Guard) (t : TreeN) (d : Reg) (x : RegLit) (s : State) : Host.Outcome State Fault Refusal :=
  guarded s g (doWord s [rlUse s x, dstReg s d] (startQ t (mtQuery s .leaf ((rlWord (me s) x).toNat % 2 ^ 15) d 0 0)))
/-- MTHOR (R195). -/
def execMthor (g : Guard) (t : TreeN) (d : Reg) (s : State) : Host.Outcome State Fault Refusal :=
  guarded s g (doWord s [dstReg s d] (startQ t (mtQuery s .hor 0 d 0 0)))

/-! ## Level writes (R191 to R193) -/

/-- The clears, or the leaf and level writes. -/
def isMtWrite (clr : Bool) : Act → Bool
  | .mtClr _ => clr
  | .mtLeaf .. | .mtLevel .. => !clr
  | _ => false
/-- MTCLR cancels the writes of its tree that are not made yet, the horizon write of an MTCUT among them (R193). -/
def cancelMt (b : TreeN) (p : Pend) : Option Pend :=
  match p.act with
  | .mtLeaf t _ => if t = b then none else some p
  | .mtLevel t .. => if t = b then none else some p
  | .mtHor t _ => if t = b then none else some p
  | .mtQ t x => if t = b then some { p with act := .mtQ t { x with horOk := false } } else some p
  | _ => some p
/-- The parents of nodes, each once. -/
def parents (l : List Nat) : List Nat := (l.map (· / 2)).eraseDups
/-- The nodes of a level are recomputed from their children as the tree holds them (R191). -/
def recompute (l : Nat) (ks : List Nat) (m : MTree) : MTree :=
  ks.foldl (fun m k => setNode m l k (node m (l - 1) (2 * k) + node m (l - 1) (2 * k + 1))) m
/-- A child that a recomputation reads holds an uncorrectable error. -/
def childEcc (s : State) (id : Nat) (b : TreeN) (l : Nat) (ks : List Nat) : Option Trap :=
  worst (ks.flatMap (fun k => [nodeEcc s id b (l - 1) (2 * k), nodeEcc s id b (l - 1) (2 * k + 1)]))
/-- MT_LEVEL_WRITE: one write changes its leaves, or one level of their ancestors, or clears its tree (R191, R193). Of
one tree, the write that was issued first stands at the highest level and is made first, so each reads its children as
they stood in the cycle before. The event names the tile, and with its flag the clears. -/
def execMtLevelWrite (s : State) : Host.Outcome State Fault Refusal :=
  let id := s.ev.a
  match takeDue s id (isMtWrite s.ev.flag) with
  | none => .next s
  | some (p, s) =>
    let c := tcAt s id
    match p.act with
    | .mtClr b => .next (updTile s id (fun t =>
        { setTree t b MTree.clear with cal := t.cal.filterMap (cancelMt b) }))
    | .mtLeaf b l =>
      let s := updTile s id (fun t => setTree t b (l.foldl (fun m x => setNode m 0 x.1 x.2) (treeOf t b)))
      .next (follow id p (c + 1) (.mtLevel b 1 l (parents (l.map (·.1)))) s)
    | .mtLevel b lv leaves ks =>
      match childEcc s id b lv ks with
      | some f => .next (engineTrap f p id s)
      | none =>
        let s := updTile s id (fun t => setTree t b (recompute lv ks (treeOf t b)))
        .next (if lv < 15 then follow id p (c + 1) (.mtLevel b (lv + 1) leaves (parents ks)) s else s)
    | _ => .next s
/-- The horizon writes. -/
def isMtHor : Act → Bool
  | .mtHor .. => true
  | _ => false
/-- MT_HORIZON_WRITE: the horizon of an MTCUT comes into force (R197). The event names the tile. -/
def execMtHorizonWrite (s : State) : Host.Outcome State Fault Refusal :=
  match takeDue s s.ev.a isMtHor with
  | none => .next s
  | some (p, s) =>
    match p.act with
    | .mtHor b h => .next (updTile s s.ev.a (fun t => setTree t b { treeOf t b with horizon := h }))
    | _ => .next s

/-! ## Level reads (R194 to R197) -/

/-- The node that a query reads at its level; none where it reads nothing. -/
def qNode (x : MtQuery) : Option Nat :=
  match x.kind with
  | .sum | .root =>
    if x.level = 15 then some 0
    else if x.arg < 32768 ∧ x.arg / 2 ^ x.level % 2 = 1 then some (x.arg / 2 ^ x.level - 1) else none
  | .full => if x.level = 15 then some 0 else none
  | .find | .cut => if x.level = 15 then some 0 else if x.miss then none else some (2 * x.k)
  | .leaf => if x.level = 0 then some x.arg else none
  | .hor | .store => none
/-- A query with the value of its node at this level, which it keeps (R194, R195, R200). -/
def qRead (m : MTree) (x : MtQuery) : MtQuery :=
  let v := match qNode x with | some k => node m x.level k | none => 0
  let x := { x with seen := if (qNode x).isSome then v :: x.seen else x.seen }
  match x.kind with
  | .sum | .root =>
    if x.level = 15 then
      let i := min x.arg m.horizon
      { x with hs := m.horizon, arg := i, acc := if i = 32768 then v else 0 }
    else { x with acc := x.acc + v }
  | .full => if x.level = 15 then { x with hs := m.horizon, acc := v } else x
  | .find | .cut =>
    if x.level = 15 then { x with hs := m.horizon, miss := x.miss || decide (x.arg ≥ v) }
    else if x.miss then x
    else if x.arg < v then { x with k := 2 * x.k } else { x with arg := x.arg - v, k := 2 * x.k + 1 }
  | .leaf => if x.level = 0 then { x with acc := v } else x
  | .hor => if x.level = 15 then { x with hs := m.horizon, acc := m.horizon } else x
  | .store => x
/-- What a finished query lands at c' + 18, and the horizon at c' + 17; c is c' + 16 (R190, R195 to R197). -/
def qFinish (id : Nat) (p : Pend) (b : TreeN) (x : MtQuery) (c : Nat) (s : State) : State :=
  let pred (v : Bool) (s : State) : State := if x.pd = 0 then s else follow id p (c + 2) (.pred x.pd v) s
  match x.kind with
  | .store =>
    let m := treeOf (tileOf s id) b
    follow id p (c + 2) (.push x.q (ofLanes 4 ((List.range 128).map (fun j => node m 0 (128 * x.arg + j))))) s
  | .find =>
    let hit := !x.miss && decide (x.k < x.hs)
    pred hit (followReg id p (c + 2) x.reg (BitVec.ofNat 64 (if hit then x.k else x.hs)) s)
  | .cut =>
    let s := if x.horOk then follow id p (c + 1) (.mtHor b (if x.miss then 32768 else x.k + 1)) s else s
    pred (!x.miss) s
  | _ => followReg id p (c + 2) x.reg (BitVec.ofNat 64 x.acc) s
/-- The queries. -/
def isMtQ : Act → Bool
  | .mtQ .. => true
  | _ => false
/-- MT_QUERY_LEVEL_READ: one query reads one level (R194). The event names the tile. -/
def execMtQueryLevelRead (s : State) : Host.Outcome State Fault Refusal :=
  let id := s.ev.a
  match takeDue s id isMtQ with
  | none => .next s
  | some (p, s) =>
    match p.act with
    | .mtQ b x =>
      let bad := match x.kind, qNode x with
        | .store, _ => if x.level = 0 then worst ((List.range 128).map (fun j => nodeEcc s id b 0 (128 * x.arg + j))) else none
        | _, some k => nodeEcc s id b x.level k
        | _, none => none
      match bad with
      | some f => .next (engineTrap f p id s)
      | none =>
        let c := tcAt s id
        let y := qRead (treeOf (tileOf s id) b) x
        .next (if x.level = 0 then qFinish id p b y c s else follow id p (c + 1) (.mtQ b { y with level := x.level - 1 }) s)
    | _ => .next s

end Sys2Proof.Machine
end

