-- ==== Sys2Proof/Machine/Sync.lean ====
section
/-! DEFINITION. DRAIN (R90, R176), BARW (R86, R177 to R179) and their completions, and the wait limit (R180). -/

namespace Sys2Proof.Machine

/-! ## DRAIN -/

/-- The access is on the path (R90); a fence is no access. -/
def onPath (p : DrainPath) (x : Acc) : Bool :=
  !isFence x && match p with
    | .none => false
    | .m1 => x.m1
    | .m2 => !x.m1
    | .all => true
/-- The DRAIN issued at cycle c covers the access: it was issued by an earlier bundle (R90, log 13). -/
def covers (p : DrainPath) (c : Nat) (x : Acc) : Bool := onPath p x && decide (x.issue < c)
/-- DRAIN (R176): what it covers decides whether the segment becomes elastic. -/
def execDrain (g : Guard) (p : DrainPath) (s : State) : Host.Outcome State Fault Refusal :=
  guarded s g (.next (
    if (me s).out.any (covers p (now s)) then
      onMe s (fun t => modeFrom true { t with hold := .drain p (now s) (now s) t.bun })
    else s))
/-- The vectors that an access returns to its reserved entries (R169, R171, R312). -/
def accVecs (x : Acc) : List QVec :=
  match x.op with
  | .loadV _ => [BitVec.ofNat 4096 (x.parts.foldr (fun p acc => p.got + 256 ^ p.len * acc) 0)]
  | .gather w _ => [ofLanes w (x.parts.map (·.got))]
  | .kvgath .. => x.parts.map (fun p => BitVec.ofNat 4096 p.got)
  | _ => []
/-- The scalar register that an access writes. -/
def accReg : AccOp → Option Nat
  | .load _ _ r => some r
  | .atom _ _ _ _ _ r => some r
  | .kvlook _ r => some r
  | .kvref _ r => some r
  | _ => none
/-- Fills the entries that access n reserved, in order, and makes them visible; an access that failed leaves the value
that its entry holds. -/
def fillEnts (n : Nat) : List QVec → List QEnt → List QEnt
  | _, [] => []
  | vs, e :: r =>
    if e.resv = some n then ⟨none, vs.headD e.val⟩ :: fillEnts n vs.tail r else e :: fillEnts n vs r
/-- Releases one completed access: its register is written, its entries become visible, it is no longer pending
(R72, R169). A write of fixed latency that lands at the same boundary comes after it (R70; log 32). -/
def releaseAcc (x : Acc) (t : Tile) : Tile :=
  let t := match accReg x.op with | some r => wrPhys t r x.result | none => t
  { t with pendR := t.pendR.filter (fun p => p.2 ≠ x.id),
           queues := t.queues.map (fun q => (q.1, fillEnts x.id (accVecs x) q.2)),
           out := t.out.filter (fun y => y.id ≠ x.id) }
/-- Fences with no access left before them order nothing more. -/
def dropFences : List Acc → List Acc
  | [] => []
  | y :: r => if isFence y then dropFences r else y :: r
/-- DRAIN_COMPLETE: every covered access has completed and is back at the tile (R87, R90), so the bundle after the DRAIN issues in this cycle (R176). The
event names the tile. -/
def execDrainComplete (s : State) : Host.Outcome State Fault Refusal :=
  let id := s.ev.a
  let t := tileOf s id
  match t.hold with
  | .drain p _ c _ =>
    let l := t.out.filter (covers p c)
    if l.all (complete (tcAt s id)) then
      let t := l.foldl (fun t x => releaseAcc x t) t
      .next (setTile s id { t with hold := .none, next := max t.next (tcAt s id), out := dropFences t.out })
    else .next s
  | _ => .next s

/-! ## BARW -/

/-- The instance of a level's domain that holds a tile (R177). -/
def instOf (code id : Nat) : Nat :=
  match code with
  | 0 => 0
  | 1 => dieOf id
  | 2 => partOf id
  | 3 => 8 * dieOf id + rowOf id
  | 4 => 16 * dieOf id + 2 * rowOf id + colOf id / 8
  | _ => id
/-- The participants: the tiles of the timetable in the instance (R178). -/
def barTiles (img : List Byte) (code inst : Nat) : List Nat := (taskTiles img).filter (fun i => instOf code i = inst)
/-- An open episode of barrier b under another level covers the tile (R179). -/
def otherLevel (s : State) (tt level b id : Nat) : Bool :=
  s.eps.any (fun e => e.tt = tt && e.b = b && e.level ≠ level && e.parts.contains id)
/-- A tile that executed TEND in an earlier cycle. -/
def tendedBefore (s : State) (c id : Nat) : Bool := (tileOf s id).ended && decide ((tileOf s id).next ≤ c)
/-- The episode is the one of this barrier and instance. -/
def isEp (tt level inst b : Nat) (e : Episode) : Bool := e.tt = tt && e.level = level && e.inst = inst && e.b = b
/-- The dies on which an instance of a level's domain lies, from a tile of it (R177). -/
def instDies (code id : Nat) : List Nat := if code = 0 then [0, 1, 2, 3, 4, 5] else [dieOf id]
/-- The tile arrives: the first arrival opens the episode, on the dies of its instance (R178). -/
def arrive (tt level inst b : Nat) (dies ps : List Nat) (id c : Nat) (eps : List Episode) : List Episode :=
  if eps.any (isEp tt level inst b) then
    eps.map (fun e => if isEp tt level inst b e then { e with came := e.came ++ [(id, c)] } else e)
  else eps ++ [⟨level, inst, b, tt, dies, ps, [(id, c)], none⟩]
/-- BARW (R178, R179). Of two tiles that arrive in one cycle under different levels, the lower logical tile opens its episode, and the
other one faults (log 34). -/
def execBarw (g : Guard) (b : BarN) (h : LevelN) (s : State) : Host.Outcome State Fault Refusal :=
  let t := me s
  let img := imgOf s t
  guarded s g (
    match hierEntry img h.toNat with
    | none => .next (trapHere ⟨1, 0, 0, 0⟩ s)
    | some (code, _) =>
      let inst := instOf code s.cur
      let ps := barTiles img code inst
      doWord s [trapIf (otherLevel s t.tt h.toNat b.toNat s.cur || ps.any (tendedBefore s (now s))) 5 7 0]
        (fun s => { onMe s (fun t => modeFrom true { t with hold := .barw h.toNat inst b.toNat (now s) t.bun }) with
                    eps := arrive t.tt h.toNat inst b.toNat (instDies code s.cur) ps s.cur (now s) s.eps }))
/-- Every M2 access that the tile issued before its arrival at cycle c has performed (R86). -/
def performedBefore (s : State) (p : Nat × Nat) : Bool :=
  (tileOf s p.1).out.all (fun x => x.m1 || isFence x || x.done || decide (p.2 ≤ x.issue))
/-- Both conditions of R86 hold. -/
def epReady (s : State) (e : Episode) : Bool :=
  e.parts.all (fun i => e.came.any (fun p => p.1 = i)) && e.came.all (performedBefore s)
/-- BARW_COMPLETE: the conditions first held in the cycle before this one; every participant issues its next bundle at
Tc + 3, or Tc + 15 when the instance spans dies (R178). The event gives the number of the episode and the cycle Tc. -/
def execBarwComplete (s : State) : Host.Outcome State Fault Refusal :=
  match s.eps[s.ev.a]? with
  | none => .next s
  | some e =>
    if !epReady s e then .next s
    else
      let due := s.ev.b + (if e.dies.length ≤ 1 then 3 else 15)
      .next (e.parts.foldl (fun s i => updTile s i (fun t => { t with hold := .none, next := max t.next due }))
        { s with eps := s.eps.eraseIdx s.ev.a })

/-! ## The wait limit (R180) -/

/-- The cycles that one wait may last. -/
def waitLimit : Nat := 16777216
/-- WAIT_LIMIT_EXPIRY: a tile has waited 2^24 cycles at one DRAIN or BARW. The event names the tile. -/
def execWaitLimitExpiry (s : State) : Host.Outcome State Fault Refusal :=
  let id := s.ev.a
  let go (since : Nat) (b : BRef) : Host.Outcome State Fault Refusal :=
    if since + waitLimit ≤ tcAt s id then .next (engineTrap ⟨5, 9, 0, 0⟩ ⟨0, since, 6, b, .mtHor false 0⟩ id s)
    else .next s
  match (tileOf s id).hold with
  | .drain _ since _ b => go since b
  | .barw _ _ _ since b => go since b
  | _ => .next s

end Sys2Proof.Machine
end

