-- ==== Sys2Proof/Machine/Cycle.lean ====
section
/-! DEFINITION. The work of one timetable cycle of a domain, in its order (R69 to R76, R133, R134, R136; log 4, 5): the
boundary, the landings, the accesses of the engines, the checkpoint, the bundles, the Pilot, the end of the cycle. -/

namespace Sys2Proof.Machine

/-- An engine step with up to three numbers and a flag. -/
def evw (i : Instr) (a b c : Nat) (flag : Bool) : Work := .ev i { EvArgs.zero with a := a, b := b, c := c, flag := flag }

/-! ## Timetables of a domain -/

/-- The timetables of a domain that are in one of these states. -/
def domTts (s : State) (d : Nat) (p : TtSt → Bool) : List (Nat × TT) := s.tts.filter (fun y => y.2.dom = d && p y.2.st)
def isRunning (x : TtSt) : Bool := x == .running
def isFrozen (x : TtSt) : Bool := x == .frozen
def isArmed (x : TtSt) : Bool := x == .armed
/-- A joint of an image that stands at a cycle, with a flag: its number. -/
def jointAt (img : List Byte) (hold : Bool) (c : Nat) : Option Nat :=
  (List.range 256).find? (fun n => let j := jointEntry img n
    j.1 = c && j.2.1 && (if hold then j.2.2.1 else j.2.2.2))
/-- Some Running timetable of the domain has a hold point at its TC. -/
def atHold (s : State) (d : Nat) : Bool :=
  let c := (domAt s d).tc
  (domTts s d isRunning).any (fun y => decide (y.2.t0 ≤ c) && (jointAt y.2.img true (c - y.2.t0)).isSome)
/-- The cycle of the first defined joint after cycle j (R352). -/
def nextJoint (img : List Byte) (j : Nat) : Option Nat :=
  ((List.range 256).filterMap (fun n => let x := jointEntry img n
    if x.2.1 ∧ j < x.1 then some x.1 else none)).foldl (fun m x => match m with
      | none => some x
      | some y => some (min x y)) none

/-! ## The boundary into cycle T -/

/-- Timetables that start, with the hand-over of channels that was not made before (R19, R273). -/
def startWork (s : State) (d T : Nat) : List Work :=
  (domTts s d isArmed).flatMap (fun y => if y.2.t0 = T then
    [evw .channelHandover y.1 0 0 false, evw .timetableStart y.1 0 0 false] else [])
/-- Tasks that start (R104): tile, timetable, record. -/
def taskWork (s : State) (d T : Nat) : List Work :=
  (domTts s d (fun x => x == .armed || x == .running)).flatMap (fun y =>
    ((List.range (nTask y.2.img)).filter (fun i => y.2.t0 + taskStart y.2.img i = T)).map (fun i =>
      evw .taskStart (taskTile y.2.img i) y.1 i false))
/-- The tiles whose tasks start. -/
def startingTiles (s : State) (d T : Nat) : List Nat :=
  (domTts s d (fun x => x == .armed || x == .running)).flatMap (fun y =>
    ((List.range (nTask y.2.img)).filter (fun i => y.2.t0 + taskStart y.2.img i = T)).map (taskTile y.2.img))
/-- What a tile does at the boundary: loop-back, the ends of its waits. -/
def boundWork (id : Nat) (t : Tile) (T : Nat) : List Work :=
  (if t.loopEnd then [evw .loopBack id 0 0 false] else []) ++
  (match t.hold with
   | .drain p _ c _ => if (t.out.filter (covers p c)).all (complete T) then [evw .drainComplete id 0 0 false] else []
   | _ => []) ++
  (match t.wait with
   | .joint .. => [evw .jointRelease id 0 0 false]
   | .waitc .. => [evw .waitcRelease id 0 0 false]
   | _ => [])
/-- The barrier episodes of the domain that were complete in the cycle before, last first. -/
def barWork (s : State) (d T : Nat) : List Work :=
  ((List.range s.eps.length).reverse.filter (fun i => match s.eps[i]? with
    | some e => (ttOf s e.tt).dom = d && epReady s e
    | none => false)).map (fun i => evw .barwComplete i (T - 1) 0 false)

/-! ## Landings and accesses of a tile -/

/-- When in the cycle an action is done, by which engine step, and that step's flag: landings, accumulation, sticky
flags, mass trees, beats, memories, generators, D transfers, reads of the accumulation store, queries. -/
def actStep : Act → Nat × Instr × Bool
  | .agPush .. => (0, .agPush, false)
  | .drd .. => (1, .drdLands, false)
  | .maccLand .. => (2, .maccLands, false)
  | .flags .. => (3, .writeLands, true)
  | .mtClr _ => (4, .mtLevelWrite, true)
  | .mtLeaf .. | .mtLevel .. => (5, .mtLevelWrite, false)
  | .mtHor .. => (6, .mtHorizonWrite, false)
  | .mmode .. | .mclr _ | .mpmask .. => (7, .beatAccess, true)
  | .bsumIn .. | .pxIn .. => (8, .beatWriteInForce, false)
  | .mpush .. | .mshift _ | .macc .. => (9, .beatAccess, false)
  | .m0Load .. | .m0LoadV .. | .m0Store .. | .m0StoreV .. => (10, .m0Access, false)
  | .shLoad .. | .shStore .. => (11, .shaftAccess, false)
  | .dwrRead .. | .dwrQ .. => (13, .dwrSourceRead, false)
  | .mdrain .. | .asrd .. => (14, .asRead, false)
  | .mtQ .. => (15, .mtQueryLevelRead, false)
  | _ => (1, .writeLands, false)
/-- The pushes of generators, in the order ag0 to ag7 (R71). -/
def agPushes (id : Nat) (t : Tile) (T : Nat) : List Work :=
  (List.range 8).flatMap (fun k => (t.cal.filter (fun p => decide (p.due ≤ T) && isAgPush k p.act)).map (fun _ => evw .agPush id k 0 false))
/-- The source reads of generators. -/
def agReads (id : Nat) (t : Tile) (T : Nat) : List Work :=
  ((List.range 8).filter (fun k => (agReadAt (agOf t k) T).isSome &&
    !t.cal.any (fun p => decide (p.due = T + 2) && isAgPush k p.act))).map (fun k => evw .agSourceRead id k 0 false)
/-- The steps of the actions of one place in the order. -/
def dueSteps (id : Nat) (t : Tile) (T n : Nat) : List Work :=
  (t.cal.filter (fun p => decide (p.due ≤ T) && decide ((actStep p.act).1 = n))).map (fun p =>
    evw (actStep p.act).2.1 id 0 0 (actStep p.act).2.2)
/-- Everything that lands at T or accesses a memory at T. -/
def tileWork (id : Nat) (t : Tile) (T : Nat) : List Work :=
  agPushes id t T ++ [1, 2, 3, 4, 5, 6, 7, 8, 9, 10, 11].flatMap (dueSteps id t T) ++ agReads id t T ++
    [13, 14, 15].flatMap (dueSteps id t T)

/-! ## Limits and deadlines -/

/-- The wait limit of a tile (R180). -/
def limitWork (id : Nat) (t : Tile) (T : Nat) : List Work :=
  match t.hold with
  | .drain _ since _ _ => if since + waitLimit ≤ T then [evw .waitLimitExpiry id 0 0 false] else []
  | .barw _ _ _ since _ => if since + waitLimit ≤ T then [evw .waitLimitExpiry id 0 0 false] else []
  | _ => []
/-- A compiled channel at a cycle: the end of its window, its refresh deadline (R277, R279). -/
def chanWork (s : State) (ch : Nat) (c : Chan) (T : Nat) : List Work :=
  (match c.win with | some (_, b) => if T > b then [evw .windowExpiry ch 0 0 false] else [] | none => []) ++
  (if T ≥ refDeadline (timingOf s ch) (chanFactor s c) c then [evw .refreshDeadline ch 0 0 false] else [])
/-- The banks of a channel whose retention deadline is reached at a cycle (R278). -/
def retWork (ch : Nat) (c : Chan) (T : Nat) : List Work :=
  (c.banks.filter (fun b => b.2.eph && !b.2.expired && decide (b.2.limit ≤ T))).map (fun b => evw .retentionExpiry ch b.1 0 false)
/-- The digest deadline of a domain (R352). -/
def digestWork (s : State) (d T : Nat) : List Work :=
  if s.exchs.any (fun e => e.dom = d && (nextJoint (ttOf s e.tt).img (e.upTo - (ttOf s e.tt).t0)).map (· + (ttOf s e.tt).t0) == some T)
  then [evw .digestDeadline d 0 0 false] else []

/-! ## The cycle -/

/-- The compiled channels of a domain. -/
def domChans (s : State) (d : Nat) : List (Nat × Chan) :=
  s.chans.filter (fun c => match c.2.comp with | some k => (ttOf s k).dom = d | none => false)
/-- The channels on which a timetable of a domain has ephemeral banks, compiled still or open again (R278). -/
def ephChans (s : State) (d : Nat) : List (Nat × Chan) :=
  s.chans.filter (fun c => match c.2.ephTt with | some k => (ttOf s k).dom = d | none => false)
/-- The Running timetables whose tiles have all executed TEND in earlier cycles: they may end at this boundary (R20; log 18). -/
def endWork (s : State) (d : Nat) : List Work :=
  ((domTts s d isRunning).filter (fun y => (taskTiles y.2.img).all (fun id => (tileOf s id).tt = y.1 && (tileOf s id).ended))).map
    (fun y => evw .timetableEnded y.1 0 0 false)
/-- The issue of a tile, with the fetch of a branch target before it (R133). -/
def issueWork (id : Nat) (t : Tile) : List Work :=
  (match t.branch with
   | some b => if b.left = 0 then [evw .branchTargetFetch id 0 0 false] else []
   | none => []) ++ [.issue id]
/-- The rest of a cycle from the checkpoint on: the bundles, the Pilot's fills, their end; then the commands of the window
issuers, the end of the cycle, and the hold point while some die's heat requests one. -/
def issuePart (s : State) (d T : Nat) (ids : List Nat) : List Work :=
  [.ckpt d] ++ ids.flatMap (fun id => issueWork id (tileOf s id)) ++
    (ids.filter (fun id => (tileOf s id).pilot.busy && (tileOf s id).pilot.start + 21 = T)).map (fun id => evw .pilotFillDone id 0 0 false) ++
    [.close d] ++ (domChans s d).map (fun c => evw .windowIssuerCommand c.1 0 0 false) ++ [.last d] ++
    (if (domAt s d).holds.isEmpty then [] else [evw .holdPointFreeze d 0 0 false])
/-- The work of cycle T of a domain whose TC has just become T. -/
def cycleWork (s : State) (d T : Nat) : List Work :=
  let ids := domTiles s d
  startWork s d T ++ taskWork s d T ++ ids.flatMap (fun id => boundWork id (tileOf s id) T) ++ barWork s d T ++
    ids.flatMap (fun id => tileWork id (tileOf s id) T) ++ ids.flatMap (fun id => limitWork id (tileOf s id) T) ++
    (domChans s d).flatMap (fun c => chanWork s c.1 c.2 T) ++ (ephChans s d).flatMap (fun c => retWork c.1 c.2 T) ++ digestWork s d T ++
    endWork s d ++
    (if (domAt s d).faulted then [.close d] else issuePart s d T (ids ++ (startingTiles s d T).filter (fun i => !ids.contains i)))
/-- The work that is left of the cycle at which a domain was frozen: accesses that a fault put off, the end of a timetable, then the
bundles (R20, R214, R352). -/
def resumeWork (s : State) (d : Nat) : List Work :=
  let ids := domTiles s d
  let T := (domAt s d).tc
  ids.flatMap (fun id => tileWork id (tileOf s id) T) ++ endWork s d ++ issuePart s d T ids

end Sys2Proof.Machine
end

