-- ==== Sys2Proof/Machine/Image.lean ====
section
/-! DEFINITION. The snapshot image as bytes (R210 to R212): the header, the capacity entries, the tile records with their
directories and sections, the in-flight list, the shaft contents and the digest; and half-macros by logical name (R216).
The layout inside a section is the model's where the spec gives only its contents (log 29). -/

namespace Sys2Proof.Machine

/-! ## Half-macros by logical name (R216) -/

/-- The logical name of a half-macro of a tile's shaft: tile, layer, logical macro, half. -/
def hmName (s : State) (id k : Nat) : Nat := 1024 * id + 256 * hmLayer k + 2 * hmMacro s k + k % 2
/-- The half-macro that a logical name means on this part. -/
def hmOfName (s : State) (n : Nat) : Nat := hmKey s (n / 1024) (n / 256 % 4) (n / 2 % 128) (n % 2)
/-- The half-macros of a place, renamed. -/
def mapPlace (f : Nat → Nat) : DPlace → DPlace
  | .sh hm o => .sh (f hm) o
  | x => x
/-- The half-macros that a delayed action names, renamed. -/
def mapHm (f : Nat → Nat) : Act → Act
  | .shLoad hm o w g r => .shLoad (f hm) o w g r
  | .shStore hm o w v => .shStore (f hm) o w v
  | .mmode hm c m w => .mmode (f hm) c m w
  | .mclr hm => .mclr (f hm)
  | .mpmask hm m => .mpmask (f hm) m
  | .mpush hm m p g v c => .mpush (f hm) m p g v c
  | .mshift hm => .mshift (f hm)
  | .macc hm g => .macc (f hm) g
  | .bsumIn hm b np l => .bsumIn (f hm) b np l
  | .pxIn hm px => .pxIn (f hm) px
  | .maccLand r c ms got => .maccLand r c (ms.map f) (got.map (fun p => (f p.1, p.2)))
  | .drd ch b r c l bad d => .drd ch b r c l bad (mapPlace f d)
  | .dwrRead ch b r c d t => .dwrRead ch b r c (mapPlace f d) t
  | x => x
/-- A tile with the half-macros of its delayed actions renamed. -/
def mapTile (f : Nat → Nat) (t : Tile) : Tile := { t with cal := t.cal.map (fun p => { p with act := mapHm f p.act }) }

/-! ## Numbers and lists -/

/-- Numbers of given sizes, one after another. -/
def pack : List (Nat × Nat) → List Byte
  | [] => []
  | (v, n) :: r => leBytes v n ++ pack r
def bit (b : Bool) : Nat := if b then 1 else 0
/-- A list with its length before it. -/
def lenList (n : Nat) (l : List (List Byte)) : List Byte := leBytes l.length n ++ l.flatten
/-- A bundle's place. -/
def refBytes (b : BRef) : List Byte := leBytes (pcWord b).toNat 8
/-- Fills up to a multiple of 64. -/
def pad64 (l : List Byte) : List Byte := l ++ List.replicate ((64 - l.length % 64) % 64) 0

/-! ## The in-flight list (R212) -/

/-- The location of a byte of a half-macro by its logical name: the low bits of its M1 address (R165). -/
def shLoc (hm o : Nat) : Nat := hm / 256 % 4 * 2 ^ 23 + hm / 2 % 128 * 2 ^ 16 + hm % 2 * 2 ^ 15 + o
/-- The location of a line of DRAM among the tile's two channels. -/
def lineLoc (ch b row col : Nat) : Nat := (if ch < 768 then 0 else 2 ^ 29) + b * 2 ^ 25 + row % 2 ^ 20 * 32 + col % 32
/-- Channel, bank, row and column, as R205 lays them out. -/
def dAddrNat (ch b row col : Nat) : Nat := ch * 2 ^ 48 + b * 2 ^ 40 + row % 2 ^ 24 * 2 ^ 16 + col
/-- A place of a transfer: M0 address, shaft location or queue; and which of the three it is. -/
def placeLoc : DPlace → Nat
  | .m0 a => a
  | .sh hm o => shLoc hm o
  | .q n => n.toNat
def placeTag : DPlace → Nat
  | .m0 _ => 0
  | .sh .. => 1
  | .q _ => 2
/-- KIND, DEST, VALUE, AUX and payload of a delayed write: DEST is the register, the queue or the location written; none of the
actions that sections 9 and 10 hold. -/
def flightOf : Act → Option (Nat × Nat × Nat × Nat × Option Nat)
  | .reg r v => some (1, r, v.toNat, 0, none)
  | .pred p b => some (2, p.toNat, bit b, 0, none)
  | .stages b => some (2, 8, bit b, 1, none)
  | .mask m v => some (3, m.toNat, 0, 0, some v.toNat)
  | .push q v => some (4, q.toNat, 0, 0, some v.toNat)
  | .agPush k q v => some (4, q.toNat, 0, 1 + k, some v.toNat)
  | .m0Store a w v => some (5, a, v.toNat, w, none)
  | .m0StoreV a v => some (5, a, 0, 512, some v.toNat)
  | .m0Load a w g r => some (5, r, a, 2 ^ 16 + 2 * w + bit g, none)
  | .m0LoadV a q => some (5, q.toNat, a, 2 ^ 17, none)
  | .shStore hm o w v => some (6, shLoc hm o, v.toNat, w, none)
  | .shLoad hm o w g r => some (6, r, shLoc hm o, 2 ^ 16 + 2 * w + bit g, none)
  | .lc k v => some (7, 4 + k, v.toNat, 0, none)
  | .flags n v => some (7, (match n with | .sstat => 1 | .vstat => 2 | _ => 0x10), v.toNat, 1, none)
  | .wrsr n v => match n with
    | .af k => some (8, k.toNat, v.toNat, 0, none)
    | .sstat => some (7, 1, v.toNat, 0, none)
    | .vstat => some (7, 2, v.toNat, 0, none)
    | .pred => some (7, 3, v.toNat, 0, none)
    | .lc0 => some (7, 4, v.toNat, 0, none)
    | .lc1 => some (7, 5, v.toNat, 0, none)
    | .lc2 => some (7, 6, v.toNat, 0, none)
    | .astat => some (7, 0x10, v.toNat, 0, none)
    | _ => some (7, 0, v.toNat, 0, none)
  | .kb i v => some (9, i, v.toNat, 0, none)
  | .drd ch b r c l _ d => some (10, placeLoc d, 0, placeTag d * 2 ^ 60 + dAddrNat ch b r c, some l)
  | .dwrRead ch b r c d _ => some (10, lineLoc ch b r c, 0, (4 + placeTag d) * 2 ^ 60 + placeLoc d, none)
  | .dwrQ ch b r c v => some (10, lineLoc ch b r c, 0, 7 * 2 ^ 60, some v)
  | _ => none
/-- The cycle at which a delayed write lands: a load's result two cycles after its access, a line when it reaches the channel. -/
def landAt (p : Pend) : Nat :=
  match p.act with
  | .shLoad .. | .m0Load .. | .m0LoadV .. => p.due + 2
  | .dwrRead _ _ _ _ _ at_ => at_
  | _ => p.due
/-- REMAIN: at least 1, also for an access that cause 0x14 has put off (R212, R214; log 29). -/
def remain (tcf : Nat) (p : Pend) : Nat := max 1 (landAt p - tcf)
/-- The entries of a list of delayed writes, and their payloads; the payload area begins at `ofs`. -/
def flights (tcf t0 : Nat) : Nat → List Pend → List Byte × List Byte
  | _, [] => ([], [])
  | ofs, p :: r =>
    match flightOf p.act with
    | none => flights tcf t0 ofs r
    | some (k, d, v, a, pay) =>
      let n := match pay with | some _ => 512 | none => 0
      let x := flights tcf t0 (ofs + n) r
      (pack [(k, 1), (p.pipe, 1), (remain tcf p, 2), (d, 4), ((match pay with | some _ => ofs | none => v), 8), (a, 8), (p.issue - t0, 8)] ++ x.1,
       (match pay with | some v => leBytes v 512 | none => []) ++ x.2)
/-- Section 12. -/
def flightBytes (tcf t0 : Nat) (t : Tile) : List Byte :=
  let x := flights tcf t0 0 t.cal
  leBytes (x.1.length / 32) 8 ++ x.1 ++ x.2

/-! ## Sections (R211) -/

def optBytes (n : Nat) : Option Nat → List Byte
  | some x => 1 :: leBytes x n
  | none => 0 :: leBytes 0 n
/-- A wait; one at a barrier with the cycle at which its episode was complete. -/
def waitBytes (eps : List Episode) : Wait → List Byte
  | .none => [0]
  | .joint c b => 1 :: (leBytes c 8 ++ refBytes b)
  | .waitc c b => 2 :: (leBytes c 8 ++ refBytes b)
  | .drain p since n b => 3 :: (pack [((match p with | .none => 0 | .m1 => 1 | .m2 => 2 | .all => 3), 1), (since, 8), (n, 8)] ++ refBytes b)
  | .barw l i b since r => 4 :: (pack [(l, 1), (i, 4), (b, 1), (since, 8)] ++ refBytes r ++
      optBytes 8 ((eps.find? (fun e => e.level = l && e.inst = i && e.b = b)).bind (·.tc)))
def sec0 (eps : List Episode) (id : Nat) (t : Tile) : List Byte :=
  pack [(id, 2), (t.rs, 1), (t.rb, 1), (bit t.elastic, 1), ((match t.modeNext with | some b => 1 + bit b | none => 0), 1),
    (bit t.started + 2 * bit t.ended + 4 * bit t.loopEnd + 8 * bit t.firmware, 1), (t.delay, 1)] ++ waitBytes eps t.wait ++ waitBytes eps t.hold ++
    lenList 1 (t.loops.map (fun l => pack [(l.k, 1), (l.first, 2), (l.last, 2), (bit l.rot, 1), (l.epi, 4)])) ++
    (match t.branch with | some b => 1 :: (pack [(b.target, 2), (b.left, 1)] ++ refBytes b.bun) | none => [0])
def sec1 (t : Tile) : List Byte :=
  (List.range 64).flatMap (fun r => leBytes (tabGet 0 t.a r).toNat 8) ++ leBytes (t.preds ||| 1).toNat 2 ++
    (List.range 3).flatMap (fun k => leBytes (rdLc t k).toNat 4)
/-- What an unreleased access does at its home: its kind, its width, its register or queue, its operands. -/
def opBytes : AccOp → List Byte
  | .load w g r => pack [(1, 1), (w, 2), (bit g, 1), (r, 1)]
  | .loadV q => pack [(2, 1), (q.toNat, 1)]
  | .gather w q => pack [(3, 1), (w, 2), (q.toNat, 1)]
  | .store => [4]
  | .atom fn w y c g r => pack [(5, 1), (fn, 1), (w, 2), (y.toNat, 8), (c.toNat, 8), (bit g, 1), (r, 1)]
  | .orv => [6]
  | .kvlook k r => pack [(7, 1), (k.toNat, 8), (r, 1)]
  | .kvref k r => pack [(8, 1), (k.toNat, 8), (r, 1)]
  | .kvgath k n q => pack [(9, 1), (k.toNat, 8), (n, 1), (q.toNat, 1)]
  | .kvapp k x y => pack [(10, 1), (k.toNat, 8), (x.toNat, 512), (y.toNat, 512)]
  | .kvshr k d => pack [(11, 1), (k.toNat, 8), (d.toNat, 8)]
  | .kvrel k => pack [(12, 1), (k.toNat, 8)]
  | .fence => [13]
  | .none => [0]
def ordCode : MOrd → Nat
  | .rlx => 0 | .acq => 1 | .rel => 2 | .sc => 3
/-- An access that no DRAIN has released: its word, its result, and the data that have arrived for its parts (R72, R207). -/
def accBytes (x : Acc) : List Byte :=
  pack [(x.id, 8), (x.issue, 8), (x.pipe, 1), (bit x.m1 + 2 * bit x.done + 4 * bit x.stuck, 1), (ordCode x.ord, 1), (x.result.toNat, 8)] ++
    refBytes x.bun ++ opBytes x.op ++
    lenList 2 (x.parts.map (fun p => pack [(p.idx, 2), (p.va, 8), (p.len, 2), (bit p.done, 1), (p.data, 64), (p.got, 512)]))
/-- Section 2: the queues; the pending registers, and the unreleased accesses with what has arrived for them. -/
def sec2 (t : Tile) : List Byte :=
  (List.range 16).flatMap (fun q => lenList 1 ((tabGet [] t.queues q).map (fun e =>
    (match e.resv with | some n => 1 :: leBytes n 8 | none => 0 :: leBytes 0 8) ++ leBytes e.val.toNat 512)) ++
    [if t.gens.any (fun g => g.2.port == some q) then 1 else 0]) ++
    lenList 2 (t.pendR.map (fun p => pack [(p.1, 1), (p.2, 8)])) ++ lenList 2 (t.out.map accBytes)
/-- A shape image (R128). -/
def shapeBytes (x : Shape) : List Byte :=
  let k (i : Nat) := (x.dims[i]?).getD (0, 0, 0)
  pack [(x.dims.length, 1), (0, 3)] ++ (List.range 5).flatMap (fun i => leBytes (k i).1.toNat 4) ++
    (List.range 5).flatMap (fun i => leBytes (k i).2.1.toNat 4) ++ (List.range 5).flatMap (fun i => leBytes (k i).2.2.toNat 1) ++ leBytes 0 15
def sec3 (t : Tile) : List Byte :=
  (List.range 8).flatMap (fun m => leBytes (rdMask t (BitVec.ofNat 3 m)).toNat 64) ++ (List.range 16).flatMap (fun k => shapeBytes (tabGet Shape.none t.sh k)) ++
    (List.range 256).flatMap (fun i => leBytes (rdKb t i).toNat 4) ++ (List.range 8).flatMap (fun k => leBytes (rdAf t k).toNat 2)
def sec4 (t : Tile) : List Byte :=
  (List.range 8).flatMap (fun k =>
    let g := agOf t k
    pack [(g.base.toNat, 8), (g.s0.toNat, 4), (g.n0.toNat, 4), (g.s1.toNat, 4), (g.n1.toNat, 4), (g.s2.toNat, 4), (g.n2.toNat, 4),
      ((match g.space with | .none => 0 | .m0 => 1 | .shaft => 2), 1), ((match g.port with | some q => 1 + q | none => 0), 1)] ++
    (match g.run with | some r => 1 :: (pack [(r.start, 8), (r.total, 8), (r.issue, 8)] ++ refBytes r.bun) | none => [0]))
def sec5 (tcf : Nat) (t : Tile) : List Byte :=
  pack [(t.segs.getD 0 0, 4), (t.segs.getD 1 0, 4), (t.half % 2, 1), (bit t.pilot.sel, 1), (if t.pilot.busy then tcf - t.pilot.start else 22, 1),
    ((segstWord t).toNat, 1), (t.pc, 2), (t.next, 8)]
/-- Section 6: PW, PCNT and the pack buffer; UW and UCNT (R153). -/
def sec6 (t : Tile) : List Byte :=
  let v := t.vstat.toNat
  pack [(v / 2 ^ 18 % 4, 1), (v / 2 ^ 20 % 2 ^ 10, 2), (v / 2 ^ 6 % 4, 1), (v / 2 ^ 8 % 2 ^ 10, 2)] ++ lenList 2 (t.pack.map (fun x => leBytes x 8))
def sec7 (t : Tile) : List Byte := pack [(t.vstat.toNat, 8), (t.sstat.toNat, 8), (t.astat.toNat, 8), ((trotWord t).toNat, 8)]
def sec8 (t : Tile) : List Byte :=
  pack [(t.tcause.toNat, 8), (t.tfpc.toNat, 8), (t.tbpc.toNat, 8), (t.taddr.toNat, 8), (t.tcyc.toNat, 8)]
def treeBytes (m : MTree) : List Byte := leBytes m.horizon 4 ++ lenList 4 (m.nodes.map (fun p => pack [(p.1, 4), (p.2, 8)]))
/-- The head of a delayed action of section 9 or 10. -/
def pendBytes (tcf t0 code : Nat) (p : Pend) : List Byte := pack [(code, 1), (p.pipe, 1), (p.due - tcf, 2), (p.issue - t0, 8)] ++ refBytes p.bun
def kindCode : MtKind → Nat
  | .sum => 0 | .find => 1 | .cut => 2 | .root => 3 | .full => 4 | .leaf => 5 | .hor => 6 | .store => 7
/-- The settle and query states of the mass trees (R200): tree, level, set S with its new leaf values, operands, values read. -/
def mtBytes (tcf t0 : Nat) (p : Pend) : List Byte :=
  match p.act with
  | .mtLeaf t l => pendBytes tcf t0 1 p ++ [BitVec.ofNat 8 (bit t)] ++ lenList 2 (l.map (fun x => pack [(x.1, 4), (x.2, 8)]))
  | .mtLevel t v lv l => pendBytes tcf t0 2 p ++ pack [(bit t, 1), (v, 1)] ++ lenList 2 (lv.map (fun x => pack [(x.1, 4), (x.2, 8)])) ++
      lenList 2 (l.map (fun x => leBytes x 4))
  | .mtClr t => pendBytes tcf t0 3 p ++ [BitVec.ofNat 8 (bit t)]
  | .mtHor t h => pendBytes tcf t0 4 p ++ pack [(bit t, 1), (h, 4)]
  | .mtQ t x => pendBytes tcf t0 5 p ++ pack [(bit t, 1), (kindCode x.kind, 1), (x.op, 8), (x.arg, 8), (x.hs, 4), (x.level, 1), (x.acc, 8), (x.k, 4),
      (bit x.miss, 1), (x.reg, 1), (x.pd.toNat, 1), (x.q.toNat, 1), (bit x.horOk, 1)] ++ lenList 1 (x.seen.map (fun v => leBytes v 8))
  | _ => []
def sec9 (tcf t0 : Nat) (t : Tile) : List Byte := treeBytes t.mt0 ++ treeBytes t.mt1 ++ t.cal.flatMap (mtBytes tcf t0)
def xaList (l : List XA) : List Byte := lenList 2 (l.map (fun x => leBytes x.toNat 12))
/-- The beat-path stages of a tile: what its X words still have to do. -/
def beatBytes (tcf t0 : Nat) (p : Pend) : List Byte :=
  match p.act with
  | .mmode hm c f w => pendBytes tcf t0 1 p ++ pack [(hm, 4), (bit c, 1), (f.toNat, 1), (w.toNat, 8)]
  | .mclr hm => pendBytes tcf t0 2 p ++ leBytes hm 4
  | .mpmask hm m => pendBytes tcf t0 3 p ++ pack [(hm, 4), (m, 1)]
  | .mpush hm f pl g v c => pendBytes tcf t0 4 p ++ pack [(hm, 4), (f.toNat, 1), (pl, 1), (g, 1), (v.toNat, 512), (c.toNat, 512)]
  | .mshift hm => pendBytes tcf t0 5 p ++ leBytes hm 4
  | .macc hm g => pendBytes tcf t0 6 p ++ pack [(hm, 4), (g, 1)]
  | .bsumIn hm b np l => pendBytes tcf t0 7 p ++ pack [(hm, 4), (np, 1)] ++ lenList 2 (b.map (fun x => pack [(x.1, 4), (x.2.toNat, 4)])) ++
      (match l with | some (f, bs) => BitVec.ofNat 8 (1 + f.toNat) :: bs | none => [0])
  | .pxIn hm px => pendBytes tcf t0 8 p ++ leBytes hm 4 ++ lenList 2 (px.map (fun x => pack [(x.1, 4), (x.2.toNat, 12)]))
  | .maccLand r c ms got => pendBytes tcf t0 9 p ++ pack [(r, 2), (c, 1)] ++ lenList 2 (ms.map (fun x => leBytes x 4)) ++
      lenList 2 (got.map (fun x => leBytes x.1 4 ++ xaList x.2))
  | .mdrain r ty clr q => pendBytes tcf t0 10 p ++ pack [(r, 2), (ty.toNat, 1), (bit clr, 1), (q.toNat, 1)]
  | .asrd r g q => pendBytes tcf t0 11 p ++ pack [(r, 2), (g, 1), (q.toNat, 1)]
  | .aswr r g v => pendBytes tcf t0 12 p ++ pack [(r, 2), (g, 1), (v.toNat, 512)]
  | .agSet k sp a b c d => pendBytes tcf t0 13 p ++ pack [(k, 1), ((match sp with | .none => 0 | .m0 => 1 | .shaft => 2), 1), (a.toNat, 8), (b.toNat, 8),
      (c.toNat, 8), (d.toNat, 8)]
  | .agBind k q => pendBytes tcf t0 14 p ++ pack [(k, 1), (q, 1)]
  | .agFree k => pendBytes tcf t0 15 p ++ leBytes k 1
  | _ => []
/-- The state of a half-macro beside its array. -/
def halfBytes (name : Nat) (h : Half) : List Byte :=
  pack [(name, 4), (bit h.mode, 1), (h.fmt.toNat, 1), (h.wscale.toNat, 8), (h.np, 1), (h.afmt.toNat, 1), (h.asc.toNat, 8), (h.pm, 1)] ++
    lenList 2 (h.bsum.map (fun x => pack [(x.1, 4), (x.2.toNat, 4)])) ++ lenList 2 (h.px.map (fun x => pack [(x.1, 4), (x.2.toNat, 12)]))
def sec10 (tcf t0 : Nat) (shafts : Tab Half) (t : Tile) : List Byte :=
  lenList 2 (shafts.map (fun p => halfBytes p.1 p.2)) ++ t.cal.flatMap (beatBytes tcf t0)
/-- The open row of a bank: one that the hold has recorded, or one that is open still. -/
def rowAtFreeze (c : Chan) (b : Nat) (k : Bank) : Option Nat :=
  match c.held.find? (fun p => p.1 = b) with | some p => some p.2 | none => k.row
/-- One owned channel: banks with open row, histories and retention deadline; refresh account; window. -/
def chanBytes (ch : Nat) (c : Chan) : List Byte :=
  leBytes ch 2 ++ lenList 1 (c.banks.map (fun p => leBytes p.1 1 ++ optBytes 4 (rowAtFreeze c p.1 p.2) ++
    [p.2.act, p.2.pre, p.2.rd, p.2.wr, p.2.refb].flatMap (optBytes 8) ++ pack [(bit p.2.eph + 2 * bit p.2.expired + 4 * bit p.2.byWin, 1), (p.2.limit, 8)])) ++
    lenList 1 (c.acts.map (fun p => pack [(p.1, 1), (p.2, 8)])) ++ lenList 1 (c.lastCol.map (fun p => pack [(p.1, 1), (p.2, 8)])) ++
    lenList 1 (c.data.map (fun x => leBytes x 8)) ++ [c.lastWr, c.ref, c.refb].flatMap (optBytes 8) ++ leBytes c.credit 8 ++
    lenList 1 (c.round.map (fun b => leBytes b 1)) ++ (match c.win with | some (a, b) => 1 :: pack [(a, 8), (b, 8)] | none => [0])
def sec11 (chans : Tab Chan) : List Byte := lenList 1 (chans.map (fun c => chanBytes c.1 c.2))
def sec13 (t : Tile) : List Byte := (List.range (2 ^ 21)).map (byteAt t.m0)
def sec14 (t : Tile) : List Byte := (List.range (768 * 128)).flatMap (fun k => leBytes (tabGet xaEmpty t.acc k).toNat 12)

/-! ## The image (R210) -/

/-- Sections one after another, with their offsets, from `ofs` on. -/
def sections : Nat → List (List Byte) → List Nat × List Byte
  | _, [] => ([], [])
  | ofs, x :: r =>
    let y := sections (ofs + (pad64 x).length) r
    (ofs :: y.1, pad64 x ++ y.2)
/-- A tile record: 16 offsets, then the sections 0 to 14; offsets count from the record's first byte. -/
def tileRecord (n : Snap) (id : Nat) (t : Tile) : List Byte :=
  let own := n.chans.filter (fun c => chanOwner c.1 = id)
  let x := sections 64 [sec0 n.eps id t, sec1 t, sec2 t, sec3 t, sec4 t, sec5 n.tcf t, sec6 t, sec7 t, sec8 t, sec9 n.tcf n.t0 t,
    sec10 n.tcf n.t0 (n.shafts.filter (fun p => p.1 / 1024 = id)) t, sec11 own, flightBytes n.tcf n.t0 t, sec13 t, sec14 t]
  x.1.flatMap (fun o => leBytes o 4) ++ leBytes 0 4 ++ x.2
/-- Offset of the capacity entries: after the header. -/
def ofsCap : Nat := 128
def ofsTiles : Nat := ofsCap + 3072
/-- The tile records of an image. -/
def tileBytes (n : Snap) : List Byte := pad64 (n.tiles.flatMap (fun p => tileRecord n p.1 p.2))
/-- The shaft contents: name and array of 30,720 bytes of each half-macro. -/
def shaftBytes (n : Snap) : List Byte :=
  if n.portable then pad64 (n.shafts.flatMap (fun p => leBytes p.1 4 ++ (List.range 30720).map (byteAt p.2.bytes))) else []
/-- The capacity entries: byte L of an entry is the highest macro that the timetable uses on layer L of the logical shaft, plus 1 (R25,
R210; log 29). -/
def capBytes4 (n : Snap) : List Byte := (List.range 768).flatMap (fun t => (List.range 4).flatMap (fun l => leBytes (tabGet 0 n.caps (4 * t + l)) 1))
/-- The header, for an image whose tile records and shaft contents have these lengths. -/
def snapHeader (n : Snap) (tl sl : Nat) : List Byte :=
  pack [(n.magic, 4), (n.layout, 2), (bit n.portable + 2 * bit n.fault, 2), (n.tcf, 8), (n.t0, 8), (n.slice, 1), (n.profiles, 1), (n.ndie, 1), (0, 1),
    (n.tiles.length, 4), (n.serial, 8), (n.epoch, 8), (ofsTiles, 4), (ofsCap, 4), (if n.portable then ofsTiles + tl else 0, 4), (ofsTiles + tl + sl, 4),
    (n.nfault, 2), (n.primary, 2), (0, 4), (n.ttid.toNat, 8), (0, 48)]
/-- Bytes 0 to OFS_DIG − 1. -/
def snapBody (n : Snap) : List Byte :=
  let t := tileBytes n
  let h := shaftBytes n
  snapHeader n t.length h.length ++ capBytes4 n ++ t ++ h
/-- The digest of those bytes. -/
def digestOf (n : Snap) : List Byte := leBytes (Config.shake256 (snapBody n)).toNat 32
/-- The image. -/
def snapBytes (n : Snap) : List Byte := snapBody n ++ n.digest

end Sys2Proof.Machine
end

