-- ==== Sys2Proof/Machine/Loader.lean ====
section
/-! DEFINITION. Loading, unloading, launching and withdrawing timetables (R16, R19, R332 to R334): the loader's checks
on an image, the slots, the domain that a launch forms or joins, and the completion record. -/

namespace Sys2Proof.Machine

/-! ## The image's tables (R332) -/

/-- A DRAM entry's field k, its tRET, FABRD and FABWR. -/
def entField (img : List Byte) (o k : Nat) : Nat := imgLE img (o + 8 + 2 * k) 2
def ofsTask (img : List Byte) : Nat := imgLE img 0x10 4
def ofsCode (img : List Byte) : Nat := imgLE img 0x14 4
def nPkt (img : List Byte) : Nat := imgLE img 0x18 4
def ofsRes (img : List Byte) : Nat := imgLE img 0x30 4
def nRes (img : List Byte) : Nat := imgLE img 0x34 4
def barMask (img : List Byte) (die : Nat) : Nat := imgLE img (0x38 + 2 * die) 2
def ofsSig (img : List Byte) : Nat := imgLE img 0x44 4
def sigLen (img : List Byte) : Nat := imgLE img 0x48 2
/-- The resident regions: virtual base, size, and whether the entry is well-formed. -/
def regions (img : List Byte) : List (Nat × Nat × Bool) :=
  (List.range (nRes img)).map (fun i =>
    let x := imgLE img (ofsRes img + 8 * i) 8
    let b := x % 2 ^ 57
    let z := x / 2 ^ 62
    let n := if z = 0 then 2 ^ 16 else if z = 1 then 2 ^ 21 else 2 ^ 30
    ((if b / 2 ^ 56 = 1 then b + (2 ^ 64 - 2 ^ 57) else b), n, decide (z ≠ 3 ∧ x / 2 ^ 57 % 32 = 0 ∧ b % n = 0)))
/-- Bytes of an image are 0. -/
def zeros (img : List Byte) (o n : Nat) : Bool := (List.range n).all (fun i => img.getD (o + i) 0 == 0)

/-- Status 3: the header is well-formed, and its tables lie in the signed bytes (R332; log 22). -/
def headerOk (img : List Byte) : Bool :=
  let tab (o n : Nat) : Bool := decide (o % 64 = 0) && decide (o + n ≤ ofsSig img)
  decide (imgLE img 0 4 = 0x4C545442) && decide (imgLE img 4 2 = 1) && decide (imgLE img 0x0A 2 ≤ 4095) && decide (ofsSig img % 64 = 0) &&
    decide (ofsSig img ≤ img.length) && decide (sigLen img ≤ 1462) && zeros img 0x4A 54 &&
    tab (ofsTask img) (32 * nTask img) && tab (ofsCode img) (12 * nPkt img) && tab (imgLE img 0x1C 4) 2048 &&
    tab (imgLE img 0x20 4) 32 && tab (imgLE img 0x24 4) 8192 && tab (imgLE img 0x28 4) (64 * imgLE img 0x2C 4) &&
    tab (ofsRes img) (8 * nRes img) && (regions img).all (·.2.2) &&
    (dramEntries img).all (fun o => decide (entChan img o < 816) && decide (imgLE img (o + 4) 4 < 2) && zeros img (o + 52) 12)
/-- The bytes of a list from o on. -/
def slice (l : List Byte) (o n : Nat) : List Byte := (l.drop o).take n
/-- Status 4: the signature verifies under a key of every named partition (R332, R344). -/
def signedFor (s : State) (img : List Byte) (ps : List Nat) : Bool :=
  let msg := img.take (ofsSig img)
  let sig := slice img (ofsSig img) (sigLen img)
  ps.all (fun p => (partAt s p).keys.any (fun k => Config.falconVerify k.2 msg sig))

/-! ## Code (R33, R35, R48, R50) -/

/-- The byte offset of packet p of the code image, and of word w of the segment with header packet p. -/
def pktOfs (img : List Byte) (p : Nat) : Nat := ofsCode img + 12 * p
def wordOfs (img : List Byte) (p w : Nat) : Nat := pktOfs img (p + 1) + 4 * w
/-- A header packet is malformed (R50). -/
def headBad (img : List Byte) (p : Nat) : Bool :=
  decide (codeWord img p 0 / 2 ^ 7 ≠ 0xA5 * 2 ^ 17 + 1 * 2 ^ 13) || decide (segNpk img p = 0) || decide (segNpk img p > 85) ||
    decide (p + 1 + segNpk img p > nPkt img) || decide (codeWord img p 1 / 2 ^ 20 % 2 ^ 11 ≠ 0) ||
    decide (codeWord img p 2 / 2 ^ 20 % 2 ^ 11 ≠ 0)
/-- The segments of a code image, laid out one after another: their header packets, and the first malformed one. -/
def segHeads (img : List Byte) : Nat → Nat → List Nat × Option Nat
  | 0, p => ([], if p = nPkt img then none else some p)
  | fuel + 1, p =>
    if p = nPkt img then ([], none)
    else if headBad img p then ([], some p)
    else
      let r := segHeads img fuel (p + 1 + segNpk img p)
      (p :: r.1, r.2)
/-- The header packets of an image. -/
def heads (img : List Byte) : List Nat := (segHeads img (nPkt img) 0).1
/-- A bundle of a segment: first word, its words with their pipes, the word after it. -/
abbrev LBundle := Nat × List (Nat × Instr) × Nat
/-- Only fill words follow in the last code packet (R217). -/
def fillTail (get : Nat → Nat) (n w : Nat) : Bool :=
  decide (n ≤ w + 2) && (List.range (n - w)).all (fun i => decide (get (w + i) = 0xFFFFFFFF))
/-- The bundles of a half from word w on, up to the fill words that end its last code packet, and the first word of one
that is illegal (R33, R35, R48, R217). -/
def bundlesFrom (get : Nat → Nat) (n : Nat) : Nat → Nat → List LBundle × Option Nat
  | 0, _ => ([], none)
  | fuel + 1, w =>
    if w ≥ n || fillTail get n w then ([], none)
    else match decodeBundle get w with
      | .error _ => ([], some w)
      | .ok (l, nx) =>
        let r := bundlesFrom get n fuel nx
        ((w, l, nx) :: r.1, r.2)
/-- The bundles of the segment with header packet p, and its first illegal one. -/
def segBundles (img : List Byte) (p : Nat) : List LBundle × Option Nat :=
  let n := 3 * segNpk img p
  bundlesFrom (fun w => if w < n then codeWord img (p + 1 + w / 3) (w % 3) else 0xFFFFFFFF) n 255 0
/-- The instructions of a segment. -/
def segInstrs (img : List Byte) (p : Nat) : List Instr := (segBundles img p).1.flatMap (fun b => b.2.1.map (·.2))
/-- The segments that a task can reach from a list of header packets. -/
def reach (img : List Byte) : Nat → List Nat → List Nat → List Nat
  | 0, _, seen => seen
  | _ + 1, [], seen => seen
  | fuel + 1, p :: r, seen =>
    if seen.contains p then reach img fuel r seen
    else reach img fuel ((segNext img p false).toList ++ (segNext img p true).toList ++ r) (p :: seen)
/-- The segments of task i. -/
def taskSegs (img : List Byte) (i : Nat) : List Nat :=
  reach img (3 * nPkt img + 3) [imgLE img (taskOfs img i + 8) 4 % 2 ^ 20] []
/-- The instructions of task i. -/
def taskCode (img : List Byte) (i : Nat) : List Instr := (taskSegs img i).flatMap (segInstrs img)
/-- The offset of the first bundle of some segments that holds a word of a kind. -/
def wordIn (img : List Byte) (ps : List Nat) (bad : Instr → Bool) : Option Nat :=
  ps.findSome? (fun p => ((segBundles img p).1.find? (fun b => b.2.1.any (fun w => bad w.2))).map (fun b => wordOfs img p b.1))
/-- Every task's tile with its instructions. -/
def allCode (img : List Byte) : List (Nat × List Instr) := (List.range (nTask img)).map (fun i => (taskTile img i, taskCode img i))
/-- The instructions of every segment, reached or not. -/
def imgCode (img : List Byte) : List Instr := (heads img).flatMap (segInstrs img)

/-- The profile that a word uses (R44). -/
def profileOf : Instr → Nat
  | .vdot _ _ _ _ p | .vdotAcc _ _ _ _ p | .vred _ _ _ _ p | .vredAcc _ _ _ _ p | .vdotW _ _ _ _ p
  | .vdotWAcc _ _ _ _ p => match p with | .sienna => 3 | _ => 2
  | .vrcp .. | .vrsq .. | .vexp2 .. | .vlog2 .. | .vrcpf .. | .vrsqf .. => 4
  | .mshift .. | .macc .. | .mdrain .. => 1
  | _ => 0
/-- The half-macro set of an X word (R252). -/
def setOf : Instr → Option HSet
  | .mpush _ _ _ _ _ h | .mclr _ h | .mmodeC _ _ _ h | .mmodeS _ h | .mpmask _ _ h | .mshift _ h | .macc _ _ _ _ h => some h
  | _ => none
/-- The M1 address of a word of the second memory position on base a0, which the literal alone gives (R163, R165). -/
def m1Lit : Instr → Option Word
  | .sldSigned _ _ _ ma | .sldUnsigned _ _ _ ma | .sst _ _ _ ma =>
    if ma.ba = 0 then ma.off.map (fun v => v.signExtend 64) else none
  | _ => none
/-- Status 9: every macro that a set or a literal shaft address names exists in the shaft that it names (R25, R27). -/
def macrosOk (s : State) (id : Nat) (i : Instr) : Bool :=
  (match setOf i with
   | none => true
   | some h => (List.range 4).all (fun l => !h.lmask.getLsbD l || decide (h.mbase.toNat + h.mcnt.toNat < macroCount s id l))) &&
  match m1Lit i with
  | none => true
  | some a => m1Outside a || decide ((m1Fields a).macro_ < macroCount s (m1Tile id (m1Fields a)) (m1Fields a).layer)

/-! ## Task records, shapes, loops (R103, R127, R128, R134, R287) -/

/-- The reciprocal pair of an extent (R127). -/
def recipOk (n m k : Nat) : Bool :=
  if n = 1 then m = 0 && k = 0
  else decide (2 ≤ n) && decide (2 ^ k < n) && decide (n ≤ 2 ^ (k + 1)) && decide (m = (2 ^ (32 + k) + n - 1) / n)
/-- A shape image (R128). -/
def shapeImgOk (img : List Byte) (o : Nat) : Bool :=
  let d := imgLE img o 1
  let n (k : Nat) := imgLE img (o + 4 + 4 * k) 4
  let m (k : Nat) := imgLE img (o + 0x18 + 4 * k) 4
  let z (k : Nat) := imgLE img (o + 0x2C + k) 1
  decide (d ≤ 5) && zeros img (o + 1) 3 && zeros img (o + 0x31) 15 && (List.range 5).all (fun k =>
    if k < d then recipOk (n k) (m k) (z k) else decide (n k = 0 ∧ m k = 0 ∧ z k = 0))
/-- The shape of a task's entry, from its image (R101, R128). -/
def imgShape (img : List Byte) (o : Nat) : Shape :=
  ⟨(List.range (imgLE img o 1)).map (fun k => (BitVec.ofNat 32 (imgLE img (o + 4 + 4 * k) 4),
    BitVec.ofNat 32 (imgLE img (o + 0x18 + 4 * k) 4), BitVec.ofNat 5 (imgLE img (o + 0x2C + k) 1)))⟩
def recRs (img : List Byte) (i : Nat) : Nat := imgLE img (taskOfs img i + 2) 1
def recNkb (img : List Byte) (i : Nat) : Nat := imgLE img (taskOfs img i + 0x14) 2
def recNsh (img : List Byte) (i : Nat) : Nat := imgLE img (taskOfs img i + 0x16) 2
def recOkb (img : List Byte) (i : Nat) : Nat := imgLE img (taskOfs img i + 0x18) 4
def recOsh (img : List Byte) (i : Nat) : Nat := imgLE img (taskOfs img i + 0x1C) 4
/-- A task record (R102, R103). -/
def recordOk (img : List Byte) (hs : List Nat) (i : Nat) : Bool :=
  let o := taskOfs img i
  let occ := imgLE img (o + 0x0C) 8
  decide (imgLE img o 1 ≤ 5) && decide (imgLE img (o + 1) 1 ≤ 127) && decide (recRs img i % 8 = 0 ∧ recRs img i ≤ 32) &&
    decide (imgLE img (o + 3) 1 = 0) && hs.contains (imgLE img (o + 8) 4) && decide (imgLE img (o + 8) 4 < 2 ^ 20) && decide (occ < 2 ^ 48) &&
    (List.range 16).all (fun k => decide (occ / 2 ^ (3 * k) % 8 ≤ 4)) && decide (recNkb img i ≤ 256) &&
    decide (recNsh img i ≤ 16) && decide (recOkb img i % 4 = 0) && decide (recOkb img i + 4 * recNkb img i ≤ ofsSig img) &&
    decide (recOsh img i % 64 = 0) && decide (recOsh img i + 64 * recNsh img i ≤ ofsSig img) &&
    (decide (recNkb img i ≠ 0) || decide (recOkb img i = 0)) && (decide (recNsh img i ≠ 0) || decide (recOsh img i = 0)) &&
    (List.range (recNsh img i)).all (fun k => shapeImgOk img (recOsh img i + 64 * k)) &&
    !((List.range i).any (fun j => taskTile img j = taskTile img i))
/-- The dimension count of a task's shape entry. -/
def recDim (img : List Byte) (i : Nat) (k : ShapeN) : Nat :=
  if k.toNat < recNsh img i then imgLE img (recOsh img i + 64 * k.toNat) 1 else 0
/-- A bundle's S words do not share a destination (R35). -/
def noClash (dim : ShapeN → Nat) : List Instr → Bool
  | [] => true
  | i :: r => r.all (fun j => !sClash dim i j) && noClash dim r
/-- The loop of a loop word: counter, last packet, rotating (R134). -/
def loopOf : Instr → Option (Nat × Nat × Bool)
  | .loop k _ e => some (k.toNat, e.toNat, false)
  | .loopr _ k _ e => some (k.toNat, e.toNat, true)
  | _ => none
/-- A branch word, and a segment word that a body may not hold (R134). -/
def isBranch : Instr → Bool
  | .br .. | .brl .. | .bri .. | .ret _ => true
  | _ => false
def isSegj : Instr → Bool
  | .segj _ => true
  | _ => false
/-- The loop words of a segment: bundle number, word after the bundle, counter, last packet, rotating. -/
def loopWords (bs : List LBundle) : List (Nat × Nat × Nat × Nat × Bool) :=
  bs.zipIdx.flatMap (fun b => b.1.2.1.filterMap (fun w => (loopOf w.2).map (fun l => (b.2, b.1.2.2, l))))
/-- The body of a loop: the loop word's bundle, counter, last bundle by number; none where it does not end at word 2 of
its last packet, or starts inside a packet or past its end, or rotates nothing (R103, R134). -/
def loopSpan (bs : List LBundle) (rs : Nat) (x : Nat × Nat × Nat × Nat × Bool) : Option (Nat × Nat × Nat) :=
  match bs.findIdx? (fun b => b.2.2 = 3 * x.2.2.2.1 + 3) with
  | none => none
  | some last =>
    if (x.2.2.2.2 && decide (rs = 0)) || decide (x.2.1 % 3 ≠ 0) || decide (x.2.2.2.1 < x.2.1 / 3) then none
    else some (x.1, x.2.2.1, last)
/-- The static rules of one body among all bodies of its segment (R134). -/
def spanOk (bs : List LBundle) (l : List (Nat × Nat × Nat)) (x : Nat × Nat × Nat) : Bool :=
  let body := (bs.take (x.2.2 + 1)).drop (x.1 + 1)
  let outer := l.filter (fun y => decide (y.1 < x.1) && decide (x.1 ≤ y.2.2))
  !body.any (fun b => b.2.1.any (fun w => isSegj w.2)) &&
    !(body.drop (body.length - 3)).any (fun b => b.2.1.any (fun w => isBranch w.2)) &&
    outer.all (fun y => decide (x.2.2 ≤ y.2.2) && decide (y.2.1 ≠ x.2.1)) && decide (outer.length ≤ 2)
/-- The bundle number of the first loop word of a segment that breaks the static rules (R134). -/
def badLoop (bs : List LBundle) (rs : Nat) : Option Nat :=
  let l := (loopWords bs).filterMap (loopSpan bs rs)
  ((loopWords bs).find? (fun x => match loopSpan bs rs x with | none => true | some y => !spanOk bs l y)).map (·.1)
/-- The channel form of a D word: LP6 flag, column, literal row (R287). -/
def dForm : Instr → Option (Bool × Nat × Nat)
  | .dact _ ch _ (.lit r) => some (ch, 0, r.toNat)
  | .dact _ ch _ (.reg _) => some (ch, 0, 0)
  | .dpre _ ch _ => some (ch, 0, 0)
  | .dprea _ ch => some (ch, 0, 0)
  | .dref _ ch => some (ch, 0, 0)
  | .drefb _ ch _ => some (ch, 0, 0)
  | .dwin _ ch _ => some (ch, 0, 0)
  | .drdM0 _ ch _ o _ | .drdSh _ ch _ o _ | .dwrM0 _ ch _ o _ | .dwrSh _ ch _ o _ => some (ch, o.toNat, 0)
  | .drdQ _ ch _ o _ => some (ch, o.toNat, 0)
  | .dwrQ _ ch _ o _ => some (ch, o.toNat, 0)
  | _ => none
/-- A D word names a channel of its tile, a column and a row that exist (R287). -/
def dWordOk (s : State) (id : Nat) (i : Instr) : Bool :=
  match dForm i with
  | none => true
  | some (ch, col, row) =>
    let tm := timingOf s (dChan id ch)
    (!ch || ownsLp id) && decide (col < tm.cols) && decide (row < tm.rows)
/-- AGRUN at the second position names the shaft: its first push comes at 6 cycles or later (R183). -/
def agrunOk (w : Nat × Instr) : Bool :=
  match w.2 with
  | .agrun _ _ n => decide (w.1 = 4) || decide (6 ≤ n.toNat)
  | _ => true
/-- A bundle that a segment may not hold, whoever runs it: a shared destination, a privileged word (R35, R48). -/
def bundleBad (dim : ShapeN → Nat) (b : LBundle) : Bool :=
  !noClash dim (b.2.1.map (·.2)) || b.2.1.any (fun w => privileged w.2)
/-- The offset of the first loop word of a segment that breaks the static rules, for tasks with a rotating size (R134). -/
def loopAt (img : List Byte) (p rs : Nat) : Option Nat :=
  let bs := (segBundles img p).1
  (badLoop bs rs).map (fun k => wordOfs img p ((bs[k]?).map (·.1) |>.getD 0))
/-- Status 10 for one segment, whether or not a task reaches it: the offset of its offending item (R33, R35, R48, R50, R134, R183).
Where no task applies, a TIDX has no shape, so that it shares no destination (D = 0), and registers rotate (log 22). -/
def segBad (img : List Byte) (hs : List Nat) (p : Nat) : Option Nat :=
  let r := segBundles img p
  if !((segNext img p false).all hs.contains && (segNext img p true).all hs.contains) then some (pktOfs img p)
  else match r.2 with
    | some w => some (wordOfs img p w)
    | none => (loopAt img p 8).or
        ((r.1.find? (fun b => bundleBad (fun _ => 0) b || b.2.1.any (fun w => !agrunOk w))).map (fun b => wordOfs img p b.1))
/-- Status 10 for the code of task i, with its shapes, its rotating size and its tile: the offset of its offending item (R35, R103,
R134, R287). -/
def taskBad (s : State) (img : List Byte) (i : Nat) : Option Nat :=
  (taskSegs img i).findSome? (fun p => (loopAt img p (recRs img i)).or
    (((segBundles img p).1.find? (fun b => bundleBad (recDim img i) b || b.2.1.any (fun w => !dWordOk s (taskTile img i) w.2))).map
      (fun b => wordOfs img p b.1)))
/-- Status 10: the offset of the first offending header packet, segment, task record or bundle (log 22). -/
def codeBad (s : State) (img : List Byte) : Option Nat :=
  let hs := heads img
  match (segHeads img (nPkt img) 0).2 with
  | some p => some (pktOfs img p)
  | none => match hs.findSome? (segBad img hs) with
    | some o => some o
    | none => (List.range (nTask img)).findSome? (fun i => if recordOk img hs i then taskBad s img i else some (taskOfs img i))
/-- Status 10: segments, task records and code. -/
def codeOk (s : State) (img : List Byte) : Bool := (codeBad s img).isNone

/-! ## The other checks of R333 -/

/-- Status 5: profiles that the device lacks, or that the code uses and the header does not name. -/
def profilesOk (s : State) (img : List Byte) : Bool :=
  let h := imgLE img 8 2
  decide (h &&& s.disc.profiles = h) && (imgCode img).all (fun i => profileOf i = 0 || decide (h / 2 ^ profileOf i % 2 = 1))
/-- One assumption of a DRAM entry against the device (R27): field k, assumed and actual value. -/
def assumeOk (f k a d : Nat) : Bool :=
  if k = 14 ∨ k = 17 ∨ k = 18 then a = 0 || decide (a / f ≤ d / f)
  else if a = 0xFFFF then true
  else if k = 12 ∨ k = 13 ∨ k = 19 then decide (ceilDiv a f = ceilDiv d f)
  else decide (ceilDiv d f ≤ ceilDiv a f)
/-- Status 8: the assumptions of every DRAM entry (R27, R332). -/
def dramOk (s : State) (img : List Byte) : Bool :=
  let f := imgSlice img
  (dramEntries img).all (fun o =>
    let tm := timingOf s (entChan img o)
    (List.range 18).all (fun k => assumeOk f k (entField img o k) (tm.fields.getD k 0)) &&
      assumeOk f 18 (imgLE img (o + 44) 4) tm.tret && assumeOk f 19 (imgLE img (o + 48) 2) tm.fabrd &&
      assumeOk f 19 (imgLE img (o + 50) 2) tm.fabwr)
/-- The half-macros of a layer that an unguarded quota word brings into a cycle (R241). -/
def quotaWord (l : Nat) : Instr → Nat
  | .mpush g _ _ _ _ h | .mshift g h | .macc g _ _ _ h =>
    if g = 0 ∧ h.lmask.getLsbD l then (h.mcnt.toNat + 1) * (if h.hmask = 3 then 2 else 1) else 0
  | _ => 0
def quotaOf (b : LBundle) (l : Nat) : Nat := (b.2.1.map (fun w => quotaWord l w.2)).foldl max 0
/-- After this bundle the next one need not issue in the next cycle, or never issues: a JOINT, a TEND or TRAP, a DRAIN or BARW. -/
def stopsRun (b : LBundle) : Bool :=
  b.2.1.any (fun w => match w.2 with
    | .joint _ | .tend _ | .trap _ _ | .drain .. | .barw .. => true
    | _ => false)
/-- A branch of a bundle: it is always taken, and the word that it names, if it names one (R132). -/
def branchOf (b : LBundle) : Option (Bool × Option Nat) :=
  b.2.1.findSome? (fun w => match w.2 with
    | .br c k | .brl c k => some (decide (c.p = 0 ∧ c.n = false), some (3 * k.toNat))
    | .bri c _ | .ret c => some (decide (c.p = 0 ∧ c.n = false), none)
    | _ => none)
/-- A SEGJ of a bundle: it is always taken (R136). -/
def segjOf (b : LBundle) : Option Bool :=
  b.2.1.findSome? (fun w => match w.2 with
    | .segj c => some (decide (c.p = 0 ∧ c.n = false))
    | _ => none)
/-- The literal count of a loop word. -/
def loopLit : Instr → Option Nat
  | .loop _ (.lit v) _ | .loopr _ _ (.lit v) _ => some v.toNat
  | _ => none
/-- The loops of a segment: the loop word's bundle, the last bundle of the body, the literal count. -/
def segLoops (bs : List LBundle) : List (Nat × Nat × Option Nat) :=
  (loopWords bs).filterMap (fun x => (loopSpan bs 8 x).map (fun y =>
    (y.1, y.2.2, (bs[y.1]?).bind (fun b => b.2.1.findSome? (fun w => loopLit w.2)))))
/-- A branch whose delay bundles are issuing: how many are left, the current one among them; whether it is always taken; the bundle
that it names. -/
abbrev DelayOf := Option (Nat × Bool × Option Nat)
/-- The bundles that may issue in the cycle after bundle i of the segment with header packet p, by segment: a branch may go either way
unless it is always taken, a body may come again unless its count is 0 or 1, a SEGJ leads to N0 where no SEGSEL stands in the segment
(R132, R134, R136; log 22). -/
def runNext (img : List Byte) (p i : Nat) (br : DelayOf) : List (Nat × Nat × DelayOf) :=
  let bs := (segBundles img p).1
  match bs[i]? with
  | none => []
  | some x =>
    if stopsRun x then []
    else
      let loops := segLoops bs
      let here (j : Nat) : Nat × Nat × DelayOf := (p, j, none)
      let on : List (Nat × Nat × DelayOf) := match br, branchOf x with
        | some (2, y), _ => [(p, i + 1, some (1, y))]
        | some (_, always, t), _ => (t.toList.map here) ++ (if always then [] else [here (i + 1)])
        | none, some (always, t) => [(p, i + 1, some (2, always, t.bind (fun w => bs.findIdx? (fun b => b.1 = w))))]
        | none, none => match segjOf x with
          | some always => (if bs.any (fun b => b.2.1.any (fun w => match w.2 with | .segsel .. => true | _ => false)) then []
              else (segNext img p false).toList.map (fun q => (q, 0, none))) ++ (if always then [] else [here (i + 1)])
          | none => match loops.find? (fun l => l.1 = i) with
            | some l => (if l.2.2 = some 0 then [] else [here (i + 1)]) ++ (if l.2.2.getD 0 = 0 then [here (l.2.1 + 1)] else [])
            | none => [here (i + 1)]
      on ++ (loops.filter (fun l => l.2.1 = i && decide (2 ≤ l.2.2.getD 2))).map (fun l => here (l.1 + 1))
/-- The branches in whose delay bundles bundle i may issue: the one just before it, or none where it may issue without one. -/
def runStarts (bs : List LBundle) (i : Nat) : List DelayOf :=
  let tgt (t : Option Nat) : Option Nat := t.bind (fun w => bs.findIdx? (fun b => b.1 = w))
  let at_ (k left : Nat) : List DelayOf :=
    if k ≤ i then ((bs[i - k]?).bind branchOf).toList.map (fun y => some (left, y.1, tgt y.2)) else []
  let l := at_ 1 2 ++ at_ 2 1
  if l.isEmpty || bs.any (fun b => (branchOf b).any (fun y => tgt y.2 == some i)) then none :: l else l
/-- The offset of the first bundle, from bundle i of a segment on, that takes some cycle above 16 half-macros; a, b and c are what
earlier bundles bring into the next three cycles (R241). -/
def quotaRun (img : List Byte) : Nat → Nat → Nat → Nat → Nat × Nat × DelayOf → Option Nat
  | 0, _, _, _, _ => none
  | fuel + 1, a, b, c, (p, i, br) =>
    match (segBundles img p).1[i]? with
    | none => none
    | some x =>
      if a + quotaOf x 0 > 16 ∨ b + quotaOf x 1 > 16 ∨ c + quotaOf x 2 > 16 ∨ quotaOf x 3 > 16 then some (wordOfs img p x.1)
      else (runNext img p i br).findSome? (quotaRun img fuel (b + quotaOf x 1) (c + quotaOf x 2) (quotaOf x 3))
/-- An unguarded shaft access at a literal address and an unguarded set word of one bundle meet at a half-macro (R74). -/
def meetsLit (b : LBundle) : Bool :=
  b.2.1.any (fun w => match w.2, m1Lit w.2 with
    | .sldSigned g .., some a | .sldUnsigned g .., some a | .sst g .., some a =>
      let f := m1Fields a
      g = 0 && !f.rem && b.2.1.any (fun v => match v.2, setOf v.2 with
        | .mpush q .., some h | .mclr q _, some h | .mmodeC q .., some h | .mmodeS q _, some h | .mpmask q .., some h
        | .mshift q _, some h | .macc q .., some h =>
          q = 0 && h.lmask.getLsbD f.layer && h.hmask.getLsbD f.half && decide (h.mbase.toNat ≤ f.macro_ ∧ f.macro_ ≤ h.mbase.toNat + h.mcnt.toNat)
        | _, _ => false)
    | _, _ => false)
/-- The quota violations and bank conflicts that can be counted in a segment: along every run of four bundles, and inside a bundle
(log 22). -/
def countBad (img : List Byte) (p : Nat) : Option Nat :=
  let bs := (segBundles img p).1
  ((List.range bs.length).findSome? (fun i => (runStarts bs i).findSome? (fun br => quotaRun img 4 0 0 0 (p, i, br)))).or
    ((bs.find? meetsLit).map (fun b => wordOfs img p b.1))
/-- Status 11: the offset of the first bundle with a barrier outside BARMASK, or with a quota or bank conflict that can
be counted (R74, R241; log 22). -/
def staticBad (img : List Byte) : Option Nat :=
  ((List.range (nTask img)).findSome? (fun i => wordIn img (taskSegs img i) (fun w => match w with
      | .barw _ b _ => decide (barMask img (dieOf (taskTile img i)) / 2 ^ b.toNat % 2 ≠ 1)
      | _ => false))).or ((heads img).findSome? (countBad img))
def staticOk (img : List Byte) : Bool := (staticBad img).isNone
/-- A hierarchy entry: a domain of the table with a scope of the table that contains it (R177). -/
def hierOk (img : List Byte) (h : Nat) : Bool :=
  let x := imgLE img (imgLE img 0x20 4 + 4 * h) 4
  let d := x % 256
  let sc := x / 256 % 256
  decide (x / 2 ^ 16 = 0) && decide (1 ≤ sc) && decide (sc ≤ 4) &&
    match d with
    | 0 => sc = 4
    | 1 => decide (3 ≤ sc)
    | 2 => decide (3 ≤ sc)
    | 3 => decide (2 ≤ sc)
    | 4 => decide (2 ≤ sc)
    | 5 => true
    | 0xFF => true
    | _ => false
/-- The offset of the first wheel-map entry that names no task record (R82), of the first joint-table entry and of the first
hierarchy entry that the rules do not let (R137, R177), and of the first bundle that names an entry that is not defined. -/
def wheelBad (img : List Byte) : Option Nat :=
  ((List.range 4096).find? (fun p => match wheelOwner img p with | some o => decide (o ≥ nTask img) | none => false)).map
    (fun p => imgLE img 0x24 4 + 2 * p)
def jointBad (img : List Byte) : Option Nat :=
  ((List.range 256).find? (fun n => decide (imgLE img (imgLE img 0x1C 4 + 8 * n) 8 ≥ 2 ^ 35))).map (fun n => imgLE img 0x1C 4 + 8 * n)
def hierBad (img : List Byte) : Option Nat := ((List.range 8).find? (fun h => !hierOk img h)).map (fun h => imgLE img 0x20 4 + 4 * h)
def entryBad (img : List Byte) : Option Nat :=
  wordIn img (heads img) (fun w => match w with
    | .joint v => !(jointEntry img v.toNat).2.1
    | .barw _ _ h => (hierEntry img h.toNat).isNone
    | _ => false)
/-- Status 12: the offset of the first offending entry of the wheel map, joint table or hierarchy table, or of the first
bundle that names an entry that is not defined. -/
def tablesBad (img : List Byte) : Option Nat := (wheelBad img).or ((jointBad img).or ((hierBad img).or (entryBad img)))
def tablesOk (img : List Byte) : Bool := (tablesBad img).isNone
/-- The pages that a timetable pins in each of its dies: those that its regions overlap, of each of its partitions
(R166). -/
def pinsOf (s : State) (img : List Byte) (ps : List Nat) : List Page :=
  (ps.flatMap (fun p => (regions img).flatMap (fun r => (List.range (r.2.1 / 65536)).filterMap (fun i =>
    pageOf s p (r.1 + 65536 * i))))).eraseDups
/-- The dies of partitions. -/
def diesOf (ps : List Nat) : List Nat := (ps.map (· / 4)).eraseDups
/-- The translations among pinned ones: a page that partitions map alike counts once for each timetable (R166, log 18). -/
def pinUse (l : List (Nat × Page)) : Nat := (l.map (fun g => (g.1, { g.2 with root := 0 }))).eraseDups.length
/-- Status 13: every address of the regions is mapped, and no die pins more than 1,536 translations (R166). -/
def residentOk (s : State) (img : List Byte) (ps : List Nat) : Bool :=
  ps.all (fun p => (regions img).all (fun r => (List.range (r.2.1 / 65536)).all (fun i =>
    (pageOf s p (r.1 + 65536 * i)).isSome))) &&
    (diesOf ps).all (fun d => decide (pinUse (cacheAt s d).pinned + pinUse ((pinsOf s img ps).map (fun g => (0, g))) ≤ 1536))

/-! ## Slots -/

/-- The timetable in slot k of partition p. -/
def slotTt (s : State) (p k : Nat) : Option (Nat × TT) :=
  s.tts.find? (fun x => x.2.slot = k && x.2.parts.contains p && !x.2.un.contains p)
/-- The timetable is Armed, Running or Frozen. -/
def isActive (x : TT) : Bool := x.st == .armed || x.st == .running || x.st == .frozen
/-- Some partition is common. -/
def share (a b : List Nat) : Bool := a.any b.contains
/-- The status of a load, in the order of R333. -/
def loadStatus (s : State) (q : Nat) (img : List Byte) (mask slot : Nat) : Nat :=
  let ps := maskParts mask
  if mask = 0 || decide (mask ≥ 2 ^ 24) || !ps.all (procParts s q).contains ||
    !ps.all (fun p => (partAt s p).pcfg.getLsbD 63) || !((taskTiles img).map partOf).all ps.contains then 1
  else if ps.any (fun p => (slotTt s p slot).isSome) then 2
  else if !headerOk img then 3
  else if !signedFor s img ps then 4
  else if !profilesOk s img then 5
  else if s.disc.slice > imgSlice img ∨ imgSlice img = 0 ∨ imgSlice img > 2 then 6
  else if imgLE img 7 1 > s.disc.therm then 7
  else if !dramOk s img then 8
  else if !(allCode img).all (fun x => x.2.all (macrosOk s x.1)) then 9
  else if !codeOk s img then 10
  else if !staticOk img then 11
  else if !tablesOk img then 12
  else if !residentOk s img ps then 13
  else 0
/-- The detail of a status: the offset of the offending item for 10 to 12, else 0. -/
def loadItem (s : State) (img : List Byte) (st : Nat) : Nat :=
  (match st with
   | 10 => codeBad s img
   | 11 => staticBad img
   | 12 => tablesBad img
   | _ => none).getD 0
/-- A key that no timetable has, and none names as the one it follows. -/
def newTt (s : State) : Nat := (s.tts.flatMap (fun y => y.1 :: y.2.after.toList)).foldl max 0 + 1
/-- The image's TTID (R210). -/
def ttidOf (img : List Byte) : Word := (Config.shake256 img).setWidth 64
/-- The entries that are not pinned give way to pinned ones (R166). -/
def trimCache (c : Tcache) : Tcache := { c with filled := c.filled.drop (c.filled.length - (2048 - pinCount c)) }
/-- The accepted load: the slot is Loaded and its regions are pinned (R19, R166). -/
def acceptLoad (s : State) (img : List Byte) (mask slot : Nat) (fw : Bool) : State :=
  let ps := maskParts mask
  let k := newTt s
  let pins := pinsOf s img ps
  let s := setTt s k { TT.none with slot := slot, parts := ps, st := .loaded, img := img, ttid := ttidOf img, firmware := fw }
  (diesOf ps).foldl (fun s d =>
    setCache s d (trimCache { cacheAt s d with pinned := (cacheAt s d).pinned ++ pins.map (fun g => (k, g)) })) s
/-- The n bytes at an address as a list; none where a translation fails. -/
def qBytes (s : State) (q va n : Nat) : Option (List Byte) :=
  (List.range n).mapM (fun i => (qPage s q (va + i)).map (fun g => physByte s (placeOf g (va + i))))
/-- The length of an image by its header. -/
def imageLen (h : List Byte) : Nat := max 0x80 (ofsSig h + sigLen h)
/-- The image at an address: its header says how long it is. -/
def imageAt (s : State) (q va : Nat) : Option (List Byte) :=
  match qBytes s q va 0x80 with
  | none => none
  | some h => (qBytes s q va (imageLen h))
/-- The bytes of the next line of an image of which some bytes have been read: 0 when all have. -/
def imageNext (got : List Byte) : Nat := min 64 ((if got.length < 0x80 then 0x80 else imageLen got) - got.length)
/-- Reads further lines of an image in ascending order, as long as they are there for the queue; none where a translation fails
(R18, R333). -/
def readImage (s : State) (q va : Nat) : Nat → List Byte → Option (List Byte)
  | 0, got => some got
  | fuel + 1, got =>
    let a := va + got.length
    let n := imageNext got
    if n = 0 then some got
    else match qBytes s q a n with
      | none => none
      | some b => if qServed s q a n then readImage s q va fuel (got ++ b) else some got
/-- CTTLD: the load starts (R333). -/
def execCttld (s : State) : Host.Outcome State Fault Refusal :=
  let q := s.ev.a
  let x := qHere s
  .next (updQueue s q (fun y => { y with wait := .load (irD x.ir) (cA x).toNat (cB x).toNat (irX x.ir % 2) [] }))
/-- CTTLD_COMPLETE: the lines of the image that are there are read; when all have been, the load is accepted or refused with a status
and its detail (R333). Firmware restores the repair registers before any load is accepted (R246). The event names the queue. -/
def execCttldComplete (s : State) : Host.Outcome State Fault Refusal :=
  let q := s.ev.a
  match (queueAt s q).wait with
  | .load d va mask slot old =>
    match readImage s q va (2 ^ 27) old with
    | none => .next (qErr s q 2)
    | some img =>
      if imageNext img ≠ 0 || !s.hc.restored then
        .next (updQueue (if old.length < img.length then spend (.queue q) s else s) q (fun y => { y with wait := .load d va mask slot img }))
      else
        let st := loadStatus s q img mask slot
        let s' := if st = 0 then acceptLoad s img mask slot false else s
        .next (qNext (updQueue s' q (setC d (BitVec.ofNat 64 (loadItem s img st % 2 ^ 32 * 2 ^ 32 + st)))) q)
  | _ => .next s
/-- A timetable leaves its slot: its record and its pinned translations go (R19, R166). -/
def dropTt (s : State) (k : Nat) : State :=
  { s with tts := tabDel s.tts k,
           caches := s.caches.map (fun c => (c.1, { c.2 with pinned := c.2.pinned.filter (fun p => p.1 ≠ k) })) }
/-- Slot k of the partitions ps is emptied. -/
def unloadSlot (s : State) (k : Nat) (ps : List Nat) : State :=
  ps.foldl (fun s p => match slotTt s p k with
    | none => s
    | some (n, x) =>
      let y := { x with un := p :: x.un }
      if y.parts.all y.un.contains then dropTt s n
      else { setTt s n y with caches := s.caches.map (fun c =>
        (c.1, { c.2 with pinned := c.2.pinned.filter (fun g => g.1 ≠ n || y.parts.any (fun o => !y.un.contains o && rootOf s o == g.2.root)) })) }) s
/-- CTTLD.un (R333). -/
def execCttldUn (s : State) : Host.Outcome State Fault Refusal :=
  let q := s.ev.a
  let x := qHere s
  let mask := (cB x).toNat
  let ps := maskParts mask
  let k := irX x.ir % 2
  if mask = 0 || decide (mask ≥ 2 ^ 24) || !ps.all (procParts s q).contains then cSet s 1
  else if ps.any (fun p => match slotTt s p k with | some (_, x) => x.st ≠ .loaded | none => true) then cSet s 2
  else cSet (unloadSlot s k ps) 0

/-! ## Launch (R16, R19, R334) -/

/-- The 32 bytes of a completion record, as one number. -/
def recordVal (state slot t0 tc nf prim cause : Nat) : Nat :=
  state + slot % 256 * 2 ^ 32 + t0 % 2 ^ 64 * 2 ^ 64 + tc % 2 ^ 64 * 2 ^ 128 + nf % 2 ^ 16 * 2 ^ 192 + prim % 2 ^ 16 * 2 ^ 208 +
    cause % 256 * 2 ^ 224
/-- The front end rewrites the completion record of timetable k, in one posted write (R334). -/
def writeRecord (s : State) (k state tc nf prim cause : Nat) : State :=
  let x := ttOf s k
  match x.record with
  | some (_, place) => postBytes none place (leBytes (recordVal state x.slot x.t0 tc nf prim cause) 32) s
  | none => s
/-- The timetables in slot k of the process's partitions. -/
def procTts (s : State) (q k : Nat) : List (Nat × TT) :=
  s.tts.filter (fun x => x.2.slot = k && (x.2.parts.filter (fun p => !x.2.un.contains p)).any (procParts s q).contains)
/-- The timetable that a launch names: the first that is Loaded, or the first of all (log 18). -/
def launchTt (s : State) (q k : Nat) : Option (Nat × TT) :=
  match (procTts s q k).find? (fun x => x.2.st == .loaded) with
  | some x => some x
  | none => (procTts s q k).head?
/-- The Armed timetable of slot k whose completion record stands at a place (R334). -/
def armedTt (s : State) (q k place : Nat) : Option (Nat × TT) :=
  (procTts s q k).find? (fun x => x.2.st == .armed && x.2.record.any (fun r => r.2 = place))
/-- The active timetable in the other slot of some partition of x. -/
def otherTt (s : State) (x : TT) : Option (Nat × TT) :=
  s.tts.find? (fun y => y.2.slot ≠ x.slot && isActive y.2 && share x.parts y.2.parts)
/-- The wheel positions, barriers and compiled channels of an image. -/
def wheelOf (img : List Byte) : List Nat := (List.range 4096).filter (fun p => (wheelOwner img p).isSome)
def barsMeet (a b : List Byte) : Bool := (List.range 6).any (fun d => decide (barMask a d &&& barMask b d ≠ 0))
/-- Status 3: two timetables cannot stand in the two slots. -/
def conflict (x y : TT) : Bool :=
  !(x.parts.all y.parts.contains && y.parts.all x.parts.contains) || share (taskTiles x.img) (taskTiles y.img) ||
    share ((compiledChans x.img).map (·.1)) ((compiledChans y.img).map (·.1)) || share (wheelOf x.img) (wheelOf y.img) ||
    barsMeet x.img y.img
/-- The domain that an active timetable of the partitions runs in. -/
def joinDom (s : State) (ps : List Nat) : Option Nat := (s.tts.find? (fun y => isActive y.2 && share ps y.2.parts)).map (·.2.dom)
/-- A key that no domain has. -/
def newDom (s : State) : Nat := (s.doms.map (·.1)).foldl max 0 + 1
/-- The domain at formation, with a TC (R16). -/
def formDom (ps : List Nat) (tc : Nat) : Dom := { Dom.none with parts := ps, tc := tc, live := true }
/-- A die asks a domain for a hold, at its TC, unless its request stands already (R30, R282). -/
def askHold (s : State) (d die : Nat) : State :=
  let x := domAt s d
  if x.holds.any (fun h => h.1 = die) then s else setDom s d { x with holds := (die, x.tc) :: x.holds }
/-- The dies of an image's tiles that are at 100 °C or above. -/
def hotDies (s : State) (img : List Byte) : List Nat :=
  ((taskTiles img).map dieOf).eraseDups.filter (fun die => decide (100 ≤ tabGet 25 s.temps die))
/-- The launch: the slot is Armed, its domain is joined or formed, dies that are hot ask it for a hold, and the record is written (R16,
R30, R334). -/
def arm (s : State) (q k place t0 : Nat) (after : Option Nat) : State :=
  let x := ttOf s k
  let d := (joinDom s x.parts).getD (newDom s)
  let s := if (joinDom s x.parts).isSome then s else setDom s d (formDom x.parts 0)
  let s := (hotDies s x.img).foldl (fun s die => askHold s d die) s
  let s := setTt s k { x with st := .armed, t0 := t0, dom := d, record := some (q, place), after := after }
  { s with mem := storeLE s.mem place (recordVal 1 x.slot t0 0 0 0 0) 32 }
/-- The shared meaning of the launches; t0 gives the launch cycle and the timetable that it follows, or none for
status 4. -/
def launch (s : State) (t0 : TT → Nat → Option (Nat × Option Nat)) : Host.Outcome State Fault Refusal :=
  let q := s.ev.a
  let x := qHere s
  let ca := (cA x).toNat
  match launchTt s q (irX x.ir % 2) with
  | none => .next (qErr s q 7)
  | some (k, tt) =>
    if tt.st ≠ .loaded || !tt.un.isEmpty then .next (qErr s q 7)
    else if ca % 32 ≠ 0 then .next (qErr s q 3)
    else match qPage s q ca with
      | none => .next (qErr s q 2)
      | some g =>
        if !g.wr then .next (qErr s q 2)
        else if !qServed s q ca 32 then cPause s
        else
          let tc := match joinDom s tt.parts with | some d => (domAt s d).tc | none => 0
          match t0 tt tc with
          | none => cSet s 4
          | some (t, after) =>
            if t < tc + 2048 then cSet s 1
            else if !(wheelOf tt.img).isEmpty && decide (t % 4096 ≠ imgLE tt.img 0x0A 2) then cSet s 2
            else if s.tts.any (fun y => y.1 ≠ k && isActive y.2 && share tt.parts y.2.parts && conflict tt y.2) then cSet s 3
            else cSet (arm s q k (placeOf g ca) t after) 0
/-- CLAUNCH.tc: T0 = cb. -/
def execClaunchTc (s : State) : Host.Outcome State Fault Refusal := launch s (fun _ _ => some ((cB (qHere s)).toNat, none))
/-- CLAUNCH.rel: T0 = TC + cb. -/
def execClaunchRel (s : State) : Host.Outcome State Fault Refusal :=
  launch s (fun _ tc => some ((tc + (cB (qHere s)).toNat) % 2 ^ 64, none))
/-- CLAUNCH.jt: T0 = T0′ + j + 1 + cb. -/
def execClaunchJt (s : State) : Host.Outcome State Fault Refusal :=
  launch s (fun tt _ => match otherTt s tt with
    | none => none
    | some (k, y) =>
      let j := jointEntry y.img (irImm (qHere s).ir).toNat
      if j.2.1 then some ((y.t0 + j.1 + 1 + (cB (qHere s)).toNat) % 2 ^ 64, some k) else none)
/-- A domain lasts while a timetable of it is Armed, Running or Frozen (R16). -/
def sweepDom (s : State) (d : Nat) : State :=
  if s.tts.any (fun y => isActive y.2 && y.2.dom = d) then s
  else { s with doms := tabDel s.doms d, ckpt := match s.ckpt with | some c => if c.dom = d then none else some c | none => none }
/-- Channels that the hand-over took are open again (R334). -/
def unhand (s : State) (img : List Byte) : State :=
  (compiledChans img).foldl (fun s p => setChan s p.1 { chanAt s p.1 with handed := false }) s
/-- An Armed timetable returns to Loaded, and its record shows it withdrawn (R334). -/
def withdraw (s : State) (k : Nat) : State :=
  let x := ttOf s k
  let s := writeRecord s k 4 0 0 0 0
  sweepDom (unhand (setTt s k { x with st := .loaded, t0 := 0, dom := 0, record := none, after := none }) x.img) x.dom
/-- CLAUNCH.wd: the Armed launch of the slot that ca's record belongs to, while TC is below its T0 (R334). -/
def execClaunchWd (s : State) : Host.Outcome State Fault Refusal :=
  let q := s.ev.a
  let x := qHere s
  let ca := (cA x).toNat
  if ca % 32 ≠ 0 then .next (qErr s q 3)
  else match qPage s q ca with
    | none => .next (qErr s q 2)
    | some g =>
      match armedTt s q (irX x.ir % 2) (placeOf g ca) with
      | some (k, tt) => if (domAt s tt.dom).tc < tt.t0 then cSet (withdraw s k) 0 else cSet s 5
      | none => cSet s 5

end Sys2Proof.Machine
end

