-- ==== Sys2Proof/Machine/Freeze.lean ====
section
/-! DEFINITION. The freeze of a domain (R206 to R213), its snapshot, resume (R214 to R216) and abort (R19), the end of a
timetable (R20), hold points (R282), and the thermal responses (R30, R283). -/

namespace Sys2Proof.Machine

/-! ## Timetables of a domain -/

/-- The tiles of one timetable. -/
def ttTiles (s : State) (k : Nat) : List Nat :=
  (s.tiles.filter (fun p => p.2.tt = k)).map (·.1)
/-- The dies on which a domain has a tile. -/
def domDies (s : State) (d : Nat) : List Nat :=
  ((s.tts.filter (fun y => isActive y.2 && y.2.dom = d)).flatMap (fun y => (taskTiles y.2.img).map dieOf)).eraseDups
/-- The channels that a timetable commands. -/
def ttChans (s : State) (k : Nat) : List Nat := (s.chans.filter (fun c => c.2.comp == some k)).map (·.1)

/-! ## The freeze (R206) -/

/-- The domain freezes at its TC: TCYC of every tile holds the freeze cycle relative to T0, and its Running timetables
are Frozen; what the issuers of its channels have moved for others and is not used is requested again (R19, R205, R206, R281). -/
def freezeDom (s : State) (d : Nat) : State :=
  let x := domAt s d
  let s := (domTiles s d).foldl (fun s id => updTile s id (fun t => { t with tcyc := BitVec.ofNat 64 (x.tc - t0At s id) })) s
  let s := (domTts s d isRunning).foldl (fun s y => setTt s y.1 { ttOf s y.1 with st := .frozen }) s
  let s := (domChans s d).foldl (fun s c => setChan (dropGrants s c.1) c.1 { c.2 with seq := [] }) s
  setDom { s with ckpt := none } d { x with frozen := true, faulted := false }
/-- The fault registers of a tile go to the tile as it stood at the checkpoint (R206: none of the bundle's words have an
effect). -/
def keepTrap (old new : Tile) : Tile :=
  { old with tcause := new.tcause, tfpc := new.tfpc, tbpc := new.tbpc, taddr := new.taddr }
/-- What the bundles of the cycle did is undone. -/
def rollBack (s : State) (c : Ckpt) : State :=
  { s with tiles := c.tiles.map (fun p => (p.1, keepTrap p.2 (tileOf s p.1))), chans := c.chans, eps := c.eps }
/-- Every tile of a domain records a cause that is no tile's own fault, at its next bundle (R283, R352). -/
def trapAll (s : State) (d cause : Nat) : State :=
  markFault ((domTiles s d).foldl (fun s id => updTile s id (fun t => recordTrap ⟨cause, 0, 0, 0⟩ 0xF (dueBundle t) none t)) s) d

/-! ## The snapshot (R207 to R212) -/

/-- Every access that the domain's tiles issued has completed or failed, and no walk is in progress (R207); one that met a
shaft not repaired performs after the resume (R247). -/
def quiet (s : State) (d : Nat) : Bool :=
  (domTiles s d).all (fun id => (tileOf s id).out.all (fun x => isFence x || x.stuck || (x.done && !x.walk)))
/-- The faulting tiles of a domain, lowest logical identity first (R208). -/
def faulting (s : State) (d : Nat) : List Nat := (domTiles s d).filter (fun id => causeOf (tileOf s id) ≠ 0)
def primaryOf (s : State) (d : Nat) : Nat := (faulting s d).headD 0
def primaryCause (s : State) (d : Nat) : Nat := match faulting s d with | id :: _ => causeOf (tileOf s id) | [] => 0
/-- Logical shaft and layer with a macro. -/
def capKey (name : Nat) : Nat × Nat := (name / 256, name / 2 % 128 + 1)
/-- What a timetable uses of the shafts: the macros that its code names, those that its tiles' half-macros hold something
in, and those that a generator or a delayed action of a tile names (R210; log 29). -/
def capsUsed (s : State) (img : List Byte) (ids : List Nat) : List (Nat × Nat) :=
  ((allCode img).flatMap (fun x => x.2.flatMap (fun i =>
    (match setOf i with
     | some h => ((List.range 4).filter (fun l => h.lmask.getLsbD l)).map (fun l => (4 * x.1 + l, h.mbase.toNat + h.mcnt.toNat + 1))
     | none => []) ++
    (match m1Lit i with
     | some a => let f := m1Fields a; [(4 * m1Tile x.1 f + f.layer, f.macro_ + 1)]
     | none => [])))) ++
  ids.flatMap (fun id =>
    (s.halves.filter (fun p => p.1 / 1024 = shaftKey s id)).map (fun p => capKey (hmName s id p.1)) ++
    (tileOf s id).cal.filterMap (fun p => (actHalf p.act).map (fun k => capKey (hmName s id k))) ++
    ((tileOf s id).gens.filter (fun g => g.2.space == .shaft && g.2.run.isSome)).map (fun g =>
      let f := m1Fields g.2.base; (4 * id + f.layer, f.macro_ + 1)))
/-- For each logical shaft and layer, the highest macro used, plus 1 (R210). -/
def capsOf (s : State) (img : List Byte) (ids : List Nat) : Tab Nat :=
  (capsUsed s img ids).foldl (fun t p => tabSet 0 t p.1 (max p.2 (tabGet 0 t p.1))) []
/-- The half-macros of a tile's shaft by logical name; one that is not listed is as after reset, so the image holds them all. The
arrays are part of it when the image is portable. -/
def shaftImage (s : State) (portable : Bool) (id : Nat) : Tab Half :=
  (s.halves.filter (fun p => p.1 / 1024 = shaftKey s id)).map (fun p =>
    (hmName s id p.1, if portable then p.2 else { p.2 with bytes := [] }))
/-- The snapshot of a timetable (R210, R211). -/
def snapOf (s : State) (d : Nat) (portable : Bool) (k : Nat) : Snap :=
  let x := ttOf s k
  let ids := ttTiles s k
  let n : Snap :=
    { dom := d, tt := k, magic := 0x4B534E50, layout := 1, tcf := (domAt s d).tc, t0 := x.t0, slice := imgSlice x.img,
      profiles := imgLE x.img 8 2 % 256, ndie := (diesOf x.parts).length, serial := s.disc.serial, epoch := s.disc.epoch,
      caps := capsOf s x.img ids, nfault := (faulting s d).length, primary := primaryOf s d, ttid := x.ttid, portable := portable,
      fault := !(faulting s d).isEmpty, parts := x.parts, eps := s.eps.filter (fun e => e.tt = k),
      tiles := (s.tiles.filter (fun p => ids.contains p.1)).map (fun p => (p.1, mapTile (hmName s p.1) p.2)),
      chans := s.chans.filter (fun c => c.2.comp == some k), shafts := ids.flatMap (shaftImage s portable), digest := [] }
  { n with digest := digestOf n }
/-- SNAPSHOT_TAKEN: once every access and walk has finished, the snapshot of every Frozen timetable of the domain is
taken; an access whose data no resume can supply dooms them (R207). The event names the domain; its flag asks for a portable
image. -/
def execSnapshotTaken (s : State) : Host.Outcome State Fault Refusal :=
  let d := s.ev.a
  let x := domAt s d
  if !x.frozen || !quiet s d || s.snaps.any (fun n => n.dom = d) then .next s
  else
    let l := (domTts s d isFrozen).map (fun y => snapOf s d s.ev.flag y.1)
    .next (setDom { s with snaps := s.snaps ++ l } d { x with doomed := x.doomed || x.faulted, faulted := false })

/-! ## Abort (R19, R334) -/

/-- The completion record of a timetable that has ended (2) or was aborted (3). -/
def reportEnd (s : State) (k state : Nat) : State :=
  let d := (ttOf s k).dom
  writeRecord s k state (domAt s d).tc (faulting s d).length (primaryOf s d) (primaryCause s d)
/-- A tile without a task: M0 and the accumulation store keep their contents (R109). -/
def clearTile (t : Tile) : Tile := { Tile.reset with m0 := t.m0, acc := t.acc }
/-- The timetable is over: its tiles' state is discarded, its channels return to open, its ephemeral banks are ordinary,
its slot is Empty (R19, R20, R109, R272, R278). -/
def finishTt (s : State) (k : Nat) : State :=
  let s := (ttChans s k).foldl toOpen s
  let s := (s.chans.filter (fun c => c.2.ephTt == some k)).foldl (fun s c => endEphemeral s c.1) s
  let ids := ttTiles s k
  let s := ids.foldl (fun s id => updTile s id clearTile) s
  let s := { s with grants := s.grants.filter (fun g => match g.1 with | .acc id _ _ => !ids.contains id | _ => true) }
  dropTt { s with eps := s.eps.filter (fun e => e.tt ≠ k), exchs := s.exchs.filter (fun e => e.tt ≠ k),
                  snaps := s.snaps.filter (fun n => n.tt ≠ k) } k
/-- Armed launches that follow a timetable return to Loaded when it is Aborted before their T0 (R334). -/
def dropFollowers (s : State) (k : Nat) : State :=
  (s.tts.filter (fun y => y.2.st == .armed && y.2.after == some k)).foldl (fun s y => withdraw s y.1) s
/-- The timetables go to Aborted: those that follow them are withdrawn, their records are written, their slots are
Empty. -/
def abortTts (s : State) (l : List Nat) : State :=
  let s := l.foldl (fun s k => reportEnd (dropFollowers s k) k 3) s
  l.foldl finishTt s
/-- A domain that lasts goes on without its Frozen timetables (R16). -/
def unfreeze (s : State) (d : Nat) : State :=
  let x := domAt s d
  setDom s d { x with frozen := false, faulted := false, thermal := false, digest := false, preempted := false, doomed := false, go := [] }
/-- The Frozen timetables of a domain are Aborted (R16, R19). -/
def abortDom (s : State) (d : Nat) : State :=
  let s := abortTts s ((domTts s d isFrozen).map (·.1))
  sweepDom (if (domAt s d).live then unfreeze s d else s) d
/-- Every recorded cause lets the timetable be resumed (R201). -/
def mayGoOn (c : Nat) : Bool := c = 0 || c = 0x14 || c = 0x17 || c = 0x18
/-- The shaft, by its tile, and the layer that an address of a tile's access leads to. -/
def metAt (id : Nat) (a : Word) : Nat × Nat := (m1Tile id (m1Fields a), (m1Fields a).layer)
/-- The shafts and layers that a tile which recorded cause 0x14 met without their repair: the one that TADDR names, and those of its
remote accesses that stay (R205, R246, R247). -/
def metShafts (id : Nat) (t : Tile) : List (Nat × Nat) :=
  if causeOf t ≠ 0x14 then []
  else metAt id t.taddr :: (t.out.filter (·.stuck)).flatMap (fun x => x.parts.map (fun p => metAt id (BitVec.ofNat 64 p.va)))
/-- An access to a layer crosses an interface whose repair has failed (R246, R247). -/
def crossesLost (s : State) (i : Nat × Nat) : Bool := s.hc.lost.any (fun l => l.1 = shaftKey s i.1 && decide (l.2 ≤ i.2))
/-- The Frozen domain must be aborted: a cause that R201 marks "no", a decision, or an interface whose repair has failed (R247). -/
def mustAbort (s : State) (d : Nat) : Bool :=
  (domAt s d).doomed || (domTiles s d).any (fun id => !mayGoOn (causeOf (tileOf s id)) ||
    (metShafts id (tileOf s id)).any (crossesLost s))
/-- The snapshots of a Frozen domain are taken, or none of its timetables has run (R16, R207). -/
def snapped (s : State) (d : Nat) : Bool := s.snaps.any (fun n => n.dom = d) || (domTts s d isFrozen).isEmpty
/-- HARBOUR_ABORT: the Harbour complex aborts a Frozen domain, once its snapshot is taken; a domain whose timetables were all Armed
goes on with them (R16, R19, R283, R334; log 18). The event names the domain. -/
def execHarbourAbort (s : State) : Host.Outcome State Fault Refusal :=
  let d := s.ev.a
  if (domAt s d).frozen && snapped s d && mustAbort s d then .next (abortDom s d) else .next s

/-! ## Resume (R214 to R216) -/

/-- The timetable that a snapshot resumes: its own, or one that is Loaded with its TTID, or else one that is Loaded in its partitions,
which the check of the TTID then refuses (R215, R216). -/
def snapTt (s : State) (n : Snap) : Option Nat :=
  if (ttOf s n.tt).st = .frozen ∧ (ttOf s n.tt).dom = n.dom then some n.tt
  else
    let l := s.tts.filter (fun y => y.2.st == .loaded)
    ((l.filter (fun y => y.2.ttid = n.ttid) ++ l.filter (fun y => y.2.parts.any n.parts.contains)).head?).map (·.1)
/-- The checks of R215. -/
def snapOk (s : State) (n : Snap) : Bool :=
  match snapTt s n with
  | none => false
  | some k =>
    let x := ttOf s k
    decide (n.magic = 0x4B534E50) && decide (n.layout = 1) && decide (n.digest = digestOf { n with digest := [] }) && decide (n.ttid = x.ttid) &&
      decide (n.profiles &&& s.disc.profiles = n.profiles) && decide (n.ndie = (diesOf x.parts).length) &&
      n.parts.all x.parts.contains && x.parts.all n.parts.contains && decide (s.disc.slice ≤ n.slice) &&
      n.caps.all (fun c => decide (c.2 ≤ macroCount s (c.1 / 4) (c.1 % 4))) &&
      (decide (n.serial = s.disc.serial) || n.portable) && dramOk s x.img &&
      n.tiles.all (fun p => mayGoOn (causeOf p.2)) && !(domAt s n.dom).doomed
/-- A die of the tiles is at or above 95 °C (R30). -/
def isHot (s : State) (dies : List Nat) : Bool := dies.any (fun d => decide (tabGet 25 s.temps d ≥ 95))
/-- A tile that met an interface not repaired still meets it (R246, R247). -/
def unrepaired (s : State) (n : Snap) : Bool :=
  n.tiles.any (fun p => (metShafts p.1 p.2).any (fun i => !lanesOk s i.1 i.2))
/-- What keeps a Frozen domain from being resumed yet: heat after a thermal hold or trip (R30), its process's turn
(R337), a digest exchange (R352), the hosts' decisions on a divergence (R352), a repair (R247). -/
def waitsFor (s : State) (d : Nat) : Bool :=
  let x := domAt s d
  (x.thermal && isHot s (domDies s d)) || x.preempted || x.digest ||
    (s.snaps.any (fun n => n.dom = d && n.tiles.any (fun p => causeOf p.2 = 0x17)) && decide (x.go.eraseDups.length < 2)) ||
    s.snaps.any (fun n => n.dom = d && unrepaired s n)
/-- A channel as recorded, its open rows open again: those that this part's sequencer has precharged when the timetable was frozen
here, those of the image when it comes from outside, where a request cut short leaves its precharge; the issuer's queue is that of
this part (R214, R216, R282). -/
def restoreChan (s : State) (n : Snap) (k : Nat) (ch : Nat) (c : Chan) : Chan :=
  let o := chanAt s ch
  let c := { c with comp := some k, ephTt := some k, queue := o.queue, mode := o.mode }
  let isPre : DCmd → Bool := fun x => match x with | .pre _ => true | _ => false
  reopenRows (timingOf s ch) n.slice n.tcf (if o.comp = some k then { c with held := o.held, seq := o.seq }
    else { c with seq := [], serve := c.serve.bind (fun v => (v.rest.find? isPre).map (fun x => { v with rest := [x] })) })
/-- The half-macros of a tile's shaft as an image has those which it does not list: as after reset, the array of this part's where the
image has none (R214, R216). -/
def blankShaft (n : Snap) (s : State) (id : Nat) : State :=
  (s.halves.filter (fun p => p.1 / 1024 = shaftKey s id)).foldl (fun s p =>
    setHalf s p.1 (if n.portable then Half.reset else { Half.reset with bytes := p.2.bytes })) s
/-- One timetable is Running again: its tiles, channels, barrier episodes and half-macros as recorded, by their logical
names (R214, R216). -/
def restoreSnap (s : State) (n : Snap) (k : Nat) (d : Nat) : State :=
  let x := ttOf s k
  let s := setTt s k { x with st := .running, t0 := n.t0, dom := d }
  let s := n.tiles.foldl (fun s p => setTile s p.1 { clearTrap n.tcf (mapTile (hmOfName s) p.2) with tt := k }) s
  let s := n.chans.foldl (fun s c => setChan s c.1 (restoreChan s n k c.1 c.2)) s
  let s := { s with eps := s.eps.filter (fun e => e.tt ≠ k) ++ n.eps.map (fun e => { e with tt := k }) }
  let s := (n.tiles.map (·.1)).foldl (blankShaft n) s
  n.shafts.foldl (fun s h =>
    let key := hmOfName s h.1
    setHalf s key (if n.portable then h.2 else { h.2 with bytes := (halfOf s key).bytes })) s
/-- The snapshots of a domain are resumed at TCF, or the domain is doomed when one is refused (R214, R215). A domain that
does not exist is formed (R16). The cycle TCF then goes on with its bundles. After a fatal error nothing resumes (R341). -/
def resumeDom (s : State) (d : Nat) : State :=
  let l := s.snaps.filter (fun n => n.dom = d)
  let x := domAt s d
  if (x.live && !x.frozen) || (l.isEmpty && (!x.live || !(domTts s d isFrozen).isEmpty)) || waitsFor s d || s.hc.dying || s.hc.halted then s
  else if !l.all (snapOk s) then
    if x.live then setDom s d { x with doomed := true }
    else abortTts { s with snaps := s.snaps.filter (fun n => n.dom ≠ d) } (l.filterMap (snapTt s))
  else
    let tc := if l.isEmpty then x.tc else (l.map (·.tcf)).foldl max 0
    let ps := (l.flatMap (fun n => match snapTt s n with | some k => (ttOf s k).parts | none => [])).eraseDups
    let s := l.foldl (fun s n => match snapTt s n with | some k => restoreSnap s n k d | none => s) s
    let y := if x.live then x else formDom ps tc
    let s := unfreeze (setDom { s with snaps := s.snaps.filter (fun n => n.dom ≠ d) } d { y with tc := tc }) d
    { s with agenda := s.agenda ++ resumeWork s d }

/-! ## The end of a timetable (R20) -/

/-- The exchanges of a timetable. -/
def ttExchs (s : State) (k : Nat) : List Exch := s.exchs.filter (fun e => e.tt = k)
/-- Every tile has executed TEND, and every effect and access is complete (R20). -/
def ttDone (s : State) (k : Nat) : Bool :=
  let ids := taskTiles (ttOf s k).img
  ids.all (fun id =>
    let t := tileOf s id
    t.tt = k && t.ended && t.cal.isEmpty && t.out.all (fun x => isFence x || (x.done && !x.walk)))
/-- A domain's divergence is reported to the host by MSI-X (R352). -/
def reportDiv (d : Nat) (s : State) : State := send (.divergence d) s
/-- TIMETABLE_ENDED: at the boundary into the first cycle at which everything is complete, Ended is recorded, unless a digest joint's
exchange stands out: that cycle takes the place of the next joint, and the domain freezes there before any bundle of the cycle, with
cause 0x17 on a difference and with cause 0 while the exchange is not complete (R20, R206, R352; log 18). The event names the
timetable. -/
def execTimetableEnded (s : State) : Host.Outcome State Fault Refusal :=
  let k := s.ev.a
  let x := ttOf s k
  let d := domAt s x.dom
  if x.st ≠ .running || d.frozen || d.faulted || !ttDone s k then .next s
  else if (ttExchs s k).any (fun e => !e.done) then .next (setDom s x.dom { d with faulted := true, digest := true })
  else if (ttExchs s k).any (fun e => !e.equal) then
    .next (reportDiv x.dom (trapAll { s with exchs := s.exchs.filter (fun e => e.tt ≠ k || e.equal) } x.dom 0x17))
  else .next (sweepDom (finishTt (reportEnd s k 2) k) x.dom)

/-! ## Hold points (R282) and thermal responses (R30, R283) -/

/-- A hold that a die has requested by a cycle is known on every die of the domain (R87, R282). -/
def holdKnown (s : State) (d : Nat) : Bool :=
  let x := domAt s d
  x.holds.any (fun h => (domDies s d).all (· = h.1) || decide (h.2 + 12 ≤ x.tc))
/-- HOLD_POINT_FREEZE: the domain freezes at the boundary into the next cycle with cause 0; the sequencers then precharge
the open banks and record their rows (R282). The event names the domain; it stands at the end of the cycle in which TC
reached the joint, by which every die of the domain has the request (R87). -/
def execHoldPointFreeze (s : State) : Host.Outcome State Fault Refusal :=
  let d := s.ev.a
  let x := domAt s d
  if x.frozen || !holdKnown s d || !atHold s d then .next s
  else .next (setDom s d { x with faulted := true, thermal := true, holds := [] })
/-- The domains with a tile on a die. -/
def domsOn (s : State) (die : Nat) : List Nat := (s.doms.map (·.1)).filter (fun d => (domDies s d).contains die)
/-- THERMAL_HOLD_REQUEST: a control die at 100 °C or above; every domain with a tile on it has a hold requested by that die
(R30). The event names the die and its temperature. -/
def execThermalHoldRequest (s : State) : Host.Outcome State Fault Refusal :=
  let die := s.ev.a
  let s := { s with temps := tabSet 25 s.temps die s.ev.b }
  if s.ev.b < 100 then .next s
  else .next ((domsOn s die).foldl (fun s d => askHold s d die) s)
/-- THERMAL_COOLDOWN: a die falls below 95 °C: the requests that it made are withdrawn, and a domain held for heat may
resume once all its dies are (R30, R283). The event names the die and its temperature. -/
def execThermalCooldown (s : State) : Host.Outcome State Fault Refusal :=
  let die := s.ev.a
  let s := { s with temps := tabSet 25 s.temps die s.ev.b }
  if s.ev.b ≥ 95 then .next s
  else .next ((domsOn s die).foldl (fun s d =>
    let x := domAt s d
    let s := setDom s d { x with holds := x.holds.filter (fun h => h.1 ≠ die) }
    if x.frozen ∧ x.thermal ∧ !isHot s (domDies s d) then resumeDom s d else s) s)
/-- THERMAL_TRIP: a die at 112 °C or above: every running domain with a tile on it freezes at its cycle, and every tile
then records cause 0x15 (closeCycle); a domain that is frozen stays so until its dies are below 95 °C (R30, R283). The event names the die
and its temperature. -/
def execThermalTrip (s : State) : Host.Outcome State Fault Refusal :=
  let die := s.ev.a
  let s := { s with temps := tabSet 25 s.temps die s.ev.b }
  if s.ev.b < 112 then .next s
  else .next ((domsOn s die).foldl (fun s d =>
    let x := domAt s d
    setDom s d (if x.frozen then { x with thermal := true } else { x with faulted := true, doomed := true })) s)
/-- The memories of an image are data in their canonical form: an image is bytes, and any other list is none (log 29). -/
def imageOk (n : Snap) : Bool := n.tiles.all (fun p => Memory.wf p.2.m0) && n.shafts.all (fun p => Memory.wf p.2.bytes)
/-- Partitions with an Armed, Running or Frozen timetable hold a domain (R16). -/
def holdDomain (s : State) (ps : List Nat) : Bool := s.tts.any (fun y => isActive y.2 && y.2.parts.any ps.contains)
/-- RESUME: the Harbour complex resumes a Frozen domain whose reason has ended, or one whose image comes from outside, also
from another part, into partitions that hold no domain (R16, R214, R216). The event names the domain, and may carry the image. -/
def execResume (s : State) : Host.Outcome State Fault Refusal :=
  let d := s.ev.a
  match s.ev.snap with
  | none => .next (resumeDom s d)
  | some n =>
    if (domAt s d).live || holdDomain s n.parts || !imageOk n then .next s
    else .next (resumeDom { s with snaps := s.snaps.filter (fun m => m.dom ≠ d) ++ [{ n with dom := d }] } d)

end Sys2Proof.Machine
end

