-- ==== Sys2Proof/Machine/Tick.lean ====
section
/-! DEFINITION. TC_TICK (R16) and what belongs to a cycle as a whole: the checkpoint before its bundles and its end (R71,
R179, R206, R281), the start of timetables and tasks (R19, R104), and the digests of replicas (R351, R352). -/

namespace Sys2Proof.Machine

/-! ## The checkpoint and the end of a cycle (log 5) -/

/-- The digest joints of the Running timetables at TC, of partitions that have a replica record: an exchange begins, once
for each (R351). -/
def startExchs (s : State) (d : Nat) : State :=
  let c := (domAt s d).tc
  let new := (domTts s d isRunning).filterMap (fun y =>
    if y.2.t0 ≤ c ∧ y.2.parts.any (fun p => (partAt s p).rep.isSome) then
      (jointAt y.2.img false (c - y.2.t0)).map (fun n => (⟨d, y.1, n, c, none, false, false, []⟩ : Exch))
    else none)
  { s with exchs := s.exchs ++ new.filter (fun e => !s.exchs.any (fun y => y.tt = e.tt && y.joint = e.joint)) }
/-- The work after the end of a domain's bundles is left, with that end. -/
def toClose (d : Nat) (l : List Work) : List Work := l.dropWhile (fun w => w != .close d)
/-- Before the bundles of a cycle: digest exchanges begin, and what a precise fault restores is kept; a domain with an
engine fault issues none (R93). -/
def takeCkpt (s : State) (d : Nat) : State :=
  if (domAt s d).faulted then { s with agenda := toClose d s.agenda, ckpt := none }
  else { startExchs s d with ckpt := some ⟨d, s.tiles, s.chans, s.eps⟩ }
/-- The entries of a queue that accesses of this cycle's bundle reserve (R169). -/
def newResv (t : Tile) (c : Nat) (l : List QEnt) : Nat :=
  (l.filter (fun e => match e.resv with | some id => t.out.any (fun x => x.id = id && x.issue = c) | none => false)).length
/-- Queues with more than 4 entries at the end of the cycle: number and entries. -/
def fullQs (t : Tile) : List (Nat × List QEnt) := t.queues.filter (fun q => decide (q.2.length > 4))
/-- A reservation that is a fifth entry (R71, R169). -/
def resvOver (t : Tile) (c : Nat) : Bool :=
  (fullQs t).any (fun q => decide (newResv t c q.2 > 0) && decide (q.2.length - newResv t c q.2 ≤ 4))
/-- A landing push that took a queue above 4, and still does at the end of the cycle: pipe and bundle (R71). -/
def pushOver (t : Tile) : Option (Nat × BRef) :=
  (t.spill.find? (fun o => (fullQs t).any (fun q => q.1 = o.1))).map (·.2)
/-- The lowest-numbered tile that waits at an episode and has not executed TEND; 768 for none (R179). -/
def barWaiter (s : State) (e : Episode) : Nat := ((e.came.map (·.1)).filter (fun i => !(tileOf s i).ended)).foldl min 768
/-- Faults of a cycle's end that freeze the domain at the next boundary: overflow by a landing push (R71), TEND while
others wait (R179), a window closed with a bank open (R281), whose TADDR names the first bank that the window left open and its row
(log 18). -/
def endFaults (s : State) (d : Nat) : List (Nat × Trap × Nat × BRef) :=
  (domTiles s d).filterMap (fun id => (pushOver (tileOf s id)).map (fun o => (id, ⟨7, 0, 0, 0⟩, o.1, o.2))) ++
  (s.eps.filter (fun e => (ttOf s e.tt).dom = d && e.parts.any (fun i => (tileOf s i).ended && (tileOf s i).tt = e.tt))).filterMap (fun e =>
    match (tileOf s (barWaiter s e)).hold with
    | .barw _ _ _ _ b => some (barWaiter s e, ⟨5, 7, 0, 0⟩, 6, b)
    | _ => none) ++
  (domChans s d).filterMap (fun c => match c.2.closed with
    | some (_, b) => match winBanks c.2 with
      | k :: _ => some (chanOwner c.1, ⟨0x10, 0, 0, dAddr c.1 k ((bankAt c.2 k).row.getD 0) 0⟩, 8, b)
      | [] => none
    | none => none)
/-- What is only of one cycle is cleared. -/
def clearCycle (s : State) (d : Nat) : State :=
  let s := (domTiles s d).foldl (fun s id => if (tileOf s id).spill.isEmpty then s else updTile s id (fun t => { t with spill := [] })) s
  (domChans s d).foldl (fun s c => if c.2.closed.isNone then s else setChan s c.1 { c.2 with closed := none }) { s with ckpt := none }
/-- The channels that are open after the cycle (R272). -/
def openWork (s : State) (d : Nat) : List Work :=
  ((domChans s d).filter (fun c => backToOpen s c.1 c.2 (domAt s d).tc)).map (fun c => evw .channelToOpen c.1 0 0 false)
/-- The domain freezes now, with cause 0x15 in every tile after a thermal trip (R206, R283). -/
def freezeNow (s : State) (d : Nat) : State := freezeDom (if (domAt s d).doomed then trapAll s d 0x15 else s) d
/-- The end of the bundles of a cycle: a domain with a fault freezes, its bundles of the cycle undone when they are the
fault's cause. -/
def closeCycle (s : State) (d : Nat) : State :=
  let x := domAt s d
  if x.frozen then s
  else
    let fifth := match s.ckpt with
      | some c => if c.dom = d then (domTiles s d).filter (fun id => resvOver (tileOf s id) x.tc) else []
      | none => []
    let s := fifth.foldl (fun s id => updTile s id (fun t => recordTrap ⟨7, 0, 0, 0⟩ 6 t.bun none t)) s
    if x.faulted || !fifth.isEmpty then
      freezeNow (match s.ckpt with | some c => if c.dom = d then rollBack s c else s | none => s) d
    else { s with ckpt := none }
/-- The end of a cycle, after the commands of its window issuers: the faults that it shows are recorded, and channels return to
open. -/
def lastCycle (s : State) (d : Nat) : State :=
  let x := domAt s d
  if x.frozen || x.faulted then s
  else
    let bad := endFaults s d
    let s := clearCycle (bad.foldl (fun s f => takeTrap f.2.1 f.2.2.1 f.2.2.2 none f.1 s) s) d
    before (openWork s d) s

/-! ## TC_TICK -/

/-- TC_TICK: TC of a domain that is not frozen increments on every die, and the work of the new cycle is due: what
happens at the boundary, what lands and what the engines access, one bundle of each tile, the end of the cycle (R16,
R17). Wall time passes (log 21). The event names the domain. -/
def execTcTick (s : State) : Host.Outcome State Fault Refusal :=
  let d := s.ev.a
  let x := domAt s d
  if !x.live || x.frozen then .next s
  else
    let c := (x.tc + 1) % 2 ^ 64
    let s := setDom s d { x with tc := c }
    .next { s with agenda := s.agenda ++ cycleWork s d c, ckpt := none, wallNs := s.wallNs + Config.elapsedNs s.free,
                   free := s.free + 1 }

/-! ## Starts (R19, R104, R272) -/

/-- The first segment of task i (R102). -/
def recSeg (img : List Byte) (i : Nat) : Nat := imgLE img (taskOfs img i + 8) 4
/-- A tile that a started timetable has a task for, before the task starts: its next bundle is the task's first (R277,
R283). -/
def assignTile (img : List Byte) (k i : Nat) (t : Tile) : Tile := { clearTile t with tt := k, segs := [recSeg img i, recSeg img i] }
/-- TIMETABLE_START: TC reaches T0: the slot is Running, its tiles are its own, and its compiled channels are commanded by
their owners (R19, R272). The event names the timetable. -/
def execTimetableStart (s : State) : Host.Outcome State Fault Refusal :=
  let k := s.ev.a
  let x := ttOf s k
  if x.st = .armed ∧ (domAt s x.dom).tc = x.t0 then
    let s := (List.range (nTask x.img)).foldl (fun s i => updTile s (taskTile x.img i) (assignTile x.img k i)) (setTt s k { x with st := .running })
    .next ((compiledChans x.img).foldl (fun s p => compileChan s k p) s)
  else .next s
/-- The state of a task at its start (R104): M0 and the accumulation store are kept. -/
def startTile (img : List Byte) (k i T : Nat) (fw : Bool) (t : Tile) : Tile :=
  let seg := recSeg img i
  startFill img T false
    { clearTile t with tt := k, firmware := fw, started := true, next := T, rs := recRs img i, segs := [seg, seg],
                       code := [segWords img seg, []],
                       kb := (List.range (recNkb img i)).foldl (fun b j => tabSet 0 b j (BitVec.ofNat 32 (imgLE img (recOkb img i + 4 * j) 4))) [],
                       sh := (List.range (recNsh img i)).foldl (fun b j => tabSet Shape.none b j (imgShape img (recOsh img i + 64 * j))) [] }
/-- TASK_START (R104). The event names the tile, the timetable and the task record. -/
def execTaskStart (s : State) : Host.Outcome State Fault Refusal :=
  let id := s.ev.a
  let k := s.ev.b
  let x := ttOf s k
  if x.st = .running ∧ taskTile x.img s.ev.c = id ∧ (domAt s x.dom).tc = x.t0 + taskStart x.img s.ev.c then
    .next (updTile s id (startTile x.img k s.ev.c (domAt s x.dom).tc x.firmware))
  else .next s

/-! ## Digests (R351, R352) -/

/-- Every M2 access that the domain's tiles issued before a cycle has performed. -/
def doneBefore (s : State) (d c : Nat) : Bool :=
  (domTiles s d).all (fun id => (tileOf s id).out.all (fun x => x.m1 || isFence x || x.done || decide (c ≤ x.issue)))
/-- The bytes of a line of a region, as the partition maps it; the place that they stand at. -/
def lineBytes (s : State) (l : DigLine) : List Byte :=
  match pageOf s l.part l.va with
  | some g => (List.range 64).map (fun i => physByte s (placeOf g l.va + i))
  | none => List.replicate 64 0
def lineTouch (s : State) (l : DigLine) : List Touch :=
  match pageOf s l.part l.va with
  | some g => [⟨placeOf g l.va, 64, false⟩]
  | none => []
/-- The name of an exchange's digest engines at an issuer. -/
def digWho (e : Exch) : Who := .digest e.tt e.joint
/-- What the engines read now: lines in order, up to the first whose channel is not there for them (R18, R351). -/
def readLines (s : State) (w : Who) : List DigLine → List Byte
  | [] => []
  | l :: r => if servedAll s w none (lineTouch s l) then lineBytes s l ++ readLines s w r else []
/-- The bytes of one die's regions among what the engines have read. -/
def dieBytes (die : Nat) : List DigLine → List Byte → List Byte
  | [], _ => []
  | l :: r, bs => if l.die = die then bs.take 64 ++ dieBytes die r (bs.drop 64) else dieBytes die r (bs.drop 64)
/-- The digests of all dies of a timetable's partitions, with the TTID and the joint number (R351). -/
def digestMsg (s : State) (k joint : Nat) (bs : List Byte) : List Byte :=
  leBytes (ttOf s k).ttid.toNat 8 ++ leBytes joint 2 ++ (List.range 6).flatMap (fun die =>
    leBytes (Config.shake256 (dieBytes die (digestLines s k) bs)).toNat 32)
/-- The peers of a timetable's partitions: device and partition, by their replica records (R351). -/
def peersOf (s : State) (k : Nat) : List (Nat × Nat) :=
  (ttOf s k).parts.filterMap (fun p => (partAt s p).rep.map (fun r => (r.1, r.2.1)))
/-- The exchange of a joint of a timetable. -/
def exchOf (s : State) (d joint k : Nat) (p : Exch → Bool) : Option Exch :=
  s.exchs.find? (fun e => e.dom = d && e.joint = joint && e.tt = k && p e)
def setExch (e y : Exch) (s : State) : State := { s with exchs := s.exchs.map (fun z => if z = e then y else z) }
/-- DIGEST_JOINT: once the earlier accesses have performed, the engines read the lines of the regions, those of compiled channels in
windows, and then send the digests of the dies to the peers (R18, R351). The event names the domain, the joint and the
timetable. -/
def execDigestJoint (s : State) : Host.Outcome State Fault Refusal :=
  let d := s.ev.a
  match exchOf s d s.ev.b s.ev.c (fun e => e.mine.isNone) with
  | none => .next s
  | some e =>
    if !doneBefore s d e.upTo then .next s
    else
      let got := e.read ++ readLines s (digWho e) (unread s e)
      let s := spend (digWho e) s
      if got.length < 64 * (digestLines s e.tt).length then .next (setExch e { e with read := got } s)
      else
        let m := digestMsg s e.tt e.joint got
        .next (send (.digests d (peersOf s e.tt) m) (setExch e { e with mine := some m, read := got } s))
/-- The cycle by which an exchange must be complete: that of the next defined joint (R352). -/
def exchLimit (s : State) (e : Exch) : Option Nat :=
  let x := ttOf s e.tt
  (nextJoint x.img (e.upTo - x.t0)).map (· + x.t0)
/-- The exchanges whose time is over at TC: their next joint is reached, or their timetable has nothing else left (R20,
R352). -/
def dueExchs (s : State) (d : Nat) : List Exch :=
  s.exchs.filter (fun e => e.dom = d && (exchLimit s e == some (domAt s d).tc || ttDone s e.tt))
/-- The domain that waits for exchanges goes on when every one is complete and equal, and records cause 0x17 when one shows a
difference. -/
def digestWait (s : State) (d : Nat) : State :=
  let x := domAt s d
  let due := dueExchs s d
  if !(x.frozen && x.digest) then s
  else if due.any (fun e => e.done && !e.equal) then
    reportDiv d { setDom (trapAll s d 0x17) d { x with digest := false } with
      snaps := s.snaps.filter (fun n => n.dom ≠ d), exchs := s.exchs.filter (fun e => !(due.contains e && e.done)) }
  else if due.all (·.done) then resumeDom { setDom s d { x with digest := false } with exchs := s.exchs.filter (fun e => !due.contains e) } d
  else s
/-- DIGEST_EXCHANGE_DONE: the peer's digests arrive and are compared (R352). The event names the domain, the joint and the timetable,
and carries the peer's digests. -/
def execDigestExchangeDone (s : State) : Host.Outcome State Fault Refusal :=
  let d := s.ev.a
  match exchOf s d s.ev.b s.ev.c (fun e => e.mine.isSome && !e.done) with
  | none => .next s
  | some e =>
    let eq := decide (e.mine = some s.ev.bytes)
    .next (digestWait (setExch e { e with done := true, equal := eq } s) d)
/-- DIGEST_DEADLINE: TC has reached the next defined joint: a difference that is known freezes the domain with cause 0x17,
an exchange that is not complete with cause 0 (R352). The event names the domain. -/
def execDigestDeadline (s : State) : Host.Outcome State Fault Refusal :=
  let d := s.ev.a
  let x := domAt s d
  let due := s.exchs.filter (fun e => e.dom = d && exchLimit s e == some x.tc)
  let rest := s.exchs.filter (fun e => !(due.contains e && e.done))
  if due.isEmpty || x.frozen then .next s
  else if due.any (fun e => e.done && !e.equal) then .next (reportDiv d (trapAll { s with exchs := rest } d 0x17))
  else if due.any (fun e => !e.done) then .next (setDom s d { x with faulted := true, digest := true })
  else .next { s with exchs := rest }
/-- REPLICA_DECISION: a host's write to the replica control register: abort, or resume, which takes both hosts (R352). The
event names the domain and the host; its flag says resume. -/
def execReplicaDecision (s : State) : Host.Outcome State Fault Refusal :=
  let d := s.ev.a
  let x := domAt s d
  let divided := (domTiles s d).any (fun id => causeOf (tileOf s id) = 0x17)
  if !x.frozen || !divided then .next s
  else if s.ev.flag then .next (resumeDom (setDom s d { x with go := s.ev.b :: x.go }) d)
  else .next (setDom s d { x with doomed := true })
/-- REPLICA_RECORD_WRITE: the host pairs a partition with a partition of a peer device, while its slots are Empty, on a device whose
firmware has verified (R343, R351). The event names the partition, the peer device and its partition; the list holds the regions. -/
def execReplicaRecordWrite (s : State) : Host.Outcome State Fault Refusal :=
  let p := s.ev.a
  let l := s.ev.list
  let ok := decide (l.length ≤ 16) && l.all (fun r => decide (r.1 < 6 ∧ r.2.1 % 64 = 0 ∧ r.2.2 % 64 = 0))
  if s.hc.locked || p ≥ 24 || (slotTt s p 0).isSome || (slotTt s p 1).isSome || !ok then .next s
  else .next (setPart s p { partAt s p with rep := some (s.ev.b, s.ev.c, l) })

end Sys2Proof.Machine
end

