-- ==== Sys2Proof/Machine/Harbour.lean ====
section
/-! DEFINITION. The Harbour complex (R13, R14, R22, R244 to R247, R297, R337 to R346, R354): bring-up and warm reset, run
lists, capabilities, fatal errors and the dump, keys, quotes, lane repair, and the side band. -/

namespace Sys2Proof.Machine

/-! ## Reset (R22, R243 to R246, R343, R354) -/

/-- The entry of a dead spare: it stands for spare k of a die under the number 768 + 4·die + k (R13; log 10). -/
def deadSpare (die h : Nat) (x : Nat × Nat × Nat) : Bool := decide (x.1 = 768 + 4 * die + (h - 128))
/-- The dead tiles of a die, from the choice of places: the array tiles, with the physical shaft and host of each, and the spares. -/
def deadOn (l : List (Nat × Nat × Nat)) (die : Nat) : Nat :=
  (l.filter (fun x => decide (x.1 < 768) && x.1 / 128 = die)).length + (l.filter (fun x => decide (768 ≤ x.1) && (x.1 - 768) / 4 = die)).length
/-- The spares of a die that are alive. -/
def sparesOn (l : List (Nat × Nat × Nat)) (die : Nat) : Nat := 4 - (l.filter (fun x => decide (768 ≤ x.1) && (x.1 - 768) / 4 = die)).length
/-- The physical row of a physical tile: the spares stand at the edge of rows 1, 2, 5 and 6 (R13). -/
def physRow (h : Nat) : Nat := if h < 128 then h / 16 else [1, 2, 5, 6].getD (h - 128) 0
/-- A tile that runs alone on a spare, with the spare's shaft (R14, R354). -/
def onSpare (x : Nat × Nat × Nat) : Bool := decide (128 ≤ x.2.2 ∧ x.2.2 < 132) && x.2.1 = x.2.2
/-- The physical tile of a die is live and runs a logical tile of its own. -/
def liveHost (l : List (Nat × Nat × Nat)) (die h : Nat) : Bool :=
  if h < 128 then !l.any (fun y => y.1 = 128 * die + h) else l.any (fun y => y.1 / 128 = die && onSpare y && y.2.2 = h)
/-- A tile that a live host of its own tile's row adopts, with its own shaft (R14, R354). -/
def onHost (l : List (Nat × Nat × Nat)) (x : Nat × Nat × Nat) : Bool :=
  x.2.1 = x.1 % 128 && decide (x.2.2 < 132) && x.2.2 ≠ x.1 % 128 && physRow x.2.2 = x.1 % 128 / 16 && liveHost l (x.1 / 128) x.2.2
/-- A place that R14 allows a dead logical tile, on a live host, and that no other tile takes in the same way; or a dead spare. -/
def placeOk (l : List (Nat × Nat × Nat)) (x : Nat × Nat × Nat) : Bool :=
  if 768 ≤ x.1 then decide (x.1 < 792)
  else (onSpare x && !l.any (deadSpare (x.1 / 128) x.2.2) || onHost l x) &&
    (l.filter (fun y => y.1 / 128 = x.1 / 128 && y.2.2 = x.2.2 && onSpare y = onSpare x)).length = 1
/-- A choice of places that R14 allows: at most 16 dead tiles a die, as many of the array's on live spares as there are. -/
def remapOk (l : List (Nat × Nat × Nat)) : Bool :=
  l.all (placeOk l) && decide ((l.map (·.1)).Nodup) && (List.range 6).all (fun d =>
    decide (deadOn l d ≤ 16) && decide ((l.filter (fun x => x.1 / 128 = d && onSpare x)).length =
      min (l.filter (fun x => x.1 / 128 = d)).length (sparesOn l d)))
/-- A channel's entry as a rebuild publishes it: fabric latencies by the place of its tile, and what its devices' mode
registers make of its fields (R14, R26, R297; log 10). -/
def newTiming (remap : Tab (Nat × Nat)) (ch : Nat) (m : Tab Byte) : Timing :=
  let t := chanTypical ch
  let id := chanOwner ch
  let host := (tabGet (id % 128, id % 128) remap id).2
  let t := if host = id % 128 then t else { t with fabrd := Config.fabric ch host false, fabwr := Config.fabric ch host true }
  if m.isEmpty then t
  else { t with fields := (List.range 18).map (Config.modeField ch m), tret := Config.modeField ch m 18 }
/-- The discovery table is built anew: EPOCH increments; the places of dead tiles are the Harbour complex's choice, and the
table keeps the former ones when R14 does not allow the choice (R14, R22, R354; log 10). -/
def rebuildDisc (d : Disc) (chans : Tab Chan) (l : List (Nat × Nat × Nat)) : Disc :=
  let d := { d with epoch := (d.epoch + 1) % 2 ^ 64 }
  let d := if remapOk l then
      { d with remap := (l.filter (fun x => decide (x.1 < 768))).foldl (fun t x => tabSet (x.1 % 128, x.1 % 128) (tabDel t x.1) x.1 x.2) [],
               dead := (List.range 6).map (deadOn l),
               slice := if (List.range 6).any (fun k => decide (deadOn l k ≥ 5)) then 2 else 1 }
    else d
  { d with chans := (List.range 816).foldl (fun t ch => tabSet (chanTypical ch) t ch
      (newTiming d.remap ch (tabGet Chan.idle chans ch).mode)) [] }
/-- What both resets do to the shafts: storage mode, beat state at its reset values, PX96 empty (R244, R249). -/
def resetHalves (keep : Bool) (h : Tab Half) : Tab Half :=
  if keep then (h.map (fun p => (p.1, { Half.reset with bytes := p.2.bytes }))).filter (fun p => p.2 != Half.reset) else []
/-- What stays of a tile at warm reset: M0 (log 1); the accumulation store is empty (R249). -/
def resetTiles (t : Tab Tile) : Tab Tile :=
  (t.map (fun p => (p.1, { Tile.reset with m0 := p.2.m0 }))).filter (fun p => p.2 != Tile.reset)
/-- Every timetable goes to Aborted, and its record shows it (R341, R346). -/
def abortAll (s : State) : State := abortTts s (s.tts.map (·.1))
/-- Posted writes that wait are made: every channel is open (R18). -/
def flushPosted (s : State) : State :=
  s.waiting.foldl (fun s w => if w.i = .cxlMemAccess ∧ w.x.c = 1 then { s with mem := storeBytes s.mem w.x.a w.x.bytes } else s) s
/-- The channels after a reset: idle, with the mode registers of their devices. -/
def resetChans (c : Tab Chan) : Tab Chan :=
  (c.map (fun p => (p.1, { Chan.idle with mode := p.2.mode }))).filter (fun p => p.2 != Chan.idle)
/-- Warm reset: every timetable is aborted, array bits stay, SMAP is reloaded, the repair registers are cleared until
firmware restores them, the discovery table is rebuilt; queue and partition registers take their reset values (R22, R244
to R246, R324, R349). -/
def warm (l : List (Nat × Nat × Nat)) (s : State) : State :=
  let s := flushPosted (abortAll s)
  { s with agenda := [], ckpt := none, tiles := resetTiles s.tiles, halves := resetHalves true s.halves, vreps := [],
           chans := resetChans s.chans, caches := [], tts := [], doms := [], eps := [], snaps := [], exchs := [], moves := [], queues := [],
           parts := s.parts.map (fun p => (p.1, { Partn.reset with keys := p.2.keys })),
           disc := rebuildDisc s.disc s.chans l, waiting := [], grants := [],
           hc := { s.hc with halted := false, dying := false, restored := false, badLanes := [], lost := [], runs := [] } }
/-- WARM_RESET (R244). The event's list holds the places of the dead tiles. -/
def execWarmReset (s : State) : Host.Outcome State Fault Refusal := .next (warm s.ev.list s)

/-- A measurement register extended by the digest of a stage (R343). -/
def extendM (m : BitVec 256) (img : List Byte) : BitVec 256 :=
  Config.shake256 (leBytes m.toNat 32 ++ leBytes (Config.shake256 img).toNat 32)
/-- A stage's image verifies: it is signed under a public key whose digest the stage before it has, the ROM's in fuses (R343). -/
def stageOk (d : BitVec 256) (img : List Byte) : Bool :=
  let x := Config.stageParts img
  decide (Config.shake256 x.1 = d) && Config.falconVerify x.1 x.2.1 x.2.2
/-- The stages after the ROM run one after another while each verifies under the digest that the one before it has: the registers, and
whether a stage failed (R343). -/
def laterStages : BitVec 256 → List (List Byte) → List (BitVec 256) × Bool
  | _, [] => ([], false)
  | d, img :: r =>
    if !stageOk d img then ((img :: r).map (fun _ => 0), true)
    else
      let x := laterStages (Config.nextDigest img) r
      (extendM 0 img :: x.1, x.2)
/-- The boot: the ROM, which is not verified, and then the stages (R343). -/
def bootStages (fuse : BitVec 256) : List (List Byte) → List (BitVec 256) × Bool
  | [] => ([], false)
  | rom :: r =>
    let x := laterStages fuse r
    (extendM 0 rom :: x.1, x.2)
/-- Bring-up: what power-on leaves, then the boot (R22, R343). What stands outside the device, the fused records and the
firmware images stay; the boot ROM holds the one capability (R339). -/
def cold (l : List (Nat × Nat × Nat)) (s : State) : State :=
  let b := bootStages s.hc.fuse s.hc.stages
  { State.reset with
    free := s.free, inputs := s.inputs, smaps := s.smaps, fused := s.fused, pages := s.pages, temps := s.temps, lanes := s.lanes, ports := s.ports,
    out := s.out, mem := s.mem.filter (fun c => decide (2 ^ 64 ≤ c.1)), disc := rebuildDisc s.disc s.chans l,
    hc := { Harbour.reset with stages := s.hc.stages, fuse := s.hc.fuse, meas := (b.1 ++ [0, 0, 0, 0]).take 4, locked := b.2 } }
/-- BRING_UP (R343). The event's list holds the places of the dead tiles. -/
def execBringUp (s : State) : Host.Outcome State Fault Refusal := .next (cold s.ev.list s)

/-! ## Run lists (R337) -/

/-- The queues of the process whose turn it is. -/
def turnQueues (r : RunList) : List Nat := ((r.procs[r.turn]?).map (·.queues)).getD []
/-- The timetables that a process has launched: their records were named by its queues. -/
def procTtsOf (s : State) (qs : List Nat) : List TT := (s.tts.map (·.2)).filter (fun x => x.record.any (fun r => qs.contains r.1))
/-- The domains of a process. -/
def procDoms (s : State) (qs : List Nat) : List Nat := (((procTtsOf s qs).filter isActive).map (·.dom)).eraseDups
/-- RUN_LIST_TURN: the current process's queues are mapped, and its Frozen domains resume. The event names the run
list. -/
def execRunListTurn (s : State) : Host.Outcome State Fault Refusal :=
  match s.hc.runs[s.ev.a]? with
  | none => .next s
  | some r =>
    if r.ending then .next s
    else
      let qs := turnQueues r
      let s := qs.foldl (fun s q => updQueue s q (fun y => { y with mapped := true })) s
      .next ((procDoms s qs).foldl (fun s d =>
        let x := domAt s d
        if x.preempted then resumeDom (setDom s d { x with preempted := false }) d else s) s)
/-- The command that waits for a window is a CWAIT, before its first read. -/
def isCwait (x : Queue) : Bool := decide (decodeCmd x.ir = some .cwait)
/-- A queue is stopped, waits in a CWAIT, or waits for a slot or its stamp (R325, R337). -/
def queueIdle (x : Queue) : Bool :=
  x.st ≠ 1 || (match x.wait with | .poll .. => true | .window => isCwait x | .none => x.line.isNone | _ => false)
/-- A command of the queue is in progress that is no CWAIT. -/
def queueBusy (x : Queue) : Bool :=
  match x.wait with
  | .load .. | .copy .. | .move => true
  | .window => !isCwait x
  | _ => false
/-- The process has nothing to do: its turn may end early (R337). -/
def procIdle (s : State) (qs : List Nat) : Bool :=
  qs.all (fun q => queueIdle (queueAt s q)) && (procTtsOf s qs).all (fun x => x.st != .armed && x.st != .running)
/-- The run lists with one of them changed. -/
def setRun (s : State) (i : Nat) (r : RunList) : State := { s with hc := { s.hc with runs := s.hc.runs.set i r } }
/-- The queues are unmapped, and the next entry has its turn. -/
def endTurn (s : State) (i : Nat) (r : RunList) : State :=
  let s := (turnQueues r).foldl (fun s q => updQueue s q (fun y => { y with mapped := false })) s
  setRun s i { r with ending := false, turn := if r.procs.length = 0 then 0 else (r.turn + 1) % r.procs.length }
/-- QUANTUM_EXPIRY: at the end of the quantum, or with the event's flag earlier when the process has nothing to do, the
process's domains freeze with cause 0; once no command but a suspended CWAIT is in progress, its queues are unmapped and
the next entry has its turn (R337). The event names the run list. -/
def execQuantumExpiry (s : State) : Host.Outcome State Fault Refusal :=
  let i := s.ev.a
  match s.hc.runs[i]? with
  | none => .next s
  | some r =>
    let qs := turnQueues r
    if s.ev.flag && !r.ending && !procIdle s qs then .next s
    else
      let s := if r.ending then s else (procDoms s qs).foldl (fun s d =>
        let x := domAt s d
        setDom s d { x with preempted := true, faulted := x.faulted || !x.frozen }) s
      if qs.any (fun q => queueBusy (queueAt s q)) then .next (setRun s i { r with ending := true }) else .next (endTurn s i r)

/-! ## Fatal errors (R341, R342) -/

/-- The dump of a fatal error. -/
def dumpOf (kind core cause : Nat) (fpc : Word) (cap : BitVec 128) (tag : Bool) (size addr : Nat) : Dump :=
  { kind := kind, core := core, cause := cause, fpc := fpc, fcap := cap, ftag := tag, fsize := size, faddr := addr, len := 0 }
/-- A fatal error begins: every domain freezes with cause 0, every queue goes to STATE 0, no command is accepted until a
warm reset (R341). One that is being handled goes on. -/
def fatal (d : Dump) (s : State) : State :=
  if s.hc.dying then s
  else
    let s := (s.doms.map (·.1)).foldl (fun s k => setDom s k { domAt s k with faulted := (domAt s k).faulted || !(domAt s k).frozen }) s
    { s with queues := s.queues.map (fun q => (q.1, { q.2 with en := false, st := 0, wait := .none, mapped := true })),
             hc := { s.hc with halted := true, dying := true, dump := some d } }
/-- An entry of the error log: 32 bytes (log 29). -/
def logBytes (e : LogEnt) : List Byte :=
  match e with
  | .corrected w => pack [(1, 8), (w, 8), (0, 16)]
  | .badRepair s i => pack [(2, 8), (s, 8), (i, 16)]
  | .repaired s i l => pack [(3, 8), (s, 8), (i, 8), (l, 8)]
  | .capFault c => pack [(4, 8), (c, 8), (0, 16)]
  | .other n => pack [(5, 8), (n, 8), (0, 16)]
/-- The bytes of the discovery table (R23). -/
def discImage (s : State) : List Byte := (List.range (Config.discOfs 3 + (Config.falconSign []).length)).map (discByte s)
/-- The offsets and lengths of images that stand one after another from `o` on. -/
def imageEntries : Nat → List (List Byte) → List Byte
  | _, [] => []
  | o, x :: r => pack [(o, 8), (x.length, 8)] ++ imageEntries (o + (pad64 x).length) r
/-- The dump's header with its offsets (R342). -/
def dumpHeader (s : State) (d : Dump) (ofsDoms ofsLog loglen ofsSig : Nat) : List Byte :=
  pad64 (pack [(0x504D5544, 4), (1, 2), (s.snaps.length, 2), (s.disc.serial, 8), (s.disc.epoch, 8), (d.kind, 1), (d.core, 1), (d.cause, 1), (0, 5),
    (d.fpc.toNat, 8), (d.fcap.toNat, 16), (bit d.ftag, 1), (0, 3), (d.fsize, 4), (d.faddr, 8), (128, 4), (ofsDoms, 4), (ofsLog, 4), (loglen, 4),
    (ofsSig, 4), (0, 4)])
/-- Bytes 0 to OFS_SIG − 1 of the dump: header, discovery table, entries, images, log. -/
def dumpBody (s : State) (d : Dump) : List Byte :=
  let disc := pad64 (discImage s)
  let imgs := s.snaps.map snapBytes
  let od := 128 + disc.length
  let oi := od + (pad64 (List.replicate (16 * imgs.length) 0)).length
  let im := imgs.flatMap pad64
  let log := s.hc.log.flatMap logBytes
  let ol := oi + im.length
  dumpHeader s d od ol log.length (ol + (pad64 log).length) ++ disc ++ pad64 (imageEntries oi imgs) ++ im ++ pad64 log
/-- Every domain is frozen, and its snapshots are taken. -/
def dumpReady (s : State) : Bool :=
  (s.doms.map (·.1)).all (fun k => (domAt s k).frozen && ((domTts s k isFrozen).isEmpty || s.snaps.any (fun n => n.dom = k)))
/-- The dump is written to its region and signed once every domain is frozen and its snapshots are taken, in place of the
previous one, a compiled channel letting it be written when it is open again; every timetable is Aborted (R18, R341, R342). -/
def finishFatal (s : State) : State :=
  match s.hc.dump with
  | some d =>
    if !dumpReady s then s
    else
      let b := dumpBody s d
      let bs := b ++ Config.falconSign b
      let s := abortAll (postBytes none dumpBase bs s)
      { s with doms := [], hc := { s.hc with dying := false, dump := some { d with len := bs.length } } }
  | none => s
/-- A firmware core, and the state with it changed. -/
def coreAt (s : State) (k : Nat) : HcCore := tabGet HcCore.reset s.hc.cores k
def setCore (s : State) (k : Nat) (c : HcCore) : State := { s with hc := { s.hc with cores := tabSet HcCore.reset s.hc.cores k c } }
/-- A capability register with its tag. -/
def capReg (c : HcCore) (r : Nat) : BitVec 128 × Bool := tabGet (0, false) c.caps r
def setCap (c : HcCore) (r : Nat) (v : BitVec 128 × Bool) : HcCore := { c with caps := tabSet (0, false) c.caps r v }
/-- FATAL_ERROR: an uncorrectable error in firmware memory that an instruction of a core met; or, of a fatal error that has begun, the
dump and the aborts (R341, R342). The event names the core, the access's size and address, and the capability register that it used. -/
def execFatalError (s : State) : Host.Outcome State Fault Refusal :=
  if s.hc.dying then .next (finishFatal s)
  else
    let core := s.ev.a % 4
    let cap := capReg (coreAt s core) s.ev.v.toNat
    .next (fatal (dumpOf 2 core 0x16 (coreAt s core).pc cap.1 cap.2 s.ev.b s.ev.c) s)
/-- WATCHDOG_EXPIRY (R341). -/
def execWatchdogExpiry (s : State) : Host.Outcome State Fault Refusal := .next (fatal (dumpOf 3 0xFF 0 0 0 false 0 0) s)

/-! ## Capabilities (R339, R340) -/

def capKind (c : BitVec 128) : Nat := (c.extractLsb' 124 4).toNat
def capRights (c : BitVec 128) : BitVec 4 := c.extractLsb' 120 4
def capRegion (c : BitVec 128) : Nat := (c.extractLsb' 112 8).toNat
def capGen (c : BitVec 128) : BitVec 8 := c.extractLsb' 104 8
def capBase (c : BitVec 128) : Nat := (c.extractLsb' 48 51).toNat * 64
def capLen (c : BitVec 128) : Nat := (c.extractLsb' 0 48).toNat
/-- The region-table entry of an index. -/
def regionAt (s : State) (k : Nat) : Region := tabGet Region.none s.hc.regions k
/-- The capability is live (R339). -/
def capLive (s : State) (c : BitVec 128) : Bool :=
  let r := regionAt s (capRegion c)
  r.valid && capGen c == r.gen && decide (r.base ≤ capBase c) && decide (capBase c + capLen c ≤ r.base + r.len) &&
    (capRights c &&& r.rights) == capRights c
/-- The kinds of access of firmware. -/
inductive CapOp where
  | read | write | fetch | loadCap | storeCap
  deriving DecidableEq, Repr
/-- The access that a code names. -/
def capOp (n : Nat) : CapOp := match n with | 0 => .read | 1 => .write | 2 => .fetch | 3 => .loadCap | _ => .storeCap
/-- The RIGHTS bits that an access needs. -/
def capNeeds : CapOp → BitVec 4
  | .read => 1
  | .write => 2
  | .fetch => 4
  | .loadCap => 9
  | .storeCap => 10
/-- The bytes of an access: a capability has 16 (R339). -/
def capBytes (op : CapOp) (n : Nat) : Nat := match op with | .loadCap | .storeCap => 16 | .read | .write | .fetch => n
/-- The access performs (R340). -/
def capAllows (s : State) (c : BitVec 128) (tag : Bool) (op : CapOp) (kind o n : Nat) : Bool :=
  tag && capLive s c && (capRights c &&& capNeeds op) == capNeeds op && (kind = 15 || kind = capKind c) && decide (o + n ≤ capLen c)
/-- Clears the tags of the granules that n bytes from a touch. -/
def clearTags (l : List Nat) (a n : Nat) : List Nat := l.filter (fun g => !decide (g * 16 < a + n ∧ a < g * 16 + 16))
/-- Region 0 is firmware memory; other regions lie in physical memory (log 23). -/
def capWrite (s : State) (region a : Nat) (bs : List Byte) (tag : Bool) : State :=
  if region = 0 then
    let t := clearTags s.hc.tags a bs.length
    { s with hc := { s.hc with fw := storeBytes s.hc.fw a bs, tags := if tag && decide (a % 16 = 0) then (a / 16) :: t else t } }
  else { s with mem := storeBytes s.mem a bs }
/-- An integer register of a core; x0 reads 0 and ignores writes. -/
def xReg (c : HcCore) (r : Nat) : Word := if r = 0 then 0 else tabGet 0 c.x r
def setX (c : HcCore) (r : Nat) (v : Word) : HcCore := if r = 0 then c else { c with x := tabSet 0 c.x r v }
/-- The instruction that a core executes (log 23): its core, the capability register, the register of the value, and the
register of the offset. -/
def capCore (x : EvArgs) : Nat := (x.list.headD (0, 0, 0)).1 % 4
def capOf (x : EvArgs) : Nat := (x.list.headD (0, 0, 0)).2.1
def capVal (x : EvArgs) : Nat := (x.list.headD (0, 0, 0)).2.2
def capOff (x : EvArgs) : Nat := (x.list.getD 1 (0, 0, 0)).1
/-- What an access reads: firmware memory in region 0, else physical memory. -/
def capLoad (s : State) (region a n : Nat) : Nat := if region = 0 then loadLE s.hc.fw a n else physLE s a n
/-- The effect of an access that performs at address a, by a core that goes on at `next` (R339). -/
def capDo (op : CapOp) (core r region a n : Nat) (next : Word) (s : State) : State :=
  let c := { coreAt s core with pc := next }
  match op with
  | .read => setCore s core (setX c r (BitVec.ofNat 64 (capLoad s region a n)))
  | .fetch => setCore s core c
  | .write => setCore (capWrite s region a (leBytes (xReg c r).toNat n) false) core c
  | .loadCap =>
    setCore s core (setCap c r (BitVec.ofNat 128 (capLoad s region a 16), decide (region = 0 ∧ a % 16 = 0) && s.hc.tags.contains (a / 16)))
  | .storeCap => setCore (capWrite s region a (leBytes (capReg c r).1.toNat 16) (capReg c r).2) core c
/-- A capability fault of a core: fatal (R340, R341). -/
def capFault (core : Nat) (cap : BitVec 128 × Bool) (size addr : Nat) (s : State) : State :=
  fatal (dumpOf 1 core 0x13 (coreAt s core).pc cap.1 cap.2 size addr) { s with hc := { s.hc with log := s.hc.log ++ [.capFault core] } }
/-- CAP_ACCESS: an access of a firmware core through one of its capabilities performs or raises a capability fault (R339 to
R341); firmware that did not verify is not run (R343). The event holds the access, the size, the expected kind, the core and its registers, and the program counter of
the instruction that follows (log 23). -/
def execCapAccess (s : State) : Host.Outcome State Fault Refusal :=
  let x := s.ev
  let op := capOp x.a
  let core := capCore x
  let c := coreAt s core
  let cap := capReg c (capOf x)
  let o := (xReg c (capOff x)).toNat
  let a := capBase cap.1 + o
  let n := capBytes op x.b
  let region := capRegion cap.1
  if s.hc.locked then .next s
  else if !capAllows s cap.1 cap.2 op x.c o n then .next (capFault core cap n a s)
  else .next (orWait .capAccess (if region = 0 then [] else [⟨a, n, (match op with | .write | .storeCap => true | _ => false)⟩]) (some (2 ^ 16 + core))
    (capDo op core (capVal x) region a n x.v) s)
/-- A derivation narrows (R339). -/
def derives (o n : BitVec 128) : Bool :=
  decide (capBase o ≤ capBase n) && decide (capBase n + capLen n ≤ capBase o + capLen o) && (capRights n &&& capRights o) == capRights n &&
    capRegion n = capRegion o && capGen n == capGen o && (n.extractLsb' 99 5) == 0#5 &&
    (capKind n = capKind o || (capKind o = 0 && !(capRights n).getLsbD 2))
/-- CAP_DERIVE: a core makes a narrower capability from one that it holds, or the derivation faults (R339, R340). The event
holds the new capability, the core with its registers, and the program counter of the instruction that follows. -/
def execCapDerive (s : State) : Host.Outcome State Fault Refusal :=
  let x := s.ev
  let core := capCore x
  let c := coreAt s core
  let cap := capReg c (capOf x)
  if s.hc.locked then .next s
  else if cap.2 && capLive s cap.1 && derives cap.1 x.cap then .next (setCore s core (setCap { c with pc := x.v } (capVal x) (x.cap, true)))
  else .next (capFault core cap 0 0 s)
/-- The region's generation increments: every capability that names it dies (R339). -/
def revoke (s : State) (k : Nat) : State :=
  let r := regionAt s k
  { s with hc := { s.hc with regions := tabSet Region.none s.hc.regions k { r with gen := r.gen + 1 } } }
/-- REGION_REVOKE (R339). The event names the region. -/
def execRegionRevoke (s : State) : Host.Outcome State Fault Refusal := .next (revoke s (s.ev.a % 256))

/-! ## Keys and quotes (R344, R345) -/

/-- KEY_INSTALL: a key with a certificate chain to the Basian root, or signed by a key of the same store (R344). The
event names the partition and the slot, and carries the key, and its chain or signature. -/
def execKeyInstall (s : State) : Host.Outcome State Fault Refusal :=
  let p := s.ev.a
  let key := s.ev.bytes
  let ks := (partAt s p).keys
  if !s.hc.locked ∧ p < 24 ∧ s.ev.b < 8 ∧ (Config.chainOk key s.ev.bytes2 ∨ ks.any (fun k => Config.falconVerify k.2 key s.ev.bytes2)) then
    .next (setPart s p { partAt s p with keys := tabSet [] ks s.ev.b key })
  else .next s
/-- KEY_REMOVE (R344). The event names the partition and the slot. -/
def execKeyRemove (s : State) : Host.Outcome State Fault Refusal :=
  let p := s.ev.a
  if s.hc.locked then .next s else .next (setPart s p { partAt s p with keys := tabDel (partAt s p).keys s.ev.b })
/-- The TTID in a slot of a partition, or 0. -/
def slotTtid (s : State) (p k : Nat) : Nat := match slotTt s p k with | some (_, x) => x.ttid.toNat | none => 0
/-- A quote (R345). -/
def quoteOf (s : State) (nonce : List Byte) : List Byte :=
  let body := nonce ++ leBytes s.disc.serial 8 ++ leBytes s.disc.epoch 8 ++ s.hc.meas.flatMap (fun m => leBytes m.toNat 32) ++
    (List.range 24).flatMap (fun p => [0, 1].flatMap (fun k => leBytes (slotTtid s p k) 8))
  let sig := Config.falconSign body
  body ++ leBytes sig.length 2 ++ sig
/-- ATTESTATION_QUOTE: over CXL.io (R345). The event carries the nonce of 32 bytes. -/
def execAttestationQuote (s : State) : Host.Outcome State Fault Refusal :=
  if s.hc.locked then .next s else .next (send (.quote (quoteOf s s.ev.bytes)) s)

/-! ## Lanes (R245 to R247) -/

/-- LANE_TEST_FAIL: VALID of the interface clears (R247). The event names the shaft, the interface and the lane. -/
def execLaneTestFail (s : State) : Host.Outcome State Fault Refusal :=
  let k := 4 * s.ev.a + s.ev.b % 4
  .next { setVrep s k { vrepAt s k with valid := false } with hc := { s.hc with badLanes := s.hc.badLanes ++ [(s.ev.a, s.ev.b % 4, s.ev.c)] } }
/-- The domains with a tile that met the invalid interfaces of a shaft. -/
def stuckOn (s : State) (shaft : Nat) : List Nat :=
  (s.doms.map (·.1)).filter (fun d => (domTiles s d).any (fun id => (metShafts id (tileOf s id)).any (fun i => shaftKey s i.1 = shaft)))
/-- The interfaces whose fused lanes VREP does not take. -/
def badFused (s : State) : List Nat := (s.fused.filter (fun p => !p.2.all laneOk)).map (·.1)
/-- Firmware copies the fused record into every repair register and sets VALID, but where a lane number is none (R245,
R246). -/
def restoreAll (s : State) : State :=
  { s with vreps := [], hc := { s.hc with restored := true, log := s.hc.log ++ (badFused s).map (fun k => .badRepair (k / 4) (k % 4)) } }
/-- One interface is repaired: a free LANEk receives the failing lane, VALID is set, the repair is logged and the domain
resumes; with no spare free the repair fails, and the interface is lost until a warm reset; a lane number that no lane has
changes nothing and is logged, and so is VALID while a lane holds one (R245, R247). -/
def repairOne (sh i lane : Nat) (s : State) : State :=
  let k := 4 * sh + i
  let v := vrepAt s k
  let s := { s with hc := { s.hc with badLanes := s.hc.badLanes.erase (sh, i, lane) } }
  if !laneOk lane then { s with hc := { s.hc with log := s.hc.log ++ [.badRepair sh i] } }
  else match v.lanes.findIdx? (fun l => l = 0x3FFF) with
    | none => { s with hc := { s.hc with lost := (sh, i) :: s.hc.lost } }
    | some n =>
      let l := v.lanes.set n lane
      if !l.all laneOk then { setVrep s k ⟨false, l⟩ with hc := { s.hc with log := s.hc.log ++ [.badRepair sh i] } }
      else
        let s := { setVrep s k ⟨true, l⟩ with hc := { s.hc with log := s.hc.log ++ [.repaired sh i lane] } }
        (stuckOn s sh).foldl resumeDom s
/-- SHAFT_REPAIR: the Harbour complex repairs an interface with a failing lane, or with the event's flag restores every
repair register from the fused record (R245 to R247). The event names the shaft, the interface and the lane. -/
def execShaftRepair (s : State) : Host.Outcome State Fault Refusal :=
  .next (if s.ev.flag then restoreAll s else repairOne s.ev.a (s.ev.b % 4) s.ev.c s)

/-! ## Side band (R346) -/

/-- n free bytes: contents that the spec does not give (log 25). -/
def freeBytes (s : State) : Nat → List Byte × State
  | 0 => ([], s)
  | n + 1 => let r := drawByte s; let x := freeBytes r.2 n; (r.1 :: x.1, x.2)
/-- A response. -/
def sbSend (cmd : Nat) (data : List Byte) (s : State) : State := send (.sideband cmd data) s
/-- The error response. -/
def sbError (s : State) : State := sbSend 0xFF [] s
/-- A device whose firmware failed to verify answers only inventory, health and reset (R343). -/
def sbWhenRun (s : State) (k : State) : Host.Outcome State Fault Refusal := .next (if s.hc.locked then s else k)
/-- The part number ILN-KY6-M1, as ASCII. -/
def partNumber : List Byte := [0x49, 0x4C, 0x4E, 0x2D, 0x4B, 0x59, 0x36, 0x2D, 0x4D, 0x31]
/-- SB_INVENTORY: serial, part number, firmware measurements, the header of the discovery table. -/
def execSbInventory (s : State) : Host.Outcome State Fault Refusal :=
  .next (sbSend 1 (leBytes s.disc.serial 8 ++ partNumber ++ s.hc.meas.flatMap (fun m => leBytes m.toNat 32) ++
    (List.range 64).map (discByte s)) s)
/-- The state of a slot as a byte: the number of its state in R19. -/
def slotState (s : State) (p k : Nat) : Byte :=
  match slotTt s p k with
  | none => 0
  | some (_, x) => match x.st with | .loaded => 1 | .armed => 2 | .running => 3 | .frozen => 4 | .ended => 5 | .aborted => 6
/-- SB_HEALTH: temperature of each die and stack, power, the states of the timetables, the error-log count. -/
def execSbHealth (s : State) : Host.Outcome State Fault Refusal :=
  let r := freeBytes s 14
  .next (sbSend 2 ((List.range 6).map (fun d => BitVec.ofNat 8 (tabGet 25 s.temps d)) ++ r.1 ++
    (List.range 24).flatMap (fun p => [slotState s p 0, slotState s p 1]) ++ leBytes s.hc.log.length 4) r.2)
/-- SB_DUMP_INFO: dump present, KIND, length. -/
def execSbDumpInfo (s : State) : Host.Outcome State Fault Refusal :=
  sbWhenRun s (match s.hc.dump with
    | some d => if d.len = 0 then sbSend 3 (leBytes 0 10) s else sbSend 3 (pack [(1, 1), (d.kind, 1), (d.len, 8)]) s
    | none => sbSend 3 (leBytes 0 10) s)
/-- SB_DUMP_READ: 1 to 1,024 bytes of the dump, 0 past its end, at once or when a compiled channel lets them be read (R18). The event
gives offset and length. -/
def execSbDumpRead (s : State) : Host.Outcome State Fault Refusal :=
  sbWhenRun s (match s.hc.dump with
    | some d =>
      if s.ev.b = 0 ∨ s.ev.b > 1024 ∨ d.len = 0 then sbError s
      else orWait .sbDumpRead [⟨dumpBase + s.ev.a, min s.ev.b (d.len - s.ev.a), false⟩] none (fun s =>
        sbSend 4 ((List.range s.ev.b).map (fun i => if s.ev.a + i < d.len then byteAt s.mem (dumpBase + s.ev.a + i) else 0)) s) s
    | none => sbError s)
/-- SB_RESET_WARM: the acknowledgement, then warm reset. -/
def execSbResetWarm (s : State) : Host.Outcome State Fault Refusal := .next (warm s.ev.list (sbSend 5 [0] s))
/-- SB_RESET_COLD: the acknowledgement, then every timetable is aborted and the device is brought up. -/
def execSbResetCold (s : State) : Host.Outcome State Fault Refusal := .next (cold s.ev.list (abortAll (sbSend 5 [1] s)))
/-- SB_QUOTE. The event carries the nonce. -/
def execSbQuote (s : State) : Host.Outcome State Fault Refusal := sbWhenRun s (sbSend 6 (quoteOf s s.ev.bytes) s)
/-- SB_DUMP_REQUEST: the acknowledgement, then a fatal error of KIND 4. -/
def execSbDumpRequest (s : State) : Host.Outcome State Fault Refusal :=
  sbWhenRun s (fatal (dumpOf 4 0xFF 0 0 0 false 0 0) (sbSend 7 [] s))
/-- SB_UNKNOWN_COMMAND: an error response, and nothing changes. -/
def execSbUnknownCommand (s : State) : Host.Outcome State Fault Refusal := sbWhenRun s (sbError s)
/-- MCTP_CONTROL_MESSAGE: it is answered; what the answer holds is a free value (log 25). -/
def execMctpControlMessage (s : State) : Host.Outcome State Fault Refusal :=
  let r := freeBytes s 8
  sbWhenRun s (send (.mctp r.1) r.2)

end Sys2Proof.Machine
end

