-- ==== Sys2Proof/Machine/Outside.lean ====
section
/-! DEFINITION. What the host and the links do to the device: registers of queues and partitions (R5, R324, R326, R349),
the CXL link and its memory window (R347, R348), and device links (R350). -/

namespace Sys2Proof.Machine

/-! ## Queue registers (R324, R326) -/

/-- What the host writes reaches a device whose firmware has verified (R343), for a queue that exists (R324). -/
def queueReg (s : State) (k : State) : Host.Outcome State Fault Refusal := .next (if s.hc.locked || decide (s.ev.a ≥ 256) then s else k)
/-- QTAIL_WRITE: the monotonic-maximum rule, in every STATE (R326). The event names the queue and the value. -/
def execQtailWrite (s : State) : Host.Outcome State Fault Refusal :=
  let x := queueAt s s.ev.a
  let v := s.ev.v.toNat
  queueReg s (if v ≤ x.tail then s
    else if v ≤ x.head + x.nslot.toNat then setQueue s s.ev.a { x with tail := v }
    else setQueue s s.ev.a { x with bad08 := true })
/-- The queue as a rise of EN leaves it: HEAD at TAIL, registers and call stack clear (R324). -/
def startQueue (x : Queue) : Queue :=
  { x with en := true, st := 1, head := x.tail, c := [], stack := [], line := none, at_ := .slot 0, wait := .none, err := 0, word := 0, erra := 0 }
/-- The queue as EN = 0 leaves it. -/
def stopQueue (x : Queue) : Queue := { x with en := false, st := 0, line := none, wait := .none, err := 0, word := 0, erra := 0 }
/-- QCTL_EN_WRITE: the queue starts or stops; a device that is halted accepts no commands (R324, R341). The event names the
queue; its flag is EN. -/
def execQctlEnWrite (s : State) : Host.Outcome State Fault Refusal :=
  let x := queueAt s s.ev.a
  queueReg s (if s.ev.flag then (if x.en || s.hc.halted then s else setQueue s s.ev.a (startQueue x))
    else setQueue (spend (.queue s.ev.a) s) s.ev.a (stopQueue x))
/-- STATE of QSTAT: an unmapped queue shows 3 (R324, R337). -/
def qState (x : Queue) : Nat := if x.mapped then x.st else 3
/-- QCTL_SKIP: in STATE 2 the failing slot is skipped, ERR clears and the queue runs (R324). The event names the
queue. -/
def execQctlSkip (s : State) : Host.Outcome State Fault Refusal :=
  let x := queueAt s s.ev.a
  queueReg s (if qState x = 2 then
      setQueue s s.ev.a { x with st := 1, head := (x.head + 1) % 2 ^ 64, err := 0, word := 0, erra := 0, line := none, at_ := .slot 0,
                                 wait := .none }
    else s)

/-! ## Registers without behaviour of their own (R5, R303, R337, R339, R348 to R350) -/

/-- The writable bits of PCFG and of PTROOT (R349). -/
def pcfgMask : Word := 0x800000F800000000
def ptrootMask : Word := 0xFFFFFFFFFFFFF000
/-- A partition register is written while both slots are Empty (R349). -/
def slotsEmpty (s : State) (p : Nat) : Bool := (slotTt s p 0).isNone && (slotTt s p 1).isNone
/-- The partition has no timetable that is Running or Frozen: its berth table may be written (R303). -/
def tableFree (s : State) (p : Nat) : Bool := s.tts.all (fun y => !y.2.parts.contains p || (y.2.st != .running && y.2.st != .frozen))
/-- The index of a share group's run list. -/
def runIdx (s : State) (g : Nat) : Option Nat := s.hc.runs.findIdx? (fun r => r.group = g)
/-- The queues become unmapped. -/
def unmap (qs : List Nat) (s : State) : State := qs.foldl (fun s q => updQueue s q (fun y => { y with mapped := false })) s
/-- A process joins the run list of its group, last; its queues are unmapped until its turn (R337). -/
def addProc (g : Nat) (p : Proc) (s : State) : State :=
  let ok := decide (1 ≤ p.quantum ∧ p.quantum ≤ 1000000) && decide (g < 24) && p.queues.all (fun q => decide (q < 256) && (runOf s q).isNone)
  if !ok then s
  else
    let s := unmap p.queues s
    match runIdx s g with
    | some i => { s with hc := { s.hc with runs := s.hc.runs.modify i (fun r => { r with procs := r.procs ++ [p] }) } }
    | none => { s with hc := { s.hc with runs := s.hc.runs ++ [⟨g, [p], 0, false⟩] } }
/-- A process with nothing to do, or whose turn it is not, leaves its run list: its queues are unmapped and its regions are
revoked, its queue table's among them (R337, R339). -/
def dropProc (g k : Nat) (s : State) : State :=
  match runIdx s g with
  | none => s
  | some i =>
    match s.hc.runs[i]? with
    | none => s
    | some r =>
      match r.procs[k]? with
      | none => s
      | some p =>
        if r.turn = k && !procIdle s p.queues then s
        else
          let n := r.procs.length - 1
          let t := if k < r.turn then r.turn - 1 else r.turn
          let s := ((capRegion p.table :: p.regions).eraseDups).foldl revoke (unmap p.queues s)
          setRun s i { r with procs := r.procs.eraseIdx k, turn := if n = 0 then 0 else t % n, ending := false }
/-- A line of the anchorage tier: an LP6 channel holds it (R11, R26). -/
def onAnchor (k : Nat) : Bool := decide (768 ≤ chanOf (64 * k) ∧ chanOf (64 * k) < 816)
/-- The regions that the window maps: lines of the anchorage tier, at most 1,528 GiB, none in the dump region (R341, R348). -/
def windowOk (l : List (Nat × Nat × Nat)) : Bool :=
  decide ((l.map (·.2.2)).sum ≤ 1528 * 2 ^ 30) && l.all (fun e => !inDump e.2.1 e.2.2 && (linesOf e.2.1 e.2.2).all onAnchor)
/-- The capability of KIND 0 that a region's registration yields: the region's lines with every right that it allows (R339). -/
def regionCap (k : Nat) (r : Region) : BitVec 128 :=
  let b := (r.base + 63) / 64
  0#4 ++ (r.rights ++ (BitVec.ofNat 8 k ++ (r.gen ++ (0#5 ++ (BitVec.ofNat 51 b ++ BitVec.ofNat 48 (min (2 ^ 48 - 1) (r.base + r.len - 64 * b)))))))
/-- A region is registered, and the core that registers it receives its capability (R339; log 23). -/
def addRegion (k core reg : Nat) (r : Region) (s : State) : State :=
  let s := { s with hc := { s.hc with regions := tabSet Region.none s.hc.regions k r } }
  if r.valid then setCore s core (setCap (coreAt s core) reg (regionCap k r, true)) else s
/-- A core executes an instruction of RV64GC that accesses no memory: the event gives the registers that it writes, each with its file
(integer, floating-point or control), its number and its value, and the next pc (R338; log 23). -/
def rvDo (w : Nat × Nat × Nat) (c : HcCore) : HcCore :=
  match w.1 with
  | 0 => setX c (w.2.1 % 32) (BitVec.ofNat 64 w.2.2)
  | 1 => { c with f := tabSet 0 c.f (w.2.1 % 32) (BitVec.ofNat 64 w.2.2) }
  | _ => { c with fcsr := BitVec.ofNat 32 w.2.2 }
/-- REGISTER_WRITE: registers whose write has no further behaviour. The event names the register: of a queue, QBASE, QNSLOT and
QHM while EN is 0 (R324); of a partition, PCFG and PTROOT while its slots are Empty (R349), and TBASE (R303); a destination's
ports in the routing table, and the device's identifier (R350); a process that joins or leaves a run list (R337); a region of
the region table (R339); the images that boot verifies (R343); a firmware timetable in an Empty slot (R48, R246); the regions
that the CXL.mem window maps (R348); the device's identifier (R350); the registers of a firmware core that an instruction writes
(R338). A write to any other register is ignored (log 23). -/
def execRegisterWrite (s : State) : Host.Outcome State Fault Refusal :=
  let k := s.ev.b
  let v := s.ev.v
  let x := queueAt s k
  let open_ := !x.en && decide (k < 256)
  match s.ev.a with
  | 9 => .next { s with hc := { s.hc with stages := s.hc.stages.take k ++ [s.ev.bytes] ++ s.hc.stages.drop (k + 1) } }
  | n =>
    if s.hc.locked then .next s
    else match n with
    | 0 => .next (if open_ then setQueue s k { x with base := v } else s)
    | 1 => .next (if open_ then setQueue s k { x with nslot := v } else s)
    | 2 => .next (if open_ then setQueue s k { x with qhm := v } else s)
    | 3 => .next (if k < 24 ∧ slotsEmpty s k then setPart s k { partAt s k with pcfg := v &&& pcfgMask } else s)
    | 4 => .next (if k < 24 ∧ slotsEmpty s k then setPart s k { partAt s k with ptroot := v &&& ptrootMask } else s)
    | 5 => .next (if k < 64 then { s with routes := s.routes.filter (fun r => r.1 ≠ k) ++ [(k, s.ev.list.map (·.1))] } else s)
    | 6 => .next (if k < 24 ∧ tableFree s k then setPart s k { partAt s k with tbase := v.toNat } else s)
    | 7 => .next (if s.ev.flag then addProc k ⟨s.ev.c, s.ev.list.map (·.1), s.ev.cap, s.ev.bytes.map (·.toNat)⟩ s else dropProc k s.ev.c s)
    | 8 =>
      let e := s.ev.list.headD (0, 0, 0)
      .next (if 0 < k ∧ k < 256 then
        addRegion k (s.ev.c % 4) v.toNat ⟨s.ev.flag, e.1, e.2.1, BitVec.ofNat 4 e.2.2, (regionAt s k).gen⟩ s else s)
    | 10 => .next (if k < 2 ∧ (maskParts s.ev.c).all (fun p => (slotTt s p k).isNone) ∧ residentOk s s.ev.bytes (maskParts s.ev.c) then
        acceptLoad s s.ev.bytes s.ev.c k true else s)
    | 11 => .next (if windowOk s.ev.list then { s with hc := { s.hc with window := s.ev.list } } else s)
    | 12 => .next (if k < 64 then { s with hc := { s.hc with device := k } } else s)
    | 13 => .next (setCore s (k % 4) { s.ev.list.foldl (fun c w => rvDo w c) (coreAt s (k % 4)) with pc := v })
    | _ => .next s

/-! ## CXL (R347, R348) -/

/-- The place that the window maps at an offset: an anchorage region that the Harbour complex assigned to the host (R348). -/
def windowPlace (s : State) (o : Nat) : Option Nat :=
  (s.hc.window.find? (fun e => decide (e.1 ≤ o ∧ o < e.1 + e.2.2))).map (fun e => e.2.1 + (o - e.1))
/-- The places of n bytes of the window: none unless one region holds them all. -/
def windowRun (s : State) (o n : Nat) : Option Nat :=
  match windowPlace s o, windowPlace s (o + n - 1) with
  | some p, some q => if q = p + n - 1 then some p else none
  | _, _ => none
/-- QSTAT of a queue (R324). -/
def qstat (x : Queue) : Nat := x.err % 256 * 2 ^ 8 + x.word % 8 * 4 + qState x
/-- The register at an offset of a queue's page (R324). -/
def qRegRead (x : Queue) (o : Nat) : Nat :=
  match o with
  | 0x000 => if x.en then 1 else 0
  | 0x008 => x.base.toNat
  | 0x010 => x.nslot.toNat
  | 0x018 => x.qhm.toNat
  | 0x020 => x.tail
  | 0x028 => x.head
  | 0x030 => qstat x
  | 0x038 => x.erra.toNat
  | _ => 0
/-- The 64-bit register at an offset of BAR0: partition registers and queue pages; anything else reads 0 (R324, R347,
R349). -/
def bar0Read (s : State) (o : Nat) : Nat :=
  if 0x4000 ≤ o ∧ o < 0x4000 + 16 * 24 then
    let p := partAt s ((o - 0x4000) / 16)
    if o % 16 = 0 then p.pcfg.toNat else if o % 16 = 8 then p.ptroot.toNat else 0
  else if 0x10000 ≤ o ∧ o < 0x10000 + 0x1000 * 256 then qRegRead (queueAt s ((o - 0x10000) / 0x1000)) (o % 0x1000)
  else 0
/-- A host access to the window: it performs, or waits for a window of its channel; one that no region holds finds nothing (R18,
R348; log 25). -/
def hostAccess (s : State) : State :=
  let x := s.ev
  let n := if x.flag then x.bytes.length else x.b
  match windowRun s x.a n with
  | none => s
  | some p => orWait .cxlMemAccess [⟨p, n, x.flag⟩] none (fun s =>
      if x.flag then send (.cxlWriteDone x.a) { s with mem := storeBytes s.mem p x.bytes }
      else send (.cxlRead x.a (loadBytes s.mem p n)) s) s
/-- CXL_MEM_ACCESS: a host access of the CXL.mem window, or a read of BAR0 or of the discovery table in BAR2 (R18, R347, R348);
the same step makes a posted write of an engine that has waited for its channel. The event says which, and holds the offset, the
size and the data; its flag says a write. -/
def execCxlMemAccess (s : State) : Host.Outcome State Fault Refusal :=
  let x := s.ev
  match x.c with
  | 1 => .next (if x.go.isSome then { s with mem := storeBytes s.mem x.a x.bytes } else s)
  | 0 => .next (if s.hc.locked then s else hostAccess s)
  | 2 => .next (if s.hc.locked then s else send (.cxlRead x.a (leBytes (bar0Read s x.a) 8)) s)
  | 3 => .next (if s.hc.locked then s else send (.cxlRead x.a ((List.range x.b).map (fun i => discByte s (x.a + i)))) s)
  | _ => .next s
/-- CXL_LANE_FAIL: with 8 or more failed lanes the link trains down to 8 (R347). The event gives the number of failed
lanes. -/
def execCxlLaneFail (s : State) : Host.Outcome State Fault Refusal := .next (if s.ev.a ≥ 8 then { s with lanes := 8 } else s)

/-! ## Device links (R350) -/

/-- The writes to memory that a peer's flit carries, in order. -/
def flitWrites : List (Nat × Nat × Nat) → Memory → Memory
  | [], m => m
  | (a, v, n) :: r, m => flitWrites r (storeLE m a v n)
/-- The answers to the loads that a flit carries. -/
def flitLoads (dev : Nat) : List (Nat × Nat × Nat) → State → State
  | [], s => s
  | (a, tag, n) :: r, s => flitLoads dev r (send (.linkData dev tag (loadBytes s.mem a n)) s)
/-- LINK_FLIT_RECEIVE: a flit that fails its CRC is replayed by the sender; one that passes delivers its accesses in order, or
waits for a window of their channels, in order with what came from its device before (R18, R350); a device whose firmware did not
verify answers nothing (R343). The event names the port and
the device; its flag says that the CRC passes, its list holds the writes, or the loads, which are answered (log 25). -/
def execLinkFlitReceive (s : State) : Host.Outcome State Fault Refusal :=
  let x := s.ev
  let l := x.list.filter (fun w => !inDump w.1 w.2.2)
  if s.hc.locked then .next s
  else if !x.flag then .next (send (.linkReplay x.a) s)
  else if x.c = 0 then
    .next (orWait .linkFlitReceive (l.map (fun w => ⟨w.1, w.2.2, true⟩)) (some x.b) (fun s => { s with mem := flitWrites l s.mem }) s)
  else .next (orWait .linkFlitReceive (l.map (fun w => ⟨w.1, w.2.2, false⟩)) (some x.b) (flitLoads x.b l) s)
/-- LINK_PORT_FAIL: the port is down; the next port that the routing table lists takes its place (R350). The event names
the port. -/
def execLinkPortFail (s : State) : Host.Outcome State Fault Refusal := .next { s with ports := s.ports.filter (fun p => p ≠ s.ev.a) }
/-- An access has a part that no path delivers. -/
def undelivered (s : State) (id : Nat) (x : Acc) : Bool :=
  x.parts.any (fun p => partOrdered s id x p && (match pageOf s (partOf id) p.va with | some g => !reachable s g | none => false))
/-- LINK_DELIVERY_TIMEOUT: an access that no path delivers within 1 ms is an uncorrectable error of structure 0x7 (R209,
R350). The event names the tile and the access. -/
def execLinkDeliveryTimeout (s : State) : Host.Outcome State Fault Refusal :=
  let id := s.ev.a
  match accOf (tileOf s id) s.ev.b with
  | none => .next s
  | some x =>
    match x.parts.find? (fun p => partOrdered s id x p && (match pageOf s (partOf id) p.va with | some g => !reachable s g | none => false)) with
    | none => .next s
    | some p => .next (accFail x ⟨0x16, 0, 0, BitVec.ofNat 64 p.va⟩ id s)

end Sys2Proof.Machine
end

