-- ==== Sys2Proof/Machine/Issuer.lean ====
section
/-! DEFINITION. The dynamic window issuer of a compiled channel (R18, R91, R280): whose traffic waits for it, the order in which
requests arrive, and its commands, one in a cycle; and the steps of the requesters that it serves. -/

namespace Sys2Proof.Machine

/-! ## The steps of the requesters -/

/-- The steps of one outstanding access. -/
def accWork (s : State) (id : Nat) (x : Acc) : List Work :=
  if x.done then []
  else if x.src.isSome then [evw .berthOpPerform id x.id 0 false]
  else
    (if x.walk then [evw .pageWalkEnd id x.id 0 false] else []) ++
    (if x.m1 && !x.stuck then [evw .remoteShaftPerform id x.id 0 false] else []) ++
    (if isBerth x.op && berthReady s id x then [evw .berthOpPerform id x.id 0 false] else []) ++
    (x.parts.filter (partReady s id x)).map (fun p => evw .m2AccessPerform id x.id p.idx false) ++
    (if undelivered s id x then [evw .linkDeliveryTimeout id x.id 0 false] else [])
/-- The queue's process is at the end of its turn: no further command of the queue begins (R337). -/
def turnOver (s : State) (q : Nat) : Bool := s.hc.runs.any (fun r => r.ending && (turnQueues r).contains q)
/-- The steps of one queue. -/
def queueWork (s : State) (q : Nat) (x : Queue) : List Work :=
  if !x.en || x.st ≠ 1 || !x.mapped then []
  else match x.wait with
    | .none =>
      if turnOver s q then []
      else if x.line.isSome then [.cmd q]
      else if x.bad08 || decide (x.head < x.tail) then [evw .slotExecute q 0 0 false] else []
    | .move | .window => [.cmd q]
    | .copy _ _ left _ => if left > 64 then [.cmd q] else [evw .ccopyComplete q 0 0 false]
    | .load .. => [evw .cttldComplete q 0 0 false]
    | .poll _ _ va _ t _ =>
      (if qServed s q va 8 then [evw .cwaitSatisfied q 0 0 false] else []) ++ (if t.isSome then [evw .cwaitTimeout q 0 0 false] else [])
/-- The steps of one berth move. -/
def moveWork (s : State) (k : Nat) (v : Move) : List Work :=
  if v.state = mvCopy ∧ (mayCommit s k v ∨ mayCopy s k v) then [evw .moveCommit k 0 0 false]
  else if v.state = mvHeld ∧ v.hold = 0 ∧ mayMove s (.move k) (returnTouch s v) then [evw .moveSlotReturn k 0 0 false] else []
/-- Nothing that waits in front of a request goes first. -/
def foremost (s : State) (w : Waiting) : Bool := (s.waiting.takeWhile (fun y => y.n ≠ w.n)).all (fun y => !goesFirst y w.l w.src)
/-- The waiting request goes on, when its lines are there for it and nothing goes first. -/
def inputWork (s : State) (w : Waiting) : List Work :=
  if servedAll s (.input w.n) none w.l && foremost s w then [.ev w.i { w.x with go := some w.n }] else []
/-- The step of an exchange's digest engines, when they can read a line or have read them all (R351). -/
def exchWork (s : State) (e : Exch) : List Work :=
  if e.mine.isNone && doneBefore s e.dom e.upTo &&
      (match unread s e with | l :: _ => servedAll s (digWho e) none (lineTouch s l) | [] => true)
  then [evw .digestJoint e.dom e.joint e.tt false] else []
/-- The steps of a requester. -/
def whoWork (s : State) (w : Who) : List Work :=
  match w with
  | .acc id a _ => match accOf (tileOf s id) a with | some x => accWork s id x | none => []
  | .queue q => queueWork s q (queueAt s q)
  | .input n => match s.waiting.find? (fun y => y.n = n) with | some y => inputWork s y | none => []
  | .move k => moveWork s k (moveAt s k)
  | .digest k n => (s.exchs.filter (fun e => e.tt = k && e.joint = n)).flatMap (exchWork s)

/-! ## What waits for an issuer -/

/-- What the parts of an access that may perform touch at their homes, each under the name of its unit. -/
def accTouch (s : State) (id : Nat) (x : Acc) : List (Who × Touch) :=
  if isBerth x.op then (if berthOrdered s id x then (berthTouch s (partOf id) x.op).map (fun y => (berthWho id x, y)) else [])
  else (x.parts.filter (fun p => !p.done && unitMay s id x p)).flatMap (fun p =>
    match pageOf s (partOf id) p.va with
    | some g =>
      let a := placeOf g p.va
      let l : List Touch := (if x.op = .store then [] else [⟨a, p.len, false⟩]) ++ (if isStAt x.op then [⟨a, p.len, true⟩] else [])
      l.map (fun y => (unitKey s id x p, y))
    | none => [])
/-- What the command in a word of a queue touches (R330, R331, R334, R335). -/
def cmdTouch (s : State) (q : Nat) (x : Queue) : List Touch :=
  match decodeCmd x.ir with
  | some .cliLiteral => (match placeAfter x.at_ 1 with | .buf va => qTouch s q va 8 false | .slot _ => [])
  | some .cld => qTouch s q (cAddr x) (cBytes x) false
  | some .cst => qTouch s q (cAddr x) (cBytes x) true
  | some .cwait => qTouch s q (cA x).toNat 8 false
  | some .csig => qTouch s q (cA x).toNat 8 true
  | some .claunchTc | some .claunchRel | some .claunchJt => qTouch s q (cA x).toNat 32 true
  | some .cdemote | some .cpromote =>
    let p := (irImm x.ir).toNat % 32
    let up := decide (decodeCmd x.ir = some .cpromote)
    moveTouch s p up (moveStatus s.mem (partAt s p).tbase up (cB x) = 0) (cB x)
  | _ => []
/-- What the next step of a queue touches. -/
def queueTouch (s : State) (q : Nat) (x : Queue) : List Touch :=
  if !x.en || x.st ≠ 1 || !x.mapped then []
  else match x.wait with
    | .none =>
      if x.line.isNone then
        (if x.head < x.tail then qTouch s q (slotVa x) 64 false else [])
      else (match x.at_ with | .buf va => qTouch s q va 8 false | .slot _ => []) ++
        (match wordAt s q x.at_ with | some w => cmdTouch s q { x with ir := w } | none => [])
    | .move | .window => cmdTouch s q x
    | .copy dst src _ buf => if buf.isSome then qTouch s q dst 64 true else qTouch s q src 64 false
    | .load _ va _ _ got => qTouch s q (va + got.length) (imageNext got) false
    | .poll _ _ va _ _ _ => qTouch s q va 8 false
/-- What the next step of a move touches. -/
def nextMoveTouch (s : State) (v : Move) : List Touch :=
  if v.state = mvCopy then (if 0 < moveLeft s v then lineTouchOf s v else tableTouch s v) else if v.state = mvHeld ∧ v.hold = 0 then returnTouch s v else []
/-- Everything that somebody waits to read or write. -/
def wants (s : State) : List (Who × Touch) :=
  s.tiles.flatMap (fun t => t.2.out.flatMap (fun x => accTouch s t.1 x)) ++
    s.queues.flatMap (fun q => (queueTouch s q.1 q.2).map (fun y => (.queue q.1, y))) ++
    (s.waiting.filter (foremost s)).flatMap (fun w => w.l.map (fun y => (.input w.n, y))) ++
    s.moves.flatMap (fun v => (nextMoveTouch s v.2).map (fun y => (.move v.1, y))) ++
    s.exchs.flatMap (fun e => if e.mine.isNone && doneBefore s e.dom e.upTo then
      ((unread s e).take 1).flatMap (fun l => (lineTouch s l).map (fun y => (digWho e, y))) else [])
/-- The request with a line more; a line that is read and written has both column commands. -/
def addLine (l : List ReqLine) (r : ReqLine) : List ReqLine :=
  if l.any (fun x => x.bank = r.bank && x.row = r.row && x.col = r.col) then
    l.map (fun x => if x.bank = r.bank ∧ x.row = r.row ∧ x.col = r.col then { x with cols := (x.cols ++ r.cols).eraseDups } else x)
  else l ++ [r]
/-- The lines of one requester are one request. -/
def joinReq (l : List Req) (r : Req) : List Req :=
  if l.any (fun x => x.who == r.who) then
    l.map (fun x => if x.who = r.who then { x with lines := r.lines.foldl addLine x.lines } else x)
  else l ++ [r]
/-- The request for a line. -/
def lineReq (w : Who) (line : Nat) (wr : Bool) : Req := ⟨w, [⟨bankOf (64 * line), rowOfPlace (64 * line), colOfPlace (64 * line), [wr]⟩]⟩
/-- The requests that wait for a channel and have not been served. -/
def chanWants (s : State) (ch : Nat) : List Req :=
  ((wants s).flatMap (fun w => ((linesOf w.2.place w.2.n).filter (fun l => decide (64 * l < 2 ^ 62) && chanOf (64 * l) = ch &&
    !s.grants.contains (w.1, l))).map (fun l => lineReq w.1 l w.2.wr))).foldl joinReq []

/-! ## The issuer (R280) -/

/-- A list that begins at another place. -/
def rotate (n : Nat) (l : List Req) : List Req := l.drop (n % l.length) ++ l.take (n % l.length)
/-- Requests arrive: those that are new join the queue in the cycle in which they are made, in a free order among themselves; those
that nobody makes any more leave it (R91, R280; log 20). -/
def arriveReqs (s : State) (ch : Nat) : State :=
  let c := chanAt s ch
  let w := chanWants s ch
  let q := c.queue.filter w.contains
  let new := w.filter (fun r => !q.contains r && !(match c.serve with | some v => r == v.req | none => false))
  setChan { s with free := s.free + 1 } ch { c with queue := q ++ rotate (Config.free s.free) new }
/-- The column command of a line. -/
def colCmd (l : ReqLine) (wr : Bool) : DCmd := if wr then .wr l.bank l.col else .rd l.bank l.col
/-- The rows of a request, in the order in which they are opened. -/
def reqRows (r : Req) : List (Nat × Nat) := (r.lines.map (fun l => (l.bank, l.row))).eraseDups
/-- The commands of a request: each of its rows in turn is activated, its lines are moved, and its bank is precharged (log 20). -/
def reqCmds (r : Req) : List DCmd :=
  (reqRows r).flatMap (fun p => [.act p.1 p.2] ++
    (r.lines.filter (fun l => l.bank = p.1 && l.row = p.2)).flatMap (fun l => l.cols.map (colCmd l)) ++ [.pre p.1])
/-- A column command. -/
def isCol : DCmd → Bool
  | .rd .. | .wr .. => true
  | _ => false
/-- The first cycle at which nothing binds a later command because of an activate at x. -/
def actEnd (tm : Timing) (f x : Nat) : Nat := x + max (max (field tm f 3) (field tm f 4)) (max (field tm f 5) (field tm f 6))
/-- The same of a column command at x, whose bank is still to be precharged. -/
def colEnd (tm : Timing) (f x : Nat) (wr : Bool) : Nat :=
  let B := field tm f 7
  let l := field tm f (if wr then 13 else 12)
  x + max (max B (field tm f 8)) (max (if wr then field tm f 13 + B + field tm f 11 else 0) (l + B - min (field tm f 12) (field tm f 13)))
/-- The same of a command of a request. -/
def cmdEnd (tm : Timing) (f x : Nat) : DCmd → Nat
  | .act .. => actEnd tm f x
  | .rd .. => colEnd tm f x false
  | .wr .. => colEnd tm f x true
  | _ => x + max (field tm f 1) 1
/-- The cycle at which everything of commands that begin at x is over, each placed as soon as it is legal: the commands, and every
constraint that they place on later commands (R280). -/
def cmdsEnd (tm : Timing) (f : Nat) : List DCmd → Nat → Chan → Nat
  | [], x, _ => x
  | k :: r, x, c =>
    let y := legalFrom tm f c k x
    max (cmdEnd tm f y k) (cmdsEnd tm f r (y + 1) (dApply tm f y true k c))
/-- The line number of a line of a channel. -/
def reqLine (ch : Nat) (l : ReqLine) : Nat := physLine (lineCode ch l.bank l.row l.col)
/-- The request may start at cycle x of a window that ends with cycle e: its banks are precharged, its first activate is legal,
the window is not being closed, and everything ends in it (R280). -/
def mayStart (tm : Timing) (f x e : Nat) (r : Req) (c : Chan) : Bool :=
  c.closed.isNone && r.lines.all (fun l => (bankAt c l.bank).row.isNone) &&
    (match reqCmds r with | k :: _ => (dViol tm f c x k).isNone | [] => true) && decide (cmdsEnd tm f (reqCmds r) x c ≤ e + 1)
/-- Another requester still has to use a line that was moved for it and that the request names: the request waits, since its data
come after (R91). -/
def lineHeld (s : State) (ch : Nat) (r : Req) : Bool :=
  r.lines.any (fun l => s.grants.any (fun g => g.1 ≠ r.who && g.2 = reqLine ch l))
/-- A command of the issuer on its channel. -/
def issuerDo (s : State) (ch x : Nat) (k : DCmd) (c : Chan) : State :=
  setChan s ch (dApply (timingOf s ch) (chanFactor s c) x true k c)
/-- The last column command has moved the request's lines: the requester uses them in the same cycle, when it has all that it waits
for. -/
def grantLines (ch : Nat) (r : Req) (s : State) : State :=
  if (chanWants s ch).contains r then
    let s := { s with grants := s.grants ++ r.lines.map (fun l => (r.who, reqLine ch l)) }
    before (whoWork s r.who) s
  else s
/-- The issuer places the next command of a request, when it is legal; its data are there with its last column command. -/
def serveCmd (s : State) (ch x : Nat) (c : Chan) (r : Req) : List DCmd → State
  | [] => s
  | k :: rest =>
    if (dViol (timingOf s ch) (chanFactor s c) c x k).isSome then s
    else
      let s := issuerDo s ch x k { c with serve := if rest.isEmpty then none else some ⟨r, rest⟩ }
      if isCol k && !rest.any isCol then grantLines ch r s else s
/-- The command of a cycle x inside a window that ends with cycle e: the next command of the request that is served, or the first
of the first request in the queue, as soon as it is legal (R91, R280; log 20). -/
def issuerCmd (s : State) (ch x e : Nat) : State :=
  let c := chanAt s ch
  match c.serve with
  | some v => serveCmd s ch x c v.req v.rest
  | none =>
    match c.queue with
    | r :: q =>
      if mayStart (timingOf s ch) (chanFactor s c) x e r c && !lineHeld s ch r then serveCmd s ch x { c with queue := q } r (reqCmds r) else s
    | [] => s
/-- WINDOW_ISSUER_COMMAND: the issuer of a compiled channel takes up the requests that have arrived, and places its command of
the cycle inside a window (R280). The event names the channel. -/
def execWindowIssuerCommand (s : State) : Host.Outcome State Fault Refusal :=
  let ch := s.ev.a
  match (chanAt s ch).comp with
  | none => .next s
  | some tt =>
    let d := domAt s (ttOf s tt).dom
    if d.frozen then .next s
    else
      let s := arriveReqs s ch
      match (chanAt s ch).win with
      | some (a, e) => if a ≤ d.tc ∧ d.tc ≤ e then .next (issuerCmd s ch d.tc e) else .next s
      | none => .next s

end Sys2Proof.Machine
end

