-- ==== Sys2Proof/Machine/Predicate.lean ====
section
/-! DEFINITION. Predicate words: comparisons (R122) and predicate logic (R123). Each writes a predicate at issue + 1 (R119). -/

namespace Sys2Proof.Machine

/-- The comparison .eq (R122). -/
def cmpEq (x y : Word) : Bool := decide (x = y)
/-- The comparison .ne (R122). -/
def cmpNe (x y : Word) : Bool := decide (x ≠ y)
/-- The comparison .lt (R122). -/
def cmpLt (x y : Word) : Bool := decide (x.slt y = true)
/-- The comparison .ge (R122). -/
def cmpGe (x y : Word) : Bool := decide (x.slt y = false)
/-- The comparison .ltn (R122). -/
def cmpLtn (x y : Word) : Bool := decide (x < y)
/-- The comparison .gen (R122). -/
def cmpGen (x y : Word) : Bool := decide (¬ x < y)
/-- PCMP.eq: sa = y (R122). -/
def execPcmpEq (d : PredN) (a b : Reg) (s : State) : Host.Outcome State Fault Refusal :=
  sCmp s [a, b] d 1 (cmpEq (rdReg (me s) a) (rdReg (me s) b))
/-- PCMP.eq with a value (R46, R122). -/
def execPcmpEqSl (d : PredN) (a : Reg) (v : Val) (s : State) : Host.Outcome State Fault Refusal :=
  sCmp s [a] d 1 (cmpEq (rdReg (me s) a) (val64 (me s) v))
/-- PCMP.ne: sa ≠ y (R122). -/
def execPcmpNe (d : PredN) (a b : Reg) (s : State) : Host.Outcome State Fault Refusal :=
  sCmp s [a, b] d 1 (cmpNe (rdReg (me s) a) (rdReg (me s) b))
/-- PCMP.ne with a value (R46, R122). -/
def execPcmpNeSl (d : PredN) (a : Reg) (v : Val) (s : State) : Host.Outcome State Fault Refusal :=
  sCmp s [a] d 1 (cmpNe (rdReg (me s) a) (val64 (me s) v))
/-- PCMP.lt: signed sa < y (R122). -/
def execPcmpLt (d : PredN) (a b : Reg) (s : State) : Host.Outcome State Fault Refusal :=
  sCmp s [a, b] d 1 (cmpLt (rdReg (me s) a) (rdReg (me s) b))
/-- PCMP.lt with a value (R46, R122). -/
def execPcmpLtSl (d : PredN) (a : Reg) (v : Val) (s : State) : Host.Outcome State Fault Refusal :=
  sCmp s [a] d 1 (cmpLt (rdReg (me s) a) (val64 (me s) v))
/-- PCMP.ge: signed sa ≥ y (R122). -/
def execPcmpGe (d : PredN) (a b : Reg) (s : State) : Host.Outcome State Fault Refusal :=
  sCmp s [a, b] d 1 (cmpGe (rdReg (me s) a) (rdReg (me s) b))
/-- PCMP.ge with a value (R46, R122). -/
def execPcmpGeSl (d : PredN) (a : Reg) (v : Val) (s : State) : Host.Outcome State Fault Refusal :=
  sCmp s [a] d 1 (cmpGe (rdReg (me s) a) (val64 (me s) v))
/-- PCMP.ltn: unsigned sa < y (R122). -/
def execPcmpLtn (d : PredN) (a b : Reg) (s : State) : Host.Outcome State Fault Refusal :=
  sCmp s [a, b] d 1 (cmpLtn (rdReg (me s) a) (rdReg (me s) b))
/-- PCMP.ltn with a value (R46, R122). -/
def execPcmpLtnSl (d : PredN) (a : Reg) (v : Val) (s : State) : Host.Outcome State Fault Refusal :=
  sCmp s [a] d 1 (cmpLtn (rdReg (me s) a) (val64 (me s) v))
/-- PCMP.gen: unsigned sa ≥ y (R122). -/
def execPcmpGen (d : PredN) (a b : Reg) (s : State) : Host.Outcome State Fault Refusal :=
  sCmp s [a, b] d 1 (cmpGen (rdReg (me s) a) (rdReg (me s) b))
/-- PCMP.gen with a value (R46, R122). -/
def execPcmpGenSl (d : PredN) (a : Reg) (v : Val) (s : State) : Host.Outcome State Fault Refusal :=
  sCmp s [a] d 1 (cmpGen (rdReg (me s) a) (val64 (me s) v))
/-- PLOG.and (R123). -/
def execPlogAnd (d a b : PredN) (s : State) : Host.Outcome State Fault Refusal :=
  sCmp s [] d 1 (rdPred (me s) a && rdPred (me s) b)
/-- PLOG.or (R123). -/
def execPlogOr (d a b : PredN) (s : State) : Host.Outcome State Fault Refusal :=
  sCmp s [] d 1 (rdPred (me s) a || rdPred (me s) b)
/-- PLOG.xor (R123). -/
def execPlogXor (d a b : PredN) (s : State) : Host.Outcome State Fault Refusal :=
  sCmp s [] d 1 (rdPred (me s) a != rdPred (me s) b)
/-- PLOG.andn (R123). -/
def execPlogAndn (d a b : PredN) (s : State) : Host.Outcome State Fault Refusal :=
  sCmp s [] d 1 (rdPred (me s) a && !rdPred (me s) b)
/-- PSET: sa ≠ 0 (R123). -/
def execPset (d : PredN) (a : Reg) (s : State) : Host.Outcome State Fault Refusal := sCmp s [a] d 1 (decide (rdReg (me s) a ≠ 0))

end Sys2Proof.Machine
end

