-- ==== Sys2Proof/Machine/Scalar.lean ====
section
/-! DEFINITION. Integer words of group A, their literal forms, and the immediate forms (R120, R121): each writes its result at issue + 1, a product at issue + 3 (R119). -/

namespace Sys2Proof.Machine

/-- The high half of the signed product (R120). -/
def mulHi (a b : Word) : Word := (a.signExtend 128 * b.signExtend 128).extractLsb' 64 64
/-- The high half of the unsigned product (R120). -/
def mulHiN (a b : Word) : Word := (a.zeroExtend 128 * b.zeroExtend 128).extractLsb' 64 64
def andNot (a b : Word) : Word := a &&& ~~~b
/-- A shift count: bits [5:0] (R120). -/
def sh6 (b : Word) : Nat := b.toNat % 64
def shlBy (a b : Word) : Word := a <<< sh6 b
def shrBy (a b : Word) : Word := a >>> sh6 b
def sraBy (a b : Word) : Word := a.sshiftRight (sh6 b)
def rotlBy (a b : Word) : Word := a.rotateLeft (sh6 b)
def minS (a b : Word) : Word := if a.slt b then a else b
def maxS (a b : Word) : Word := if a.slt b then b else a
def minN (a b : Word) : Word := if a < b then a else b
def maxN (a b : Word) : Word := if a < b then b else a
/-- The sum as a canonical 57-bit address (R120). -/
def addA (a b : Word) : Word := ((a + b).extractLsb' 0 57).signExtend 64
/-- The number of leading zero bits (R120). -/
def clz64 (a : Word) : Word := BitVec.ofNat 64 (if a = 0 then 64 else 63 - Nat.log2 a.toNat)
/-- The number of one bits (R120). -/
def popc64 (a : Word) : Word := BitVec.ofNat 64 (ones a.toNat 64)

/-- NOP: ADD a0, a0, a0, without effect (R37). -/
def execNop (s : State) : Host.Outcome State Fault Refusal := .next s
/-- ADD: sa + y (R120). -/
def execAdd (d a b : Reg) (s : State) : Host.Outcome State Fault Refusal := sBin s d a b 1 (· + ·)
/-- SUB: sa − y (R120). -/
def execSub (d a b : Reg) (s : State) : Host.Outcome State Fault Refusal := sBin s d a b 1 (· - ·)
/-- MUL: the low half of the product (R120). -/
def execMul (d a b : Reg) (s : State) : Host.Outcome State Fault Refusal := sBin s d a b 3 (· * ·)
/-- MULH: the high half of the signed product (R120). -/
def execMulh (d a b : Reg) (s : State) : Host.Outcome State Fault Refusal := sBin s d a b 3 mulHi
/-- MULHN: the high half of the unsigned product (R120). -/
def execMulhn (d a b : Reg) (s : State) : Host.Outcome State Fault Refusal := sBin s d a b 3 mulHiN
/-- AND: sa AND y (R120). -/
def execAnd (d a b : Reg) (s : State) : Host.Outcome State Fault Refusal := sBin s d a b 1 (· &&& ·)
/-- OR: sa OR y (R120). -/
def execOr (d a b : Reg) (s : State) : Host.Outcome State Fault Refusal := sBin s d a b 1 (· ||| ·)
/-- XOR: sa XOR y (R120). -/
def execXor (d a b : Reg) (s : State) : Host.Outcome State Fault Refusal := sBin s d a b 1 (· ^^^ ·)
/-- ANDN: sa AND NOT y (R120). -/
def execAndn (d a b : Reg) (s : State) : Host.Outcome State Fault Refusal := sBin s d a b 1 andNot
/-- SHL: sa shifted left by y[5:0] (R120). -/
def execShl (d a b : Reg) (s : State) : Host.Outcome State Fault Refusal := sBin s d a b 1 shlBy
/-- SHR: sa shifted right logically (R120). -/
def execShr (d a b : Reg) (s : State) : Host.Outcome State Fault Refusal := sBin s d a b 1 shrBy
/-- SRA: sa shifted right arithmetically (R120). -/
def execSra (d a b : Reg) (s : State) : Host.Outcome State Fault Refusal := sBin s d a b 1 sraBy
/-- ROTL: sa rotated left (R120). -/
def execRotl (d a b : Reg) (s : State) : Host.Outcome State Fault Refusal := sBin s d a b 1 rotlBy
/-- MIN: signed minimum (R120). -/
def execMin (d a b : Reg) (s : State) : Host.Outcome State Fault Refusal := sBin s d a b 1 minS
/-- MAX: signed maximum (R120). -/
def execMax (d a b : Reg) (s : State) : Host.Outcome State Fault Refusal := sBin s d a b 1 maxS
/-- MINN: unsigned minimum (R120). -/
def execMinn (d a b : Reg) (s : State) : Host.Outcome State Fault Refusal := sBin s d a b 1 minN
/-- MAXN: unsigned maximum (R120). -/
def execMaxn (d a b : Reg) (s : State) : Host.Outcome State Fault Refusal := sBin s d a b 1 maxN
/-- SEL: sb if sa ≠ 0, else the value that dst held at issue (R120). -/
def execSel (d a b : Reg) (s : State) : Host.Outcome State Fault Refusal :=
  sWord s [a, b, d] d 1 (if rdReg (me s) a ≠ 0 then rdReg (me s) b else rdReg (me s) d)
/-- ADDA: the canonical address sa + y (R120). -/
def execAdda (d a b : Reg) (s : State) : Host.Outcome State Fault Refusal := sBin s d a b 1 addA
/-- CLZ: leading zero bits of sa (R120). -/
def execClz (d a : Reg) (s : State) : Host.Outcome State Fault Refusal := sWord s [a] d 1 (clz64 (rdReg (me s) a))
/-- POPC: one bits of sa (R120). -/
def execPopc (d a : Reg) (s : State) : Host.Outcome State Fault Refusal := sWord s [a] d 1 (popc64 (rdReg (me s) a))

/-! ## Literal and constant-bank forms (R46, R120) -/

/-- ADD with a value: sa + y (R46, R120). -/
def execAddSl (d a : Reg) (v : Val) (s : State) : Host.Outcome State Fault Refusal := sVal s d a v 1 (· + ·)
/-- SUB with a value: sa − y (R46, R120). -/
def execSubSl (d a : Reg) (v : Val) (s : State) : Host.Outcome State Fault Refusal := sVal s d a v 1 (· - ·)
/-- MUL with a value: the low half of the product (R46, R120). -/
def execMulSl (d a : Reg) (v : Val) (s : State) : Host.Outcome State Fault Refusal := sVal s d a v 3 (· * ·)
/-- MULH with a value: the high half of the signed product (R46, R120). -/
def execMulhSl (d a : Reg) (v : Val) (s : State) : Host.Outcome State Fault Refusal := sVal s d a v 3 mulHi
/-- MULHN with a value: the high half of the unsigned product (R46, R120). -/
def execMulhnSl (d a : Reg) (v : Val) (s : State) : Host.Outcome State Fault Refusal := sVal s d a v 3 mulHiN
/-- AND with a value: sa AND y (R46, R120). -/
def execAndSl (d a : Reg) (v : Val) (s : State) : Host.Outcome State Fault Refusal := sVal s d a v 1 (· &&& ·)
/-- OR with a value: sa OR y (R46, R120). -/
def execOrSl (d a : Reg) (v : Val) (s : State) : Host.Outcome State Fault Refusal := sVal s d a v 1 (· ||| ·)
/-- XOR with a value: sa XOR y (R46, R120). -/
def execXorSl (d a : Reg) (v : Val) (s : State) : Host.Outcome State Fault Refusal := sVal s d a v 1 (· ^^^ ·)
/-- ANDN with a value: sa AND NOT y (R46, R120). -/
def execAndnSl (d a : Reg) (v : Val) (s : State) : Host.Outcome State Fault Refusal := sVal s d a v 1 andNot
/-- SHL with a value: sa shifted left by y[5:0] (R46, R120). -/
def execShlSl (d a : Reg) (v : Val) (s : State) : Host.Outcome State Fault Refusal := sVal s d a v 1 shlBy
/-- SHR with a value: sa shifted right logically (R46, R120). -/
def execShrSl (d a : Reg) (v : Val) (s : State) : Host.Outcome State Fault Refusal := sVal s d a v 1 shrBy
/-- SRA with a value: sa shifted right arithmetically (R46, R120). -/
def execSraSl (d a : Reg) (v : Val) (s : State) : Host.Outcome State Fault Refusal := sVal s d a v 1 sraBy
/-- ROTL with a value: sa rotated left (R46, R120). -/
def execRotlSl (d a : Reg) (v : Val) (s : State) : Host.Outcome State Fault Refusal := sVal s d a v 1 rotlBy
/-- MIN with a value: signed minimum (R46, R120). -/
def execMinSl (d a : Reg) (v : Val) (s : State) : Host.Outcome State Fault Refusal := sVal s d a v 1 minS
/-- MAX with a value: signed maximum (R46, R120). -/
def execMaxSl (d a : Reg) (v : Val) (s : State) : Host.Outcome State Fault Refusal := sVal s d a v 1 maxS
/-- MINN with a value: unsigned minimum (R46, R120). -/
def execMinnSl (d a : Reg) (v : Val) (s : State) : Host.Outcome State Fault Refusal := sVal s d a v 1 minN
/-- MAXN with a value: unsigned maximum (R46, R120). -/
def execMaxnSl (d a : Reg) (v : Val) (s : State) : Host.Outcome State Fault Refusal := sVal s d a v 1 maxN
/-- SEL with a value (R46, R120). -/
def execSelSl (d a : Reg) (v : Val) (s : State) : Host.Outcome State Fault Refusal :=
  sWord s [a, d] d 1 (if rdReg (me s) a ≠ 0 then val64 (me s) v else rdReg (me s) d)
/-- ADDA with a value: the canonical address sa + y (R46, R120). -/
def execAddaSl (d a : Reg) (v : Val) (s : State) : Host.Outcome State Fault Refusal := sVal s d a v 1 addA

/-! ## Immediate forms (R121) -/

/-- MOVL: the literal, sign-extended. -/
def execMovl (d : Reg) (v : Lit) (s : State) : Host.Outcome State Fault Refusal := sWord s [] d 1 (v.signExtend 64)
/-- MOVK: kb[i], sign-extended. -/
def execMovk (d : Reg) (k : KbN) (s : State) : Host.Outcome State Fault Refusal := sWord s [] d 1 ((rdKb (me s) k.toNat).signExtend 64)
/-- ADDI: dst + IMM14. -/
def execAddi (d : Reg) (i : Imm14) (s : State) : Host.Outcome State Fault Refusal := sWord s [d] d 1 (rdReg (me s) d + imm64 i)
/-- SHLI: dst shifted left by IMM14[5:0]. -/
def execShli (d : Reg) (i : Imm14) (s : State) : Host.Outcome State Fault Refusal := sWord s [d] d 1 (shlBy (rdReg (me s) d) (imm64 i))
/-- SHRI: logical right shift. -/
def execShri (d : Reg) (i : Imm14) (s : State) : Host.Outcome State Fault Refusal := sWord s [d] d 1 (shrBy (rdReg (me s) d) (imm64 i))
/-- SRAI: arithmetic right shift. -/
def execSrai (d : Reg) (i : Imm14) (s : State) : Host.Outcome State Fault Refusal := sWord s [d] d 1 (sraBy (rdReg (me s) d) (imm64 i))
/-- MOVI: IMM14, sign-extended. -/
def execMovi (d : Reg) (i : Imm14) (s : State) : Host.Outcome State Fault Refusal := sWord s [] d 1 (imm64 i)
/-- MOVF: the FP32 pattern of FIMM, zero-extended. -/
def execMovf (d : Reg) (f : Fimm) (s : State) : Host.Outcome State Fault Refusal := sWord s [] d 1 ((fimm32 f).zeroExtend 64)

end Sys2Proof.Machine
end

