-- ==== Sys2Proof/Machine/ScalarFloat.lean ====
section
/-! DEFINITION. Scalar floating point on FP32 in source bits [31:0] (R119, R124, R125). Results and flags land at issue + 4. -/

namespace Sys2Proof.Machine

/-- The FP32 value of a scalar source. -/
def f32Of (x : Word) : FVal := fdec fp32 (x.toNat % 2 ^ 32)
/-- A scalar float word: its result, zero-extended, and its SSTAT flags (R57, R119). -/
def sFloat (s : State) (src : List Reg) (d : Reg) (r : FRes) : Host.Outcome State Fault Refusal :=
  doWord s (dstReg s d :: src.map (useReg s))
    (fun s => landFlags (landReg s d 4 (BitVec.ofNat 64 r.bits)) .sstat 4 (ofNv r.ovf r.nv))

/-- FADD (R124). -/
def execFadd (d a b : Reg) (s : State) : Host.Outcome State Fault Refusal :=
  let x := f32Of (rdReg (me s) a)
  let y := f32Of (rdReg (me s) b)
  sFloat s [a, b] d (farith fp32 false (faddV x y) [x, y])
/-- FSUB (R124). -/
def execFsub (d a b : Reg) (s : State) : Host.Outcome State Fault Refusal :=
  let x := f32Of (rdReg (me s) a)
  let y := f32Of (rdReg (me s) b)
  sFloat s [a, b] d (farith fp32 false (faddV x (fnegate y)) [x, y])
/-- FMUL (R124). -/
def execFmul (d a b : Reg) (s : State) : Host.Outcome State Fault Refusal :=
  let x := f32Of (rdReg (me s) a)
  let y := f32Of (rdReg (me s) b)
  sFloat s [a, b] d (farith fp32 false (fmulV x y) [x, y])
/-- FFMA: sa × sb + dst with one rounding, dst read at issue (R124). -/
def execFfma (d a b : Reg) (s : State) : Host.Outcome State Fault Refusal :=
  let x := f32Of (rdReg (me s) a)
  let y := f32Of (rdReg (me s) b)
  let z := f32Of (rdReg (me s) d)
  sFloat s [a, b, d] d (farith fp32 false (faddV (fmulV x y) z) [x, y, z])

/-- A float comparison: pd at issue + 4, no flag (R124). -/
def sFcmp (s : State) (d : PredN) (a b : Reg) (f : FVal → FVal → Bool) : Host.Outcome State Fault Refusal :=
  sCmp s [a, b] d 4 (f (f32Of (rdReg (me s) a)) (f32Of (rdReg (me s) b)))
/-- Either operand is NaN. -/
def funV (x y : FVal) : Bool := isNan x || isNan y
/-- x ≤ y; false for a NaN. -/
def fleV (x y : FVal) : Bool := fltV x y || feqV x y
/-- FCMP.eq (R124). -/
def execFcmpEq (d : PredN) (a b : Reg) (s : State) : Host.Outcome State Fault Refusal := sFcmp s d a b feqV
/-- FCMP.lt (R124). -/
def execFcmpLt (d : PredN) (a b : Reg) (s : State) : Host.Outcome State Fault Refusal := sFcmp s d a b fltV
/-- FCMP.le (R124). -/
def execFcmpLe (d : PredN) (a b : Reg) (s : State) : Host.Outcome State Fault Refusal := sFcmp s d a b fleV
/-- FCMP.un (R124). -/
def execFcmpUn (d : PredN) (a b : Reg) (s : State) : Host.Outcome State Fault Refusal := sFcmp s d a b funV

/-- A float-to-integer result of w bits (R56, R125). -/
def fcvtInt (rm : RMode) (sg : Bool) (w : Nat) (x : Word) : Word × Bool :=
  let lo : Int := if sg then -((2 ^ (w - 1) : Nat) : Int) else 0
  let hi : Int := if sg then ((2 ^ (w - 1) : Nat) : Int) - 1 else ((2 ^ w : Nat) : Int) - 1
  let r := ftoInt rm lo hi (f32Of x)
  (BitVec.ofInt 64 r.1, r.2)
/-- The result of FCVT and its flags OF and NV (R125). -/
def fcvtRes (k : FCvtKind) (rm : RMode) (x : Word) : Word × Bool × Bool :=
  match k with
  | .i32f32 => let r := fcvtInt rm true 32 x; (r.1, false, r.2)
  | .i64f32 => let r := fcvtInt rm true 64 x; (r.1, false, r.2)
  | .n32f32 => let r := fcvtInt rm false 32 x; (r.1, false, r.2)
  | .n64f32 => let r := fcvtInt rm false 64 x; (r.1, false, r.2)
  | .f32i64 => let r := fconv fp32 rm false (fofInt x.toInt); (BitVec.ofNat 64 r.bits, r.ovf, r.nv)
  | .f32n64 => let r := fconv fp32 rm false (fofInt x.toNat); (BitVec.ofNat 64 r.bits, r.ovf, r.nv)
  | .bf16f32 => let r := fconv fbf16 rm false (f32Of x); (BitVec.ofNat 64 r.bits, r.ovf, r.nv)
  | .f32bf16 => let r := fconv fp32 rm false (fdec fbf16 (x.toNat % 65536)); (BitVec.ofNat 64 r.bits, r.ovf, r.nv)
/-- FCVT (R125). -/
def execFcvt (d a : Reg) (m : RMode) (k : FCvtKind) (s : State) : Host.Outcome State Fault Refusal :=
  let r := fcvtRes k m (rdReg (me s) a)
  doWord s [dstReg s d, useReg s a] (fun s => landFlags (landReg s d 4 r.1) .sstat 4 (ofNv r.2.1 r.2.2))

end Sys2Proof.Machine
end

