-- ==== Sys2Proof/Machine/System.lean ====
section
/-! DEFINITION. Constant bank, identity and special-register words (R129, R130) and the privileged reads (R131). -/

namespace Sys2Proof.Machine

/-- KST: kb[sb[7:0]] receives sa[31:0] at issue + 1 (R129). -/
def execKst (a b : Reg) (s : State) : Host.Outcome State Fault Refusal :=
  doWord s [useReg s a, useReg s b]
    (fun s' => later s' 1 (.kb ((rdReg (me s) b).toNat % 256) ((rdReg (me s) a).setWidth 32)))
/-- TID: the logical identity (R108). -/
def execTid (d : Reg) (s : State) : Host.Outcome State Fault Refusal := sWord s [] d 1 (BitVec.ofNat 64 s.cur)
/-- CYC: TC − T0 of the issue cycle (R108). -/
def execCyc (d : Reg) (s : State) : Host.Outcome State Fault Refusal := sWord s [] d 1 (BitVec.ofNat 64 (cyc s))
/-- RDSR (R130). -/
def execRdsr (d : Reg) (n : SpecReg) (s : State) : Host.Outcome State Fault Refusal := sWord s [] d 1 (specRead (me s) n)
/-- WRSR: takes effect at issue + 1; a reserved af format is illegal (R100, R130). -/
def execWrsr (n : SpecReg) (a : Reg) (s : State) : Host.Outcome State Fault Refusal :=
  doWord s [illegalIf (afReserved n (rdReg (me s) a)), useReg s a]
    (fun s' => later s' 1 (.wrsr n (rdReg (me s) a)))
/-- The physical identity of a logical tile (R131). -/
def physId (s : State) (id : Nat) : Word :=
  BitVec.ofNat 64 ((if hostOf s id = shaftOf s id then 0 else 2 ^ 31) + dieOf id % 8 * 2 ^ 24
    + shaftOf s id % 256 * 2 ^ 16 + hostOf s id % 256 * 2 ^ 8)
/-- A privileged read: in a tile task it takes the privilege fault (R48, R131). -/
def sPriv (s : State) (d : Reg) (v : Word) : Host.Outcome State Fault Refusal :=
  doWord s [privCheck s, dstReg s d] (fun s => landReg s d 1 v)
/-- PTID (R131). -/
def execPtid (d : Reg) (s : State) : Host.Outcome State Fault Refusal := sPriv s d (physId s s.cur)
/-- RDWC: module time in nanoseconds (R131). -/
def execRdwc (d : Reg) (s : State) : Host.Outcome State Fault Refusal := sPriv s d (BitVec.ofNat 64 s.wallNs)
/-- RDTC: TC of the issue cycle (R131). -/
def execRdtc (d : Reg) (s : State) : Host.Outcome State Fault Refusal := sPriv s d (BitVec.ofNat 64 (now s))

end Sys2Proof.Machine
end

