-- ==== Sys2Proof/Machine/Tensor.lean ====
section
/-! DEFINITION. Tensor index words TIDX and TDIM (R101, R126, R127). -/

namespace Sys2Proof.Machine

/-- The quotient of one step: by the reciprocal pair, or x itself for extent 1 (R126). -/
def tidxQuot (x : Nat) (d : BitVec 32 × BitVec 32 × BitVec 5) : Nat :=
  if d.2.1 = 0 then x else x * d.2.1.toNat / 2 ^ (32 + d.2.2.toNat)
/-- The coordinates of x, innermost dimension first; the outermost is not reduced (R126). -/
def tidxCoords : List (BitVec 32 × BitVec 32 × BitVec 5) → Nat → List Int
  | [], _ => []
  | [_], x => [(x : Int)]
  | d :: e :: r, x => ((x : Int) - (tidxQuot x d : Int) * d.1.toNat) :: tidxCoords (e :: r) (tidxQuot x d)
/-- The coordinates c_0 to c_(D−1) of an index. -/
def tidxOf (sh : Shape) (x : Nat) : List Int := (tidxCoords sh.dims.reverse x).reverse
/-- Lands the coordinates in d, d + 1, … (R126). -/
def landList (lat : Nat) : List Int → Nat → State → State
  | [], _, s => s
  | c :: r, d, s => landList lat r (d + 1) (landReg s (BitVec.ofNat 6 d) lat (BitVec.ofInt 64 c))
/-- The destination names of a TIDX. -/
def tidxDst (d : Reg) (n : Nat) : List Reg := (List.range n).map (fun i => BitVec.ofNat 6 (d.toNat + i))
/-- TIDX (R126). -/
def execTidx (d a : Reg) (k : ShapeN) (s : State) : Host.Outcome State Fault Refusal :=
  let sh := shapeOf (me s) k
  let n := sh.dims.length
  doWord s (illegalIf (decide (n = 0 ∨ d.toNat + n > 64 ∨ d = 0)) :: useReg s a :: (tidxDst d n).map (dstReg s))
    (landList 4 (tidxOf sh ((rdReg (me s) a).toNat % 2 ^ 32)) d.toNat)
/-- TDIM: the extent of dimension sa[2:0], 0 beyond D (R126). -/
def execTdim (d a : Reg) (k : ShapeN) (s : State) : Host.Outcome State Fault Refusal :=
  let sh := shapeOf (me s) k
  doWord s [illegalIf (decide (sh.dims.length = 0)), useReg s a, dstReg s d]
    (fun s' => landReg s' d 1 (match sh.dims[(rdReg (me s) a).toNat % 8]? with
      | some x => x.1.zeroExtend 64
      | none => 0))

end Sys2Proof.Machine
end

