-- ==== Sys2Proof/Machine/Indigo.lean ====
section
/-! DEFINITION. Profile Indigo (R68, R157 to R162): the four tables by their defining formulas, in exact integer
arithmetic, and the approximation and refinement functions on FP32 values. -/

namespace Sys2Proof.Machine

/-- ⌊√n⌋ by one bit after another from bit k down. -/
def isqrtFrom (n : Nat) : Nat → Nat → Nat
  | 0, r => if (r + 1) * (r + 1) ≤ n then r + 1 else r
  | k + 1, r =>
    let r' := r + 2 ^ (k + 1)
    isqrtFrom n k (if r' * r' ≤ n then r' else r)
/-- ⌊√n⌋ for n below 2^80. -/
def isqrt (n : Nat) : Nat := isqrtFrom n 40 0

/-- Table T: ⌊2³⁴ / (256 + i) + 1/2⌋ (R157). -/
def tabT (i : Nat) : Nat := (2 ^ 35 / (256 + i) + 1) / 2
/-- Tables U_p: ⌊2²⁶ √(256 / (2^p (256 + i))) + 1/2⌋ (R157). -/
def tabU (p i : Nat) : Nat := (isqrt (2 ^ 54 * 256 / (2 ^ p * (256 + i))) + 1) / 2

/-- The largest n below 2^(k+1) above r, r's bits kept, with n^256 ≤ lim. -/
def root256From (lim : Nat) : Nat → Nat → Nat
  | 0, r => if (r + 1) ^ 256 ≤ lim then r + 1 else r
  | k + 1, r =>
    let r' := r + 2 ^ (k + 1)
    root256From lim k (if r' ^ 256 ≤ lim then r' else r)
/-- Table V: ⌊2²⁶ × 2^(i/256) + 1/2⌋ (R157); 2²⁷ × 2^(i/256) is the 256th root of 2^(27·256 + i). -/
def tabV (i : Nat) : Nat := (root256From (2 ^ (27 * 256 + i)) 28 0 + 1) / 2

/-- The next k binary digits of log₂ x, x = y / 2^160 in [1, 2), by squaring; acc holds those already found. -/
def log2Digits : Nat → Nat → Nat → Nat
  | 0, _, acc => acc
  | k + 1, y, acc =>
    let z := y * y / 2 ^ 160
    if z ≥ 2 ^ 161 then log2Digits k (z / 2) (2 * acc + 1) else log2Digits k z (2 * acc)
/-- Table W: ⌊2²⁶ log₂(1 + i/256) + 1/2⌋ (R157), from 27 digits of the logarithm. -/
def tabW (i : Nat) : Nat :=
  if i ≥ 256 then 2 ^ 26 else (log2Digits 27 (2 ^ 160 + i * 2 ^ 152) 0 + 1) / 2

/-- A finite nonzero value as (1 + f/2²³) × 2^E: f and E (R157). -/
def normFE (m : Nat) (e : Int) : Nat × Int :=
  let l := Nat.log2 m
  (if l ≤ 23 then m * 2 ^ (23 - l) - 2 ^ 23 else m / 2 ^ (l - 23) - 2 ^ 23, (l : Int) + e)

/-- VRCP (R158). -/
def indRcp : FVal → FRes
  | .nan => ⟨nanBits fp32, false, false⟩
  | .inf neg => ⟨withSign fp32 neg 0, false, false⟩
  | .fin neg m e =>
    if m = 0 then ⟨withSign fp32 neg (infBits fp32), false, false⟩
    else
      let (f, E) := normFE m e
      if E < -126 then ⟨withSign fp32 neg (infBits fp32), false, false⟩
      else
        let i := f / 2 ^ 15
        let d := f % 2 ^ 15
        let t : Nat := tabT i - (tabT i - tabT (i + 1)) * d / 2 ^ 15
        fround fp32 .rne false (.fin neg t (-26 - E))

/-- VRSQ (R159). -/
def indRsq : FVal → FRes
  | .nan => ⟨nanBits fp32, false, false⟩
  | .inf neg => if neg then ⟨nanBits fp32, false, true⟩ else ⟨0, false, false⟩
  | .fin neg m e =>
    if m = 0 then ⟨withSign fp32 neg (infBits fp32), false, false⟩
    else if neg then ⟨nanBits fp32, false, true⟩
    else
      let (f, E) := normFE m e
      let p := (E % 2).toNat
      let i := f / 2 ^ 15
      let d := f % 2 ^ 15
      let t : Nat := tabU p i - (tabU p i - tabU p (i + 1)) * d / 2 ^ 15
      fround fp32 .rne false (.fin false t (-26 - (E - p) / 2))

/-- VEXP2 (R160). -/
def indExp2 : FVal → FRes
  | .nan => ⟨nanBits fp32, false, false⟩
  | .inf neg => if neg then ⟨0, false, false⟩ else ⟨infBits fp32, false, false⟩
  | .fin neg m e =>
    let X : Int := scaleFloor (if neg then -(m : Int) else m) (e + 23)
    let k : Int := Int.fdiv X (2 ^ 23 : Nat)
    let g := (X - k * (2 ^ 23 : Nat)).toNat
    let i := g / 2 ^ 15
    let d := g % 2 ^ 15
    let t : Nat := tabV i + (tabV (i + 1) - tabV i) * d / 2 ^ 15
    fround fp32 .rne false (.fin false t (k - 26))

/-- VLOG2 (R161). -/
def indLog2 : FVal → FRes
  | .nan => ⟨nanBits fp32, false, false⟩
  | .inf neg => if neg then ⟨nanBits fp32, false, true⟩ else ⟨infBits fp32, false, false⟩
  | .fin neg m e =>
    if m = 0 then ⟨withSign fp32 true (infBits fp32), false, false⟩
    else if neg then ⟨nanBits fp32, false, true⟩
    else
      let (f, E) := normFE m e
      let i := f / 2 ^ 15
      let d := f % 2 ^ 15
      let t : Nat := tabW i + (tabW (i + 1) - tabW i) * d / 2 ^ 15
      let v : Int := E * (2 ^ 26 : Nat) + t
      fround fp32 .rne false (.fin (decide (v < 0)) v.natAbs (-26))

/-- One step of a refinement: a rounding to FP32 of an exact value; the flags are those of the step. -/
def indStep (v : FVal) : FVal × Bool :=
  let r := fround fp32 .rne false v
  (fdec fp32 r.bits, r.ovf)

/-- The operands for which a refinement returns y0 (R162). -/
def indPass (x y0 : FVal) : Bool := isNan x || isNan y0 || isInf x || isInf y0 || isZero x || isZero y0

/-- One, exactly. -/
def fone : FVal := .fin false 1 0

/-- VRCPF (R162); y0b is the encoding of y0. -/
def indRcpf (x y0 : FVal) (y0b : Nat) : FRes :=
  if indPass x y0 then ⟨if isNan y0 then nanBits fp32 else y0b, false, false⟩
  else
    let (e, o1) := indStep (faddV fone (fnegate (fmulV x y0)))
    let z := fround fp32 .rne false (faddV y0 (fmulV y0 e))
    ⟨z.bits, o1 || z.ovf, false⟩

/-- VRSQF (R162). -/
def indRsqf (x y0 : FVal) (y0b : Nat) : FRes :=
  if indPass x y0 then ⟨if isNan y0 then nanBits fp32 else y0b, false, false⟩
  else
    let (t, o1) := indStep (fmulV x y0)
    let (e, o2) := indStep (faddV fone (fnegate (fmulV t y0)))
    let (h, o3) := indStep (fmulV e (.fin false 1 (-1)))
    let z := fround fp32 .rne false (faddV y0 (fmulV y0 h))
    ⟨z.bits, o1 || o2 || o3 || z.ovf, false⟩

end Sys2Proof.Machine
end

