-- ==== Sys2Proof/Machine/VectorArith.lean ====
section
/-! DEFINITION. Vector words, their common form (R138 to R141), and arithmetic of majors 0x0C to 0x0F (R142 to R145). -/

namespace Sys2Proof.Machine

/-! ## The form of a V word (R138, R139) -/

/-- A V word: its checks, its sources taken in order, its destinations; the effect gets the vectors taken. -/
def vWord (s : State) (checks : List (Option Trap)) (src : List QSrc) (dst : List QN)
    (eff : List QVec → State → State) : Host.Outcome State Fault Refusal :=
  doWord s (checks ++ srcQs s src ++ dst.map (dstQ s)) (fun s' =>
    match takeQs (me s') src with
    | some (vs, t) => eff vs (setTile s' s'.cur t)
    | none => s')
/-- The lanes of a masked word: an active lane is computed, an inactive one is the base's (R139). -/
def maskLanes (w : Nat) (m : BitVec 512) (base : QVec) (f : Nat → FRes) : List FRes :=
  (List.range (512 / w)).map (fun i => if m.getLsbD i then f i else ⟨lane w base i, false, false⟩)
/-- The vector of computed lanes. -/
def resVec (w : Nat) (l : List FRes) : QVec := ofLanes w (l.map (·.bits))
/-- The flags of computed lanes (R140). -/
def resFlags (l : List FRes) : Word := ofNv (l.any (·.ovf)) (l.any (·.nv))
/-- Pushes a vector and sets the flags of its lanes at issue + lat. -/
def landLanes (d : QN) (lat w : Nat) (l : List FRes) (s : State) : State :=
  landFlags (landPush s d lat (resVec w l)) .vstat lat (resFlags l)
/-- A masked lanewise word: f gets the lane's source values in the order of the sources; inactive lanes come from the
first source, or are 0 where there is none. -/
def vLanes (s : State) (src : List QSrc) (d : QN) (w lat : Nat) (m : MaskN) (f : List Nat → FRes) : Host.Outcome State Fault Refusal :=
  vWord s [] src [d] (fun vs s' =>
    landLanes d lat w (maskLanes w (rdMask (me s) m) (vs.headD 0) (fun i => f (vs.map (fun v => lane w v i)))) s')

/-! ## Lane arithmetic (R142 to R144) -/

/-- A result without flags. -/
def plain (x : Nat) : FRes := ⟨x, false, false⟩
/-- The reduction of an exact integer result (R143). -/
def intLane (t : Ty) (sat : Bool) (x : Int) : FRes :=
  plain (lowBits (8 * tyW t) (if sat then clampI (tyLo t) (tyHi t) x else x))
/-- An arithmetic lane: exact, then reduced or rounded once (R143, R144). -/
def arithLane (t : Ty) (sat : Bool) (fi : List Int → Int) (ff : List FVal → FVal) (ops : List Nat) : FRes :=
  if tyInt t then intLane t sat (fi (ops.map (tyVal t)))
  else
    let vs := ops.map (fdec (tyFmt t))
    farith (tyFmt t) sat (ff vs) vs
/-- The latency of integer and of float arithmetic (R141). -/
def arithLat (t : Ty) : Nat := if tyInt t then 2 else 4
/-- qa + y on integers. -/
def addI : List Int → Int
  | [x, y] => x + y
  | _ => 0
/-- qa + y on floats. -/
def addF : List FVal → FVal
  | [x, y] => faddV x y
  | _ => .nan
/-- qa − y on integers. -/
def subI : List Int → Int
  | [x, y] => x - y
  | _ => 0
/-- qa − y on floats. -/
def subF : List FVal → FVal
  | [x, y] => faddV x (fnegate y)
  | _ => .nan
/-- qa × y on integers. -/
def mulI : List Int → Int
  | [x, y] => x * y
  | _ => 0
/-- qa × y on floats. -/
def mulF : List FVal → FVal
  | [x, y] => fmulV x y
  | _ => .nan
/-- qd × qa + y on integers. -/
def fmaI : List Int → Int
  | [z, x, y] => z * x + y
  | _ => 0
/-- qd × qa + y on floats. -/
def fmaF : List FVal → FVal
  | [z, x, y] => faddV (fmulV z x) y
  | _ => .nan
/-- qd × qa − y on integers. -/
def fmsI : List Int → Int
  | [z, x, y] => z * x - y
  | _ => 0
/-- qd × qa − y on floats. -/
def fmsF : List FVal → FVal
  | [z, x, y] => faddV (fmulV z x) (fnegate y)
  | _ => .nan
/-- The lesser or greater of two lanes (R143, R144). -/
def minMaxLane (t : Ty) (big : Bool) (x y : Nat) : FRes :=
  if t = .um24 then
    let a := x % 2 ^ 24
    let b := y % 2 ^ 24
    plain (if decide (a < b) != big then a else b)
  else if tyInt t then plain (if decide (tyVal t x < tyVal t y) != big then x else y)
  else
    let a := fdec (tyFmt t) x
    let b := fdec (tyFmt t) y
    if isNan a || isNan b then plain (nanBits (tyFmt t))
    else
      let less := fltV a b || (feqV a b && fneg? a && !fneg? b)
      plain (if less != big then x else y)
/-- VABS of a lane (R143, R53). -/
def absLane (t : Ty) (x : Nat) : FRes :=
  if tyInt t then intLane t false (Int.natAbs (tyVal t x)) else plain (x % 2 ^ (8 * tyW t - 1))
/-- VNEG of a lane (R143, R53). -/
def negLane (t : Ty) (x : Nat) : FRes :=
  if tyInt t then intLane t false (-(tyVal t x)) else plain (x ^^^ 2 ^ (8 * tyW t - 1))
/-- A one-source lane function. -/
def un (f : Nat → FRes) : List Nat → FRes
  | [x] => f x
  | _ => plain 0
/-- A two-source lane function. -/
def bin (f : Nat → Nat → FRes) : List Nat → FRes
  | [x, y] => f x y
  | _ => plain 0

/-! ## Major 0x0C (R142) -/

/-- VADD: qa + y (R142). -/
def execVadd (d : QN) (a b : QSrc) (t : Ty) (m : MaskN) (s : State) : Host.Outcome State Fault Refusal :=
  vLanes s [a, b] d (tyW t) (arithLat t) m (arithLane t false addI addF)
/-- VADD.sat (R142). -/
def execVaddSat (d : QN) (a b : QSrc) (t : Ty) (m : MaskN) (s : State) : Host.Outcome State Fault Refusal :=
  vLanes s [a, b] d (tyW t) (arithLat t) m (arithLane t true addI addF)
/-- VSUB: qa − y (R142). -/
def execVsub (d : QN) (a b : QSrc) (t : Ty) (m : MaskN) (s : State) : Host.Outcome State Fault Refusal :=
  vLanes s [a, b] d (tyW t) (arithLat t) m (arithLane t false subI subF)
/-- VSUB.sat (R142). -/
def execVsubSat (d : QN) (a b : QSrc) (t : Ty) (m : MaskN) (s : State) : Host.Outcome State Fault Refusal :=
  vLanes s [a, b] d (tyW t) (arithLat t) m (arithLane t true subI subF)
/-- VMUL: qa × y (R142). -/
def execVmul (d : QN) (a b : QSrc) (t : Ty) (m : MaskN) (s : State) : Host.Outcome State Fault Refusal :=
  vLanes s [a, b] d (tyW t) (arithLat t) m (arithLane t false mulI mulF)
/-- VMUL.sat (R142). -/
def execVmulSat (d : QN) (a b : QSrc) (t : Ty) (m : MaskN) (s : State) : Host.Outcome State Fault Refusal :=
  vLanes s [a, b] d (tyW t) (arithLat t) m (arithLane t true mulI mulF)
/-- VFMA: qd × qa + y (R142). -/
def execVfma (d : QN) (a b : QSrc) (t : Ty) (m : MaskN) (s : State) : Host.Outcome State Fault Refusal :=
  vLanes s [accSrc d, a, b] d (tyW t) (arithLat t) m (arithLane t false fmaI fmaF)
/-- VFMA.sat (R142). -/
def execVfmaSat (d : QN) (a b : QSrc) (t : Ty) (m : MaskN) (s : State) : Host.Outcome State Fault Refusal :=
  vLanes s [accSrc d, a, b] d (tyW t) (arithLat t) m (arithLane t true fmaI fmaF)
/-- VFMS: qd × qa − y (R142). -/
def execVfms (d : QN) (a b : QSrc) (t : Ty) (m : MaskN) (s : State) : Host.Outcome State Fault Refusal :=
  vLanes s [accSrc d, a, b] d (tyW t) (arithLat t) m (arithLane t false fmsI fmsF)
/-- VFMS.sat (R142). -/
def execVfmsSat (d : QN) (a b : QSrc) (t : Ty) (m : MaskN) (s : State) : Host.Outcome State Fault Refusal :=
  vLanes s [accSrc d, a, b] d (tyW t) (arithLat t) m (arithLane t true fmsI fmsF)
/-- VMIN (R142). -/
def execVmin (d : QN) (a b : QSrc) (t : Ty) (m : MaskN) (s : State) : Host.Outcome State Fault Refusal :=
  vLanes s [a, b] d (tyW t) 2 m (bin (minMaxLane t false))
/-- VMAX (R142). -/
def execVmax (d : QN) (a b : QSrc) (t : Ty) (m : MaskN) (s : State) : Host.Outcome State Fault Refusal :=
  vLanes s [a, b] d (tyW t) 2 m (bin (minMaxLane t true))
/-- VABS (R142). -/
def execVabs (d : QN) (a : QSrc) (t : Ty) (m : MaskN) (s : State) : Host.Outcome State Fault Refusal :=
  vLanes s [a] d (tyW t) 2 m (un (absLane t))
/-- VNEG (R142). -/
def execVneg (d : QN) (a : QSrc) (t : Ty) (m : MaskN) (s : State) : Host.Outcome State Fault Refusal :=
  vLanes s [a] d (tyW t) 2 m (un (negLane t))

/-! ## Immediate and literal forms (R39, R145) -/

/-- The lane value of an integer immediate. -/
def immLane (t : Ty) (i : Imm14) : Nat := (imm64 i).toNat % 2 ^ (8 * tyW t)
/-- The lane value of a literal or constant-bank operand (R39). -/
def valLane (tl : Tile) (t : Ty) (v : Val) : Nat := (val64 tl v).toNat % 2 ^ (8 * tyW t)
/-- VADD qd, imm: accumulating (R145). -/
def execVaddVi (d : QN) (t : Ty) (m : MaskN) (i : Imm14) (s : State) : Host.Outcome State Fault Refusal :=
  vLanes s [accSrc d] d (tyW t) 2 m (fun ops => arithLane t false addI addF (ops ++ [immLane t i]))
/-- VBCAST qd, imm (R145). -/
def execVbcastVi (d : QN) (t : Ty) (m : MaskN) (i : Imm14) (s : State) : Host.Outcome State Fault Refusal :=
  vLanes s [] d (tyW t) 2 m (fun _ => plain (immLane t i))
/-- The type of a VF word: .f32, or .bf16 where TF is set. -/
def vfTy (tf : Bool) : Ty := if tf then .bf16 else .f32
/-- The lane value of a truncated-float immediate (R39). -/
def vfLane (tf : Bool) (f : Fimm) : Nat := if tf then fimmBf16 f else (fimm32 f).toNat
/-- VADD qd, f: every lane, accumulating (R145). -/
def execVaddVf (d : QN) (tf : Bool) (f : Fimm) (s : State) : Host.Outcome State Fault Refusal :=
  vLanes s [accSrc d] d (tyW (vfTy tf)) 4 0 (fun ops => arithLane (vfTy tf) false addI addF (ops ++ [vfLane tf f]))
/-- VBCAST qd, f: every lane (R145). -/
def execVbcastVf (d : QN) (tf : Bool) (f : Fimm) (s : State) : Host.Outcome State Fault Refusal :=
  vLanes s [] d (tyW (vfTy tf)) 2 0 (fun _ => plain (vfLane tf f))
/-- VFMA qd, qa, value: accumulating (R145). -/
def execVfmaVl (d : QN) (a : QSrc) (v : Val) (t : Ty) (m : MaskN) (s : State) : Host.Outcome State Fault Refusal :=
  vLanes s [accSrc d, a] d (tyW t) (arithLat t) m
    (fun ops => arithLane t false fmaI fmaF (ops ++ [valLane (me s) t v]))
/-- VADD qd, qa, value (R145). -/
def execVaddVl (d : QN) (a : QSrc) (v : Val) (t : Ty) (m : MaskN) (s : State) : Host.Outcome State Fault Refusal :=
  vLanes s [a] d (tyW t) (arithLat t) m (fun ops => arithLane t false addI addF (ops ++ [valLane (me s) t v]))

end Sys2Proof.Machine
end

