-- ==== Sys2Proof/Machine/VectorApprox.lean ====
section
/-! DEFINITION. The approximation words of profile Indigo over 128 FP32 lanes (R157 to R162). -/

namespace Sys2Proof.Machine

/-- VRCP (R158). -/
def execVrcp (d : QN) (a : QSrc) (s : State) : Host.Outcome State Fault Refusal :=
  vLanes s [a] d 4 5 0 (un (fun x => indRcp (fdec fp32 x)))
/-- VRSQ (R159). -/
def execVrsq (d : QN) (a : QSrc) (s : State) : Host.Outcome State Fault Refusal :=
  vLanes s [a] d 4 5 0 (un (fun x => indRsq (fdec fp32 x)))
/-- VEXP2 (R160). -/
def execVexp2 (d : QN) (a : QSrc) (s : State) : Host.Outcome State Fault Refusal :=
  vLanes s [a] d 4 5 0 (un (fun x => indExp2 (fdec fp32 x)))
/-- VLOG2 (R161). -/
def execVlog2 (d : QN) (a : QSrc) (s : State) : Host.Outcome State Fault Refusal :=
  vLanes s [a] d 4 5 0 (un (fun x => indLog2 (fdec fp32 x)))
/-- VRCPF: x from qa, the approximation from qb (R162). -/
def execVrcpf (d : QN) (a b : QSrc) (s : State) : Host.Outcome State Fault Refusal :=
  vLanes s [a, b] d 4 4 0 (bin (fun x y => indRcpf (fdec fp32 x) (fdec fp32 y) y))
/-- VRSQF: x from qa, the approximation from qb (R162). -/
def execVrsqf (d : QN) (a b : QSrc) (s : State) : Host.Outcome State Fault Refusal :=
  vLanes s [a, b] d 4 4 0 (bin (fun x y => indRsqf (fdec fp32 x) (fdec fp32 y) y))

end Sys2Proof.Machine
end

