-- ==== Sys2Proof/Machine/VectorConv.lean ====
section
/-! DEFINITION. Vector conversions: VCVT, VWIDEN, VNARROW, VMXS (R148 to R150). Results land at issue + 3. -/

namespace Sys2Proof.Machine

/-- A lane of type src converted to type dst (R148). -/
def cvtLane (dst src : Ty) (rm : RMode) (sat : Bool) (scale : Int) (x : Nat) : FRes :=
  if dst = .um24 then toUm24 scale (fdec (tyFmt src) x)
  else if src = .um24 then fround fp32 .rne false (fofInt ((x % 2 ^ 24 : Nat) : Int))
  else if tyInt src then fconv (tyFmt dst) rm sat (fofInt (tyVal src x))
  else if tyInt dst then
    let r := ftoInt rm (tyLo dst) (tyHi dst) (fdec (tyFmt src) x)
    ⟨lowBits (8 * tyW dst) r.1, false, r.2⟩
  else fconv (tyFmt dst) rm sat (fdec (tyFmt src) x)
/-- VCVT: e the destination type, t the source type (R148). -/
def execVcvt (d : QN) (a : QSrc) (sat : Bool) (e t : Ty) (r : RMode) (s : State) : Host.Outcome State Fault Refusal :=
  vLanes s [a] d (tyW t) 3 0 (un (cvtLane e t r sat (mscaleOf (me s))))

/-- Element i of a vector of a type: a lane, or a nibble of .e2m1 (R149). -/
def elem (t : Ty) (v : QVec) (i : Nat) : Nat := if t = .e2m1 then qnib v i else lane (tyW t) v i
/-- The number of elements of a vector. -/
def nElem (t : Ty) : Nat := if t = .e2m1 then 1024 else 512 / tyW t
/-- The consecutive registers q, q + 1, … -/
def qRange (q : QN) (k : Nat) : List QN := (List.range k).map (fun i => q + BitVec.ofNat 4 i)
/-- The consecutive sources q, q + 1, … with the field's peek bit. -/
def srcRange (a : QSrc) (k : Nat) : List QSrc := (qRange a.q k).map (fun q => ⟨a.pk, q⟩)
/-- A wider element: sign- or zero-extended, or exact (R149). -/
def widenElem (e t : Ty) (x : Nat) : Nat :=
  if tyInt t then lowBits (8 * tyW e) (tyVal t x) else (fconv (tyFmt e) .rne false (fdec (tyFmt t) x)).bits
/-- VWIDEN: source element i goes to register qd + (i mod k), lane ⌊i/k⌋ (R149). -/
def execVwiden (d : QN) (a : QSrc) (e t : Ty) (s : State) : Host.Outcome State Fault Refusal :=
  let k := widenK e t
  vWord s [] [a] (qRange d k) (fun vs s' =>
    (List.range k).foldl (fun st j => landPush st (d + BitVec.ofNat 4 j) 3
      (ofLanes (tyW e) ((List.range (512 / tyW e)).map (fun l => widenElem e t (elem t (vs.headD 0) (l * k + j)))))) s')
/-- A narrower element (R149). -/
def narrowElem (e t : Ty) (rm : RMode) (sat : Bool) (x : Nat) : FRes :=
  if tyInt t then intLane e sat (tyVal t x) else fconv (tyFmt e) rm sat (fdec (tyFmt t) x)
/-- Joins elements of a type into a vector. -/
def ofElems (t : Ty) (l : List Nat) : QVec := if t = .e2m1 then BitVec.ofNat 4096 (joinNibs l) else ofLanes (tyW t) l
/-- VNARROW: element j comes from register qa + (j mod k), lane ⌊j/k⌋; e the destination type (R149). -/
def execVnarrow (d : QN) (a : QSrc) (sat : Bool) (e t : Ty) (r : RMode) (s : State) : Host.Outcome State Fault Refusal :=
  let k := widenK t e
  vWord s [] (srcRange a k) [d] (fun vs s' =>
    let l := (List.range (nElem e)).map (fun j => narrowElem e t r sat (lane (tyW t) (vs.getD (j % k) 0) (j / k)))
    landFlags (landPush s' d 3 (ofElems e (l.map (·.bits)))) .vstat 3 (resFlags l))

/-- The element bytes of an MX vector: bytes, nibbles, or the two planes of R59 (R58, R150). -/
def mxElems (x : MxTy) (codes : List Nat) : QVec :=
  BitVec.ofNat 4096 (match x.toNat with
    | 0 => joinBits 8 codes
    | 1 => joinBits 4 codes
    | _ => joinBits 4 (codes.map (· / 4)) + 2 ^ 2048 * joinBits 2 codes)
/-- VMXS: 512 FP32 values, interleaved over four registers, to 16 MX blocks (R60, R150). -/
def execVmxs (d : QN) (a : QSrc) (r : RMode) (x : MxTy) (s : State) : Host.Outcome State Fault Refusal :=
  vWord s [] (srcRange a 4) [d, d + 1] (fun vs s' =>
    let blk := (List.range 16).map (fun b => mxBlock x r ((List.range 32).map
      (fun i => fdec fp32 (lane 4 (vs.getD (i % 4) 0) ((32 * b + i) / 4)))))
    let s' := landPush s' d 3 (mxElems x (blk.flatMap (·.codes)))
    let s' := landPush s' (d + 1) 3 (BitVec.ofNat 4096 (joinBits 8 (blk.map (·.scale))))
    landFlags s' .vstat 3 (ofNv (blk.any (·.ovf)) (blk.any (·.nv))))

end Sys2Proof.Machine
end

