-- ==== Sys2Proof/Machine/VectorLogic.lean ====
section
/-! DEFINITION. Vector logic, shifts, compares, mask logic and select: major 0x10 (R146, R147). Every word takes effect at issue + 2. -/

namespace Sys2Proof.Machine

/-- VAND (R146). This and the other bitwise words act on all bits of the lane's container, on .um24 too, whose bits [31:24] a result may
therefore set (log 31). -/
def execVand (d : QN) (a b : QSrc) (t : Ty) (m : MaskN) (s : State) : Host.Outcome State Fault Refusal :=
  vLanes s [a, b] d (tyW t) 2 m (bin (fun x y => plain (x &&& y)))
/-- VOR (R146). -/
def execVor (d : QN) (a b : QSrc) (t : Ty) (m : MaskN) (s : State) : Host.Outcome State Fault Refusal :=
  vLanes s [a, b] d (tyW t) 2 m (bin (fun x y => plain (x ||| y)))
/-- VXOR (R146). -/
def execVxor (d : QN) (a b : QSrc) (t : Ty) (m : MaskN) (s : State) : Host.Outcome State Fault Refusal :=
  vLanes s [a, b] d (tyW t) 2 m (bin (fun x y => plain (x ^^^ y)))
/-- VNOT (R146); on .um24 bits [31:24] are complemented too (log 31). -/
def execVnot (d : QN) (a : QSrc) (t : Ty) (m : MaskN) (s : State) : Host.Outcome State Fault Refusal :=
  vLanes s [a] d (tyW t) 2 m (un (fun x => plain (2 ^ (8 * tyW t) - 1 - x)))
/-- VSHL: by the low bits of the qb lane (R146). -/
def execVshl (d : QN) (a b : QSrc) (t : Ty) (m : MaskN) (s : State) : Host.Outcome State Fault Refusal :=
  vLanes s [a, b] d (tyW t) 2 m (bin (fun x y => plain (x * 2 ^ (y % (8 * tyW t)) % 2 ^ (8 * tyW t))))
/-- VSHR: logical (R146). -/
def execVshr (d : QN) (a b : QSrc) (t : Ty) (m : MaskN) (s : State) : Host.Outcome State Fault Refusal :=
  vLanes s [a, b] d (tyW t) 2 m (bin (fun x y => plain (x / 2 ^ (y % (8 * tyW t)))))
/-- VSRA: arithmetic, the lane read as signed (R146). -/
def execVsra (d : QN) (a b : QSrc) (t : Ty) (m : MaskN) (s : State) : Host.Outcome State Fault Refusal :=
  vLanes s [a, b] d (tyW t) 2 m
    (bin (fun x y => plain (lowBits (8 * tyW t) (Int.fdiv (sgn (8 * tyW t) x) (2 ^ (y % (8 * tyW t)) : Nat)))))
/-- VPOPC (R146). -/
def execVpopc (d : QN) (a : QSrc) (t : Ty) (m : MaskN) (s : State) : Host.Outcome State Fault Refusal :=
  vLanes s [a] d (tyW t) 2 m (un (fun x => plain (ones x (8 * tyW t))))

/-! ## Compares (R147) -/

/-- Equality of two lanes. -/
def vEq (t : Ty) (x y : Nat) : Bool :=
  if tyInt t then decide (x = y) else feqV (fdec (tyFmt t) x) (fdec (tyFmt t) y)
/-- Less than, signed or unsigned as the type names. -/
def vLt (t : Ty) (x y : Nat) : Bool :=
  if tyInt t then decide (tyVal t x < tyVal t y) else fltV (fdec (tyFmt t) x) (fdec (tyFmt t) y)
/-- Either lane is NaN. -/
def vUn (t : Ty) (x y : Nat) : Bool := isNan (fdec (tyFmt t) x) || isNan (fdec (tyFmt t) y)
/-- The mask of a comparison: bit i for an active lane i < n, every other bit 0. -/
def cmpMask (w : Nat) (m : BitVec 512) (f : Nat → Nat → Bool) (x y : QVec) : BitVec 512 :=
  BitVec.ofNat 512 (joinBits 1 ((List.range (512 / w)).map
    (fun i => if m.getLsbD i && f (lane w x i) (lane w y i) then 1 else 0)))
/-- A compare word. -/
def vCmp (s : State) (v : MaskN) (a b : QSrc) (t : Ty) (m : MaskN) (f : Nat → Nat → Bool) : Host.Outcome State Fault Refusal :=
  vWord s [] [a, b] [] (fun vs s' =>
    match vs with
    | [x, y] => landMask s' v 2 (cmpMask (tyW t) (rdMask (me s) m) f x y)
    | _ => s')
/-- VCMP.eq (R147). -/
def execVcmpEq (v : MaskN) (a b : QSrc) (t : Ty) (m : MaskN) (s : State) : Host.Outcome State Fault Refusal := vCmp s v a b t m (vEq t)
/-- VCMP.ne (R147). -/
def execVcmpNe (v : MaskN) (a b : QSrc) (t : Ty) (m : MaskN) (s : State) : Host.Outcome State Fault Refusal := vCmp s v a b t m (fun x y => !vEq t x y)
/-- VCMP.lt (R147). -/
def execVcmpLt (v : MaskN) (a b : QSrc) (t : Ty) (m : MaskN) (s : State) : Host.Outcome State Fault Refusal := vCmp s v a b t m (vLt t)
/-- VCMP.le (R147). -/
def execVcmpLe (v : MaskN) (a b : QSrc) (t : Ty) (m : MaskN) (s : State) : Host.Outcome State Fault Refusal := vCmp s v a b t m (fun x y => vLt t x y || vEq t x y)
/-- VCMP.un (R147). -/
def execVcmpUn (v : MaskN) (a b : QSrc) (t : Ty) (m : MaskN) (s : State) : Host.Outcome State Fault Refusal := vCmp s v a b t m (vUn t)

/-! ## Mask logic and select (R147) -/

/-- VMLOG.and (R147). -/
def execVmlogAnd (v a b : MaskN) (s : State) : Host.Outcome State Fault Refusal :=
  let x := rdMask (me s) a
  let y := rdMask (me s) b
  doWord s [] (fun s => landMask s v 2 (x &&& y))
/-- VMLOG.or (R147). -/
def execVmlogOr (v a b : MaskN) (s : State) : Host.Outcome State Fault Refusal :=
  let x := rdMask (me s) a
  let y := rdMask (me s) b
  doWord s [] (fun s => landMask s v 2 (x ||| y))
/-- VMLOG.xor (R147). -/
def execVmlogXor (v a b : MaskN) (s : State) : Host.Outcome State Fault Refusal :=
  let x := rdMask (me s) a
  let y := rdMask (me s) b
  doWord s [] (fun s => landMask s v 2 (x ^^^ y))
/-- VMLOG.andn (R147). -/
def execVmlogAndn (v a b : MaskN) (s : State) : Host.Outcome State Fault Refusal :=
  let x := rdMask (me s) a
  let y := rdMask (me s) b
  doWord s [] (fun s => landMask s v 2 (x &&& ~~~y))
/-- VSEL: lane i from qa where the mask bit is 1, else from qb (R147). -/
def execVsel (d : QN) (a b : QSrc) (t : Ty) (m : MaskN) (s : State) : Host.Outcome State Fault Refusal :=
  vWord s [] [a, b] [d] (fun vs s' =>
    match vs with
    | [x, y] => landLanes d 2 (tyW t)
        (maskLanes (tyW t) (rdMask (me s) m) y (fun i => plain (lane (tyW t) x i))) s'
    | _ => s')

end Sys2Proof.Machine
end

