-- ==== Sys2Proof/Machine/VectorPerm.lean ====
section
/-! DEFINITION. Permutes, broadcasts, moves, and the conditional streams (R151 to R155). -/

namespace Sys2Proof.Machine

/-- VPERM (R151): each 256-byte half permutes within itself when lanes are bytes. -/
def execVperm (d : QN) (a b : QSrc) (t : Ty) (m : MaskN) (s : State) : Host.Outcome State Fault Refusal :=
  let w := tyW t
  vWord s [] [a, b] [d] (fun vs s' =>
    match vs with
    | [x, y] => landLanes d 3 w (maskLanes w (rdMask (me s) m) x (fun i =>
        plain (lane w x (if w = 1 then i / 256 * 256 + lane 1 y i % 256 else lane w y i % (512 / w))))) s'
    | _ => s')
/-- Lane i of a VSHUF pattern over x and y with n lanes (R151). -/
def shufLane (w n : Nat) (p : Nat) (x y : QVec) (i : Nat) : Nat :=
  match p with
  | 0 => lane w (if i % 2 = 0 then x else y) (i / 2)
  | 1 => lane w (if i % 2 = 0 then x else y) (i / 2 + n / 2)
  | 2 => if i < n / 2 then lane w x (2 * i) else lane w y (2 * (i - n / 2))
  | 3 => if i < n / 2 then lane w x (2 * i + 1) else lane w y (2 * (i - n / 2) + 1)
  | _ => lane w x (n - 1 - i)
/-- VSHUF: .rev takes nothing from qb (R151). -/
def execVshuf (d : QN) (a b : QSrc) (t : Ty) (p : ShufPat) (s : State) : Host.Outcome State Fault Refusal :=
  let w := tyW t
  vWord s [] (if p = 4 then [a] else [a, b]) [d] (fun vs s' =>
    landPush s' d 3 (ofLanes w ((List.range (512 / w)).map
      (shufLane w (512 / w) p.toNat (vs.headD 0) (vs.getD 1 0)))))
/-- A scalar register a0 to a15 named by a queue field (R138). -/
def lowReg (r : LowReg) : Reg := r.zeroExtend 6
/-- A slide by a scalar count: f gives the source lane of lane i, or none for 0 (R151). -/
def vSlide (s : State) (d : QN) (a : QSrc) (r : LowReg) (t : Ty) (m : MaskN) (f : Nat → Nat → Option Nat) : Host.Outcome State Fault Refusal :=
  let w := tyW t
  let k := (rdReg (me s) (lowReg r)).toNat
  vWord s [useReg s (lowReg r)] [a] [d] (fun vs s' =>
    landLanes d 3 w (maskLanes w (rdMask (me s) m) (vs.headD 0) (fun i =>
      plain (match f k i with | some j => lane w (vs.headD 0) j | none => 0))) s')
/-- VSLIDE.up (R151). -/
def execVslideUp (d : QN) (a : QSrc) (r : LowReg) (t : Ty) (m : MaskN) (s : State) : Host.Outcome State Fault Refusal :=
  vSlide s d a r t m (fun k i => if i < k then none else some (i - k))
/-- VSLIDE.dn (R151). -/
def execVslideDn (d : QN) (a : QSrc) (r : LowReg) (t : Ty) (m : MaskN) (s : State) : Host.Outcome State Fault Refusal :=
  vSlide s d a r t m (fun k i => if i + k ≥ 512 / tyW t then none else some (i + k))
/-- VIOTA: lane i is i (R151). -/
def execViota (d : QN) (t : Ty) (m : MaskN) (s : State) : Host.Outcome State Fault Refusal :=
  vWord s [] [] [d] (fun _ s' =>
    landLanes d 2 (tyW t) (maskLanes (tyW t) (rdMask (me s) m) 0 (fun i => plain (i % 2 ^ (8 * tyW t)))) s')
/-- VBCAST: the low bits of a scalar register in every active lane (R151). -/
def execVbcast (d : QN) (r : LowReg) (t : Ty) (m : MaskN) (s : State) : Host.Outcome State Fault Refusal :=
  let x := (rdReg (me s) (lowReg r)).toNat % 2 ^ (8 * tyW t)
  vWord s [useReg s (lowReg r)] [] [d] (fun _ s' =>
    landLanes d 2 (tyW t) (maskLanes (tyW t) (rdMask (me s) m) 0 (fun _ => plain x)) s')
/-- VMOVQ: bit for bit, at issue + 1 (R141, R151). -/
def execVmovq (d : QN) (a : QSrc) (s : State) : Host.Outcome State Fault Refusal :=
  vWord s [] [a] [d] (fun vs s' => landPush s' d 1 (vs.headD 0))
/-- VCLR: removes every entry at issue; the queue may be a port, not pending (R152). -/
def execVclr (d : QN) (s : State) : Host.Outcome State Fault Refusal :=
  doWord s [useQ s d] (fun s => onMe s (fun t => setQ t d []))

/-! ## Conditional streams (R153 to R155) -/

/-- Replaces the field of w bits at lo in VSTAT. -/
def vstatSet (lo w x : Nat) (v : Word) : Word :=
  (v &&& ~~~(BitVec.ofNat 64 ((2 ^ w - 1) * 2 ^ lo))) ||| BitVec.ofNat 64 (x % 2 ^ w * 2 ^ lo)
/-- A field of VSTAT. -/
def vstatGet (lo w : Nat) (v : Word) : Nat := v.toNat / 2 ^ lo % 2 ^ w
/-- The width code of PW and UW (R140). -/
def widthCode (t : Ty) : Nat := Nat.log2 (tyW t)
/-- VCLR.strm: both stream states start again; PLAST stays (R152). -/
def execVclrStrm (s : State) : Host.Outcome State Fault Refusal :=
  .next (onMe s (fun t => { t with pack := [], vstat := vstatSet 6 14 0 (vstatSet 20 10 0 t.vstat) }))
/-- The stream's width differs from the state's while its count is above 0 (R153). -/
def streamBad (t : Tile) (cntLo wLo : Nat) (ty : Ty) : Bool :=
  decide (vstatGet cntLo 10 t.vstat > 0) && decide (vstatGet wLo 2 t.vstat ≠ widthCode ty)
/-- The lanes of v that a mask selects. -/
def selected (w : Nat) (m : BitVec 512) (v : QVec) : List Nat :=
  (List.range (512 / w)).filterMap (fun i => if m.getLsbD i then some (lane w v i) else none)
/-- VPACKP (R154). -/
def execVpackp (d : QN) (a : QSrc) (t : Ty) (m : MaskN) (s : State) : Host.Outcome State Fault Refusal :=
  let w := tyW t
  let n := 512 / w
  vWord s [illegalIf (streamBad (me s) 20 18 t)] [a] [d] (fun vs s' =>
    let buf := (me s).pack ++ selected w (rdMask (me s) m) (vs.headD 0)
    let full := decide (buf.length ≥ n)
    let rest := if full then buf.drop n else buf
    let s' := if full then landPush s' d 3 (ofLanes w (buf.take n)) else s'
    onMe s' (fun tl =>
      { tl with pack := rest, vstat := vstatSet 20 10 rest.length (vstatSet 18 2 (widthCode t) tl.vstat) }))
/-- VPACKP.fl (R154). -/
def execVpackpFl (d : QN) (t : Ty) (s : State) : Host.Outcome State Fault Refusal :=
  vWord s [illegalIf (streamBad (me s) 20 18 t)] [] [d] (fun _ s' =>
    let buf := (me s).pack
    let s' := if buf.isEmpty then s' else landPush s' d 3 (ofLanes (tyW t) buf)
    onMe s' (fun tl => { tl with pack := [], vstat := vstatSet 30 10 buf.length (vstatSet 20 10 0 tl.vstat) }))
/-- The lanes of VUNPK from lane i on, j being the next element of the stream h, h2 (R155). -/
def unpkLanes (w n : Nat) (m : BitVec 512) (h h2 : QVec) : Nat → Nat → Nat → List Nat
  | 0, _, _ => []
  | k + 1, i, j =>
    if m.getLsbD i then (if j < n then lane w h j else lane w h2 (j - n)) :: unpkLanes w n m h h2 k (i + 1) (j + 1)
    else 0 :: unpkLanes w n m h h2 k (i + 1) j
/-- VUNPK: the head is read, and the entry behind it where the selected lanes run past the head (R155). -/
def execVunpk (d : QN) (a : QSrc) (t : Ty) (m : MaskN) (s : State) : Host.Outcome State Fault Refusal :=
  let w := tyW t
  let n := 512 / w
  let mk := rdMask (me s) m
  let u := vstatGet 8 10 (me s).vstat
  let j := u + ones mk.toNat n
  let q := qOf (me s) a.q
  doWord s (illegalIf (streamBad (me s) 8 6 t) :: trapIf (decide (j > n ∧ q.length < 2)) 8 0 0 ::
      (srcQs s [⟨true, a.q⟩] ++ [dstQ s d])) (fun s' =>
    let out := unpkLanes w n mk ((q.map (·.val)).headD 0) ((q.map (·.val)).getD 1 0) n 0 u
    onMe (landPush s' d 3 (ofLanes w out)) (fun tl =>
      let tl := if j ≥ n then setQ tl a.q (qOf tl a.q).tail else tl
      { tl with vstat := vstatSet 8 10 (j % n) (vstatSet 6 2 (widthCode t) tl.vstat) }))

end Sys2Proof.Machine
end

