-- ==== Sys2Proof/Machine/VectorReduce.lean ====
section
/-! DEFINITION. Reductions VDOT and VRED (R67, R156). The FP32 result lands in lane 0 at issue + 6. -/

namespace Sys2Proof.Machine

/-- A node of the tree: its value and the flags raised below it. -/
structure RNode where
  v   : FVal
  ovf : Bool
  nv  : Bool
  deriving DecidableEq, Repr

/-- A rounding to FP32 as a node. -/
def rnode (v : FVal) (ovf nv : Bool) : RNode :=
  let r := fround fp32 .rne false v
  ⟨fdec fp32 r.bits, ovf || r.ovf, nv⟩
/-- The sum of two nodes, rounded once (R67). -/
def raddN (x y : RNode) : RNode :=
  let v := faddV x.v y.v
  rnode v (x.ovf || y.ovf) (x.nv || y.nv || madeNan v [x.v, y.v])
/-- One level of the pairwise tree. -/
def treeLevel : List RNode → List RNode
  | x :: y :: r => raddN x y :: treeLevel r
  | l => l
/-- k levels. -/
def treeFold : Nat → List RNode → List RNode
  | 0, l => l
  | k + 1, l => treeFold k (treeLevel l)
/-- The exact sum of values, without the checks on infinities. -/
def exactSum : List FVal → FVal
  | [] => .fin false 0 0
  | [x] => x
  | x :: r => faddV x (exactSum r)
/-- An Umber group of leaves: exact, rounded once; `bad` says that some leaf is a product 0 × ∞ (R67). -/
def umberGroup (leaves : List FVal) (bad : Bool) : RNode :=
  let both := leaves.contains (.inf true) && leaves.contains (.inf false)
  if bad || both then ⟨.nan, false, true⟩
  else if leaves.any isNan then ⟨.nan, false, false⟩
  else rnode (exactSum leaves) false false
/-- The groups of sixteen leaves; a leaf carries whether it is a product 0 × ∞. -/
def umberGroups (l : List (FVal × Bool)) : List RNode :=
  (List.range (l.length / 16)).map (fun g =>
    let part := (l.drop (16 * g)).take 16
    umberGroup (part.map (·.1)) (part.any (·.2)))
/-- The product leaf of two lanes: exact, and whether it is 0 × ∞. -/
def dotLeaf (x y : FVal) : FVal × Bool :=
  let p := fmulV x y
  (p, madeNan p [x, y])
/-- A Sienna product leaf: rounded to FP32 (R67). -/
def siennaLeaf (x y : FVal) : RNode :=
  let p := fmulV x y
  rnode p false (madeNan p [x, y])
/-- The nodes that enter the tree for a dot product over lanes of a type. -/
def dotNodes (t : Ty) (xs ys : List Nat) : List RNode :=
  let l := (xs.map (fdec (tyFmt t))).zip (ys.map (fdec (tyFmt t)))
  if t = .f32 then l.map (fun p => siennaLeaf p.1 p.2) else umberGroups (l.map (fun p => dotLeaf p.1 p.2))
/-- The nodes that enter the tree for a reduction under a mask: lanes outside it are +0 leaves. -/
def redNodes (t : Ty) (m : BitVec 512) (v : QVec) : List RNode :=
  let xs := (List.range (512 / tyW t)).map
    (fun i => if m.getLsbD i then fdec (tyFmt t) (lane (tyW t) v i) else .fin false 0 0)
  if t = .f32 then xs.map (fun x => ⟨x, false, false⟩) else umberGroups (xs.map (fun x => (x, false)))
/-- Pushes the root, an accumulator added last where there is one (R67, R156). -/
def landRoot (d : QN) (acc : Option QVec) (nodes : List RNode) (s : State) : State :=
  let root := (treeFold 10 nodes).headD ⟨.fin false 0 0, false, false⟩
  let r := match acc with
    | some q => raddN root ⟨fdec fp32 (lane 4 q 0), false, false⟩
    | none => root
  let b := (fround fp32 .rne false r.v).bits
  landFlags (landPush s d 6 (BitVec.ofNat 4096 b)) .vstat 6 (ofNv r.ovf r.nv)
/-- VDOT (R156). -/
def execVdot (d : QN) (a b : QSrc) (t : Ty) (_p : Profile) (s : State) : Host.Outcome State Fault Refusal :=
  vWord s [] [a, b] [d] (fun vs s' =>
    landRoot d none (dotNodes t (lanes (tyW t) (vs.headD 0)) (lanes (tyW t) (vs.getD 1 0))) s')
/-- VDOT.acc (R156). -/
def execVdotAcc (d : QN) (a b : QSrc) (t : Ty) (_p : Profile) (s : State) : Host.Outcome State Fault Refusal :=
  vWord s [] [accSrc d, a, b] [d] (fun vs s' =>
    landRoot d (some (vs.headD 0)) (dotNodes t (lanes (tyW t) (vs.getD 1 0)) (lanes (tyW t) (vs.getD 2 0))) s')
/-- VRED (R156). -/
def execVred (d : QN) (a : QSrc) (m : MaskN) (t : Ty) (_p : Profile) (s : State) : Host.Outcome State Fault Refusal :=
  vWord s [] [a] [d] (fun vs s' => landRoot d none (redNodes t (rdMask (me s) m) (vs.headD 0)) s')
/-- VRED.acc (R156). -/
def execVredAcc (d : QN) (a : QSrc) (m : MaskN) (t : Ty) (_p : Profile) (s : State) : Host.Outcome State Fault Refusal :=
  vWord s [] [accSrc d, a] [d] (fun vs s' =>
    landRoot d (some (vs.headD 0)) (redNodes t (rdMask (me s) m) (vs.getD 1 0)) s')
/-- The sources of the wide dot products: qa, qa + 1, qb, qb + 1 (R156). -/
def wideSrcs (a b : QSrc) : List QSrc := [a, ⟨a.pk, a.q + 1⟩, b, ⟨b.pk, b.q + 1⟩]
/-- The nodes of a wide dot product over the four vectors from place k of the list. -/
def wideNodes (t : Ty) (vs : List QVec) (k : Nat) : List RNode :=
  dotNodes t (lanes (tyW t) (vs.getD k 0) ++ lanes (tyW t) (vs.getD (k + 1) 0))
    (lanes (tyW t) (vs.getD (k + 2) 0) ++ lanes (tyW t) (vs.getD (k + 3) 0))
/-- VDOT.w (R156). -/
def execVdotW (d : QN) (a b : QSrc) (t : Ty) (_p : Profile) (s : State) : Host.Outcome State Fault Refusal :=
  vWord s [] (wideSrcs a b) [d] (fun vs s' => landRoot d none (wideNodes t vs 0) s')
/-- VDOT.w.acc (R156). -/
def execVdotWAcc (d : QN) (a b : QSrc) (t : Ty) (_p : Profile) (s : State) : Host.Outcome State Fault Refusal :=
  vWord s [] (accSrc d :: wideSrcs a b) [d] (fun vs s' => landRoot d (some (vs.headD 0)) (wideNodes t vs 1) s')

end Sys2Proof.Machine
end

