-- ==== Sys2Proof/Machine/Dispatch.lean ====
section
/-! DEFINITION. The dispatcher: one arm for each row of the opcode table. -/

namespace Sys2Proof.Machine

/-- The meaning of each instruction, engine step and outside event. -/
def exec (i : Instr) (s : State) : Host.Outcome State Fault Refusal :=
  match i with
  | .bringUp => Sys2Proof.Machine.execBringUp s
  | .warmReset => Sys2Proof.Machine.execWarmReset s
  | .tcTick => Sys2Proof.Machine.execTcTick s
  | .timetableStart => Sys2Proof.Machine.execTimetableStart s
  | .channelHandover => Sys2Proof.Machine.execChannelHandover s
  | .taskStart => Sys2Proof.Machine.execTaskStart s
  | .timetableEnded => Sys2Proof.Machine.execTimetableEnded s
  | .writeLands => Sys2Proof.Machine.execWriteLands s
  | .snapshotTaken => Sys2Proof.Machine.execSnapshotTaken s
  | .branchTargetFetch => Sys2Proof.Machine.execBranchTargetFetch s
  | .loopBack => Sys2Proof.Machine.execLoopBack s
  | .pilotFillDone => Sys2Proof.Machine.execPilotFillDone s
  | .jointRelease => Sys2Proof.Machine.execJointRelease s
  | .holdPointFreeze => Sys2Proof.Machine.execHoldPointFreeze s
  | .waitcRelease => Sys2Proof.Machine.execWaitcRelease s
  | .drainComplete => Sys2Proof.Machine.execDrainComplete s
  | .barwComplete => Sys2Proof.Machine.execBarwComplete s
  | .waitLimitExpiry => Sys2Proof.Machine.execWaitLimitExpiry s
  | .m0Access => Sys2Proof.Machine.execM0Access s
  | .shaftAccess => Sys2Proof.Machine.execShaftAccess s
  | .remoteShaftPerform => Sys2Proof.Machine.execRemoteShaftPerform s
  | .m2AccessPerform => Sys2Proof.Machine.execM2AccessPerform s
  | .pageWalkEnd => Sys2Proof.Machine.execPageWalkEnd s
  | .agSourceRead => Sys2Proof.Machine.execAgSourceRead s
  | .agPush => Sys2Proof.Machine.execAgPush s
  | .mtLevelWrite => Sys2Proof.Machine.execMtLevelWrite s
  | .mtQueryLevelRead => Sys2Proof.Machine.execMtQueryLevelRead s
  | .mtHorizonWrite => Sys2Proof.Machine.execMtHorizonWrite s
  | .beatAccess => Sys2Proof.Machine.execBeatAccess s
  | .beatWriteInForce => Sys2Proof.Machine.execBeatWriteInForce s
  | .maccLands => Sys2Proof.Machine.execMaccLands s
  | .asRead => Sys2Proof.Machine.execAsRead s
  | .drdLands => Sys2Proof.Machine.execDrdLands s
  | .dwrSourceRead => Sys2Proof.Machine.execDwrSourceRead s
  | .refreshDeadline => Sys2Proof.Machine.execRefreshDeadline s
  | .retentionExpiry => Sys2Proof.Machine.execRetentionExpiry s
  | .windowIssuerCommand => Sys2Proof.Machine.execWindowIssuerCommand s
  | .windowExpiry => Sys2Proof.Machine.execWindowExpiry s
  | .channelToOpen => Sys2Proof.Machine.execChannelToOpen s
  | .keepAliveRefresh => Sys2Proof.Machine.execKeepAliveRefresh s
  | .resume => Sys2Proof.Machine.execResume s
  | .harbourAbort => Sys2Proof.Machine.execHarbourAbort s
  | .thermalHoldRequest => Sys2Proof.Machine.execThermalHoldRequest s
  | .thermalCooldown => Sys2Proof.Machine.execThermalCooldown s
  | .thermalTrip => Sys2Proof.Machine.execThermalTrip s
  | .laneTestFail => Sys2Proof.Machine.execLaneTestFail s
  | .shaftRepair => Sys2Proof.Machine.execShaftRepair s
  | .digestJoint => Sys2Proof.Machine.execDigestJoint s
  | .digestExchangeDone => Sys2Proof.Machine.execDigestExchangeDone s
  | .digestDeadline => Sys2Proof.Machine.execDigestDeadline s
  | .replicaDecision => Sys2Proof.Machine.execReplicaDecision s
  | .replicaRecordWrite => Sys2Proof.Machine.execReplicaRecordWrite s
  | .berthOpPerform => Sys2Proof.Machine.execBerthOpPerform s
  | .moveCommit => Sys2Proof.Machine.execMoveCommit s
  | .moveSlotReturn => Sys2Proof.Machine.execMoveSlotReturn s
  | .slotExecute => Sys2Proof.Machine.execSlotExecute s
  | .qtailWrite => Sys2Proof.Machine.execQtailWrite s
  | .qctlEnWrite => Sys2Proof.Machine.execQctlEnWrite s
  | .qctlSkip => Sys2Proof.Machine.execQctlSkip s
  | .registerWrite => Sys2Proof.Machine.execRegisterWrite s
  | .keyInstall => Sys2Proof.Machine.execKeyInstall s
  | .keyRemove => Sys2Proof.Machine.execKeyRemove s
  | .attestationQuote => Sys2Proof.Machine.execAttestationQuote s
  | .runListTurn => Sys2Proof.Machine.execRunListTurn s
  | .quantumExpiry => Sys2Proof.Machine.execQuantumExpiry s
  | .regionRevoke => Sys2Proof.Machine.execRegionRevoke s
  | .capAccess => Sys2Proof.Machine.execCapAccess s
  | .capDerive => Sys2Proof.Machine.execCapDerive s
  | .fatalError => Sys2Proof.Machine.execFatalError s
  | .watchdogExpiry => Sys2Proof.Machine.execWatchdogExpiry s
  | .sbInventory => Sys2Proof.Machine.execSbInventory s
  | .sbHealth => Sys2Proof.Machine.execSbHealth s
  | .sbDumpInfo => Sys2Proof.Machine.execSbDumpInfo s
  | .sbDumpRead => Sys2Proof.Machine.execSbDumpRead s
  | .sbResetWarm => Sys2Proof.Machine.execSbResetWarm s
  | .sbResetCold => Sys2Proof.Machine.execSbResetCold s
  | .sbQuote => Sys2Proof.Machine.execSbQuote s
  | .sbDumpRequest => Sys2Proof.Machine.execSbDumpRequest s
  | .sbUnknownCommand => Sys2Proof.Machine.execSbUnknownCommand s
  | .mctpControlMessage => Sys2Proof.Machine.execMctpControlMessage s
  | .cxlMemAccess => Sys2Proof.Machine.execCxlMemAccess s
  | .cxlLaneFail => Sys2Proof.Machine.execCxlLaneFail s
  | .linkFlitReceive => Sys2Proof.Machine.execLinkFlitReceive s
  | .linkPortFail => Sys2Proof.Machine.execLinkPortFail s
  | .linkDeliveryTimeout => Sys2Proof.Machine.execLinkDeliveryTimeout s
  | .nop => Sys2Proof.Machine.execNop s
  | .add d a b => Sys2Proof.Machine.execAdd d a b s
  | .sub d a b => Sys2Proof.Machine.execSub d a b s
  | .mul d a b => Sys2Proof.Machine.execMul d a b s
  | .mulh d a b => Sys2Proof.Machine.execMulh d a b s
  | .mulhn d a b => Sys2Proof.Machine.execMulhn d a b s
  | .and d a b => Sys2Proof.Machine.execAnd d a b s
  | .or d a b => Sys2Proof.Machine.execOr d a b s
  | .xor d a b => Sys2Proof.Machine.execXor d a b s
  | .andn d a b => Sys2Proof.Machine.execAndn d a b s
  | .shl d a b => Sys2Proof.Machine.execShl d a b s
  | .shr d a b => Sys2Proof.Machine.execShr d a b s
  | .sra d a b => Sys2Proof.Machine.execSra d a b s
  | .rotl d a b => Sys2Proof.Machine.execRotl d a b s
  | .min d a b => Sys2Proof.Machine.execMin d a b s
  | .max d a b => Sys2Proof.Machine.execMax d a b s
  | .minn d a b => Sys2Proof.Machine.execMinn d a b s
  | .maxn d a b => Sys2Proof.Machine.execMaxn d a b s
  | .sel d a b => Sys2Proof.Machine.execSel d a b s
  | .adda d a b => Sys2Proof.Machine.execAdda d a b s
  | .clz d a => Sys2Proof.Machine.execClz d a s
  | .popc d a => Sys2Proof.Machine.execPopc d a s
  | .pcmpEq d a b => Sys2Proof.Machine.execPcmpEq d a b s
  | .pcmpNe d a b => Sys2Proof.Machine.execPcmpNe d a b s
  | .pcmpLt d a b => Sys2Proof.Machine.execPcmpLt d a b s
  | .pcmpGe d a b => Sys2Proof.Machine.execPcmpGe d a b s
  | .pcmpLtn d a b => Sys2Proof.Machine.execPcmpLtn d a b s
  | .pcmpGen d a b => Sys2Proof.Machine.execPcmpGen d a b s
  | .addSl d a v => Sys2Proof.Machine.execAddSl d a v s
  | .subSl d a v => Sys2Proof.Machine.execSubSl d a v s
  | .mulSl d a v => Sys2Proof.Machine.execMulSl d a v s
  | .mulhSl d a v => Sys2Proof.Machine.execMulhSl d a v s
  | .mulhnSl d a v => Sys2Proof.Machine.execMulhnSl d a v s
  | .andSl d a v => Sys2Proof.Machine.execAndSl d a v s
  | .orSl d a v => Sys2Proof.Machine.execOrSl d a v s
  | .xorSl d a v => Sys2Proof.Machine.execXorSl d a v s
  | .andnSl d a v => Sys2Proof.Machine.execAndnSl d a v s
  | .shlSl d a v => Sys2Proof.Machine.execShlSl d a v s
  | .shrSl d a v => Sys2Proof.Machine.execShrSl d a v s
  | .sraSl d a v => Sys2Proof.Machine.execSraSl d a v s
  | .rotlSl d a v => Sys2Proof.Machine.execRotlSl d a v s
  | .minSl d a v => Sys2Proof.Machine.execMinSl d a v s
  | .maxSl d a v => Sys2Proof.Machine.execMaxSl d a v s
  | .minnSl d a v => Sys2Proof.Machine.execMinnSl d a v s
  | .maxnSl d a v => Sys2Proof.Machine.execMaxnSl d a v s
  | .selSl d a v => Sys2Proof.Machine.execSelSl d a v s
  | .addaSl d a v => Sys2Proof.Machine.execAddaSl d a v s
  | .pcmpEqSl d a v => Sys2Proof.Machine.execPcmpEqSl d a v s
  | .pcmpNeSl d a v => Sys2Proof.Machine.execPcmpNeSl d a v s
  | .pcmpLtSl d a v => Sys2Proof.Machine.execPcmpLtSl d a v s
  | .pcmpGeSl d a v => Sys2Proof.Machine.execPcmpGeSl d a v s
  | .pcmpLtnSl d a v => Sys2Proof.Machine.execPcmpLtnSl d a v s
  | .pcmpGenSl d a v => Sys2Proof.Machine.execPcmpGenSl d a v s
  | .movl d v => Sys2Proof.Machine.execMovl d v s
  | .movk d k => Sys2Proof.Machine.execMovk d k s
  | .addi d n => Sys2Proof.Machine.execAddi d n s
  | .shli d n => Sys2Proof.Machine.execShli d n s
  | .shri d n => Sys2Proof.Machine.execShri d n s
  | .srai d n => Sys2Proof.Machine.execSrai d n s
  | .movi d n => Sys2Proof.Machine.execMovi d n s
  | .movf d f => Sys2Proof.Machine.execMovf d f s
  | .fadd d a b => Sys2Proof.Machine.execFadd d a b s
  | .fsub d a b => Sys2Proof.Machine.execFsub d a b s
  | .fmul d a b => Sys2Proof.Machine.execFmul d a b s
  | .ffma d a b => Sys2Proof.Machine.execFfma d a b s
  | .fcmpEq d a b => Sys2Proof.Machine.execFcmpEq d a b s
  | .fcmpLt d a b => Sys2Proof.Machine.execFcmpLt d a b s
  | .fcmpLe d a b => Sys2Proof.Machine.execFcmpLe d a b s
  | .fcmpUn d a b => Sys2Proof.Machine.execFcmpUn d a b s
  | .fcvt d a m k => Sys2Proof.Machine.execFcvt d a m k s
  | .plogAnd d a b => Sys2Proof.Machine.execPlogAnd d a b s
  | .plogOr d a b => Sys2Proof.Machine.execPlogOr d a b s
  | .plogXor d a b => Sys2Proof.Machine.execPlogXor d a b s
  | .plogAndn d a b => Sys2Proof.Machine.execPlogAndn d a b s
  | .pset d a => Sys2Proof.Machine.execPset d a s
  | .tidx d a k => Sys2Proof.Machine.execTidx d a k s
  | .tdim d a k => Sys2Proof.Machine.execTdim d a k s
  | .kst a b => Sys2Proof.Machine.execKst a b s
  | .tid d => Sys2Proof.Machine.execTid d s
  | .cyc d => Sys2Proof.Machine.execCyc d s
  | .rdsr d n => Sys2Proof.Machine.execRdsr d n s
  | .wrsr n a => Sys2Proof.Machine.execWrsr n a s
  | .ptid d => Sys2Proof.Machine.execPtid d s
  | .rdwc d => Sys2Proof.Machine.execRdwc d s
  | .rdtc d => Sys2Proof.Machine.execRdtc d s
  | .br c k => Sys2Proof.Machine.execBr c k s
  | .brl c k => Sys2Proof.Machine.execBrl c k s
  | .bri c a => Sys2Proof.Machine.execBri c a s
  | .ret c => Sys2Proof.Machine.execRet c s
  | .loop k n e => Sys2Proof.Machine.execLoop k n e s
  | .loopr x k n e => Sys2Proof.Machine.execLoopr x k n e s
  | .segj c => Sys2Proof.Machine.execSegj c s
  | .segsel c k => Sys2Proof.Machine.execSegsel c k s
  | .tchk c v => Sys2Proof.Machine.execTchk c v s
  | .joint v => Sys2Proof.Machine.execJoint v s
  | .waitcLit v => Sys2Proof.Machine.execWaitcLit v s
  | .waitcReg a => Sys2Proof.Machine.execWaitcReg a s
  | .tend c => Sys2Proof.Machine.execTend c s
  | .trap c v => Sys2Proof.Machine.execTrap c v s
  | .vadd d a b t m => Sys2Proof.Machine.execVadd d a b t m s
  | .vsub d a b t m => Sys2Proof.Machine.execVsub d a b t m s
  | .vmul d a b t m => Sys2Proof.Machine.execVmul d a b t m s
  | .vfma d a b t m => Sys2Proof.Machine.execVfma d a b t m s
  | .vfms d a b t m => Sys2Proof.Machine.execVfms d a b t m s
  | .vmin d a b t m => Sys2Proof.Machine.execVmin d a b t m s
  | .vmax d a b t m => Sys2Proof.Machine.execVmax d a b t m s
  | .vabs d a t m => Sys2Proof.Machine.execVabs d a t m s
  | .vneg d a t m => Sys2Proof.Machine.execVneg d a t m s
  | .vaddSat d a b t m => Sys2Proof.Machine.execVaddSat d a b t m s
  | .vsubSat d a b t m => Sys2Proof.Machine.execVsubSat d a b t m s
  | .vmulSat d a b t m => Sys2Proof.Machine.execVmulSat d a b t m s
  | .vfmaSat d a b t m => Sys2Proof.Machine.execVfmaSat d a b t m s
  | .vfmsSat d a b t m => Sys2Proof.Machine.execVfmsSat d a b t m s
  | .vaddVi d t m n => Sys2Proof.Machine.execVaddVi d t m n s
  | .vbcastVi d t m n => Sys2Proof.Machine.execVbcastVi d t m n s
  | .vaddVf d tf f => Sys2Proof.Machine.execVaddVf d tf f s
  | .vbcastVf d tf f => Sys2Proof.Machine.execVbcastVf d tf f s
  | .vfmaVl d a v t m => Sys2Proof.Machine.execVfmaVl d a v t m s
  | .vaddVl d a v t m => Sys2Proof.Machine.execVaddVl d a v t m s
  | .vand d a b t m => Sys2Proof.Machine.execVand d a b t m s
  | .vor d a b t m => Sys2Proof.Machine.execVor d a b t m s
  | .vxor d a b t m => Sys2Proof.Machine.execVxor d a b t m s
  | .vnot d a t m => Sys2Proof.Machine.execVnot d a t m s
  | .vshl d a b t m => Sys2Proof.Machine.execVshl d a b t m s
  | .vshr d a b t m => Sys2Proof.Machine.execVshr d a b t m s
  | .vsra d a b t m => Sys2Proof.Machine.execVsra d a b t m s
  | .vpopc d a t m => Sys2Proof.Machine.execVpopc d a t m s
  | .vcmpEq v a b t m => Sys2Proof.Machine.execVcmpEq v a b t m s
  | .vcmpNe v a b t m => Sys2Proof.Machine.execVcmpNe v a b t m s
  | .vcmpLt v a b t m => Sys2Proof.Machine.execVcmpLt v a b t m s
  | .vcmpLe v a b t m => Sys2Proof.Machine.execVcmpLe v a b t m s
  | .vcmpUn v a b t m => Sys2Proof.Machine.execVcmpUn v a b t m s
  | .vmlogAnd v a b => Sys2Proof.Machine.execVmlogAnd v a b s
  | .vmlogOr v a b => Sys2Proof.Machine.execVmlogOr v a b s
  | .vmlogXor v a b => Sys2Proof.Machine.execVmlogXor v a b s
  | .vmlogAndn v a b => Sys2Proof.Machine.execVmlogAndn v a b s
  | .vsel d a b t m => Sys2Proof.Machine.execVsel d a b t m s
  | .vcvt d a sat e t r => Sys2Proof.Machine.execVcvt d a sat e t r s
  | .vwiden d a e t => Sys2Proof.Machine.execVwiden d a e t s
  | .vnarrow d a sat e t r => Sys2Proof.Machine.execVnarrow d a sat e t r s
  | .vmxs d a r x => Sys2Proof.Machine.execVmxs d a r x s
  | .vperm d a b t m => Sys2Proof.Machine.execVperm d a b t m s
  | .vshuf d a b t p => Sys2Proof.Machine.execVshuf d a b t p s
  | .vslideUp d a x t m => Sys2Proof.Machine.execVslideUp d a x t m s
  | .vslideDn d a x t m => Sys2Proof.Machine.execVslideDn d a x t m s
  | .viota d t m => Sys2Proof.Machine.execViota d t m s
  | .vbcast d x t m => Sys2Proof.Machine.execVbcast d x t m s
  | .vpackp d a t m => Sys2Proof.Machine.execVpackp d a t m s
  | .vpackpFl d t => Sys2Proof.Machine.execVpackpFl d t s
  | .vunpk d a t m => Sys2Proof.Machine.execVunpk d a t m s
  | .vmovq d a => Sys2Proof.Machine.execVmovq d a s
  | .vclr d => Sys2Proof.Machine.execVclr d s
  | .vclrStrm => Sys2Proof.Machine.execVclrStrm s
  | .vdot d a b t p => Sys2Proof.Machine.execVdot d a b t p s
  | .vdotAcc d a b t p => Sys2Proof.Machine.execVdotAcc d a b t p s
  | .vred d a m t p => Sys2Proof.Machine.execVred d a m t p s
  | .vredAcc d a m t p => Sys2Proof.Machine.execVredAcc d a m t p s
  | .vrcp d a => Sys2Proof.Machine.execVrcp d a s
  | .vrsq d a => Sys2Proof.Machine.execVrsq d a s
  | .vexp2 d a => Sys2Proof.Machine.execVexp2 d a s
  | .vlog2 d a => Sys2Proof.Machine.execVlog2 d a s
  | .vrcpf d a b => Sys2Proof.Machine.execVrcpf d a b s
  | .vrsqf d a b => Sys2Proof.Machine.execVrsqf d a b s
  | .vdotW d a b t p => Sys2Proof.Machine.execVdotW d a b t p s
  | .vdotWAcc d a b t p => Sys2Proof.Machine.execVdotWAcc d a b t p s
  | .ldsSigned g w d ma => Sys2Proof.Machine.execLdsSigned g w d ma s
  | .ldsUnsigned g w d ma => Sys2Proof.Machine.execLdsUnsigned g w d ma s
  | .sts g w d ma => Sys2Proof.Machine.execSts g w d ma s
  | .sldSigned g w d ma => Sys2Proof.Machine.execSldSigned g w d ma s
  | .sldUnsigned g w d ma => Sys2Proof.Machine.execSldUnsigned g w d ma s
  | .sst g w d ma => Sys2Proof.Machine.execSst g w d ma s
  | .gldSigned g w sx d ma => Sys2Proof.Machine.execGldSigned g w sx d ma s
  | .gldUnsigned g w sx d ma => Sys2Proof.Machine.execGldUnsigned g w sx d ma s
  | .gst g w sx d ma => Sys2Proof.Machine.execGst g w sx d ma s
  | .ldv g d ma => Sys2Proof.Machine.execLdv g d ma s
  | .stv g d ma => Sys2Proof.Machine.execStv g d ma s
  | .gldv g sx d ma => Sys2Proof.Machine.execGldv g sx d ma s
  | .gstv g sx d ma => Sys2Proof.Machine.execGstv g sx d ma s
  | .ggath g w sx d b => Sys2Proof.Machine.execGgath g w sx d b s
  | .gscat g w sx d b => Sys2Proof.Machine.execGscat g w sx d b s
  | .gaadd g w sx d b l => Sys2Proof.Machine.execGaadd g w sx d b l s
  | .gaor g w sx d b l => Sys2Proof.Machine.execGaor g w sx d b l s
  | .gaand g w sx d b l => Sys2Proof.Machine.execGaand g w sx d b l s
  | .gamaxI g w sx d b l => Sys2Proof.Machine.execGamaxI g w sx d b l s
  | .gamaxN g w sx d b l => Sys2Proof.Machine.execGamaxN g w sx d b l s
  | .gaminI g w sx d b l => Sys2Proof.Machine.execGaminI g w sx d b l s
  | .gaminN g w sx d b l => Sys2Proof.Machine.execGaminN g w sx d b l s
  | .gaxch g w sx d b l => Sys2Proof.Machine.execGaxch g w sx d b l s
  | .gacas g w sx d b => Sys2Proof.Machine.execGacas g w sx d b s
  | .gaorv g sx d ma => Sys2Proof.Machine.execGaorv g sx d ma s
  | .kvlook g sx d b => Sys2Proof.Machine.execKvlook g sx d b s
  | .kvgath g sx d b n => Sys2Proof.Machine.execKvgath g sx d b n s
  | .kvapp g sx d b => Sys2Proof.Machine.execKvapp g sx d b s
  | .kvshr g sx d b => Sys2Proof.Machine.execKvshr g sx d b s
  | .kvrel g sx b => Sys2Proof.Machine.execKvrel g sx b s
  | .kvref g sx d b => Sys2Proof.Machine.execKvref g sx d b s
  | .drain g p => Sys2Proof.Machine.execDrain g p s
  | .fence g sx => Sys2Proof.Machine.execFence g sx s
  | .barw g b h => Sys2Proof.Machine.execBarw g b h s
  | .agset g d k => Sys2Proof.Machine.execAgset g d k s
  | .agbind g q k => Sys2Proof.Machine.execAgbind g q k s
  | .agrun g k n => Sys2Proof.Machine.execAgrun g k n s
  | .agstop g k => Sys2Proof.Machine.execAgstop g k s
  | .mhole => Sys2Proof.Machine.execMhole s
  | .mpush g q f p u h => Sys2Proof.Machine.execMpush g q f p u h s
  | .mclr g h => Sys2Proof.Machine.execMclr g h s
  | .mmodeC g f r h => Sys2Proof.Machine.execMmodeC g f r h s
  | .mmodeS g h => Sys2Proof.Machine.execMmodeS g h s
  | .mpmask g m h => Sys2Proof.Machine.execMpmask g m h s
  | .asrd g q a x => Sys2Proof.Machine.execAsrd g q a x s
  | .aswr g q a x => Sys2Proof.Machine.execAswr g q a x s
  | .mshift g h => Sys2Proof.Machine.execMshift g h s
  | .macc g a c x h => Sys2Proof.Machine.execMacc g a c x h s
  | .mdrain g q t k a => Sys2Proof.Machine.execMdrain g q t k a s
  | .dact g ch b row => Sys2Proof.Machine.execDact g ch b row s
  | .dpre g ch b => Sys2Proof.Machine.execDpre g ch b s
  | .dprea g ch => Sys2Proof.Machine.execDprea g ch s
  | .drdM0 g ch b o a => Sys2Proof.Machine.execDrdM0 g ch b o a s
  | .drdSh g ch b o a => Sys2Proof.Machine.execDrdSh g ch b o a s
  | .drdQ g ch b o q => Sys2Proof.Machine.execDrdQ g ch b o q s
  | .dwrM0 g ch b o a => Sys2Proof.Machine.execDwrM0 g ch b o a s
  | .dwrSh g ch b o a => Sys2Proof.Machine.execDwrSh g ch b o a s
  | .dwrQ g ch b o q => Sys2Proof.Machine.execDwrQ g ch b o q s
  | .dref g ch => Sys2Proof.Machine.execDref g ch s
  | .drefb g ch b => Sys2Proof.Machine.execDrefb g ch b s
  | .dwin g ch n => Sys2Proof.Machine.execDwin g ch n s
  | .dmrw g ch m a => Sys2Proof.Machine.execDmrw g ch m a s
  | .dzq g ch => Sys2Proof.Machine.execDzq g ch s
  | .mtclr g t => Sys2Proof.Machine.execMtclr g t s
  | .mtld g t q x => Sys2Proof.Machine.execMtld g t q x s
  | .mtst g t q x => Sys2Proof.Machine.execMtst g t q x s
  | .mtupd g t a y => Sys2Proof.Machine.execMtupd g t a y s
  | .mtadd g t a y => Sys2Proof.Machine.execMtadd g t a y s
  | .mtsum g t d x => Sys2Proof.Machine.execMtsum g t d x s
  | .mtfind g t d p x => Sys2Proof.Machine.execMtfind g t d p x s
  | .mtcut g t p x => Sys2Proof.Machine.execMtcut g t p x s
  | .mtroot g t d full => Sys2Proof.Machine.execMtroot g t d full s
  | .mtleaf g t d x => Sys2Proof.Machine.execMtleaf g t d x s
  | .mthor g t d => Sys2Proof.Machine.execMthor g t d s
  | .cnop => Sys2Proof.Machine.execCnop s
  | .cli => Sys2Proof.Machine.execCli s
  | .cliLiteral => Sys2Proof.Machine.execCliLiteral s
  | .cmov => Sys2Proof.Machine.execCmov s
  | .cadd => Sys2Proof.Machine.execCadd s
  | .csub => Sys2Proof.Machine.execCsub s
  | .cand => Sys2Proof.Machine.execCand s
  | .cor => Sys2Proof.Machine.execCor s
  | .cshl => Sys2Proof.Machine.execCshl s
  | .cshr => Sys2Proof.Machine.execCshr s
  | .cld => Sys2Proof.Machine.execCld s
  | .cst => Sys2Proof.Machine.execCst s
  | .cb => Sys2Proof.Machine.execCb s
  | .cloop => Sys2Proof.Machine.execCloop s
  | .ccall => Sys2Proof.Machine.execCcall s
  | .cret => Sys2Proof.Machine.execCret s
  | .cfence => Sys2Proof.Machine.execCfence s
  | .chalt => Sys2Proof.Machine.execChalt s
  | .cwait => Sys2Proof.Machine.execCwait s
  | .cwaitSatisfied => Sys2Proof.Machine.execCwaitSatisfied s
  | .cwaitTimeout => Sys2Proof.Machine.execCwaitTimeout s
  | .csig => Sys2Proof.Machine.execCsig s
  | .cttld => Sys2Proof.Machine.execCttld s
  | .cttldComplete => Sys2Proof.Machine.execCttldComplete s
  | .cttldUn => Sys2Proof.Machine.execCttldUn s
  | .claunchTc => Sys2Proof.Machine.execClaunchTc s
  | .claunchRel => Sys2Proof.Machine.execClaunchRel s
  | .claunchJt => Sys2Proof.Machine.execClaunchJt s
  | .claunchWd => Sys2Proof.Machine.execClaunchWd s
  | .ccopy => Sys2Proof.Machine.execCcopy s
  | .ccopyComplete => Sys2Proof.Machine.execCcopyComplete s
  | .cdemote => Sys2Proof.Machine.execCdemote s
  | .cpromote => Sys2Proof.Machine.execCpromote s

end Sys2Proof.Machine
end

