-- ==== Sys2Proof/Machine/Storage.lean ====
section
/-! DEFINITION. The storage of a tile that is not a scalar register or a queue: which entries of it a word reads, and the
fault of a word that reads one with an uncorrectable error (R209, structure 0x6; log 30). -/

namespace Sys2Proof.Machine

/-! ## Entries of register storage (log 30) -/

/-- Predicates, p0 apart: it is no storage (R41). -/
def stPred (p : PredN) : List Nat := if p = 0 then [] else [80 + p.toNat]
/-- Loop counters. -/
def stLc (k : Nat) : List Nat := [96 + k]
/-- Masks, vm0 apart (R41). -/
def stMask (m : MaskN) : List Nat := if m = 0 then [] else [104 + m.toNat]
/-- The af registers. -/
def stAf (f : AfN) : List Nat := [112 + f.toNat]
/-- Shape entries. -/
def stShape (k : ShapeN) : List Nat := [128 + k.toNat]
/-- VSTAT, which also holds the scale of UM24 conversions and the state of the pack stream (R145, R154). -/
def stVstat : List Nat := [146]
/-- A literal or a constant-bank entry. -/
def stVal : Val → List Nat
  | .kb k => [256 + k.toNat]
  | .lit _ => []
/-- A special register (R130). -/
def stSpec : SpecReg → List Nat
  | .trot => [144]
  | .sstat => [145]
  | .vstat => stVstat
  | .astat => [147]
  | .segst => [148]
  | .pred => (List.range 15).map (· + 81)
  | .lc0 => stLc 0
  | .lc1 => stLc 1
  | .lc2 => stLc 2
  | .af k => stAf k
  | .reserved => []

/-- The guard of a word (R42). -/
def guardOf : Instr → Guard
  | .ldsSigned g .. | .ldsUnsigned g .. | .sts g .. | .sldSigned g .. | .sldUnsigned g .. | .sst g .. | .gldSigned g ..
  | .gldUnsigned g .. | .gst g .. | .ldv g .. | .stv g .. | .gldv g .. | .gstv g .. | .ggath g .. | .gscat g ..
  | .gaadd g .. | .gaor g .. | .gaand g .. | .gamaxI g .. | .gamaxN g .. | .gaminI g .. | .gaminN g .. | .gaxch g ..
  | .gacas g .. | .gaorv g .. | .kvlook g .. | .kvgath g .. | .kvapp g .. | .kvshr g .. | .kvrel g .. | .kvref g ..
  | .drain g _ | .fence g _ | .barw g .. | .agset g .. | .agbind g .. | .agrun g .. | .agstop g _
  | .mpush g .. | .mclr g _ | .mmodeC g .. | .mmodeS g _ | .mpmask g .. | .asrd g .. | .aswr g .. | .mshift g _
  | .macc g .. | .mdrain g .. | .dact g .. | .dpre g .. | .dprea g _ | .drdM0 g .. | .drdSh g .. | .drdQ g ..
  | .dwrM0 g .. | .dwrSh g .. | .dwrQ g .. | .dref g _ | .drefb g .. | .dwin g .. | .dmrw g .. | .dzq g _
  | .mtclr g _ | .mtld g .. | .mtst g .. | .mtupd g .. | .mtadd g .. | .mtsum g .. | .mtfind g .. | .mtcut g ..
  | .mtroot g .. | .mtleaf g .. | .mthor g .. => g
  | _ => 0

/-- The entries that a word reads, its guard's predicate and its scalar registers and queues apart. -/
def storeReads : Instr → List Nat
  | .addSl _ _ v | .subSl _ _ v | .mulSl _ _ v | .mulhSl _ _ v | .mulhnSl _ _ v | .andSl _ _ v | .orSl _ _ v
  | .xorSl _ _ v | .andnSl _ _ v | .shlSl _ _ v | .shrSl _ _ v | .sraSl _ _ v | .rotlSl _ _ v | .minSl _ _ v
  | .maxSl _ _ v | .minnSl _ _ v | .maxnSl _ _ v | .selSl _ _ v | .addaSl _ _ v
  | .pcmpEqSl _ _ v | .pcmpNeSl _ _ v | .pcmpLtSl _ _ v | .pcmpGeSl _ _ v | .pcmpLtnSl _ _ v | .pcmpGenSl _ _ v => stVal v
  | .movk _ k => [256 + k.toNat]
  | .plogAnd _ a b | .plogOr _ a b | .plogXor _ a b | .plogAndn _ a b => stPred a ++ stPred b
  | .tidx _ _ k | .tdim _ _ k => stShape k
  | .rdsr _ n => stSpec n
  | .br c _ | .brl c _ | .bri c _ | .ret c | .segj c | .segsel c _ | .tchk c _ | .tend c | .trap c _ => stPred c.p
  | .vadd _ _ _ _ m | .vsub _ _ _ _ m | .vmul _ _ _ _ m | .vfma _ _ _ _ m | .vfms _ _ _ _ m | .vmin _ _ _ _ m
  | .vmax _ _ _ _ m | .vabs _ _ _ m | .vneg _ _ _ m | .vaddSat _ _ _ _ m | .vsubSat _ _ _ _ m | .vmulSat _ _ _ _ m
  | .vfmaSat _ _ _ _ m | .vfmsSat _ _ _ _ m | .vaddVi _ _ m _ | .vbcastVi _ _ m _ | .vand _ _ _ _ m | .vor _ _ _ _ m
  | .vxor _ _ _ _ m | .vnot _ _ _ m | .vshl _ _ _ _ m | .vshr _ _ _ _ m | .vsra _ _ _ _ m | .vpopc _ _ _ m
  | .vsel _ _ _ _ m | .vperm _ _ _ _ m | .vslideUp _ _ _ _ m | .vslideDn _ _ _ _ m | .viota _ _ m | .vbcast _ _ _ m
  | .vred _ _ m _ _ | .vredAcc _ _ m _ _ => stMask m
  | .vfmaVl _ _ v _ m | .vaddVl _ _ v _ m => stMask m ++ stVal v
  | .vmlogAnd _ a b | .vmlogOr _ a b | .vmlogXor _ a b | .vmlogAndn _ a b => stMask a ++ stMask b
  | .vcvt _ _ _ e t _ => if e = .um24 ∨ t = .um24 then stVstat else []
  | .vpackpFl .. => stVstat
  | .vpackp _ _ _ m | .vunpk _ _ _ m => stMask m ++ stVstat
  | .mpush _ _ f _ _ _ => stAf f
  | _ => []

/-- The entries that a word reads in a tile: its guard's predicate, and the rest when the guard holds. -/
def storageOf (t : Tile) (i : Instr) : List Nat :=
  let g := guardOf i
  (if g = 0 then [] else [87 + g.toNat]) ++ (if guardOn t g then storeReads i else [])
/-- The fault of a word that reads an entry with an uncorrectable error (R209). -/
def storageTrap (s : State) (id : Nat) (i : Instr) : Option Trap :=
  worst ((storageOf (tileOf s id) i).map (eccTrap s 6 id))
/-- The word records that fault before it runs; a fault of its own with a lower cause replaces it (R208). -/
def meetStorage (s : State) (id pipe : Nat) (i : Instr) : State :=
  match storageTrap s id i with
  | none => s
  | some x => takeTrap x pipe (tileOf s id).bun none id s

end Sys2Proof.Machine
end

