-- ==== Sys2Proof/Machine/Fetch.lean ====
section
/-! DEFINITION. Fetching, decoding and issuing a tile's bundle (R33 to R36, R48, R49, R93, R132, R134, R208, R209), and
the first command word of a queue (R328, R335). -/

namespace Sys2Proof.Machine

/-- A word that does nothing (log 28). -/
def isIdle : Instr → Bool
  | .nop | .mhole => true
  | _ => false
/-- The words of a bundle that are run: those that do something, or the first. -/
def liveWords (l : List (Nat × Instr)) : List (Nat × Instr) :=
  match l.filter (fun p => !isIdle p.2) with
  | [] => l.take 1
  | r => r
/-- The dimension count of a shape entry. -/
def dimOf (t : Tile) (k : ShapeN) : Nat := (shapeOf t k).dims.length
/-- Two S words of the bundle share a destination (R35). -/
def clash (t : Tile) : List (Nat × Instr) → Bool
  | [] => false
  | p :: r => r.any (fun q => sClash (dimOf t) p.2 q.2) || clash t r
/-- The bundle that a tile fetches. -/
def fetchRef (t : Tile) : BRef := ⟨t.segs.getD (t.half % 2) 0, t.half, t.pc⟩
/-- The tile issues no bundle now: it has no task, it is held, or the fetch of its branch target failed. -/
def noIssue (t : Tile) (c : Nat) : Bool :=
  !t.started || t.ended || held t c || (match t.branch with | some b => b.left = 0 | none => false)
/-- The tile as the words of its bundle find it. -/
def issued (t : Tile) (c nx : Nat) : Tile :=
  { t with bun := fetchRef t, pc := nx, elastic := t.modeNext.getD t.elastic, modeNext := none, delay := t.delay - 1,
           branch := t.branch.map (fun b => { b with left := b.left - 1 }), next := c + 1,
           loopEnd := match t.loops with | l :: _ => l.last + 1 = nx | [] => false }
/-- A fault of the bundle as a whole, found at fetch or decode (R35, R48). -/
def fetchTrap (x : Trap) (t : Tile) (id : Nat) (s : State) : State × Option Instr :=
  (takeTrap x 0xF (fetchRef t) none id s, none)
/-- The first word of a bundle is run next, the others stand on the agenda; each first meets the storage it reads. -/
def runBundle (id : Nat) (l : List (Nat × Instr)) (s : State) : State × Option Instr :=
  match l with
  | [] => (s, none)
  | (p, i) :: r => (meetStorage { before (r.map (fun x => .word id x.1 x.2)) s with cur := id, pipe := p } id p i, some i)
/-- A tile issues its bundle for the cycle. -/
def issueTile (s : State) (id : Nat) : State × Option Instr :=
  let t := tileOf s id
  let c := tcAt s id
  if noIssue t c then (s, none)
  else match decodeBundle (halfWord t) t.pc with
    | .error _ =>
      match codeEcc s id t t.pc (fetchEnd (halfWord t) 7 t.pc 0) with
      | some k => fetchTrap (codeTrap k) t id s
      | none => fetchTrap ⟨1, 0, 0, 0⟩ t id s
    | .ok (l, nx) =>
      match codeEcc s id t t.pc nx with
      | some k => fetchTrap (codeTrap k) t id s
      | none =>
        if clash t l then fetchTrap ⟨1, 0, 0, 0⟩ t id s
        else runBundle id (liveWords l) (setTile s id (issued t c nx))
/-- The word is in the slot line, or its buffer's channel lets the queue read it (R18). -/
def wordServed (s : State) (q : Nat) (p : CPlace) : Bool :=
  match p with
  | .slot _ => true
  | .buf va => qServed s q va 8
/-- A queue executes its next command word, or goes on with the one in progress (R328, R330, R335, R337). -/
def issueCmd (s : State) (q : Nat) : State × Option Instr :=
  let x := queueAt s q
  let s := { s with ev := { EvArgs.zero with a := q } }
  match x.wait with
  | .copy .. => (s, some .ccopy)
  | .window | .move => (s, decodeCmd x.ir)
  | _ =>
    match wordAt s q x.at_ with
    | none => (qErr s q 2, none)
    | some w =>
      if !wordServed s q x.at_ then (s, none)
      else match decodeCmd w with
      | none => (qErr s q 1, none)
      | some i => (updQueue s q (fun y => { y with ir := w, wait := .none }), some i)

end Sys2Proof.Machine
end

