-- ==== Sys2Proof/Machine/Schedule.lean ====
section
/-! DEFINITION. What may happen next when no work of a cycle is left and nothing arrives from outside: the list of the
steps that engines, queues and the Harbour complex may take now, of which a free value picks one (log 4, 6). -/

namespace Sys2Proof.Machine

/-! ## Domains, channels, timetables -/

/-- The steps of one domain. -/
def domWork (s : State) (d : Nat) (x : Dom) : List Work :=
  if !x.live then []
  else if !x.frozen then [evw .tcTick d 0 0 false]
  else
    let taken := s.snaps.any (fun n => n.dom = d)
    let some_ := !(domTts s d isFrozen).isEmpty
    (if some_ && !taken && quiet s d then [evw .snapshotTaken d 0 0 false] else []) ++
    (if snapped s d && mustAbort s d && !s.hc.dying then [evw .harbourAbort d 0 0 false] else []) ++
    (if (taken || !some_) && !mustAbort s d && !waitsFor s d && !s.hc.halted then [evw .resume d 0 0 false] else [])
/-- The steps of one channel. -/
def chanSteps (s : State) (ch : Nat) (c : Chan) : List Work :=
  match c.comp with
  | some k => if (domAt s (ttOf s k).dom).frozen then [evw .keepAliveRefresh ch 0 0 false] else []
  | none => []
/-- The hand-over of an Armed timetable's channels, between T0 − 2,048 and T0 (R273, R334). -/
def handWork (s : State) (k : Nat) (x : TT) : List Work :=
  if x.st == .armed && decide (x.t0 ≤ (domAt s x.dom).tc + 2048) && (compiledChans x.img).any (fun p => !(chanAt s p.1).handed)
  then [evw .channelHandover k 0 0 false] else []

/-! ## The Harbour complex -/

/-- The steps of a run list: a turn that begins, one that ends with its quantum or earlier, one that waits for the command in
progress (R337). -/
def listWork (s : State) (i : Nat) (r : RunList) : List Work :=
  let qs := turnQueues r
  if r.ending then (if qs.any (fun q => queueBusy (queueAt s q)) then [] else [evw .quantumExpiry i 0 0 false])
  else if qs.any (fun q => !(queueAt s q).mapped) then [evw .runListTurn i 0 0 false]
  else if r.procs.isEmpty then []
  else [evw .quantumExpiry i 0 0 false]
/-- The Harbour complex: the repair registers after a reset, repairs of lanes, the dump of a fatal error, run lists; a device
whose firmware did not verify runs none (R246, R247, R337, R341, R343). -/
def harbourWork (s : State) : List Work :=
  if s.hc.locked then []
  else
    (if s.hc.restored then [] else [evw .shaftRepair 0 0 0 true]) ++ s.hc.badLanes.map (fun l => evw .shaftRepair l.1 l.2.1 l.2.2 false) ++
      (if s.hc.dying && dumpReady s then [evw .fatalError 0 0 0 false] else []) ++
      (if s.hc.halted then [] else s.hc.runs.zipIdx.flatMap (fun r => listWork s r.2 r.1))

/-! ## The choice -/

/-- The steps that may be taken now. -/
def enabled (s : State) : List Work :=
  s.doms.flatMap (fun d => domWork s d.1 d.2) ++ s.tiles.flatMap (fun t => t.2.out.flatMap (accWork s t.1)) ++
    s.chans.flatMap (fun c => chanSteps s c.1 c.2) ++ s.tts.flatMap (fun y => handWork s y.1 y.2) ++
    s.exchs.flatMap (exchWork s) ++
    s.queues.flatMap (fun q => queueWork s q.1 q.2) ++ s.moves.flatMap (fun v => moveWork s v.1 v.2) ++ s.waiting.flatMap (inputWork s) ++ harbourWork s
/-- A running domain with a fault: nothing comes before its freeze (log 5). -/
def faultedDom (s : State) : Option Nat := (s.doms.find? (fun d => d.2.live && d.2.faulted && !d.2.frozen)).map (·.1)
/-- The work that is done when the agenda is empty. -/
def choose (s : State) : Option Work :=
  match faultedDom s with
  | some d => some (evw .tcTick d 0 0 false)
  | none => (enabled s)[Config.free s.free % (enabled s).length]?
/-- A request that is taken up waits no longer. -/
def unwait (w : Work) (s : State) : State :=
  match w with
  | .ev _ x => (match x.go with
    | some n => spend (.input n) { s with waiting := s.waiting.filter (fun y => y.n ≠ n) }
    | none => s)
  | _ => s
/-- The state in which chosen work is done. -/
def chosen (w : Work) (s : State) : State := unwait w { s with free := s.free + 1 }
/-- The work names a tile that no package has (R12). -/
def noTile : Work → Bool
  | .issue id => decide (id ≥ 768)
  | .word id _ _ => decide (id ≥ 768)
  | _ => false
/-- Prepares work: the state, and the instruction to run in it, if any. -/
def prepare (w : Work) (s : State) : State × Option Instr :=
  match w with
  | .ev i x => ({ s with ev := x }, some i)
  | .issue id => issueTile s id
  | .word id p i => (meetStorage { s with cur := id, pipe := p } id p i, some i)
  | .ckpt d => (takeCkpt s d, none)
  | .close d => (closeCycle s d, none)
  | .last d => (lastCycle s d, none)
  | .cmd q => issueCmd s q

/-! ## A program placed for the fetch (log 3) -/

/-- A timetable domain with one task on tile 0. -/
def bareDom : Dom := formDom [0] 0
/-- MHOLE with the chain bit (R36, R37). -/
def holeWord : Nat := 2 ^ 31 + mkWord 23 (packMM ⟨0, 31, 0, 0, 0, 0, 0⟩)
/-- The words before an instruction at a memory position: MHOLE fills the positions before it (R36), and a NOP keeps a
literal off word 0 of a packet (R35). -/
def holesFor (x pos : Nat) : List Nat :=
  (if pos = 3 ∧ wantsLit x then [2 ^ 31] else []) ++ List.replicate (pos - 1) holeWord
/-- The first memory position at which the word has a meaning, as `decodeTableWord` looks for it. -/
def placePos (x : Nat) (lit : Lit) : Nat :=
  if (decodeWord 1 x lit).isSome then 1 else if (decodeWord 2 x lit).isSome then 2 else 3
/-- The half of the code buffer with an instruction in its first bundle: its word without the chain bit, then its
literal. -/
def placed (x lit : Nat) : List (BitVec 32) :=
  let y := x % 2 ^ 31
  (holesFor y (placePos y (BitVec.ofNat 32 lit)) ++ [y, lit]).map (BitVec.ofNat 32)
/-- Tile 0 with a task whose next bundle is the instruction. -/
def bareTile (x lit : Nat) : Tile :=
  { Tile.reset with started := true, segs := [0, 0], code := [placed x lit, []],
                    firmware := decide (majOf x = 0x1B ∨ majOf x = 0x1E), tt := 1 }
/-- The timetable of that task. -/
def bareTt : TT := { TT.none with parts := [0], st := .running, dom := 1 }

end Sys2Proof.Machine
end

