-- ==== Sys2Proof/Machine/Step.lean ====
section
/-! DEFINITION. One step: the head of the agenda; when the agenda is empty, what the outside sends; when nothing arrives,
one of the steps that may be taken (log 4). -/

namespace Sys2Proof.Machine

/-- Does one piece of work: prepares it, and runs the instruction it names. -/
def runWork (w : Work) (s : State) : Host.Outcome State Fault Refusal :=
  if noTile w then .fault .noSuchTile
  else match prepare w s with
    | (s', none) => .next s'
    | (s', some i) => exec i s'

/-- One step of the machine. -/
def step (s : State) : Host.Outcome State Fault Refusal :=
  match s.agenda with
  | w :: r => runWork w { s with agenda := r }
  | [] =>
    match s.inputs with
    | (i, x) :: r => exec i { s with inputs := r, ev := { x with go := none } }
    | [] =>
      match choose s with
      | none => .next s
      | some w => runWork w (chosen w s)

/-- s with an instruction as the bundle that tile 0 issues in the next step (log 3). -/
def State.withFetchWord (s : State) (nbits w : Nat) : State :=
  let lit := if nbits > 32 then w / 4294967296 else 0
  { s with agenda := [.issue 0], inputs := [], tiles := tabSet Tile.reset s.tiles 0 (bareTile (w % 4294967296) lit),
           tts := tabSet TT.none s.tts 1 bareTt, doms := tabSet Dom.none s.doms 1 bareDom }

end Sys2Proof.Machine
end

