-- ==== Sys2Proof/Safety.lean ====
section
/-! DEFINITION. What a safe step and a safe state are: a step that answers a next state, and the canonical form of every
memory. -/

namespace Sys2Proof

/-- The step answers a next state. -/
def Completes (o : Host.Outcome Machine.State Machine.Fault Machine.Refusal) : Prop := ∃ t, o = .next t

/-- The step answers this next state. -/
def Answers (o : Host.Outcome Machine.State Machine.Fault Machine.Refusal) (t : Machine.State) : Prop := o = .next t

/-- The step answers a next state with a property. -/
def AnswersWith (o : Host.Outcome Machine.State Machine.Fault Machine.Refusal) (P : Machine.State → Prop) : Prop :=
  ∃ t, o = .next t ∧ P t

/-- The scratchpads of these tiles have their canonical form. -/
def TilesOk (l : Machine.Tab Machine.Tile) : Prop := ∀ p ∈ l, Machine.Memory.wf p.2.m0 = true

/-- The arrays of these half-macros have their canonical form. -/
def HalvesOk (l : Machine.Tab Machine.Half) : Prop := ∀ p ∈ l, Machine.Memory.wf p.2.bytes = true

/-- Every memory has its canonical form: global memory, the scratchpads, the arrays, firmware memory, and the copies that a
checkpoint and the snapshots hold. -/
def MemOk (s : Machine.State) : Prop :=
  Machine.Memory.wf s.mem = true ∧ Machine.Memory.wf s.hc.fw = true ∧ TilesOk s.tiles ∧ HalvesOk s.halves ∧
    (∀ c, s.ckpt = some c → TilesOk c.tiles) ∧ ∀ n ∈ s.snaps, TilesOk n.tiles ∧ HalvesOk n.shafts

end Sys2Proof
end

