-- ==== Sys2Proof/Certificates/Slice0/Obligations.lean ====
section
/-! DEFINITION. The statements about the machine: what each word, command and engine step does, as the spec's rules say
it, with the vocabulary they are written in. -/

open Sys2Proof Sys2Proof.Machine

namespace Sys2Proof.Claims

/-! ## Vocabulary -/

/-- The registers can be read: none is pending (R72), none holds an uncorrectable error (R209). -/
def Readable (s : State) (l : List Reg) : Prop :=
  ∀ r ∈ l, regPending s r = false ∧ eccBad s 6 s.cur (physReg (me s) r.toNat) = false
/-- The register is not pending (R72). -/
def Writable (s : State) (r : Reg) : Prop := regPending s r = false
/-- The queue can be taken from: not pending, readable (R72, R209). -/
def QueueFree (s : State) (q : QN) : Prop := qPending s q = false ∧ eccBad s 6 s.cur (64 + q.toNat) = false
/-- The sources hold what the word takes: the vectors, and the tile without what it pops (R71). -/
def Takes (s : State) (l : List QSrc) (vs : List QVec) (t : Tile) : Prop :=
  (∀ x ∈ l, QueueFree s x.q) ∧ takeQs (me s) l = some (vs, t)
/-- The queue can be pushed: not pending, not a port (R72, R98). -/
def Pushable (s : State) (q : QN) : Prop := qPending s q = false ∧ isPort (me s) q = false

/-- The tile's calendar with one more delayed action of the word being executed, in the order of R70. -/
def withAction (s : State) (lat : Nat) (x : Act) (s' : State) : State :=
  setTile s' s.cur { tileOf s' s.cur with
    cal := insertPend ⟨now s + lat, now s, s.pipe, (me s).bun, x⟩ (tileOf s' s.cur).cal }
/-- A value will land in the register that the name denotes now, at issue + lat; a0 takes none (R95, R119). -/
def writesReg (s : State) (d : Reg) (lat : Nat) (v : Word) (s' : State) : State :=
  if d = 0 then s' else withAction s lat (.reg (physReg (me s) d.toNat) v) s'
/-- A predicate will take a value at issue + lat; p0 takes none (R119). -/
def writesPred (s : State) (d : PredN) (lat : Nat) (b : Bool) (s' : State) : State :=
  if d = 0 then s' else withAction s lat (.pred d b) s'
/-- Sticky flags will be set at issue + lat, where a flag is raised (R57, R70). -/
def raises (s : State) (n : SpecReg) (lat : Nat) (f : Word) (s' : State) : State :=
  if f = 0 then s' else withAction s lat (.flags n f) s'

/-- Every byte of global memory, of every scratchpad and of every half-macro reads as before. -/
def SameBytes (s t : State) : Prop :=
  (∀ a, byteAt t.mem a = byteAt s.mem a) ∧ (∀ id a, byteAt (tileOf t id).m0 a = byteAt (tileOf s id).m0 a) ∧
    (∀ k a, byteAt (halfOf t k).bytes a = byteAt (halfOf s k).bytes a)
/-- Every register that a program can read reads as before: scalar registers, predicates, masks, special registers,
constants, shapes; and the accumulation store, the mass trees and the fault registers are as before. -/
def SameRegs (x y : Tile) : Prop :=
  (∀ r, rdReg y r = rdReg x r) ∧ (∀ p, rdPred y p = rdPred x p) ∧ (∀ m, rdMask y m = rdMask x m) ∧
    (∀ n, specRead y n = specRead x n) ∧ (∀ k, rdKb y k = rdKb x k) ∧ (∀ k, shapeOf y k = shapeOf x k) ∧ y.acc = x.acc ∧
    y.mt0 = x.mt0 ∧ y.mt1 = x.mt1 ∧
    (y.tcause, y.tfpc, y.tbpc, y.taddr, y.tcyc) = (x.tcause, x.tfpc, x.tbpc, x.taddr, x.tcyc)
/-- Nothing but the tile of the word being executed changes. -/
def OnlyTile (s t : State) : Prop := t = setTile s s.cur (tileOf t s.cur)
/-- No fault has been recorded in the domain of the tile. -/
def NoFault (s t : State) : Prop := (domAt t (domOf s s.cur)).faulted = false

/-! ## Decoding, fetching, stepping -/

/-- The position at which an instruction's word is read: its memory position, or the first (R36). -/
def readPos (i : Instr) : Nat := if memPos i = 0 then 1 else memPos i
/-- The tile as the words of its bundle find it: the bundle's place, the word after it, the mode that takes effect with
it, one delay slot used, and the next bundle due in the next cycle (R105, R133, R134). -/
def atIssue (t : Tile) (c nx : Nat) : Tile :=
  { t with bun := ⟨t.segs.getD (t.half % 2) 0, t.half, t.pc⟩, pc := nx, elastic := t.modeNext.getD t.elastic, modeNext := none,
           delay := t.delay - 1, branch := t.branch.map (fun b => { b with left := b.left - 1 }), next := c + 1,
           loopEnd := match t.loops with | l :: _ => decide (l.last + 1 = nx) | [] => false }
/-- The tile issues a bundle in cycle c: it runs a task, nothing holds it, its bundle is due, and no branch target is
still to be fetched. -/
def Issues (t : Tile) (c : Nat) : Prop :=
  t.started = true ∧ t.ended = false ∧ t.wait = .none ∧ t.hold = .none ∧ t.next ≤ c ∧ ∀ b, t.branch = some b → b.left ≠ 0

/-- The outcome is that of word i of pipe p in state s: when an entry of register storage that it reads is in error, the fault
stands recorded before it (R209; log 30). -/
def RunsWord (o : Host.Outcome State Fault Refusal) (s : State) (id p : Nat) (i : Instr) : Prop :=
  ((∀ k ∈ storageOf (tileOf s id) i, eccBad s 6 id k = false) → o = exec i s) ∧
  (∀ k, storageOf (tileOf s id) i = [k] → eccBad s 6 id k = true →
    o = exec i (takeTrap ⟨0x16, 0, 0, BitVec.ofNat 64 (6 * 2 ^ 56 + k)⟩ p (tileOf s id).bun none id s))

/-- Two words have a scalar destination other than a0, or a predicate other than p0, in common; a TIDX writes as many registers as its
shape has dimensions (R35, R126). -/
def SharesDst (t : Tile) (i j : Instr) : Prop :=
  (∃ d, d ≠ 0 ∧ d ∈ sDst (fun k => (shapeOf t k).dims.length) i ∧ d ∈ sDst (fun k => (shapeOf t k).dims.length) j) ∨
    ∃ p : PredN, p ≠ 0 ∧ sPred i = some p ∧ sPred j = some p
/-- The bundle that a tile fetches is illegal, and its words hold no error: it does not decode, or its two S words share a destination
(R35). -/
def FetchesIllegal (s : State) (id : Nat) : Prop :=
  (∃ e, decodeBundle (halfWord (tileOf s id)) (tileOf s id).pc = .error e ∧
    codeEcc s id (tileOf s id) (tileOf s id).pc (fetchEnd (halfWord (tileOf s id)) 7 (tileOf s id).pc 0) = none) ∨
  ∃ l nx i j, decodeBundle (halfWord (tileOf s id)) (tileOf s id).pc = .ok (l, nx) ∧ (0, i) ∈ l ∧ (1, j) ∈ l ∧ SharesDst (tileOf s id) i j ∧
    codeEcc s id (tileOf s id) (tileOf s id).pc nx = none
/-- The words of a bundle whose major is in a list. -/
def ofMajors (ws : List (Nat × Lit)) (ms : List Nat) : Nat := (ws.filter (fun x => ms.contains (majOf x.1))).length

end Sys2Proof.Claims

open Sys2Proof.Claims

/-- Words that the spec's entries spell out bit by bit, and the instructions that they stand for (R37, R121, R124, R131,
R175, R252). -/
def Obligations.DecodesTheExampleWords : Prop :=
  decodeWord 1 0x00000000 0 = some .nop ∧ decodeWord 1 0x0CC36307 0 = some (.mulhSl 12 13 (.kb 7)) ∧
  decodeWord 1 0x1091C803 0 = some (.ffma 9 7 8) ∧ decodeWord 1 0x78500000 0 = some (.ptid 5) ∧
  decodeWord 1 0x78600100 0 = some (.rdwc 6) ∧ decodeWord 1 0x00618700 0 = some (.add 6 6 7) ∧
  decodeWord 1 0x388C0200 0 = some (.vaddVf 2 false 0xC0200) ∧ decodeWord 1 0x0C310000 0x186A0 = some (.addSl 3 4 (.lit 0x186A0)) ∧
  decodeWord 3 0x58200100 0 = some (.drain 0 .m2) ∧ decodeWord 3 0x58280184 0 = some (.barw 0 3 2) ∧
  decodeWord 2 0x5C7C0000 0 = some .mhole ∧ HSet.ofLit 0x5203C000 = ⟨5, 16, 3, 3, 0, 0⟩

/-- Every operand of every well-formed tile instruction survives encoding and decoding, and the decoder looks for a
literal exactly where the encoder puts one (R38, R40). -/
def Obligations.EncodingLosesNoOperand : Prop :=
  ∀ (i : Instr) (w : Nat) (l : Option Lit), i.WellFormed → encTile i = some (w, l) →
    w < 2 ^ 31 ∧ wantsLit w = l.isSome ∧ decodeWord (readPos i) w (l.getD 0) = some i

/-- A word of a major that R47 reserves decodes to nothing, whatever its other bits, its position and its literal. -/
def Sys2Proof.Claims.ReservedMajorsDoNotDecode : Prop :=
  ∀ (pos w : Nat) (lit : Lit), majOf w ∈ [5, 6, 7, 0x13, 0x1D, 0x1F] → decodeWord pos w lit = none

/-- The memory majors decode only at the positions of R36, and the loads of the three spaces share their encoding. -/
def Sys2Proof.Claims.MemoryWordsDecodeOnlyAtTheirPositions : Prop :=
  (∀ (pos w : Nat) (lit : Lit) (i : Instr), decodeWord pos w lit = some i →
    ((majOf w = 0x14 → pos = 1 ∨ pos = 2 ∨ pos = 3) ∧ (majOf w = 0x15 ∨ majOf w = 0x16 → pos = 3) ∧
      (majOf w = 0x17 → pos = 1 ∨ pos = 2 ∨ i = .mhole))) ∧
  (∀ (g : Guard) (w : Width) (d : Reg) (ma : MemA), encTile (.ldsSigned g w d ma) = encTile (.sldSigned g w d ma) ∧
    encTile (.ldsSigned g w d ma) = encTile (.gldSigned g w ⟨.rlx, .none⟩ d ma) ∧
    encTile (.sts g w d ma) = encTile (.sst g w d ma) ∧ encTile (.sts g w d ma) = encTile (.gst g w ⟨.rlx, .none⟩ d ma))

/-- A bundle that starts at word 255 or above, a literal of which would stand at word 0 of a packet (so at word 255), that chains six
words on, or that has more words of a pipe than R34 allows, does not decode (R33, R34, R35, R49). -/
def Sys2Proof.Claims.IllegalBundlesDoNotDecode : Prop :=
  (∀ (get : Nat → Nat) (w : Nat), 255 ≤ w → decodeBundle get w = .error .pastEnd) ∧
  (∀ (get : Nat → Nat) (w : Nat), w < 255 → wantsLit (get w) = true → (w + 1) % 3 = 0 →
    decodeBundle get w = .error .literalAtWordZero) ∧
  (∀ (get : Nat → Nat) (w : Nat), w + 6 < 255 → (∀ k, k < 6 → chainOf (get (w + k)) = true ∧ wantsLit (get (w + k)) = false) →
    ∀ r, decodeBundle get w ≠ .ok r) ∧
  (∀ (get : Nat → Nat) (w k : Nat), k < 6 → (∀ j, j < k → chainOf (get (w + j)) = true ∧ wantsLit (get (w + j)) = false) →
    wantsLit (get (w + k)) = true → (w + k + 1) % 3 = 0 → ∀ r, decodeBundle get w ≠ .ok r) ∧
  (∀ (get : Nat → Nat) (w : Nat) (ws : List (Nat × Lit)) (nx : Nat), splitBundle get 7 w 0 = .ok (ws, nx) →
    (2 < ofMajors ws [0, 1, 2, 3, 4, 5, 6, 7, 0x1E] ∨ 1 < ofMajors ws [8, 9, 0xA, 0xB] ∨
      1 < ofMajors ws [0xC, 0xD, 0xE, 0xF, 0x10, 0x11, 0x12, 0x13] ∨ 3 < ofMajors ws [0x14, 0x15, 0x16, 0x17] ∨
      1 < ofMajors ws [0x18, 0x19] ∨ 1 < ofMajors ws [0x1A, 0x1B] ∨ 1 < ofMajors ws [0x1C]) → ∀ r, decodeBundle get w ≠ .ok r)

/-- A word of a reserved major, a memory word outside its position, and a bundle that R33 to R35 call illegal do not decode; the loads and
stores of the three spaces share their encodings (R33 to R36, R47 to R49). -/
def Obligations.WordsThatTheSpecRefusesDoNotDecode : Prop :=
  Claims.ReservedMajorsDoNotDecode ∧ Claims.MemoryWordsDecodeOnlyAtTheirPositions ∧ Claims.IllegalBundlesDoNotDecode

/-- A tile whose bundle is due decodes the words at its program counter and runs the first word that does something in the
same step; the others stand next on the agenda (R34, R49; the model's division of a bundle into steps, log 4). A word whose guard,
mask or other register storage holds an uncorrectable error runs with that fault recorded (R209). -/
def Sys2Proof.Claims.AStepIssuesTheDecodedBundle : Prop :=
  ∀ (s : State) (id : Nat) (r : List Work) (l : List (Nat × Instr)) (nx p : Nat) (i : Instr) (rest : List (Nat × Instr)),
    s.agenda = .issue id :: r → id < 768 → Issues (tileOf s id) (tcAt s id) →
    decodeBundle (halfWord (tileOf s id)) (tileOf s id).pc = .ok (l, nx) → clash (tileOf s id) l = false →
    codeEcc s id (tileOf s id) (tileOf s id).pc nx = none → liveWords l = (p, i) :: rest →
    RunsWord (step s) { setTile s id (atIssue (tileOf s id) (tcAt s id) nx) with
      agenda := rest.map (fun x => .word id x.1 x.2) ++ r, cur := id, pipe := p } id p i

/-- A step at a further word of a bundle, at an engine step or outside event, and at a queue's command word runs exactly
that instruction (log 4). -/
def Sys2Proof.Claims.AStepRunsTheNamedInstruction : Prop :=
  (∀ (s : State) (id p : Nat) (i : Instr) (r : List Work), s.agenda = .word id p i :: r → id < 768 →
    RunsWord (step s) { s with agenda := r, cur := id, pipe := p } id p i) ∧
  (∀ (s : State) (i : Instr) (x : EvArgs) (r : List Work), s.agenda = .ev i x :: r → step s = exec i { s with agenda := r, ev := x }) ∧
  (∀ (s : State) (i : Instr) (x : EvArgs) (r : List (Instr × EvArgs)), s.agenda = [] → s.inputs = (i, x) :: r →
    step s = exec i { s with inputs := r, ev := { x with go := none } }) ∧
  (∀ (s : State) (q : Nat) (w : Word) (i : Instr) (r : List Work), s.agenda = .cmd q :: r →
    (∀ a b c d, (queueAt s q).wait ≠ .copy a b c d) → (queueAt s q).wait ≠ .move → (queueAt s q).wait ≠ .window →
    wordAt s q (queueAt s q).at_ = some w → wordServed s q (queueAt s q).at_ = true → decodeCmd w = some i →
    step s = exec i (setQueue { s with agenda := r, ev := { EvArgs.zero with a := q } } q
      { queueAt s q with ir := w, wait := .none })) ∧
  (∀ (s : State) (q : Nat) (i : Instr) (r : List Work), s.agenda = .cmd q :: r →
    ((∃ a b c d, (queueAt s q).wait = .copy a b c d) ∧ i = .ccopy ∨
      ((queueAt s q).wait = .move ∨ (queueAt s q).wait = .window) ∧ decodeCmd (queueAt s q).ir = some i) →
    step s = exec i { s with agenda := r, ev := { EvArgs.zero with a := q } })

/-- A step runs what stands at the program counter: the first live word of a due bundle, or the next word, engine step, outside event or
command word that the agenda or the inputs name (R34, R49, R133; log 4). -/
def Obligations.AStepRunsTheDecodedInstruction : Prop :=
  Claims.AStepIssuesTheDecodedBundle ∧ Claims.AStepRunsTheNamedInstruction

/-- A bundle that does not decode, or whose two S words share a destination, issues none of its words: the tile records an illegal
instruction against the whole bundle, no register and no byte changes, and its domain is to freeze (R35, R48, R203, R204). -/
def Obligations.AnIllegalBundleTrapsAndIssuesNothing : Prop :=
  ∀ (s : State) (id : Nat) (r : List Work), s.agenda = .issue id :: r → id < 768 →
    Issues (tileOf s id) (tcAt s id) → FetchesIllegal s id → causeOf (tileOf s id) = 0 →
    ∃ t, step s = .next t ∧ causeOf (tileOf t id) = 1 ∧ (tileOf t id).tcause.extractLsb' 20 4 = 0xF ∧
      (tileOf t id).tfpc = pcWord ⟨(tileOf s id).segs.getD ((tileOf s id).half % 2) 0, (tileOf s id).half, (tileOf s id).pc⟩ ∧
      (domAt t (domOf s id)).faulted = true ∧ (∀ n, rdReg (tileOf t id) n = rdReg (tileOf s id) n) ∧ SameBytes s t

/-! ## Reset and invariants -/

/-- After reset, what the spec gives a reset value has it: the fault registers, the special registers, the accumulation
store, the half-macros, the repair registers, the queues, the partitions (R130, R203 to R205, R237, R245, R249, R324, R349). That
every timetable slot is Empty is the model's choice, because R19 gives no state at power-on (log 1). -/
def Obligations.ResetLeavesTheSpecsValues : Prop :=
  (∀ id, (tileOf State.reset id).tcause = 0x0000000000F00000 ∧ (tileOf State.reset id).tfpc = 0 ∧ (tileOf State.reset id).tbpc = 0 ∧
    (tileOf State.reset id).taddr = 0 ∧ specRead (tileOf State.reset id) .sstat = 0 ∧ specRead (tileOf State.reset id) .vstat = 0 ∧
    specRead (tileOf State.reset id) .astat = 0 ∧ specRead (tileOf State.reset id) .pred = 1 ∧
    specRead (tileOf State.reset id) .segst = 0 ∧ (∀ r c, asGet (tileOf State.reset id) r c = xaMk 0 (-32768))) ∧
  (∀ k, (halfOf State.reset k).mode = false ∧ (halfOf State.reset k).fmt = 0 ∧ (halfOf State.reset k).wscale = 0 ∧
    (∀ j, tabGet 0 (halfOf State.reset k).bsum j = 0) ∧ (halfOf State.reset k).np = 0 ∧ (halfOf State.reset k).afmt = 0 ∧
    (∀ j < 8, scaleByte (halfOf State.reset k).asc j = 0x7F) ∧ (∀ c, tabGet xaEmpty (halfOf State.reset k).px c = xaMk 0 (-32768))) ∧
  (∀ k, (vrepAt State.reset k).valid = false ∧ (vrepAt State.reset k).lanes = [0x3FFF, 0x3FFF, 0x3FFF, 0x3FFF]) ∧
  (∀ q, (queueAt State.reset q).en = false ∧ (queueAt State.reset q).st = 0 ∧ (queueAt State.reset q).err = 0) ∧
  (∀ p, (partAt State.reset p).pcfg = 0 ∧ (partAt State.reset p).ptroot = 0 ∧ ∀ k, slotTt State.reset p k = none)

/-- After reset every memory has its canonical form. -/
def Obligations.ResetMemoryIsCanonical : Prop := MemOk State.reset

/-- Every step keeps the canonical form of every memory, that is of global memory, the scratchpads, the arrays, firmware memory and
what a checkpoint or a snapshot holds of them: addresses strictly rising, no entry equal to what an unlisted address reads as. -/
def Obligations.EveryStepKeepsMemoryCanonical : Prop := ∀ s t : State, MemOk s → step s = .next t → MemOk t

/-- No word, command or engine step stops the machine: every instruction of the table answers a next state in every
state. -/
def Obligations.EveryInstructionAnswersANextState : Prop := ∀ (i : Instr) (s : State), Completes (exec i s)

/-! ## Scalar words -/

namespace Sys2Proof.Claims

/-- The operations of group A and of the immediate forms (R120, R121). -/
inductive AOp where
  | add | sub | mul | mulh | mulhn | and | or | xor | andn | shl | shr | sra | rotl | min | max | minn | maxn | sel | adda | clz | popc | mov
  deriving DecidableEq, Repr
/-- The result of an operation on sa and y as an exact integer; the register takes it modulo 2^64. `old` is what the
destination held at issue. -/
def AOp.result (o : AOp) (a y old : Word) : Int :=
  let k := y.toNat % 64
  match o with
  | .add => a.toInt + y.toInt
  | .sub => a.toInt - y.toInt
  | .mul => a.toInt * y.toInt
  | .mulh => a.toInt * y.toInt / 2 ^ 64
  | .mulhn => (a.toNat * y.toNat / 2 ^ 64 : Nat)
  | .and => (a &&& y).toInt
  | .or => (a ||| y).toInt
  | .xor => (a ^^^ y).toInt
  | .andn => (a &&& ~~~y).toInt
  | .shl => (a.toNat * 2 ^ k : Nat)
  | .shr => (a.toNat / 2 ^ k : Nat)
  | .sra => a.toInt / 2 ^ k
  | .rotl => (a.toNat * 2 ^ k + a.toNat / 2 ^ (64 - k) : Nat)
  | .min => if a.toInt ≤ y.toInt then a.toInt else y.toInt
  | .max => if a.toInt ≤ y.toInt then y.toInt else a.toInt
  | .minn => if a.toNat ≤ y.toNat then a.toNat else y.toNat
  | .maxn => if a.toNat ≤ y.toNat then y.toNat else a.toNat
  | .sel => if a = 0 then old.toInt else y.toInt
  | .adda => (a.toInt + y.toInt).bmod (2 ^ 57)
  | .clz => (64 - Nat.size a.toNat : Nat)
  | .popc => (((List.range 64).filter (fun i => a.getLsbD i)).length : Nat)
  | .mov => y.toInt
/-- The latency (R119). -/
def AOp.latency : AOp → Nat
  | .mul | .mulh | .mulhn => 3
  | _ => 1
/-- An integer word: operation, destination, sa, y, and the registers it reads. -/
structure AForm where
  op  : AOp
  d   : Reg
  a   : Word
  y   : Word
  src : List Reg
/-- A literal or constant-bank operand: 32 bits, sign-extended (R39). -/
def valWord (t : Tile) : Val → Word
  | .lit v => BitVec.ofInt 64 v.toInt
  | .kb k => BitVec.ofInt 64 (rdKb t k.toNat).toInt
/-- The two-register form. -/
def formSR (t : Tile) (o : AOp) (d a b : Reg) : Option AForm := some ⟨o, d, rdReg t a, rdReg t b, [a, b]⟩
/-- The form with a value. -/
def formSL (t : Tile) (o : AOp) (d a : Reg) (v : Val) : Option AForm := some ⟨o, d, rdReg t a, valWord t v, [a]⟩
/-- The form with an immediate, sign-extended. -/
def formSI (t : Tile) (o : AOp) (d : Reg) (n : Imm14) : Option AForm := some ⟨o, d, rdReg t d, BitVec.ofInt 64 n.toInt, [d]⟩
/-- The integer words of R120 and R121. -/
def aForm (t : Tile) : Instr → Option AForm
  | .add d a b => formSR t .add d a b
  | .sub d a b => formSR t .sub d a b
  | .mul d a b => formSR t .mul d a b
  | .mulh d a b => formSR t .mulh d a b
  | .mulhn d a b => formSR t .mulhn d a b
  | .and d a b => formSR t .and d a b
  | .or d a b => formSR t .or d a b
  | .xor d a b => formSR t .xor d a b
  | .andn d a b => formSR t .andn d a b
  | .shl d a b => formSR t .shl d a b
  | .shr d a b => formSR t .shr d a b
  | .sra d a b => formSR t .sra d a b
  | .rotl d a b => formSR t .rotl d a b
  | .min d a b => formSR t .min d a b
  | .max d a b => formSR t .max d a b
  | .minn d a b => formSR t .minn d a b
  | .maxn d a b => formSR t .maxn d a b
  | .sel d a b => some ⟨.sel, d, rdReg t a, rdReg t b, [a, b, d]⟩
  | .adda d a b => formSR t .adda d a b
  | .clz d a => some ⟨.clz, d, rdReg t a, 0, [a]⟩
  | .popc d a => some ⟨.popc, d, rdReg t a, 0, [a]⟩
  | .addSl d a v => formSL t .add d a v
  | .subSl d a v => formSL t .sub d a v
  | .mulSl d a v => formSL t .mul d a v
  | .mulhSl d a v => formSL t .mulh d a v
  | .mulhnSl d a v => formSL t .mulhn d a v
  | .andSl d a v => formSL t .and d a v
  | .orSl d a v => formSL t .or d a v
  | .xorSl d a v => formSL t .xor d a v
  | .andnSl d a v => formSL t .andn d a v
  | .shlSl d a v => formSL t .shl d a v
  | .shrSl d a v => formSL t .shr d a v
  | .sraSl d a v => formSL t .sra d a v
  | .rotlSl d a v => formSL t .rotl d a v
  | .minSl d a v => formSL t .min d a v
  | .maxSl d a v => formSL t .max d a v
  | .minnSl d a v => formSL t .minn d a v
  | .maxnSl d a v => formSL t .maxn d a v
  | .selSl d a v => some ⟨.sel, d, rdReg t a, valWord t v, [a, d]⟩
  | .addaSl d a v => formSL t .adda d a v
  | .addi d n => formSI t .add d n
  | .shli d n => formSI t .shl d n
  | .shri d n => formSI t .shr d n
  | .srai d n => formSI t .sra d n
  | .movi d n => some ⟨.mov, d, 0, BitVec.ofInt 64 n.toInt, []⟩
  | .movl d v => some ⟨.mov, d, 0, BitVec.ofInt 64 v.toInt, []⟩
  | .movk d k => some ⟨.mov, d, 0, BitVec.ofInt 64 (rdKb t k.toNat).toInt, []⟩
  | .movf d f => some ⟨.mov, d, 0, BitVec.ofNat 64 (f.toNat * 4096), []⟩
  | _ => none

/-- A predicate word: destination, value, the registers it reads, latency (R119, R122 to R124). -/
structure PForm where
  d   : PredN
  b   : Bool
  src : List Reg
  lat : Nat
/-- The float comparisons of R124 on the FP32 values of two registers: a NaN orders with nothing, −0 equals +0. -/
def fcmp (t : Tile) (a b : Reg) (f : FVal → FVal → Bool) : Bool :=
  f (fdec fp32 ((rdReg t a).toNat % 2 ^ 32)) (fdec fp32 ((rdReg t b).toNat % 2 ^ 32))
/-- The words that write a predicate. -/
def pForm (t : Tile) : Instr → Option PForm
  | .pcmpEq d a b => some ⟨d, rdReg t a == rdReg t b, [a, b], 1⟩
  | .pcmpNe d a b => some ⟨d, rdReg t a != rdReg t b, [a, b], 1⟩
  | .pcmpLt d a b => some ⟨d, decide ((rdReg t a).toInt < (rdReg t b).toInt), [a, b], 1⟩
  | .pcmpGe d a b => some ⟨d, decide ((rdReg t b).toInt ≤ (rdReg t a).toInt), [a, b], 1⟩
  | .pcmpLtn d a b => some ⟨d, decide ((rdReg t a).toNat < (rdReg t b).toNat), [a, b], 1⟩
  | .pcmpGen d a b => some ⟨d, decide ((rdReg t b).toNat ≤ (rdReg t a).toNat), [a, b], 1⟩
  | .pcmpEqSl d a v => some ⟨d, rdReg t a == valWord t v, [a], 1⟩
  | .pcmpNeSl d a v => some ⟨d, rdReg t a != valWord t v, [a], 1⟩
  | .pcmpLtSl d a v => some ⟨d, decide ((rdReg t a).toInt < (valWord t v).toInt), [a], 1⟩
  | .pcmpGeSl d a v => some ⟨d, decide ((valWord t v).toInt ≤ (rdReg t a).toInt), [a], 1⟩
  | .pcmpLtnSl d a v => some ⟨d, decide ((rdReg t a).toNat < (valWord t v).toNat), [a], 1⟩
  | .pcmpGenSl d a v => some ⟨d, decide ((valWord t v).toNat ≤ (rdReg t a).toNat), [a], 1⟩
  | .plogAnd d a b => some ⟨d, rdPred t a && rdPred t b, [], 1⟩
  | .plogOr d a b => some ⟨d, rdPred t a || rdPred t b, [], 1⟩
  | .plogXor d a b => some ⟨d, rdPred t a != rdPred t b, [], 1⟩
  | .plogAndn d a b => some ⟨d, rdPred t a && !rdPred t b, [], 1⟩
  | .pset d a => some ⟨d, rdReg t a != 0, [a], 1⟩
  | .fcmpEq d a b => some ⟨d, fcmp t a b feqV, [a, b], 4⟩
  | .fcmpLt d a b => some ⟨d, fcmp t a b fltV, [a, b], 4⟩
  | .fcmpLe d a b => some ⟨d, fcmp t a b (fun x y => fltV x y || feqV x y), [a, b], 4⟩
  | .fcmpUn d a b => some ⟨d, fcmp t a b (fun x y => decide (x = .nan ∨ y = .nan)), [a, b], 4⟩
  | _ => none

/-- A float word: destination, exact result, its operands, the registers it reads (R124). -/
structure FForm where
  d   : Reg
  x   : FVal
  ops : List FVal
  src : List Reg
/-- The FP32 value of a register's low half (R119). -/
def f32Reg (t : Tile) (a : Reg) : FVal := fdec fp32 ((rdReg t a).toNat % 2 ^ 32)
/-- The float words of R124: the exact sum, difference, product, or product and sum of the operands. -/
def fForm (t : Tile) : Instr → Option FForm
  | .fadd d a b => some ⟨d, faddV (f32Reg t a) (f32Reg t b), [f32Reg t a, f32Reg t b], [a, b]⟩
  | .fsub d a b => some ⟨d, faddV (f32Reg t a) (fnegate (f32Reg t b)), [f32Reg t a, f32Reg t b], [a, b]⟩
  | .fmul d a b => some ⟨d, fmulV (f32Reg t a) (f32Reg t b), [f32Reg t a, f32Reg t b], [a, b]⟩
  | .ffma d a b => some ⟨d, faddV (fmulV (f32Reg t a) (f32Reg t b)) (f32Reg t d), [f32Reg t a, f32Reg t b, f32Reg t d], [a, b, d]⟩
  | _ => none

/-- A conversion to an integer of w bits: the rounded value clamped to the type, and NV where it was clamped or NaN (R56,
R125). -/
def toIntRes (m : RMode) (lo hi : Int) (x : FVal) : Word × Bool × Bool :=
  (BitVec.ofInt 64 (ftoInt m lo hi x).1, false, (ftoInt m lo hi x).2)
/-- A conversion to a float format: the encoding, zero above, with OF and NV (R55, R125). -/
def toFloatRes (f : FFmt) (m : RMode) (x : FVal) : Word × Bool × Bool :=
  (BitVec.ofNat 64 (fconv f m false x).bits, (fconv f m false x).ovf, (fconv f m false x).nv)
/-- FCVT by its kind (R125): result, OF, NV. -/
def fcvtSpec (x : Word) (m : RMode) : FCvtKind → Word × Bool × Bool
  | .i32f32 => toIntRes m (-(2 ^ 31)) (2 ^ 31 - 1) (fdec fp32 (x.toNat % 2 ^ 32))
  | .i64f32 => toIntRes m (-(2 ^ 63)) (2 ^ 63 - 1) (fdec fp32 (x.toNat % 2 ^ 32))
  | .n32f32 => toIntRes m 0 (2 ^ 32 - 1) (fdec fp32 (x.toNat % 2 ^ 32))
  | .n64f32 => toIntRes m 0 (2 ^ 64 - 1) (fdec fp32 (x.toNat % 2 ^ 32))
  | .f32i64 => toFloatRes fp32 m (.fin (decide (x.toInt < 0)) x.toInt.natAbs 0)
  | .f32n64 => toFloatRes fp32 m (.fin false x.toNat 0)
  | .bf16f32 => toFloatRes fbf16 m (fdec fp32 (x.toNat % 2 ^ 32))
  | .f32bf16 => toFloatRes fp32 m (fdec fbf16 (x.toNat % 2 ^ 16))

/-- The coordinates of an index under extents with their reciprocals, innermost extent first, in the order in which they
are found; the outermost is what is left (R126). -/
def coords : List (BitVec 32 × BitVec 32 × BitVec 5) → Nat → List Int
  | [], _ => []
  | [_], x => [(x : Int)]
  | (n, m, sh) :: e :: r, x =>
    let q := if m = 0 then x else x * m.toNat / 2 ^ (32 + sh.toNat)
    ((x : Int) - q * n.toNat) :: coords (e :: r) q
/-- The coordinates will land in d, d + 1, … four cycles after issue. -/
def writesAll (s : State) : List Int → Nat → State → State
  | [], _, t => t
  | c :: r, d, t => writesAll s r (d + 1) (writesReg s (BitVec.ofNat 6 d) 4 (BitVec.ofInt 64 c) t)

/-- The words that read one thing of the tile, the domain or the device: destination and value (R108, R130, R131). -/
def readForm (s : State) : Instr → Option (Reg × Word)
  | .tid d => some (d, BitVec.ofNat 64 s.cur)
  | .cyc d => some (d, BitVec.ofNat 64 (tcAt s s.cur - t0At s s.cur))
  | .rdsr d n => some (d, specRead (me s) n)
  | _ => none
/-- The privileged reads (R131). -/
def privForm (s : State) : Instr → Option (Reg × Word)
  | .ptid d => some (d, BitVec.ofNat 64 ((if hostOf s s.cur = shaftOf s s.cur then 0 else 2 ^ 31) + dieOf s.cur % 8 * 2 ^ 24 +
      shaftOf s s.cur % 256 * 2 ^ 16 + hostOf s s.cur % 256 * 2 ^ 8))
  | .rdwc d => some (d, BitVec.ofNat 64 s.wallNs)
  | .rdtc d => some (d, BitVec.ofNat 64 (tcAt s s.cur))
  | _ => none

end Sys2Proof.Claims

/-- The integer words, with registers, values or immediates: the result of R120 and R121 lands in the destination one cycle
after issue, a product three cycles after; a0 takes none (R39, R95, R119, R120, R121). -/
def Obligations.IntegerWordsComputeTheirResults : Prop :=
  ∀ (i : Instr) (s : State) (f : AForm), aForm (me s) i = some f → Readable s f.src → Writable s f.d →
    exec i s = .next (writesReg s f.d f.op.latency (BitVec.ofInt 64 (f.op.result f.a f.y (rdReg (me s) f.d))) s)

/-- The comparisons by their FN, with a register and with a value (R122). -/
def Sys2Proof.Claims.pcmpWords : List (Nat × (PredN → Reg → Reg → Instr) × (PredN → Reg → Val → Instr)) :=
  [(0x15, .pcmpEq, .pcmpEqSl), (0x16, .pcmpNe, .pcmpNeSl), (0x17, .pcmpLt, .pcmpLtSl), (0x18, .pcmpGe, .pcmpGeSl),
   (0x19, .pcmpLtn, .pcmpLtnSl), (0x1A, .pcmpGen, .pcmpGenSl)]

/-- The comparisons and the predicate logic write the predicate that their table names, one cycle after issue, the float
comparisons four cycles after; p0 takes none; and each comparison is the word with its FN, pd in DST (R119, R122, R123, R124). -/
def Obligations.PredicateWordsComputeTheirResults : Prop :=
  (∀ (i : Instr) (s : State) (f : PForm), pForm (me s) i = some f → Readable s f.src →
    exec i s = .next (writesPred s f.d f.lat f.b s)) ∧
  ∀ x ∈ pcmpWords, ∀ (d : PredN) (a b : Reg) (v : Lit) (k : KbN),
    decodeWord 1 (2 ^ 20 * d.toNat + 2 ^ 14 * a.toNat + 2 ^ 8 * b.toNat + x.1) 0 = some (x.2.1 d a b) ∧
    decodeWord 1 (0x0C000000 + 2 ^ 20 * d.toNat + 2 ^ 14 * a.toNat + 2 ^ 8 * x.1) v = some (x.2.2 d a (.lit v)) ∧
    decodeWord 1 (0x0C002000 + 2 ^ 20 * d.toNat + 2 ^ 14 * a.toNat + 2 ^ 8 * x.1 + k.toNat) v = some (x.2.2 d a (.kb k))

/-- The float words round the exact result once to FP32, to nearest even; OF is raised when the rounded result overflows,
NV when a NaN is made of operands that are none; result and flags land four cycles after issue (R52 to R57, R119, R124). -/
def Sys2Proof.Claims.FloatWordsRoundTheExactResultOnce : Prop :=
  ∀ (i : Instr) (s : State) (f : FForm), fForm (me s) i = some f → Readable s f.src → Writable s f.d →
    exec i s = .next (raises s .sstat 4
      (ofNv (fround fp32 .rne false f.x).ovf (decide (f.x = .nan) && !(f.ops.any (fun v => decide (v = .nan)))))
      (writesReg s f.d 4 (BitVec.ofNat 64 (fround fp32 .rne false f.x).bits) s))

/-- FCVT converts by its kind and rounding mode, with its flags in SSTAT, four cycles after issue (R54 to R57, R119, R125). -/
def Sys2Proof.Claims.FcvtConvertsByKindAndMode : Prop :=
  ∀ (s : State) (d a : Reg) (m : RMode) (k : FCvtKind), Readable s [a] → Writable s d →
    exec (.fcvt d a m k) s = .next (raises s .sstat 4 (ofNv (fcvtSpec (rdReg (me s) a) m k).2.1 (fcvtSpec (rdReg (me s) a) m k).2.2)
      (writesReg s d 4 (fcvtSpec (rdReg (me s) a) m k).1 s))

/-- The float words round the exact result once, and FCVT converts by its kind and mode, each with its flags (R52 to R57, R119, R124, R125). -/
def Obligations.FloatWordsRoundOnceAndConvert : Prop :=
  Claims.FloatWordsRoundTheExactResultOnce ∧ Claims.FcvtConvertsByKindAndMode

/-- TIDX lands the coordinates of an index in consecutive registers four cycles after issue, TDIM an extent, or 0 beyond the
dimensions, one cycle after; a shape without dimensions, and for TIDX a0 as destination or a range past a63, is illegal (R101, R119, R126). -/
def Obligations.TensorIndexWordsFollowTheShape : Prop :=
  (∀ (s : State) (d a : Reg) (k : ShapeN), (shapeOf (me s) k).dims ≠ [] → d ≠ 0 →
    d.toNat + (shapeOf (me s) k).dims.length ≤ 64 → Readable s [a] →
    (∀ j < (shapeOf (me s) k).dims.length, Writable s (BitVec.ofNat 6 (d.toNat + j))) →
    exec (.tidx d a k) s =
      .next (writesAll s (coords (shapeOf (me s) k).dims.reverse ((rdReg (me s) a).toNat % 2 ^ 32)).reverse d.toNat s)) ∧
  (∀ (s : State) (d a : Reg) (k : ShapeN), (shapeOf (me s) k).dims ≠ [] → Readable s [a] → Writable s d →
    exec (.tdim d a k) s = .next (writesReg s d 1
      (((shapeOf (me s) k).dims[(rdReg (me s) a).toNat % 8]?).elim 0 (fun x => BitVec.ofNat 64 x.1.toNat)) s)) ∧
  (∀ (s : State) (d a : Reg) (k : ShapeN),
    ((shapeOf (me s) k).dims = [] ∨ d = 0 ∨ 64 < d.toNat + (shapeOf (me s) k).dims.length →
      exec (.tidx d a k) s = .next (takeTrap ⟨1, 0, 0, 0⟩ s.pipe (me s).bun none s.cur s)) ∧
    ((shapeOf (me s) k).dims = [] → exec (.tdim d a k) s = .next (takeTrap ⟨1, 0, 0, 0⟩ s.pipe (me s).bun none s.cur s)))

/-- TID, CYC and RDSR, and in a firmware timetable PTID, RDWC and RDTC, write what they read one cycle after issue; KST stores
into the constant bank and WRSR writes a special register, each to take effect one cycle after issue (R48, R100, R108, R119,
R129 to R131). -/
def Obligations.SystemWordsReadAndWriteTheirRegisters : Prop :=
  (∀ (i : Instr) (s : State) (d : Reg) (v : Word), readForm s i = some (d, v) ∨ (me s).firmware = true ∧ privForm s i = some (d, v) →
    Writable s d → exec i s = .next (writesReg s d 1 v s)) ∧
  (∀ (s : State) (a b : Reg), Readable s [a, b] → exec (.kst a b) s =
    .next (withAction s 1 (.kb ((rdReg (me s) b).toNat % 256) (BitVec.ofNat 32 (rdReg (me s) a).toNat)) s)) ∧
  (∀ (s : State) (n : SpecReg) (a : Reg), Readable s [a] → afReserved n (rdReg (me s) a) = false →
    exec (.wrsr n a) s = .next (withAction s 1 (.wrsr n (rdReg (me s) a)) s))

/-- In a tile task PTID, RDWC, RDTC, DMRW and DZQ take the privilege fault against their own word, whatever their operands
and guard, and DMRW and DZQ of an LP6 channel on a tile that owns none are illegal (R48, R131, R208, R287, R297; for the guard the
model's reading, log 18). -/
def Sys2Proof.Claims.PrivilegedWordsTrapInTileTasks : Prop :=
  (∀ (i : Instr) (s : State), privileged i = true → (me s).firmware = false →
    (∀ d, i = .ptid d ∨ i = .rdwc d ∨ i = .rdtc d → Writable s d) →
    (∀ g m a, i = .dmrw g true m a ∨ i = .dzq g true → ownsLp s.cur = true) →
    exec i s = .next (takeTrap ⟨2, 0, 0, 0⟩ s.pipe (me s).bun none s.cur s)) ∧
  ∀ (i : Instr) (s : State) (g : Guard) (m : ModeReg) (a : Reg), i = .dmrw g true m a ∨ i = .dzq g true → ownsLp s.cur = false →
    exec i s = .next (takeTrap ⟨1, 0, 0, 0⟩ s.pipe (me s).bun none s.cur s)

/-- An integer word of R120 or R121 that names a pending register takes exactly the timing fault of R72, and none of its effects:
cause 5, subcode 4, against its own word. -/
def Sys2Proof.Claims.PendingRegistersTrap : Prop :=
  ∀ (i : Instr) (s : State) (f : AForm), aForm (me s) i = some f → (¬ Writable s f.d ∨ ∃ r ∈ f.src, regPending s r = true) →
    exec i s = .next (takeTrap ⟨5, 4, 0, 0⟩ s.pipe (me s).bun none s.cur s)


/-! ## Landing, rotating names, control -/

namespace Sys2Proof.Claims

/-- p is the first action of the tile's calendar that is due and of a kind; r is the calendar without it (R69, R70). -/
def Due (s : State) (id : Nat) (kind : Act → Bool) (p : Pend) (r : List Pend) : Prop :=
  ∃ l m, (tileOf s id).cal = l ++ p :: m ∧ r = l ++ m ∧ p.due ≤ tcAt s id ∧ kind p.act = true ∧
    ∀ x ∈ l, ¬ (x.due ≤ tcAt s id ∧ kind x.act = true)
/-- The state without that action. -/
def without (s : State) (id : Nat) (r : List Pend) : State := setTile s id { tileOf s id with cal := r }
/-- What a landing leaves in its tile, as a program can read it, and that it changes nothing else (R5, R69 to R71, R96, R97,
R100, R130, R134, R140, R181 to R183). -/
def Landed (p : Pend) (x y : Tile) : Prop :=
  match p.act with
  | .reg n v => (n ≠ 0 → ∀ r : Reg, rdReg y r = if physReg x r.toNat = n then v else rdReg x r) ∧ y = { x with a := y.a }
  | .pred q b => (∀ r, rdPred y r = if r = q ∧ q ≠ 0 then b else rdPred x r) ∧ y = { x with preds := y.preds }
  | .mask m v => (∀ r, rdMask y r = if r = m ∧ m ≠ 0 then v else rdMask x r) ∧ y = { x with vm := y.vm }
  | .lc k v => (∀ j, rdLc y j = if j = k then v else rdLc x j) ∧ y = { x with lc := y.lc }
  | .stages b => (∀ r : PredN, rdPred y r = if r.toNat < 8 then rdPred x r else decide (r = 8) && b) ∧ y = { x with preds := y.preds }
  | .kb i v => (∀ j, rdKb y j = if j = i then v else rdKb x j) ∧ y = { x with kb := y.kb }
  | .flags n v =>
    (n = .sstat → y = { x with sstat := x.sstat ||| v }) ∧ (n = .vstat → y = { x with vstat := x.vstat ||| v }) ∧
      (n = .astat → y = { x with astat := x.astat ||| v })
  | .wrsr n v =>
    (n = .sstat → y = { x with sstat := x.sstat &&& ~~~(v &&& 3) }) ∧ (n = .astat → y = { x with astat := x.astat &&& ~~~(v &&& 7) }) ∧
      (n = .vstat → y = { x with vstat := (x.vstat &&& ~~~(v &&& 3) &&& ~~~0x0000FF0000000000) ||| (v &&& 0x0000FF0000000000) }) ∧
      (n = .pred → (∀ r : PredN, r ≠ 0 → rdPred y r = v.getLsbD r.toNat) ∧ y = { x with preds := y.preds }) ∧
      (n = .trot ∨ n = .segst → y = x) ∧
      (∀ k, n = .af k → (∀ j, rdAf y j = if j = k.toNat then v.setWidth 16 &&& 0xFF00 else rdAf x j) ∧ y = { x with af := y.af }) ∧
      (∀ k, (n = .lc0 ∧ k = 0) ∨ (n = .lc1 ∧ k = 1) ∨ (n = .lc2 ∧ k = 2) →
        (∀ j, rdLc y j = if j = k then v.setWidth 32 else rdLc x j) ∧ y = { x with lc := y.lc })
  | .push q v => (∀ j, qOf y j = if j = q then qOf x q ++ [⟨none, v⟩] else qOf x j) ∧ y = { x with queues := y.queues, spill := y.spill }
  | .agSet k sp b v1 v2 v3 =>
    (∀ j, agOf y j = if j = k then
        ⟨b, v1.extractLsb' 32 32, v1.extractLsb' 0 32, v2.extractLsb' 32 32, v2.extractLsb' 0 32, v3.extractLsb' 32 32,
          v3.extractLsb' 0 32, sp, (agOf x k).port, (agOf x k).run⟩ else agOf x j) ∧ y = { x with gens := y.gens }
  | .agBind k q => (∀ j, agOf y j = if j = k then { agOf x k with port := some q } else agOf x j) ∧ y = { x with gens := y.gens }
  | .agFree k => (∀ j, agOf y j = if j = k then { agOf x k with port := none, run := none } else agOf x j) ∧ y = { x with gens := y.gens }
  | .aswr row g v => (∀ k, tabGet xaEmpty y.acc k = if 128 * row + 32 * g ≤ k ∧ k < 128 * row + 32 * g + 32 then
      v.extractLsb' (96 * (k - (128 * row + 32 * g))) 96 else tabGet xaEmpty x.acc k) ∧ y = { x with acc := y.acc }
  | _ => True

/-- A branch word: two delay bundles follow, then the target when it is taken (R132). -/
def branches (s : State) (taken : Bool) (target : Nat) (s' : State) : State :=
  setTile s' s.cur { tileOf s' s.cur with
    delay := 3, branch := if taken then some ⟨target, (me s).bun, 2⟩ else (tileOf s' s.cur).branch }
/-- The condition p[P] XOR N of a B word. -/
def condTrue (t : Tile) (c : Cond) : Bool := if c.n then !rdPred t c.p else rdPred t c.p
/-- The B words but TCHK and SEGSEL (R132 to R137). -/
def controlWord : Instr → Bool
  | .br .. | .brl .. | .bri .. | .ret .. | .loop .. | .loopr .. | .segj .. | .joint .. | .waitcLit .. | .waitcReg ..
  | .tend .. | .trap .. => true
  | _ => false
/-- The body of a loop holds a word. -/
def inBody (w : Nat) (l : LoopSt) : Prop := l.first ≤ w ∧ w ≤ l.last
/-- A loop word may take effect: its counter is free, fewer than three loops are active, its body does not end before it
begins, and rotation has registers to rotate (R134). -/
def LoopFree (t : Tile) (k : LoopN) (e : PackN) (rot : Bool) : Prop :=
  (∀ l ∈ t.loops, l.k ≠ k.toNat) ∧ t.loops.length < 3 ∧ t.pc ≤ 3 * e.toNat + 2 ∧ (rot = true → t.rs ≠ 0)
/-- The operand of a loop word can be read, and its count. -/
def countOk (s : State) : RegLit → Prop
  | .reg r => Readable s [r]
  | .lit _ => True
def countOf (t : Tile) : RegLit → Nat
  | .reg r => (rdReg t r).toNat % 2 ^ 32
  | .lit v => v.toNat
/-- The loop is active from the next bundle on; LOOPR also loads the stage predicates (R134). -/
def startsLoop (s : State) (k : LoopN) (e : PackN) (n : Nat) (rot : Bool) (epi : Nat) : State :=
  let s1 := withAction s 1 (.lc k.toNat (BitVec.ofNat 32 n)) s
  let s2 := if rot then withAction s 1 (.stages (decide (n > epi))) s1 else s1
  setTile s2 s.cur { tileOf s2 s.cur with loops := ⟨k.toNat, (me s).pc, 3 * e.toNat + 2, rot, epi⟩ :: (me s).loops }
/-- The executing segment's successor is filled into the idle half from cycle f on (R136). -/
def fills (img : List Byte) (f : Nat) (n1 : Bool) (t : Tile) : Tile :=
  match segNext img (t.segs.getD (t.half % 2) 0) n1 with
  | some p => { t with pilot := ⟨f, true, n1, false, false⟩, segs := t.segs.set (1 - t.half % 2) p }
  | none => { t with pilot := ⟨f, false, n1, true, false⟩ }
/-- The image of the tile's timetable. -/
def image (s : State) (id : Nat) : List Byte := (ttOf s (tileOf s id).tt).img

end Sys2Proof.Claims

/-- A due write lands in its tile at the boundary into its cycle, does there what its kind says, and changes nothing else of
the machine; one of an ASWR over an entry in error faults and writes nothing (R69 to R71, R209, R260, R265). -/
def Sys2Proof.Claims.WritesLandInTheirTileOnly : Prop :=
  ∀ (s : State) (p : Pend) (r : List Pend), Due s s.ev.a (isLanding s.ev.flag) p r →
    ((∀ row g v k, p.act = .aswr row g v → k < 32 → eccBad s 4 s.ev.a (128 * row + 32 * g + k) = false) →
      ∃ y, exec .writeLands s = .next (setTile s s.ev.a y) ∧ Landed p { tileOf s s.ev.a with cal := r } y) ∧
    (∀ row g v, p.act = .aswr row g v → (∃ k < 32, eccBad s 4 s.ev.a (128 * row + 32 * g + k) = true) →
      ∃ a, exec .writeLands s = .next { takeTrap ⟨0x16, 0, 0, a⟩ p.pipe p.bun none s.ev.a (without s s.ev.a r) with ckpt := none })

/-- A scheduled action takes its place after every action of an earlier issue, and of the same issue and no later pipe, and
before all others: of two writes that land together the later-issued one is made last (R70). -/
def Sys2Proof.Claims.LandingsStandInIssueOrder : Prop :=
  ∀ (x : Pend) (l : List Pend), l.Pairwise (fun p q => pendBefore p q = true) →
    ∃ l1 l2, l = l1 ++ l2 ∧ insertPend x l = l1 ++ x :: l2 ∧
      (∀ p ∈ l1, p.issue < x.issue ∨ p.issue = x.issue ∧ p.pipe ≤ x.pipe) ∧
      (∀ p ∈ l2, x.issue < p.issue ∨ x.issue = p.issue ∧ x.pipe < p.pipe)

/-- The names of the scalar registers always denote distinct physical registers, and after a rotation each rotating name
denotes what the name below it denoted before (R95). -/
def Sys2Proof.Claims.RotatingNamesDenoteDistinctRegisters : Prop :=
  (∀ (t : Tile) (m n : Nat), t.rs ≤ 32 → m < 64 → n < 64 → physReg t m = physReg t n → m = n) ∧
  (∀ (t : Tile) (i : Nat), t.rs ≤ 32 → t.rb < t.rs → i + 1 < t.rs →
    physReg { t with rb := (t.rb + t.rs - 1) % t.rs } (32 + (i + 1)) = physReg t (32 + i))

/-- A due write lands in its tile and changes nothing else; actions stand in issue order; rotating names denote distinct registers (R69 to
R71, R95, R209, R260, R265). -/
def Obligations.WritesLandInIssueOrderInTheirTile : Prop :=
  Claims.WritesLandInTheirTileOnly ∧ Claims.LandingsStandInIssueOrder ∧ Claims.RotatingNamesDenoteDistinctRegisters

/-- BR, BRL, BRI and RET: two delay bundles follow and then, when the condition holds, the target; BRL's link, the word after
the second delay bundle, lands in a1 one cycle after issue, taken or not; in a delay bundle every B word but TCHK and SEGSEL is an
illegal instruction (R132, R133). -/
def Sys2Proof.Claims.BranchWordsTakeTheirTargets : Prop :=
  (∀ (s : State) (c : Cond) (k : PackN), (me s).delay = 0 →
    exec (.br c k) s = .next (branches s (condTrue (me s) c) (3 * k.toNat) s)) ∧
  (∀ (s : State) (c : Cond) (k : PackN) (w w' : Nat), (me s).delay = 0 → Writable s 1 →
    nextBundle (me s) (me s).pc = some w → nextBundle (me s) w = some w' →
    exec (.brl c k) s = .next (branches s (condTrue (me s) c) (3 * k.toNat) (writesReg s 1 1 (BitVec.ofNat 64 w') s))) ∧
  (∀ (s : State) (c : Cond) (a : Reg), (me s).delay = 0 → Readable s [a] →
    exec (.bri c a) s = .next (branches s (condTrue (me s) c) (rdReg (me s) a).toNat s)) ∧
  (∀ (s : State) (c : Cond), (me s).delay = 0 → Readable s [1] →
    exec (.ret c) s = .next (branches s (condTrue (me s) c) (rdReg (me s) 1).toNat s)) ∧
  (∀ (s : State) (i : Instr), (me s).delay ≠ 0 → controlWord i = true →
    exec i s = .next (takeTrap ⟨1, 0, 0, 0⟩ s.pipe (me s).bun none s.cur s))

/-- After the delay bundles control goes to the target, and the loops whose body, or whose outer loop's body, does not hold it
end; a target at word 255 or above or not at the start of a packet is a misaligned-target fault, and an uncorrectable error in the
words of its bundle a fetch fault, each with the target in TFPC and the branch in TBPC (R133, R134, R204, R209; that the error of a
target's words names the branch in TBPC, and that TFPC keeps the low eight bits of a target at 256 or above, is log 16's reading). -/
def Sys2Proof.Claims.TheBranchTargetIssuesOrFaults : Prop :=
  ∀ (s : State) (id : Nat) (b : BrSt), s.ev.a = id → (tileOf s id).branch = some b → b.left = 0 → (tileOf s id).wait = .none →
    (tileOf s id).hold = .none → (tileOf s id).next ≤ tcAt s id →
    (b.target < 255 ∧ b.target % 3 = 0 → (∀ k, codeEcc s id (tileOf s id) b.target (fetchEnd (halfWord (tileOf s id)) 7 b.target 0) = some k →
      exec .branchTargetFetch s = .next (takeTrap ⟨0x16, 0, 0, BitVec.ofNat 64 (2 ^ 56 + k)⟩ 0xF
        ⟨(tileOf s id).segs.getD ((tileOf s id).half % 2) 0, (tileOf s id).half, b.target⟩ (some b.bun) id s))) ∧
    (b.target < 255 ∧ b.target % 3 = 0 → codeEcc s id (tileOf s id) b.target (fetchEnd (halfWord (tileOf s id)) 7 b.target 0) = none →
      ∃ l1 l2, (tileOf s id).loops = l1 ++ l2 ∧ (∀ l ∈ l2, inBody b.target l) ∧
      (∀ l ∈ l1.getLast?, ¬ inBody b.target l) ∧
      exec .branchTargetFetch s = .next (setTile s id { tileOf s id with pc := b.target, branch := none, loops := l2 })) ∧
    (255 ≤ b.target ∨ b.target % 3 ≠ 0 → exec .branchTargetFetch s =
      .next (takeTrap ⟨3, 0, 0, 0⟩ 0xF ⟨(tileOf s id).segs.getD ((tileOf s id).half % 2) 0, (tileOf s id).half, b.target⟩
        (some b.bun) id s))

/-- The branch words take their targets after two delay bundles, and a target that is none is a fault; a B word in a delay bundle is
illegal (R132 to R134, R204, R209; an error in the words of a target names the branch in TBPC, the row that log 16 deduces). -/
def Obligations.BranchesReachTheirTargetsOrFault : Prop :=
  Claims.BranchWordsTakeTheirTargets ∧ Claims.TheBranchTargetIssuesOrFaults

/-- LOOP and LOOPR: a count of 0 skips the body, any other starts the loop; at the boundary after the body's last bundle the
counter falls by one and the body runs again, with the rotation and the stage shift of LOOPR, until it is 0 (R95, R96, R134; that a
skipped inner loop whose end packet is an outer loop's too decides nothing for the outer loop is log 32's reading). -/
def Obligations.HardwareLoopsCountTheirPasses : Prop :=
  (∀ (s : State) (k : LoopN) (n : RegLit) (e : PackN), (me s).delay = 0 → countOk s n → LoopFree (me s) k e false →
    exec (.loop k n e) s = .next (if countOf (me s) n = 0 then
      setTile s s.cur { me s with pc := 3 * e.toNat + 3, loopEnd := false } else startsLoop s k e (countOf (me s) n) false 0)) ∧
  (∀ (s : State) (x : EpiN) (k : LoopN) (n : RegLit) (e : PackN), (me s).delay = 0 → countOk s n → LoopFree (me s) k e true →
    exec (.loopr x k n e) s = .next (if countOf (me s) n = 0 then
      setTile s s.cur { me s with pc := 3 * e.toNat + 3, loopEnd := false } else startsLoop s k e (countOf (me s) n) true x.toNat)) ∧
  (∀ (s : State) (t : Tile) (l : LoopSt) (r : List LoopSt), t = tileOf s s.ev.a → t.loopEnd = true → t.loops = l :: r →
    t.pc = l.last + 1 →
    (rdLc t l.k ≠ 1 → ∃ y, exec .loopBack s = .next (setTile s s.ev.a y) ∧ y.pc = l.first ∧ y.loops = l :: r ∧
      (∀ j, rdLc y j = if j = l.k then rdLc t j - 1 else rdLc t j) ∧
      (l.rot = false → y.rb = t.rb ∧ y.preds = t.preds) ∧
      (l.rot = true → 0 < t.rs → y.rb = (t.rb + t.rs - 1) % t.rs ∧ ∀ p : PredN, p ≠ 0 → rdPred y p =
        if p.toNat < 8 then rdPred t p else if p = 8 then decide ((rdLc t l.k - 1).toNat > l.epi) else rdPred t (p - 1)) ∧
      y = { t with loopEnd := false, pc := y.pc, loops := y.loops, lc := y.lc, rb := y.rb, preds := y.preds }) ∧
    (rdLc t l.k = 1 → (∀ o ∈ r.head?, t.pc ≠ o.last + 1) → ∃ y, exec .loopBack s = .next (setTile s s.ev.a y) ∧ y.loops = r ∧
      (∀ j, rdLc y j = if j = l.k then 0 else rdLc t j) ∧ y = { t with loopEnd := false, loops := r, lc := y.lc }))

/-- SEGJ with a true condition swaps the halves and starts filling the old one; SEGSEL restarts the fill with another
successor, and nothing with the one that is being filled; a fill is complete 21 cycles after it began; a false condition changes nothing
(R33, R50, R136; that a SEGSEL of the same segment restarts nothing, and that a read in the cycle after shows the new fill, is log 32's
reading). -/
def Obligations.SegmentsSwapAndFill : Prop :=
  (∀ (s : State) (c : Cond), (me s).delay = 0 → condTrue (me s) c = true → (me s).loops = [] → (me s).pilot.ready = true →
    exec (.segj c) s = .next (setTile s s.cur (fills (image s s.cur) (now s + 1) false
      { me s with half := 1 - (me s).half % 2, pc := 0, loopEnd := false }))) ∧
  (∀ (s : State) (c : Cond), (me s).delay = 0 → condTrue (me s) c = true → (me s).loops = [] → (me s).pilot.ready = false →
    exec (.segj c) s = .next (takeTrap ⟨4, 0, 0, 0⟩ s.pipe (me s).bun none s.cur s)) ∧
  (∀ (s : State) (c : Cond) (k : PackN), (me s).delay = 0 → condTrue (me s) c = false →
    exec (.segj c) s = .next s ∧ exec (.segsel c k) s = .next s) ∧
  (∀ (s : State) (c : Cond) (k : PackN), condTrue (me s) c = true →
    exec (.segsel c k) s = .next (
      if segNext (image s s.cur) ((me s).segs.getD ((me s).half % 2) 0) (decide (k = 1)) =
          (if (me s).pilot.none then none else (me s).segs[1 - (me s).half % 2]?) then s
      else setTile s s.cur (fills (image s s.cur) (now s + 1) (decide (k = 1)) (me s)))) ∧
  (∀ (s : State) (t : Tile), t = tileOf s s.ev.a → t.pilot.busy = true → tcAt s s.ev.a = t.pilot.start + 21 →
    exec .pilotFillDone s = .next (setTile s s.ev.a { t with
      pilot := { t.pilot with busy := false, ready := true },
      code := t.code.set (1 - t.half % 2) (segWords (image s s.ev.a) (t.segs.getD (1 - t.half % 2) 0)) }))

/-- The timed points, waits and the end of a task: a TCHK on time passes, early or late it is a timing fault; a JOINT completes
at its cycle, waits before it, and is missed after it; WAITC, whose literal widens by its sign, holds until its cycle in elastic code and faults in rigid code;
TEND ends the task; NOP and MHOLE do nothing; the bundle after a wait issues in the cycle after it ends (R37, R105, R106, R109,
R137; that a JOINT's mode, elastic beside a covering DRAIN, is in force from the next bundle on is log 14's reading, that CYC is compared
as an unsigned number log 32's). The JOINT that a divergence stopped passes after the resume (R214). -/
def Obligations.TimedWordsKeepTheirCycles : Prop :=
  (∀ s : State, exec .nop s = .next s ∧ exec .mhole s = .next s) ∧
  (∀ (s : State) (c : Cond) (v : Lit), (me s).elastic = false → condTrue (me s) c = false ∨ cyc s % 2 ^ 32 = v.toNat →
    exec (.tchk c v) s = .next s) ∧
  (∀ (s : State) (c : Cond) (v : Lit), (me s).elastic = false → condTrue (me s) c = true → cyc s % 2 ^ 32 ≠ v.toNat →
    exec (.tchk c v) s = .next (takeTrap ⟨5, if v.toNat < cyc s % 2 ^ 32 then 2 else 3, 0, 0⟩ s.pipe (me s).bun none s.cur s)) ∧
  (∀ (s : State) (v : Lit) (j : Nat) (h g : Bool), (me s).delay = 0 → (me s).skip ≠ some (now s, 0x17) → v.toNat < 256 →
    jointEntry (image s s.cur) v.toNat = (j, true, h, g) →
    (cyc s = j → exec (.joint v) s = .next (setTile s s.cur { me s with modeNext := some ((me s).modeNext == some true) })) ∧
    (cyc s < j → exec (.joint v) s = .next (setTile s s.cur { me s with wait := .joint (t0At s s.cur + j) (me s).bun })) ∧
    (j < cyc s → exec (.joint v) s = .next (takeTrap ⟨6, 0, 0, 0⟩ s.pipe (me s).bun none s.cur s))) ∧
  (∀ (s : State) (v : Lit) (j : Nat) (h g : Bool), (me s).delay = 0 → (me s).skip = some (now s, 0x17) → v.toNat < 256 →
    jointEntry (image s s.cur) v.toNat = (j, true, h, g) →
    exec (.joint v) s = .next (setTile s s.cur { me s with modeNext := some ((me s).modeNext == some true) })) ∧
  (∀ (s : State) (v : Nat) (i : Instr), (me s).delay = 0 →
    (∃ l : Lit, i = .waitcLit l ∧ v = (l.signExtend 64).toNat) ∨ (∃ a, i = .waitcReg a ∧ Readable s [a] ∧ v = (rdReg (me s) a).toNat) →
    (v ≤ cyc s → exec i s = .next (setTile s s.cur (me s))) ∧
    (cyc s < v → (me s).elastic = true →
      exec i s = .next (setTile s s.cur { me s with wait := .waitc (t0At s s.cur + v) (me s).bun })) ∧
    (cyc s < v → (me s).elastic = false → exec i s = .next (takeTrap ⟨5, 8, 0, 0⟩ s.pipe (me s).bun none s.cur s))) ∧
  (∀ (s : State) (c : Cond), (me s).delay = 0 →
    exec (.tend c) s = .next (setTile s s.cur (if condTrue (me s) c then { me s with ended := true } else me s))) ∧
  (∀ (s : State) (t : Tile) (j : Nat) (b : BRef), t = tileOf s s.ev.a → t.wait = .joint j b → tcAt s s.ev.a = j →
    exec .jointRelease s = .next (setTile s s.ev.a { t with
      wait := .none, next := max t.next (j + 1), modeNext := some (t.modeNext == some true) })) ∧
  (∀ (s : State) (t : Tile) (v : Nat) (b : BRef), t = tileOf s s.ev.a → t.wait = .waitc v b → v ≤ tcAt s s.ev.a →
    exec .waitcRelease s = .next (setTile s s.ev.a { t with wait := .none, next := max t.next (tcAt s s.ev.a + 1) }))

/-! ## Vector words -/

namespace Sys2Proof.Claims

/-- A vector enters the queue at issue + lat (R138). -/
def pushes (s : State) (d : QN) (lat : Nat) (v : QVec) (s' : State) : State := withAction s lat (.push d v) s'
/-- Several vectors enter consecutive queues at issue + lat, in ascending order (R138). -/
def pushesAll (s : State) (lat : Nat) : List QVec → QN → State → State
  | [], _, t => t
  | v :: r, d, t => pushesAll s lat r (d + 1) (pushes s d lat v t)
/-- A mask will take a value at issue + 2; vm0 takes none (R41, R147). -/
def writesMask (s : State) (d : MaskN) (v : BitVec 512) (s' : State) : State :=
  if d = 0 then s' else withAction s 2 (.mask d v) s'

/-- A masked lanewise word (R138, R139): the vectors it takes, the registers it reads, destination, lane width in bytes,
latency, mask, what an active lane computes, and what an inactive lane holds. -/
structure VForm where
  src  : List QSrc
  need : List Reg
  d    : QN
  w    : Nat
  lat  : Nat
  m    : BitVec 512
  on   : List QVec → Nat → FRes
  off  : List QVec → Nat → Nat
/-- The lanes of its result. -/
def VForm.lanes (f : VForm) (vs : List QVec) : List FRes :=
  (List.range (512 / f.w)).map (fun i => if f.m.getLsbD i then f.on vs i else ⟨f.off vs i, false, false⟩)
/-- Its effect: the result enters the queue, and the flags of its active lanes are raised with it (R57, R138 to R140). -/
def VForm.effect (f : VForm) (s : State) (vs : List QVec) (t : Tile) : State :=
  raises s .vstat f.lat (ofNv ((f.lanes vs).any (·.ovf)) ((f.lanes vs).any (·.nv)))
    (pushes s f.d f.lat (ofLanes f.w ((f.lanes vs).map (·.bits))) (setTile s s.cur t))
/-- What a masked word needs: its vectors, its registers, its destination. -/
def VForm.Ready (f : VForm) (s : State) (vs : List QVec) (t : Tile) : Prop :=
  Takes s f.src vs t ∧ Readable s f.need ∧ Pushable s f.d

/-- The exact operations of R142 on three operands z, x, y. -/
inductive VOp where
  | add | sub | mul | fma | fms
  deriving DecidableEq, Repr
def VOp.int : VOp → Int → Int → Int → Int
  | .add, _, x, y => x + y
  | .sub, _, x, y => x - y
  | .mul, _, x, y => x * y
  | .fma, z, x, y => z * x + y
  | .fms, z, x, y => z * x - y
def VOp.flt : VOp → FVal → FVal → FVal → FVal
  | .add, _, x, y => faddV x y
  | .sub, _, x, y => faddV x (fnegate y)
  | .mul, _, x, y => fmulV x y
  | .fma, z, x, y => faddV (fmulV z x) y
  | .fms, z, x, y => faddV (fmulV z x) (fnegate y)
/-- qd is an operand. -/
def VOp.acc : VOp → Bool
  | .fma | .fms => true
  | _ => false
/-- The lane of an arithmetic word: an integer result is exact and then wraps, or is clamped under .sat; a float result is
rounded once, to nearest even (R143, R144). -/
def VOp.lane (o : VOp) (t : Ty) (sat : Bool) (z x y : Nat) : FRes :=
  if tyInt t then
    let r := o.int (tyVal t z) (tyVal t x) (tyVal t y)
    ⟨lowBits (8 * tyW t) (if sat then max (tyLo t) (min (tyHi t) r) else r), false, false⟩
  else
    let v := o.flt (fdec (tyFmt t) z) (fdec (tyFmt t) x) (fdec (tyFmt t) y)
    let nan := isNan (fdec (tyFmt t) x) || isNan (fdec (tyFmt t) y) || (o.acc && isNan (fdec (tyFmt t) z))
    ⟨(fround (tyFmt t) .rne sat v).bits, (fround (tyFmt t) .rne sat v).ovf, isNan v && !nan⟩
/-- Integer words take 2 cycles, float words 4 (R141). -/
def arithCycles (t : Ty) : Nat := if tyInt t then 2 else 4
/-- Lane i of the k-th vector taken. -/
def laneOf (w : Nat) (vs : List QVec) (k i : Nat) : Nat := lane w (vs.getD k 0) i
/-- A result without flags. -/
def noFlags (x : Nat) : FRes := ⟨x, false, false⟩
/-- An arithmetic word on two queues. -/
def vArith (t : Tile) (o : VOp) (sat : Bool) (d : QN) (a b : QSrc) (ty : Ty) (m : MaskN) : Option VForm :=
  let k := if o.acc then 1 else 0
  some ⟨(if o.acc then [⟨false, d⟩] else []) ++ [a, b], [], d, tyW ty, arithCycles ty, rdMask t m,
    fun vs i => o.lane ty sat (laneOf (tyW ty) vs 0 i) (laneOf (tyW ty) vs k i) (laneOf (tyW ty) vs (k + 1) i),
    fun vs i => laneOf (tyW ty) vs 0 i⟩
/-- A word of one lane function over its sources; an inactive lane is the first source's. -/
def vMap (t : Tile) (src : List QSrc) (d : QN) (ty : Ty) (lat : Nat) (m : MaskN) (f : Nat → Nat → FRes) : Option VForm :=
  some ⟨src, [], d, tyW ty, lat, rdMask t m, fun vs i => f (laneOf (tyW ty) vs 0 i) (laneOf (tyW ty) vs 1 i),
    fun vs i => laneOf (tyW ty) vs 0 i⟩
/-- A word of one value: the last operand of an accumulating form, or every lane of a broadcast. -/
def vValue (t : Tile) (o : Option VOp) (src : List QSrc) (d : QN) (ty : Ty) (lat : Nat) (m : MaskN) (v : Nat) : Option VForm :=
  match o with
  | some o => some ⟨src, [], d, tyW ty, lat, rdMask t m, fun vs i =>
      o.lane ty false (laneOf (tyW ty) vs 0 i) (laneOf (tyW ty) vs (if o.acc then 1 else 0) i) v, fun vs i => laneOf (tyW ty) vs 0 i⟩
  | none => some ⟨src, [], d, tyW ty, lat, rdMask t m, fun _ _ => noFlags v, fun _ _ => 0⟩
/-- The lesser, or the greater, of two lanes (R143, R144): signed or unsigned as the type names; on .um24 the mass; on floats
−0 below +0, and canonical NaN where either is NaN. -/
def minMax (ty : Ty) (big : Bool) (x y : Nat) : FRes :=
  let pick (less : Bool) (x y : Nat) : FRes := noFlags (if less = big then y else x)
  if ty = .um24 then pick (decide (x % 2 ^ 24 < y % 2 ^ 24)) (x % 2 ^ 24) (y % 2 ^ 24)
  else if tyInt ty then pick (decide (tyVal ty x < tyVal ty y)) x y
  else
    let a := fdec (tyFmt ty) x
    let b := fdec (tyFmt ty) y
    if isNan a || isNan b then noFlags (nanBits (tyFmt ty)) else pick (fltV a b || (feqV a b && fneg? a && !fneg? b)) x y
/-- The literal, constant-bank or immediate value in a lane: its low bits (R39). -/
def lowLane (ty : Ty) (v : Word) : Nat := v.toNat % 2 ^ (8 * tyW ty)
/-- The truncated-float immediate in a lane: FP32, or the same rounded to BF16 (R39). -/
def fimmLane (tf : Bool) (f : Fimm) : Nat :=
  if tf then (fround fbf16 .rne false (fdec fp32 (f.toNat * 4096))).bits else f.toNat * 4096
/-- The vector arithmetic of R142 to R145. -/
def vForm (t : Tile) : Instr → Option VForm
  | .vadd d a b ty m => vArith t .add false d a b ty m
  | .vaddSat d a b ty m => vArith t .add true d a b ty m
  | .vsub d a b ty m => vArith t .sub false d a b ty m
  | .vsubSat d a b ty m => vArith t .sub true d a b ty m
  | .vmul d a b ty m => vArith t .mul false d a b ty m
  | .vmulSat d a b ty m => vArith t .mul true d a b ty m
  | .vfma d a b ty m => vArith t .fma false d a b ty m
  | .vfmaSat d a b ty m => vArith t .fma true d a b ty m
  | .vfms d a b ty m => vArith t .fms false d a b ty m
  | .vfmsSat d a b ty m => vArith t .fms true d a b ty m
  | .vmin d a b ty m => vMap t [a, b] d ty 2 m (minMax ty false)
  | .vmax d a b ty m => vMap t [a, b] d ty 2 m (minMax ty true)
  | .vabs d a ty m => vMap t [a] d ty 2 m (fun x _ => noFlags (
      if tyInt ty then (tyVal ty x).natAbs % 2 ^ (8 * tyW ty) else x % 2 ^ (8 * tyW ty - 1)))
  | .vneg d a ty m => vMap t [a] d ty 2 m (fun x _ => noFlags (
      if tyInt ty then lowBits (8 * tyW ty) (-(tyVal ty x)) else x ^^^ 2 ^ (8 * tyW ty - 1)))
  | .vaddVi d ty m i => if tyInt ty then
      vValue t (some .add) [⟨false, d⟩] d ty 2 m (lowLane ty (BitVec.ofInt 64 i.toInt)) else none
  | .vbcastVi d ty m i => vValue t none [] d ty 2 m (lowLane ty (BitVec.ofInt 64 i.toInt))
  | .vaddVf d tf f => vValue t (some .add) [⟨false, d⟩] d (if tf then .bf16 else .f32) 4 0 (fimmLane tf f)
  | .vbcastVf d tf f => vValue t none [] d (if tf then .bf16 else .f32) 2 0 (fimmLane tf f)
  | .vfmaVl d a v ty m => vValue t (some .fma) [⟨false, d⟩, a] d ty (arithCycles ty) m (lowLane ty (valWord t v))
  | .vaddVl d a v ty m => vValue t (some .add) [a] d ty (arithCycles ty) m (lowLane ty (valWord t v))
  | _ => none

/-- The words of R146, R147 and R151 that compute or move lanes. -/
def vMoveForm (t : Tile) : Instr → Option VForm
  | .vand d a b ty m => vMap t [a, b] d ty 2 m (fun x y => noFlags (x &&& y))
  | .vor d a b ty m => vMap t [a, b] d ty 2 m (fun x y => noFlags (x ||| y))
  | .vxor d a b ty m => vMap t [a, b] d ty 2 m (fun x y => noFlags (x ^^^ y))
  | .vnot d a ty m => vMap t [a] d ty 2 m (fun x _ => noFlags (2 ^ (8 * tyW ty) - 1 - x))
  | .vshl d a b ty m => vMap t [a, b] d ty 2 m (fun x y => noFlags (x * 2 ^ (y % (8 * tyW ty)) % 2 ^ (8 * tyW ty)))
  | .vshr d a b ty m => vMap t [a, b] d ty 2 m (fun x y => noFlags (x / 2 ^ (y % (8 * tyW ty))))
  | .vsra d a b ty m => vMap t [a, b] d ty 2 m (fun x y =>
      noFlags (lowBits (8 * tyW ty) (sgn (8 * tyW ty) x / 2 ^ (y % (8 * tyW ty)))))
  | .vpopc d a ty m => vMap t [a] d ty 2 m (fun x _ => noFlags (((List.range (8 * tyW ty)).filter (fun i => x.testBit i)).length))
  | .vsel d a b ty m => some ⟨[a, b], [], d, tyW ty, 2, rdMask t m, fun vs i => noFlags (laneOf (tyW ty) vs 0 i),
      fun vs i => laneOf (tyW ty) vs 1 i⟩
  | .vperm d a b ty m => some ⟨[a, b], [], d, tyW ty, 3, rdMask t m, fun vs i => noFlags (laneOf (tyW ty) vs 0
      (if tyW ty = 1 then i / 256 * 256 + laneOf 1 vs 1 i else laneOf (tyW ty) vs 1 i % (512 / tyW ty))),
      fun vs i => laneOf (tyW ty) vs 0 i⟩
  | .vslideUp d a r ty m => some ⟨[a], [r.zeroExtend 6], d, tyW ty, 3, rdMask t m, fun vs i => noFlags (
      if i < (rdReg t (r.zeroExtend 6)).toNat then 0 else laneOf (tyW ty) vs 0 (i - (rdReg t (r.zeroExtend 6)).toNat)),
      fun vs i => laneOf (tyW ty) vs 0 i⟩
  | .vslideDn d a r ty m => some ⟨[a], [r.zeroExtend 6], d, tyW ty, 3, rdMask t m, fun vs i => noFlags (
      if 512 / tyW ty ≤ i + (rdReg t (r.zeroExtend 6)).toNat then 0 else laneOf (tyW ty) vs 0 (i + (rdReg t (r.zeroExtend 6)).toNat)),
      fun vs i => laneOf (tyW ty) vs 0 i⟩
  | .viota d ty m => some ⟨[], [], d, tyW ty, 2, rdMask t m, fun _ i => noFlags (i % 2 ^ (8 * tyW ty)), fun _ _ => 0⟩
  | .vbcast d r ty m => some ⟨[], [r.zeroExtend 6], d, tyW ty, 2, rdMask t m, fun _ _ =>
      noFlags (lowLane ty (rdReg t (r.zeroExtend 6))), fun _ _ => 0⟩
  | _ => none

/-- A mass of a value x at scale s: x · 2^s rounded to nearest even and clamped to 24 bits; a negative value gives 0 without a flag,
NaN gives 0 and NV, and a source above the range gives OF and NV (R57, R62; that both flags rise is log 31's reading). -/
def massOf (scale : Int) : FVal → FRes
  | .nan => ⟨0, false, true⟩
  | .inf neg => if neg then noFlags 0 else ⟨2 ^ 24 - 1, true, true⟩
  | .fin neg m e =>
    let n := roundShift .rne false m (-(e + scale))
    if neg then noFlags 0 else if n ≤ 2 ^ 24 - 1 then noFlags n else ⟨2 ^ 24 - 1, true, true⟩
/-- A lane of type st converted to type dt (R56, R57, R62, R148). -/
def convert (dt st : Ty) (rm : RMode) (sat : Bool) (scale : Int) (x : Nat) : FRes :=
  if dt = .um24 then massOf scale (fdec (tyFmt st) x)
  else if st = .um24 then noFlags ((fround fp32 .rne false (.fin false (x % 2 ^ 24) 0)).bits)
  else if tyInt st then fround (tyFmt dt) rm sat (.fin (decide (tyVal st x < 0)) (tyVal st x).natAbs 0)
  else if tyInt dt then
    ⟨lowBits (8 * tyW dt) (ftoInt rm (tyLo dt) (tyHi dt) (fdec (tyFmt st) x)).1, false,
      (ftoInt rm (tyLo dt) (tyHi dt) (fdec (tyFmt st) x)).2⟩
  else fconv (tyFmt dt) rm sat (fdec (tyFmt st) x)

/-- The fields of an FP32 encoding: exponent, fraction, sign (R51). -/
def expOf (x : Nat) : Nat := x / 2 ^ 23 % 256
def fracOf (x : Nat) : Nat := x % 2 ^ 23
def signOf (x : Nat) : Nat := x / 2 ^ 31 % 2
def isNan32 (x : Nat) : Bool := decide (expOf x = 255) && decide (fracOf x ≠ 0)
/-- ±∞ and canonical NaN, in FP32 (R51, R53). -/
def inf32 (sign : Nat) : Nat := 2 ^ 31 * sign + 0x7F800000
def nan32 : Nat := 0x7FC00000
/-- f and E of a finite nonzero encoding, whose value is ±(1 + f/2²³) × 2^E; a subnormal is normalised first (R157). -/
def normF (x : Nat) : Nat := if expOf x = 0 then fracOf x * 2 ^ (23 - Nat.log2 (fracOf x)) - 2 ^ 23 else fracOf x
def normE (x : Nat) : Int := if expOf x = 0 then (Nat.log2 (fracOf x) : Int) - 149 else (expOf x : Int) - 127
/-- Between entries i and i + 1 of a table that falls, or rises, with i = f[22:15] and d = f[14:0] (R158 to R161). -/
def falling (t : Nat → Nat) (f : Nat) : Nat := t (f / 2 ^ 15) - (t (f / 2 ^ 15) - t (f / 2 ^ 15 + 1)) * (f % 2 ^ 15) / 2 ^ 15
def rising (t : Nat → Nat) (f : Nat) : Nat := t (f / 2 ^ 15) + (t (f / 2 ^ 15 + 1) - t (f / 2 ^ 15)) * (f % 2 ^ 15) / 2 ^ 15
/-- RoundNE(±m × 2^e) in FP32, with its overflow flag (R54, R57). -/
def nearest32 (neg : Bool) (m : Nat) (e : Int) : FRes := fround fp32 .rne false (.fin neg m e)
/-- ⌊x × 2²³⌋ of a finite encoding: its significand is at 2^(max(exponent, 1) − 150) (R51, R160). -/
def floor23 (x : Nat) : Int :=
  let m : Int := (if signOf x = 1 then -1 else 1) * ((if expOf x = 0 then fracOf x else 2 ^ 23 + fracOf x : Nat) : Int)
  if 127 ≤ max (expOf x) 1 then m * 2 ^ (max (expOf x) 1 - 127) else m / 2 ^ (127 - max (expOf x) 1)
/-- VRCP (R158). -/
def rcpOf (x : Nat) : FRes :=
  if isNan32 x then noFlags nan32
  else if expOf x = 0 then noFlags (inf32 (signOf x))
  else if expOf x = 255 then noFlags (2 ^ 31 * signOf x)
  else nearest32 (signOf x = 1) (falling tabT (normF x)) (-26 - normE x)
/-- VRSQ (R159). -/
def rsqOf (x : Nat) : FRes :=
  if isNan32 x then noFlags nan32
  else if x % 2 ^ 31 = 0 then noFlags (inf32 (signOf x))
  else if signOf x = 1 then ⟨nan32, false, true⟩
  else if expOf x = 255 then noFlags 0
  else nearest32 false (falling (tabU (normE x % 2).toNat) (normF x)) (-26 - (normE x - normE x % 2) / 2)
/-- VEXP2 (R160). -/
def exp2Of (x : Nat) : FRes :=
  if isNan32 x then noFlags nan32
  else if expOf x = 255 then noFlags (if signOf x = 1 then 0 else inf32 0)
  else nearest32 false (rising tabV (floor23 x % 2 ^ 23).toNat) (floor23 x / 2 ^ 23 - 26)
/-- VLOG2 (R161): E + t × 2⁻²⁶ is (E × 2²⁶ + t) × 2⁻²⁶. -/
def log2Of (x : Nat) : FRes :=
  if isNan32 x then noFlags nan32
  else if x % 2 ^ 31 = 0 then noFlags (inf32 1)
  else if signOf x = 1 then ⟨nan32, false, true⟩
  else if expOf x = 255 then noFlags (inf32 0)
  else
    let v : Int := normE x * 2 ^ 26 + rising tabW (normF x)
    nearest32 (v < 0) v.natAbs (-26)
/-- One rounding of an exact value, carried forward; and whether it overflowed (R162). -/
def step32 (v : FVal) : FVal := fdec fp32 (fround fp32 .rne false v).bits
def over32 (v : FVal) : Bool := (fround fp32 .rne false v).ovf
/-- 1 − a × b, and b + b × e, exactly. -/
def oneLess (a b : FVal) : FVal := faddV (.fin false 1 0) (fnegate (fmulV a b))
def corrected (b e : FVal) : FVal := faddV b (fmulV b e)
/-- VRCPF and VRSQF of x and the approximation y (R162). -/
def refineOf (root : Bool) (x y : Nat) : FRes :=
  let a := fdec fp32 x
  let b := fdec fp32 y
  if isNan32 y then noFlags nan32
  else if x % 2 ^ 31 = 0 ∨ expOf x = 255 ∨ y % 2 ^ 31 = 0 ∨ expOf y = 255 then noFlags y
  else if root then
    let t := fmulV a b
    let e := oneLess (step32 t) b
    let h := fmulV (step32 e) (.fin false 1 (-1))
    let z := fround fp32 .rne false (corrected b (step32 h))
    ⟨z.bits, over32 t || over32 e || over32 h || z.ovf, false⟩
  else
    let e := oneLess a b
    let z := fround fp32 .rne false (corrected b (step32 e))
    ⟨z.bits, over32 e || z.ovf, false⟩
/-- A word that maps all lanes of w bytes, without a mask. -/
def vEvery (src : List QSrc) (d : QN) (w lat : Nat) (f : Nat → Nat → FRes) : Option VForm :=
  some ⟨src, [], d, w, lat, BitVec.allOnes 512, fun vs i => f (laneOf w vs 0 i) (laneOf w vs 1 i), fun _ _ => 0⟩
/-- VCVT and the approximation words: every lane, no mask (R148, R157 to R162). -/
def vFunForm (t : Tile) : Instr → Option VForm
  | .vcvt d a sat dt st rm => vEvery [a] d (tyW st) 3 (fun x _ => convert dt st rm sat (t.vstat.extractLsb' 40 8).toInt x)
  | .vrcp d a => vEvery [a] d 4 5 (fun x _ => rcpOf x)
  | .vrsq d a => vEvery [a] d 4 5 (fun x _ => rsqOf x)
  | .vexp2 d a => vEvery [a] d 4 5 (fun x _ => exp2Of x)
  | .vlog2 d a => vEvery [a] d 4 5 (fun x _ => log2Of x)
  | .vrcpf d a b => vEvery [a, b] d 4 4 (refineOf false)
  | .vrsqf d a b => vEvery [a, b] d 4 4 (refineOf true)
  | _ => none
/-- The tables of R157 as integer bounds: an entry n is ⌊r + 1/2⌋ exactly when (2n − 1) ≤ 2r < (2n + 1), and the powers of r are
rational. Table W, a logarithm, has no such bound here. -/
def tablesRounded : Prop :=
  (∀ i ≤ 256, (2 * tabT i - 1) * (256 + i) ≤ 2 ^ 35 ∧ 2 ^ 35 < (2 * tabT i + 1) * (256 + i)) ∧
  (∀ p ≤ 1, ∀ i ≤ 256, (2 * tabU p i - 1) ^ 2 * (2 ^ p * (256 + i)) ≤ 2 ^ 62 ∧ 2 ^ 62 < (2 * tabU p i + 1) ^ 2 * (2 ^ p * (256 + i))) ∧
  (∀ i ≤ 256, (2 * tabV i - 1) ^ 256 ≤ 2 ^ (27 * 256 + i) ∧ 2 ^ (27 * 256 + i) < (2 * tabV i + 1) ^ 256)

/-- The comparisons of R147 on two lanes of a type. -/
inductive VCond where
  | eq | ne | lt | le | un
  deriving DecidableEq, Repr
def VCond.holds (c : VCond) (ty : Ty) (x y : Nat) : Bool :=
  let a := fdec (tyFmt ty) x
  let b := fdec (tyFmt ty) y
  match c with
  | .eq => if tyInt ty then decide (x = y) else feqV a b
  | .ne => if tyInt ty then decide (x ≠ y) else !feqV a b
  | .lt => if tyInt ty then decide (tyVal ty x < tyVal ty y) else fltV a b
  | .le => if tyInt ty then decide (tyVal ty x < tyVal ty y ∨ x = y) else fltV a b || feqV a b
  | .un => isNan a || isNan b
/-- The compare words: mask, condition, sources, type, mask of active lanes. -/
def vCmpForm : Instr → Option (MaskN × VCond × QSrc × QSrc × Ty × MaskN)
  | .vcmpEq v a b ty m => some (v, .eq, a, b, ty, m)
  | .vcmpNe v a b ty m => some (v, .ne, a, b, ty, m)
  | .vcmpLt v a b ty m => some (v, .lt, a, b, ty, m)
  | .vcmpLe v a b ty m => some (v, .le, a, b, ty, m)
  | .vcmpUn v a b ty m => some (v, .un, a, b, ty, m)
  | _ => none
/-- The mask-logic words (R147). -/
def vmlogForm (t : Tile) : Instr → Option (MaskN × BitVec 512)
  | .vmlogAnd v a b => some (v, rdMask t a &&& rdMask t b)
  | .vmlogOr v a b => some (v, rdMask t a ||| rdMask t b)
  | .vmlogXor v a b => some (v, rdMask t a ^^^ rdMask t b)
  | .vmlogAndn v a b => some (v, rdMask t a &&& ~~~(rdMask t b))
  | _ => none

/-- Element i of a vector of a type: a lane, or a nibble of .e2m1 (R58, R149). -/
def element (ty : Ty) (v : QVec) (i : Nat) : Nat := if ty = .e2m1 then v.toNat / 16 ^ i % 16 else lane (tyW ty) v i
/-- The lanes of a VSHUF pattern over n lanes of w bytes (R151). -/
def shuffled (w n p : Nat) (x y : QVec) (i : Nat) : Nat :=
  match p with
  | 0 => lane w (if i % 2 = 0 then x else y) (i / 2)
  | 1 => lane w (if i % 2 = 0 then x else y) (i / 2 + n / 2)
  | 2 => if i < n / 2 then lane w x (2 * i) else lane w y (2 * (i - n / 2))
  | 3 => if i < n / 2 then lane w x (2 * i + 1) else lane w y (2 * (i - n / 2) + 1)
  | _ => lane w x (n - 1 - i)
/-- A field of VSTAT. -/
def vstatField (t : Tile) (lo w : Nat) : Nat := t.vstat.toNat / 2 ^ lo % 2 ^ w
/-- VSTAT outside the bits lo to hi − 1 is as before. -/
def vstatKeeps (x y : Tile) (lo hi : Nat) : Prop := ∀ k, k < lo ∨ hi ≤ k → y.vstat.getLsbD k = x.vstat.getLsbD k
/-- The stream of a count and a width field takes a type: it is empty, or of that width (R153). -/
def streamTakes (t : Tile) (cnt w : Nat) (ty : Ty) : Prop := vstatField t cnt 10 = 0 ∨ 2 ^ vstatField t w 2 = tyW ty
/-- The number of active lanes below i. -/
def activeBelow (m : BitVec 512) (i : Nat) : Nat := ((List.range i).filter (fun k => m.getLsbD k)).length

/-- A node of the pairwise tree over leaves, k levels above them: the FP32 rounding of the sum of two nodes (R67). -/
def treeNode (leaf : Nat → RNode) : Nat → Nat → RNode
  | 0, i => leaf i
  | k + 1, i => raddN (treeNode leaf k (2 * i)) (treeNode leaf k (2 * i + 1))
/-- The levels of the tree: 128 leaves under Sienna, a group of sixteen lanes a leaf under Umber; one more in a wide form. -/
def treeLevels (ty : Ty) (wide : Bool) : Nat := (if ty = .f32 then 7 else if tyW ty = 2 then 4 else 5) + (if wide then 1 else 0)
/-- The leaves of a dot product of elements x and y: products rounded to FP32, or exact sums of sixteen products rounded
once (R67). -/
def dotLeaves (ty : Ty) (x y : Nat → Nat) (g : Nat) : RNode :=
  let v (e : Nat) := fdec (tyFmt ty) e
  let p (i : Nat) := fmulV (v (x i)) (v (y i))
  let bad (i : Nat) := isNan (p i) && !(isNan (v (x i)) || isNan (v (y i)))
  if ty = .f32 then rnode (p g) false (bad g)
  else umberGroup ((List.range 16).map (fun j => p (16 * g + j))) ((List.range 16).any (fun j => bad (16 * g + j)))
/-- The leaves of a reduction: the elements, +0 outside the mask (R67). -/
def redLeaves (ty : Ty) (m : BitVec 512) (x : Nat → Nat) (g : Nat) : RNode :=
  let v (i : Nat) : FVal := if m.getLsbD i then fdec (tyFmt ty) (x i) else .fin false 0 0
  if ty = .f32 then ⟨v g, false, false⟩ else umberGroup ((List.range 16).map (fun j => v (16 * g + j))) false
/-- A reduction: the queues it takes, destination, accumulator if any, levels, leaves over the vectors after the
accumulator. -/
structure RedForm where
  src  : List QSrc
  d    : QN
  acc  : Bool
  lev  : Nat
  leaf : List QVec → Nat → RNode
/-- The reductions of R156; element i of a wide operand is lane i mod n of its register ⌊i / n⌋. -/
def redForm (t : Tile) : Instr → Option RedForm
  | .vdot d a b ty _ => some ⟨[a, b], d, false, treeLevels ty false, fun vs => dotLeaves ty (laneOf (tyW ty) vs 0) (laneOf (tyW ty) vs 1)⟩
  | .vdotAcc d a b ty _ =>
    some ⟨[⟨false, d⟩, a, b], d, true, treeLevels ty false, fun vs => dotLeaves ty (laneOf (tyW ty) vs 0) (laneOf (tyW ty) vs 1)⟩
  | .vred d a m ty _ => some ⟨[a], d, false, treeLevels ty false, fun vs => redLeaves ty (rdMask t m) (laneOf (tyW ty) vs 0)⟩
  | .vredAcc d a m ty _ =>
    some ⟨[⟨false, d⟩, a], d, true, treeLevels ty false, fun vs => redLeaves ty (rdMask t m) (laneOf (tyW ty) vs 0)⟩
  | .vdotW d a b ty _ => some ⟨[a, ⟨a.pk, a.q + 1⟩, b, ⟨b.pk, b.q + 1⟩], d, false, treeLevels ty true, fun vs =>
      dotLeaves ty (fun i => laneOf (tyW ty) vs (i / (512 / tyW ty)) (i % (512 / tyW ty)))
        (fun i => laneOf (tyW ty) vs (2 + i / (512 / tyW ty)) (i % (512 / tyW ty)))⟩
  | .vdotWAcc d a b ty _ => some ⟨[⟨false, d⟩, a, ⟨a.pk, a.q + 1⟩, b, ⟨b.pk, b.q + 1⟩], d, true, treeLevels ty true, fun vs =>
      dotLeaves ty (fun i => laneOf (tyW ty) vs (i / (512 / tyW ty)) (i % (512 / tyW ty)))
        (fun i => laneOf (tyW ty) vs (2 + i / (512 / tyW ty)) (i % (512 / tyW ty)))⟩
  | _ => none
/-- The root of a reduction over the vectors it takes; an accumulator is added in one further node (R67, R156). -/
def RedForm.root (f : RedForm) (vs : List QVec) : RNode :=
  if f.acc then raddN (treeNode (f.leaf vs.tail) f.lev 0) ⟨fdec fp32 (laneOf 4 vs 0 0), false, false⟩
  else treeNode (f.leaf vs) f.lev 0

end Sys2Proof.Claims

/-- The vector arithmetic words, on queues and on values: in every active lane the exact result of R142, reduced or rounded as
R143 and R144 say; in the others the first source's lane; the vector enters the destination and its flags are raised after the
latency of R141 (R39, R138 to R145). -/
def Obligations.VectorArithmeticComputesItsLanes : Prop :=
  ∀ (i : Instr) (s : State) (f : VForm) (vs : List QVec) (t : Tile), i.WellFormed → vForm (me s) i = some f → f.Ready s vs t →
    exec i s = .next (f.effect s vs t)

/-- The vector logic, shifts, selects, permutes, slides and broadcasts move or compute their lanes (R138, R139, R146, R147,
R151). -/
def Sys2Proof.Claims.VectorMovesComputeTheirLanes : Prop :=
  ∀ (i : Instr) (s : State) (f : VForm) (vs : List QVec) (t : Tile), i.WellFormed → vMoveForm (me s) i = some f → f.Ready s vs t →
    exec i s = .next (f.effect s vs t)

/-- VCVT and the approximation words of profile Indigo convert every lane by their rule, over tables whose entries T, U and V are the
rounded values of R157 (R148, R157 to R162; the flags of a conversion to .um24 are log 31's). -/
def Obligations.VectorConversionsComputeTheirLanes : Prop :=
  tablesRounded ∧ ∀ (i : Instr) (s : State) (f : VForm) (vs : List QVec) (t : Tile), i.WellFormed → vFunForm (me s) i = some f → f.Ready s vs t →
    exec i s = .next (f.effect s vs t)

/-- A compare word writes, two cycles after issue, a mask whose bit i is set exactly when lane i exists, is active and satisfies
the condition; the mask-logic words combine all 512 bits; vm0 takes nothing (R41, R147). -/
def Sys2Proof.Claims.VectorComparesWriteTheirMask : Prop :=
  (∀ (i : Instr) (s : State) (v : MaskN) (c : VCond) (a b : QSrc) (ty : Ty) (m : MaskN) (x y : QVec) (t : Tile),
    vCmpForm i = some (v, c, a, b, ty, m) → Takes s [a, b] [x, y] t → ∃ r : BitVec 512,
      (∀ k < 512, r.getLsbD k =
        (decide (k < 512 / tyW ty) && (rdMask (me s) m).getLsbD k && c.holds ty (lane (tyW ty) x k) (lane (tyW ty) y k))) ∧
      exec i s = .next (writesMask s v r (setTile s s.cur t))) ∧
  (∀ (i : Instr) (s : State) (v : MaskN) (r : BitVec 512), vmlogForm (me s) i = some (v, r) → exec i s = .next (writesMask s v r s))

/-- The logic, shift, permute and broadcast words compute their lanes, and the compares and mask logic write their mask (R139, R146, R147,
R151). -/
def Obligations.VectorMovesAndComparesComputeTheirLanes : Prop :=
  Claims.VectorMovesComputeTheirLanes ∧ Claims.VectorComparesWriteTheirMask

/-- VWIDEN, VNARROW, VMXS, VSHUF and VMOVQ push their vectors, over the registers and lanes that R149 to R151 say; VCLR empties
its queue at issue (R58 to R60, R141, R149 to R152). -/
def Sys2Proof.Claims.VectorRegroupingsPushTheirVectors : Prop :=
  (∀ (s : State) (d : QN) (a : QSrc) (dt st : Ty) (v : QVec) (t : Tile), (Instr.vwiden d a dt st).WellFormed → Takes s [a] [v] t →
    (∀ j < widenK dt st, Pushable s (d + BitVec.ofNat 4 j)) →
    exec (.vwiden d a dt st) s = .next (pushesAll s 3 ((List.range (widenK dt st)).map (fun j =>
      ofLanes (tyW dt) ((List.range (512 / tyW dt)).map (fun l =>
        let x := element st v (l * widenK dt st + j)
        if tyInt st then lowBits (8 * tyW dt) (tyVal st x) else (fconv (tyFmt dt) .rne false (fdec (tyFmt st) x)).bits)))) d
      (setTile s s.cur t))) ∧
  (∀ (s : State) (d : QN) (a : QSrc) (sat : Bool) (dt st : Ty) (rm : RMode) (vs : List QVec) (t : Tile),
    (Instr.vnarrow d a sat dt st rm).WellFormed →
    Takes s ((List.range (widenK st dt)).map (fun j => ⟨a.pk, a.q + BitVec.ofNat 4 j⟩)) vs t → Pushable s d →
    ∃ l : List FRes, l.length = (if dt = .e2m1 then 1024 else 512 / tyW dt) ∧
      (∀ j < l.length, let x := laneOf (tyW st) vs (j % widenK st dt) (j / widenK st dt)
        l[j]? = some (if tyInt st then noFlags (lowBits (8 * tyW dt) (if sat then max (tyLo dt) (min (tyHi dt) (tyVal st x)) else tyVal st x))
          else fconv (tyFmt dt) rm sat (fdec (tyFmt st) x))) ∧
      ∃ v : QVec, (∀ j < l.length, l[j]?.map (·.bits) = some (element dt v j)) ∧
        exec (.vnarrow d a sat dt st rm) s =
          .next (raises s .vstat 3 (ofNv (l.any (·.ovf)) (l.any (·.nv))) (pushes s d 3 v (setTile s s.cur t)))) ∧
  (∀ (s : State) (d : QN) (a : QSrc) (rm : RMode) (x : MxTy) (vs : List QVec) (t : Tile), (Instr.vmxs d a rm x).WellFormed →
    Takes s ((List.range 4).map (fun j => ⟨a.pk, a.q + BitVec.ofNat 4 j⟩)) vs t → Pushable s d → Pushable s (d + 1) →
    ∃ blk : List MxRes, blk = (List.range 16).map (fun b => mxBlock x rm ((List.range 32).map (fun i =>
        fdec fp32 (laneOf 4 vs (i % 4) ((32 * b + i) / 4))))) ∧
      exec (.vmxs d a rm x) s = .next (raises s .vstat 3 (ofNv (blk.any (·.ovf)) (blk.any (·.nv)))
        (pushesAll s 3 [mxElems x (blk.flatMap (·.codes)), ofLanes 1 (blk.map (·.scale))] d (setTile s s.cur t)))) ∧
  (∀ (s : State) (d : QN) (a b : QSrc) (ty : Ty) (p : ShufPat) (vs : List QVec) (t : Tile),
    Takes s (if p = 4 then [a] else [a, b]) vs t → Pushable s d →
    exec (.vshuf d a b ty p) s = .next (pushes s d 3 (ofLanes (tyW ty) ((List.range (512 / tyW ty)).map
      (shuffled (tyW ty) (512 / tyW ty) p.toNat (vs.getD 0 0) (vs.getD 1 0)))) (setTile s s.cur t))) ∧
  (∀ (s : State) (d : QN) (a : QSrc) (v : QVec) (t : Tile), Takes s [a] [v] t → Pushable s d →
    exec (.vmovq d a) s = .next (pushes s d 1 v (setTile s s.cur t))) ∧
  (∀ (s : State) (d : QN), qPending s d = false → ∃ y, exec (.vclr d) s = .next (setTile s s.cur y) ∧
    (∀ q, qOf y q = if q = d then [] else qOf (me s) q) ∧ y = { me s with queues := y.queues })

/-- The conditional streams: VPACKP appends the selected lanes to the pack buffer and pushes a full vector; its flush pushes what
is left, zero-filled, and reports the count in PLAST; VUNPK deals the next elements to the active lanes and pops the head when it
is used up; VCLR.strm starts both streams again (R140, R152 to R155). -/
def Sys2Proof.Claims.StreamsPackAndUnpackElements : Prop :=
  (∀ (s : State) (d : QN) (a : QSrc) (ty : Ty) (m : MaskN) (v : QVec) (t : Tile) (n : Nat) (buf : List Nat),
    n = 512 / tyW ty → (me s).pack.length < n → streamTakes (me s) 20 18 ty → Takes s [a] [v] t → Pushable s d →
    buf = (me s).pack ++ ((List.range n).filter (fun i => (rdMask (me s) m).getLsbD i)).map (lane (tyW ty) v) →
    ∃ s' y, s' = (if n ≤ buf.length then pushes s d 3 (ofLanes (tyW ty) (buf.take n)) (setTile s s.cur t) else setTile s s.cur t) ∧
      exec (.vpackp d a ty m) s = .next (setTile s' s.cur y) ∧ y = { tileOf s' s.cur with pack := y.pack, vstat := y.vstat } ∧
      y.pack = (if n ≤ buf.length then buf.drop n else buf) ∧ vstatField y 20 10 = y.pack.length ∧
      2 ^ vstatField y 18 2 = tyW ty ∧ vstatKeeps (me s) y 18 30) ∧
  (∀ (s : State) (d : QN) (ty : Ty), (me s).pack.length < 512 / tyW ty → streamTakes (me s) 20 18 ty → Pushable s d →
    ∃ s' y, s' = (if (me s).pack = [] then s else pushes s d 3 (ofLanes (tyW ty) (me s).pack) s) ∧
      exec (.vpackpFl d ty) s = .next (setTile s' s.cur y) ∧ y = { tileOf s' s.cur with pack := [], vstat := y.vstat } ∧
      vstatField y 30 10 = (me s).pack.length ∧ vstatField y 20 10 = 0 ∧
      (∀ k, k < 20 ∨ 40 ≤ k → y.vstat.getLsbD k = (me s).vstat.getLsbD k)) ∧
  (∀ (s : State) (d : QN) (a : QSrc) (ty : Ty) (m : MaskN) (n u : Nat) (h : QEnt) (rest : List QEnt), n = 512 / tyW ty →
    u = vstatField (me s) 8 10 → streamTakes (me s) 8 6 ty → qOf (me s) a.q = h :: rest → h.resv = none → QueueFree s a.q →
    Pushable s d → (n < u + activeBelow (rdMask (me s) m) n → rest ≠ []) →
    ∃ s' y, s' = pushes s d 3 (ofLanes (tyW ty) ((List.range n).map (fun i =>
        if (rdMask (me s) m).getLsbD i then
          let j := u + activeBelow (rdMask (me s) m) i
          if j < n then lane (tyW ty) h.val j else lane (tyW ty) (rest.map (·.val)).head! (j - n)
        else 0))) s ∧
      exec (.vunpk d a ty m) s = .next (setTile s' s.cur y) ∧ y = { tileOf s' s.cur with queues := y.queues, vstat := y.vstat } ∧
      (∀ q, qOf y q = if q = a.q ∧ n ≤ u + activeBelow (rdMask (me s) m) n then rest else qOf (me s) q) ∧
      vstatField y 8 10 = (u + activeBelow (rdMask (me s) m) n) % n ∧ 2 ^ vstatField y 6 2 = tyW ty ∧ vstatKeeps (me s) y 6 18) ∧
  (∀ s : State, ∃ y, exec .vclrStrm s = .next (setTile s s.cur y) ∧ y = { me s with pack := [], vstat := y.vstat } ∧
    vstatField y 6 2 = 0 ∧ vstatField y 8 10 = 0 ∧ vstatField y 18 2 = 0 ∧ vstatField y 20 10 = 0 ∧
    (∀ k, k < 6 ∨ 30 ≤ k → y.vstat.getLsbD k = (me s).vstat.getLsbD k))

/-- The words that split, join, shuffle and move vectors, and those that pack and unpack element streams, push what their rules say
(R149 to R155). -/
def Obligations.RegroupingsAndStreamsPushTheirVectors : Prop :=
  Claims.VectorRegroupingsPushTheirVectors ∧ Claims.StreamsPackAndUnpackElements

/-- VDOT and VRED: the root of the fixed pairwise tree over their leaves, with the accumulator in a last node, is pushed as lane 0
of an otherwise zero vector six cycles after issue, and the flags of every rounding are raised with it (R57, R67, R156). -/
def Obligations.ReductionsFollowTheFixedTree : Prop :=
  ∀ (i : Instr) (s : State) (f : RedForm) (vs : List QVec) (t : Tile), i.WellFormed → redForm (me s) i = some f →
    Takes s f.src vs t → Pushable s f.d →
    exec i s = .next (raises s .vstat 6 (ofNv (f.root vs).ovf (f.root vs).nv)
      (pushes s f.d 6 (BitVec.ofNat 4096 (fround fp32 .rne false (f.root vs).v).bits) (setTile s s.cur t)))

/-! ## Memory -/

namespace Sys2Proof.Claims

/-- The effective address: the base register plus the sign-extended offset, modulo 2^64 (R163). -/
def addrOf (t : Tile) (ma : MemA) : Word :=
  rdReg t ma.ba + (match ma.off with | some v => BitVec.ofInt 64 v.toInt | none => 0)
/-- The number in n bytes from an address, the lowest address lowest (R3). -/
def bytesAt (m : Memory) (a n : Nat) : Nat := ((List.range n).map (fun k => (byteAt m (a + k)).toNat * 256 ^ k)).sum
/-- The vector in the 512 bytes from an address (R3). -/
def vecAt (m : Memory) (a : Nat) : QVec := BitVec.ofNat 4096 (bytesAt m a 512)
/-- A loaded value of w bytes, sign- or zero-extended (R167). -/
def extended (signed : Bool) (w x : Nat) : Word :=
  if signed ∧ 2 ^ (8 * w - 1) ≤ x then BitVec.ofInt 64 ((x : Int) - 2 ^ (8 * w)) else BitVec.ofNat 64 x
/-- m' is m with the low n bytes of v stored from address a up, and no other byte changed (R3). -/
def Stored (m m' : Memory) (a n v : Nat) : Prop :=
  ∀ b, byteAt m' b = if a ≤ b ∧ b < a + n then BitVec.ofNat 8 (v / 256 ^ (b - a)) else byteAt m b

/-- The errors that stay: those that the n bytes at a do not cover (R243). -/
def Uncovered (s t : State) (code owner a n : Nat) : Prop :=
  ∀ x, x ∈ t.ecc ↔ x ∈ s.ecc ∧ ¬ (x.1 = code ∧ owner * 2 ^ 32 + a ≤ x.2 ∧ x.2 < owner * 2 ^ 32 + a + n)
/-- The bits of a storage line of 64 bytes of a half-macro that do not read as they were written (R243; log 30). -/
def wrongBits (s : State) (hm line : Nat) : Nat :=
  ((s.ecc.filter (fun x => x.1 = 3 && decide (hm * 2 ^ 32 + 8 * line ≤ x.2) && decide (x.2 < hm * 2 ^ 32 + 8 * line + 512))).eraseDups).length
/-- The lines of 64 bytes that n bytes from a touch. -/
def touchedLines (a n : Nat) : List Nat := (List.range ((a + n - 1) / 64 + 1 - a / 64)).map (fun i => 64 * (a / 64 + i))
/-- No line that the read touches has two wrong bits or more (R243). -/
def Correctable (s : State) (hm a n : Nat) : Prop := ∀ l ∈ touchedLines a n, wrongBits s hm l < 2
/-- The error log gets the lines of one wrong bit (R243). -/
def correctsLines (s : State) (hm a n : Nat) (s' : State) : State :=
  { s' with hc := { s'.hc with log := s'.hc.log ++
      ((touchedLines a n).filter (fun l => decide (wrongBits s hm l = 1))).map (fun l => .corrected (hm * 2 ^ 32 + l)) } }
/-- An M0 access of n aligned bytes that meets no other access of its bank in its cycle (R74, R164). -/
def M0Ok (s : State) (a : Word) (n : Nat) : Prop := a.toNat < 2 ^ 21 ∧ a.toNat % n = 0 ∧ m0Busy s (now s + 1) a.toNat = false
/-- An M1 address that the tile may use for n bytes: laid out as R165 says, aligned, inside a macro that exists, and, when it
is remote, of another tile of a partition of the same timetable's domain (R165, R166). -/
def M1Ok (s : State) (a : Word) (n : Nat) : Prop :=
  let f := m1Fields a
  m1Outside a = false ∧ a.toNat % n = 0 ∧ f.ofs < 30720 ∧ f.macro_ < macroCount s (m1Tile s.cur f) f.layer ∧
    (f.rem = true → m1Tile s.cur f ≠ s.cur ∧ partOf (m1Tile s.cur f) ∈ (domAt s (domOf s s.cur)).parts)
/-- An own-shaft access may use its half-macro at its cycle: storage mode, valid interfaces, no second access (R74, R239,
R246). -/
def ShaftOk (s : State) (a : Word) : Prop :=
  let f := m1Fields a
  let hm := m1Half s s.cur f
  (modeAt s (me s) hm (now s + 1 + f.layer)).1 = false ∧ lanesOk s s.cur (hmLayer hm) = true ∧
    hmBusy s s.cur (now s + 1 + f.layer) hm = false
/-- The word's access is outstanding: it has the next number, and its result, parts and page walk are still to come (R79, R85,
R166). -/
def issuesAccess (s : State) (m1 : Bool) (op : AccOp) (ord : MOrd) (scp : MScp) (parts : List Part) (walk done : Bool)
    (s' : State) : State :=
  setTile s' s.cur { tileOf s' s.cur with
    nacc := (tileOf s' s.cur).nacc + 1,
    out := (tileOf s' s.cur).out ++
      [⟨(tileOf s' s.cur).nacc, now s, s.pipe, (me s).bun, m1, op, ord, scp, parts, walk, done, 0, none, false, 0⟩] }
/-- A scalar destination is pending for that access; a0 is not (R72, R168). -/
def pendsReg (s : State) (d : Reg) (s' : State) : State :=
  if d = 0 then s' else setTile s' s.cur { tileOf s' s.cur with
    pendR := (tileOf s' s.cur).pendR ++ [(physReg (me s) d.toNat, (me s).nacc)] }
/-- n entries of a queue are reserved for that access (R169). -/
def reserves (s : State) (d : QN) (n : Nat) (s' : State) : State :=
  setTile s' s.cur (setQ (tileOf s' s.cur) d (qOf (tileOf s' s.cur) d ++ List.replicate n ⟨some (me s).nacc, 0⟩))
/-- A part of an access that has not performed. -/
def part (i va len data : Nat) : Part := ⟨i, va, len, data, false, 0⟩

/-- The guard of a word that carries one (R42); DMRW and DZQ check their privilege first. -/
def guardField : Instr → Option Guard
  | .ldsSigned g .. | .ldsUnsigned g .. | .sts g .. | .ldv g .. | .stv g .. | .sldSigned g .. | .sldUnsigned g .. | .sst g .. => some g
  | .gldSigned g .. | .gldUnsigned g .. | .gst g .. | .gldv g .. | .gstv g .. | .ggath g .. | .gscat g .. => some g
  | .gaadd g .. | .gaor g .. | .gaand g .. | .gamaxI g .. | .gamaxN g .. | .gaminI g .. | .gaminN g .. | .gaxch g .. => some g
  | .gacas g .. | .gaorv g .. | .fence g .. | .drain g .. | .barw g .. => some g
  | .kvlook g .. | .kvref g .. | .kvgath g .. | .kvapp g .. | .kvshr g .. | .kvrel g .. => some g
  | .agset g .. | .agbind g .. | .agrun g .. | .agstop g .. => some g
  | .mpush g .. | .mclr g .. | .mmodeC g .. | .mmodeS g .. | .mpmask g .. | .asrd g .. | .aswr g .. => some g
  | .mshift g .. | .macc g .. | .mdrain g .. => some g
  | .dact g .. | .dpre g .. | .dprea g .. | .drdM0 g .. | .drdSh g .. | .drdQ g .. | .dwrM0 g .. | .dwrSh g .. | .dwrQ g .. => some g
  | .dref g .. | .drefb g .. | .dwin g .. => some g
  | .mtclr g .. | .mtld g .. | .mtst g .. | .mtupd g .. | .mtadd g .. | .mtsum g .. | .mtfind g .. | .mtcut g .. => some g
  | .mtroot g .. | .mtleaf g .. | .mthor g .. => some g
  | _ => none

/-- A D word that names a channel its tile does not own, a column that the channel does not have, or a literal row that it does not
have: its channel field and the columns and rows that it needs (R287). -/
def dNames : Instr → Option (Bool × Nat × Nat)
  | .dact _ ch _ (.lit v) => some (ch, 0, v.toNat + 1)
  | .dact _ ch _ (.reg _) | .dpre _ ch _ | .dprea _ ch | .dref _ ch | .drefb _ ch _ | .dwin _ ch _ => some (ch, 0, 0)
  | .drdM0 _ ch _ o _ | .drdSh _ ch _ o _ | .drdQ _ ch _ o _ | .dwrM0 _ ch _ o _ | .dwrSh _ ch _ o _ | .dwrQ _ ch _ o _ =>
    some (ch, o.toNat + 1, 0)
  | _ => none
def IllegalD (s : State) (i : Instr) : Prop :=
  ∃ ch c r, dNames i = some (ch, c, r) ∧ ((ch = true ∧ ownsLp s.cur = false) ∨ (timingOf s (dChan s.cur ch)).cols < c ∨
    (timingOf s (dChan s.cur ch)).rows < r)

/-- The elements that an access of tile id checks, in order (R166, R171): each address canonical and aligned, its page present,
writable for a store, homed here for an atomic or a `.sc` word; in elastic code its translation is cached, in rigid code its page
is resident; the walk flag says that the elements up to the first that misses the cache are right and that one misses. -/
def RightElem (s : State) (id : Nat) (k : M2Chk) (va : Nat) : Prop :=
  canonical va = true ∧ va % k.align = 0 ∧
    ∃ g, pageOf s (partOf id) va = some g ∧ (k.wr = true → g.wr = true) ∧ (k.far = true → g.home = .here)
def ElemOk (s : State) (k : M2Chk) (va : Nat) : Prop :=
  RightElem s s.cur k va ∧ ((me s).elastic = false → isResident s s.cur va = true) ∧
    ((me s).elastic = true → isCached s (dieOf s.cur) (partOf s.cur) va = true)
/-- The elements before the first miss are right, and that one is no misaligned or impossible address. -/
def FirstMiss (s : State) (id : Nat) (k : M2Chk) (vas : List Nat) (va : Nat) : Prop :=
  ∃ l r, vas = l ++ va :: r ∧ (∀ x ∈ l, RightElem s id k x ∧ isCached s (dieOf id) (partOf id) x = true) ∧
    isCached s (dieOf id) (partOf id) va = false
/-- The first element that is not right, with the SUB of its case; those before it are right and cached (R166, R171, R202). -/
def FirstWrong (s : State) (id : Nat) (k : M2Chk) (vas : List Nat) (va n : Nat) : Prop :=
  (∃ l r, vas = l ++ va :: r ∧ ∀ x ∈ l, RightElem s id k x ∧ isCached s (dieOf id) (partOf id) x = true) ∧
  ((canonical va = false ∧ n = 1) ∨ (canonical va = true ∧ va % k.align ≠ 0 ∧ n = 2) ∨
    (canonical va = true ∧ va % k.align = 0 ∧ isCached s (dieOf id) (partOf id) va = true ∧
      ((pageOf s (partOf id) va = none ∧ n = 4) ∨ ∃ g, pageOf s (partOf id) va = some g ∧
        ((k.wr = true ∧ g.wr = false ∧ n = 5) ∨ (¬ (k.wr = true ∧ g.wr = false) ∧ k.far = true ∧ g.home ≠ .here ∧ n = 7)))))
def Translates (s : State) (k : M2Chk) (vas : List Nat) (walk : Bool) : Prop :=
  if walk then (me s).elastic = true ∧ ∃ l va r, vas = l ++ va :: r ∧ (∀ x ∈ l, ElemOk s k x) ∧ canonical va = true ∧
    va % k.align = 0 ∧ isCached s (dieOf s.cur) (partOf s.cur) va = false
  else ∀ va ∈ vas, ElemOk s k va
/-- A global word: registers it reads, register it writes, queue it reserves from, queues it takes from, operation, suffix,
checks, parts, and its effect at issue. -/
structure GForm where
  need : List Reg
  dst  : Option Reg
  resv : Option QN
  src  : List QSrc
  op   : AccOp
  sx   : Sfx
  chk  : M2Chk
  parts : List QVec → List Part
  eff  : State → State
/-- A vector access: its eight lines of 64 bytes (R83, R168). -/
def vecParts (va data : Nat) : List Part := (List.range 8).map (fun i => part i (va + 64 * i) 64 (data / 256 ^ (64 * i) % 256 ^ 64))
/-- The bytes of a gather's or an atomic's elements. -/
def gBytes (w : Wide) : Nat := if w then 8 else 4
/-- The element addresses of a gather or scatter: the base plus the zero-extended 32-bit indices (R171). -/
def gElems (base : Word) (w : Wide) (x : QVec) (d : Nat → Nat) : List Part :=
  (List.range (512 / gBytes w)).map (fun i => part i ((base.toNat + lane 4 x i) % 2 ^ 64) (gBytes w) (d i))
/-- A scalar load (R168). -/
def gLoad (s : State) (w : Width) (signed : Bool) (sx : Sfx) (d : Reg) (ma : MemA) : Option GForm :=
  some ⟨[ma.ba], some d, none, [], .load (2 ^ w.toNat) signed (physReg (me s) d.toNat), sx, ⟨false, sx.ord == .sc, 2 ^ w.toNat⟩,
    fun _ => [part 0 (addrOf (me s) ma).toNat (2 ^ w.toNat) 0], pendsReg s d⟩
/-- A scalar atomic: its second operand is the register or a literal, sign-extended (R172). -/
def gAtom (s : State) (fn : Nat) (w : Wide) (sx : Sfx) (d b : Reg) (y cmp : Word) (src : List Reg) : Option GForm :=
  some ⟨b :: src, some d, none, [], .atom fn (gBytes w) y cmp (decide (fn = fnMaxI ∨ fn = fnMinI) && !w) (physReg (me s) d.toNat), sx,
    ⟨true, true, gBytes w⟩, fun _ => [part 0 (rdReg (me s) b).toNat (gBytes w) 0], pendsReg s d⟩
def gAtom1 (s : State) (fn : Nat) (w : Wide) (sx : Sfx) (d b : Reg) (l : Option Lit) : Option GForm :=
  match l with
  | some v => gAtom s fn w sx d b (BitVec.ofInt 64 v.toInt) 0 []
  | none => gAtom s fn w sx d b (rdReg (me s) d) 0 [d]
/-- The words of global memory (R167 to R173). -/
def gForm (s : State) : Instr → Option (Guard × GForm)
  | .gldSigned g w sx d ma => (gLoad s w true sx d ma).map (g, ·)
  | .gldUnsigned g w sx d ma => (gLoad s w false sx d ma).map (g, ·)
  | .gst g w sx d ma => some (g, ⟨[ma.ba, d], none, none, [], .store, sx, ⟨true, sx.ord == .sc, 2 ^ w.toNat⟩,
      fun _ => [part 0 (addrOf (me s) ma).toNat (2 ^ w.toNat) ((rdReg (me s) d).toNat % 256 ^ 2 ^ w.toNat)], id⟩)
  | .gldv g sx d ma => some (g, ⟨[ma.ba], none, some d, [], .loadV d, sx, ⟨false, sx.ord == .sc, 64⟩,
      fun _ => vecParts (addrOf (me s) ma).toNat 0, reserves s d 1⟩)
  | .gstv g sx d ma => some (g, ⟨[ma.ba], none, none, [⟨false, d⟩], .store, sx, ⟨true, sx.ord == .sc, 64⟩,
      fun vs => vecParts (addrOf (me s) ma).toNat (vs.getD 0 0).toNat, id⟩)
  | .ggath g w sx d b => some (g, ⟨[b], none, some d, [⟨false, d + 1⟩], .gather (gBytes w) d, sx, ⟨false, sx.ord == .sc, gBytes w⟩,
      fun vs => gElems (rdReg (me s) b) w (vs.getD 0 0) (fun _ => 0), reserves s d 1⟩)
  | .gscat g w sx d b => some (g, ⟨[b], none, none, [⟨false, d + 1⟩, ⟨false, d⟩], .store, sx, ⟨true, sx.ord == .sc, gBytes w⟩,
      fun vs => gElems (rdReg (me s) b) w (vs.getD 0 0) (lane (gBytes w) (vs.getD 1 0)), id⟩)
  | .gaadd g w sx d b l => (gAtom1 s fnAdd w sx d b l).map (g, ·)
  | .gaor g w sx d b l => (gAtom1 s fnOr w sx d b l).map (g, ·)
  | .gaand g w sx d b l => (gAtom1 s fnAnd w sx d b l).map (g, ·)
  | .gamaxI g w sx d b l => (gAtom1 s fnMaxI w sx d b l).map (g, ·)
  | .gamaxN g w sx d b l => (gAtom1 s fnMaxN w sx d b l).map (g, ·)
  | .gaminI g w sx d b l => (gAtom1 s fnMinI w sx d b l).map (g, ·)
  | .gaminN g w sx d b l => (gAtom1 s fnMinN w sx d b l).map (g, ·)
  | .gaxch g w sx d b l => (gAtom1 s fnXch w sx d b l).map (g, ·)
  | .gacas g w sx d b => (gAtom s fnCas w sx d b (rdReg (me s) (d + 1)) (rdReg (me s) d) [d, d + 1]).map (g, ·)
  | .gaorv g sx d ma => some (g, ⟨[ma.ba], none, none, [⟨false, d⟩], .orv, sx, ⟨true, true, 64⟩,
      fun vs => [part 0 (addrOf (me s) ma).toNat 64 ((vs.getD 0 0).toNat % 256 ^ 64)], id⟩)
  | _ => none
/-- What a global word needs at issue: readable operands, a free destination, its page translations, and a `.sc` word a wheel
position of its tile (R72, R82, R98, R166, R169). -/
def GForm.Ready (f : GForm) (s : State) (vs : List QVec) (t : Tile) (walk : Bool) : Prop :=
  Readable s f.need ∧ (∀ d, f.dst = some d → Writable s d) ∧ (∀ q, f.resv = some q → isPort (me s) q = false) ∧
    Takes s f.src vs t ∧ Translates s f.chk ((f.parts vs).map (·.va)) walk ∧
    (f.sx.ord = .sc → (wheelOwner (image s s.cur) (now s % 4096)).map (taskTile (image s s.cur)) = some s.cur)

/-- The old value that an atomic finds, and what it leaves, as numbers of w bytes (R172). -/
def atomLeaves (fn w : Nat) (old y cmp : Nat) : Nat :=
  let lt (a b : Nat) : Bool := decide ((BitVec.ofNat (8 * w) a).toInt < (BitVec.ofNat (8 * w) b).toInt)
  if fn = fnAdd then (old + y) % 256 ^ w else if fn = fnOr then old ||| y else if fn = fnAnd then old &&& y
  else if fn = fnMaxI then (if lt old y then y else old) else if fn = fnMaxN then max old y
  else if fn = fnMinI then (if lt y old then y else old) else if fn = fnMinN then min old y
  else if fn = fnXch then y else if old = cmp then y else old
/-- The access and the part that the event names, at their home: the tile, the access, the part, its page, and the place of its
bytes in memory; no line of a part still open holds an uncorrectable error. -/
def Performs (s : State) (x : Acc) (p : Part) (g : Page) (a : Nat) : Prop :=
  accOf (tileOf s s.ev.a) s.ev.b = some x ∧ x.parts.find? (fun q => q.idx = s.ev.c) = some p ∧ partReady s s.ev.a x p = true ∧
    pageOf s (partOf s.ev.a) p.va = some g ∧ a = placeOf g p.va ∧
    ∀ q ∈ x.parts, q.done = false → ∀ g', pageOf s (partOf s.ev.a) q.va = some g' → eccLines s 7 0 (placeOf g' q.va) q.len = false
/-- The access has used the lines of n bytes from a that its channel's issuer had moved for it, under the name of the first part of
its unit (R280). -/
def usesLines (s : State) (x : Acc) (k a n : Nat) (s' : State) : State :=
  { s' with grants := s'.grants.filter (fun g => decide (¬ (g.1 = .acc s.ev.a x.id k ∧ 0 < n ∧ a / 64 ≤ g.2 ∧ 64 * g.2 < a + n))) }
/-- The place of a part; the parts of a unit have used their lines. -/
def placeOfPart (s : State) (p : Part) : Nat := match pageOf s (partOf s.ev.a) p.va with | some g => placeOf g p.va | none => 0
def usesParts (s : State) (x : Acc) (k : Nat) (u : List Part) (s' : State) : State :=
  u.foldl (fun s' q => usesLines s x k (placeOfPart s q) q.len s') s'
/-- The place of a byte is on a channel of another die than the tile's (R11, R26). -/
def otherDie (id a : Nat) : Bool :=
  decide (a < 2 ^ 62 ∧ chanOf a < 816 ∧ (if chanOf a < 768 then chanOf a / 128 else (chanOf a - 768) / 8) ≠ dieOf id)
/-- The cycle at which word of what performs now at a place is back at the tile: twelve later from another die; a frozen domain's TC
stands still (R87, R207). -/
def backAt (s : State) (a : Nat) : Nat :=
  if otherDie s.ev.a a ∧ (domAt s (domOf s s.ev.a)).frozen = false then tcAt s s.ev.a + 12 else 0
/-- Memory after the parts of a store have been written one after another. -/
def StoredParts (s : State) : List Part → Memory → Memory → Prop
  | [], m, m' => ∀ b, byteAt m' b = byteAt m b
  | p :: r, m, m' => ∃ k, Stored m k (placeOfPart s p) p.len p.data ∧ StoredParts s r k m'
/-- Outside the page of the discovery table (R22). -/
def Plain (a n : Nat) : Prop := a + n ≤ 2 ^ 62 ∨ 2 ^ 62 + 2 ^ 21 ≤ a
/-- The access after that part has performed at a place with what it read. -/
def Performed (s : State) (x y : Acc) (p : Part) (a got : Nat) (r : Word) : Prop :=
  y = { x with parts := x.parts.map (fun q => if q.idx = p.idx then { q with done := true, got := got } else q),
               done := y.done, result := r, back := max x.back (backAt s a) } ∧ (y.done = true ↔ ∀ q ∈ y.parts, q.done = true)
/-- An earlier access of the tile of access x, which has not performed. -/
def EarlierOpen (s : State) (id : Nat) (x y : Acc) : Prop :=
  y ∈ (tileOf s id).out ∧ y.id < x.id ∧ y.m1 = false ∧ y.op ≠ .fence ∧ y.done = false
/-- The operations that FENCE.acq and FENCE.rel name (R81): loads and atomics; stores and atomics. The berth words count by what
they do (R320). -/
def LoadsOrAtomics : AccOp → Prop
  | .load .. | .loadV .. | .gather .. | .atom .. | .orv | .kvlook .. | .kvref .. | .kvgath .. => True
  | _ => False
def StoresOrAtomics : AccOp → Prop
  | .store | .atom .. | .orv | .kvapp .. | .kvshr .. | .kvrel .. => True
  | _ => False

end Sys2Proof.Claims

/-- LDS, STS, LDV, STV and the own-shaft and remote SLD and SST, with right addresses: the access is due at issue + 1, or
issue + 1 + L in the shaft, with the operands read at issue; a remote one is outstanding (R73, R85, R163 to R168). -/
def Sys2Proof.Claims.TileMemoryWordsIssueTheirAccess : Prop :=
  (∀ (s : State) (g : Guard) (w : Width) (d : Reg) (ma : MemA) (sg : Bool), guardOn (me s) g = true →
    M0Ok s (addrOf (me s) ma) (2 ^ w.toNat) → Readable s [ma.ba] →
    (Writable s d → exec (if sg then .ldsSigned g w d ma else .ldsUnsigned g w d ma) s =
      .next (withAction s 1 (.m0Load (addrOf (me s) ma).toNat (2 ^ w.toNat) sg (physReg (me s) d.toNat)) s)) ∧
    (Readable s [d] → exec (.sts g w d ma) s =
      .next (withAction s 1 (.m0Store (addrOf (me s) ma).toNat (2 ^ w.toNat) (rdReg (me s) d)) s))) ∧
  (∀ (s : State) (g : Guard) (d : QN) (ma : MemA), guardOn (me s) g = true → M0Ok s (addrOf (me s) ma) 512 → Readable s [ma.ba] →
    (Pushable s d → exec (.ldv g d ma) s = .next (withAction s 1 (.m0LoadV (addrOf (me s) ma).toNat d) s)) ∧
    (∀ v t, Takes s [⟨false, d⟩] [v] t → exec (.stv g d ma) s =
      .next (withAction s 1 (.m0StoreV (addrOf (me s) ma).toNat v) (setTile s s.cur t)))) ∧
  (∀ (s : State) (g : Guard) (w : Width) (d : Reg) (ma : MemA) (sg : Bool) (f : M1Addr), guardOn (me s) g = true →
    (me s).elastic = false → f = m1Fields (addrOf (me s) ma) → M1Ok s (addrOf (me s) ma) (2 ^ w.toNat) → Readable s [ma.ba] →
    (f.rem = false → ShaftOk s (addrOf (me s) ma) →
      (Writable s d → exec (if sg then .sldSigned g w d ma else .sldUnsigned g w d ma) s = .next (withAction s (1 + f.layer)
        (.shLoad (m1Half s s.cur f) f.ofs (2 ^ w.toNat) sg (physReg (me s) d.toNat)) s)) ∧
      (Readable s [d] → exec (.sst g w d ma) s = .next (withAction s (1 + f.layer)
        (.shStore (m1Half s s.cur f) f.ofs (2 ^ w.toNat) (rdReg (me s) d)) s))) ∧
    (f.rem = true →
      (Writable s d → exec (if sg then .sldSigned g w d ma else .sldUnsigned g w d ma) s =
        .next (issuesAccess s true (.load (2 ^ w.toNat) sg (physReg (me s) d.toNat)) .rlx .none
          [part 0 (addrOf (me s) ma).toNat (2 ^ w.toNat) 0] false false (pendsReg s d s))) ∧
      (Readable s [d] → exec (.sst g w d ma) s = .next (issuesAccess s true .store .rlx .none
        [part 0 (addrOf (me s) ma).toNat (2 ^ w.toNat) (rdReg (me s) d).toNat] false false s))))

/-- M0_ACCESS, SHAFT_ACCESS and REMOTE_SHAFT_PERFORM: a load reads its bytes, lowest address lowest, and its value lands two
cycles later (a remote one is held for the DRAIN); a store writes its bytes and no others, and in a half-macro ends the errors that it covers; a read of
a half-macro corrects one wrong bit of a line and logs it (R3, R73, R85, R167, R168, R243; that the errors stand as marks which a
store ends is log 30's reading). -/
def Obligations.TileMemoryAccessesMoveTheirBytes : Prop :=
  (∀ (s : State) (id : Nat) (p : Pend) (r : List Pend), s.ev.a = id → Due s id isM0 p r →
    (∀ a w sg n, p.act = .m0Load a w sg n → eccLines s 2 id a w = false → exec .m0Access s = .next (
      if n = 0 then without s id r else setTile s id { tileOf s id with
        cal := insertPend { p with due := tcAt s id + 2, act := .reg n (extended sg w (bytesAt (tileOf s id).m0 a w)) } r })) ∧
    (∀ a q, p.act = .m0LoadV a q → eccLines s 2 id a 512 = false → exec .m0Access s = .next (setTile s id { tileOf s id with
        cal := insertPend { p with due := tcAt s id + 2, act := .push q (vecAt (tileOf s id).m0 a) } r })) ∧
    (∀ a w v, p.act = .m0Store a w v → eccLines s 2 id a w = false → ∃ m, exec .m0Access s = .next (setTile s id { tileOf s id with cal := r, m0 := m }) ∧
      Stored (tileOf s id).m0 m a w v.toNat) ∧
    (∀ a v, p.act = .m0StoreV a v → eccLines s 2 id a 512 = false → ∃ m, exec .m0Access s = .next (setTile s id { tileOf s id with cal := r, m0 := m }) ∧
      Stored (tileOf s id).m0 m a 512 v.toNat)) ∧
  (∀ (s : State) (id : Nat) (p : Pend) (r : List Pend), s.ev.a = id → Due s id isSh p r →
    (∀ hm o w sg n, p.act = .shLoad hm o w sg n → lanesOk s id (hmLayer hm) = true → Correctable s hm o w →
      exec .shaftAccess s = .next (correctsLines s hm o w (if n = 0 then without s id r else setTile s id { tileOf s id with
        cal := insertPend { p with due := tcAt s id + 2, act := .reg n (extended sg w (bytesAt (halfOf s hm).bytes o w)) } r }))) ∧
    (∀ hm o w v, p.act = .shStore hm o w v → lanesOk s id (hmLayer hm) = true → ∃ t m, exec .shaftAccess s = .next t ∧
      t = { setHalf (without s id r) hm { halfOf s hm with bytes := m } with ecc := t.ecc } ∧ Uncovered s t 3 hm (8 * o) (8 * w) ∧
      Stored (halfOf s hm).bytes m o w v.toNat)) ∧
  (∀ (s : State) (id : Nat) (x : Acc) (p : Part) (f : M1Addr) (hm : Nat), s.ev.a = id → accOf (tileOf s id) s.ev.b = some x →
    x.parts = [p] → x.done = false → x.stuck = false → x.m1 = true → f = m1Fields (BitVec.ofNat 64 p.va) → hm = m1Half s id f →
    remoteDue s id x.issue f.layer = true → hmFree s (m1Tile id f) hm = true → (halfOf s hm).mode = false →
    lanesOk s (m1Tile id f) f.layer = true →
    (∀ w sg n, x.op = .load w sg n → Correctable s hm f.ofs w → exec .remoteShaftPerform s = .next (correctsLines s hm f.ofs w
      (setAcc id { x with done := true, result := extended sg w (bytesAt (halfOf s hm).bytes f.ofs w) } s))) ∧
    (x.op = .store → ∃ t m, Stored (halfOf s hm).bytes m f.ofs p.len p.data ∧ exec .remoteShaftPerform s = .next t ∧
      Uncovered s t 3 hm (8 * f.ofs) (8 * p.len) ∧
      t = { setAcc id { x with done := true, result := 0 } (setHalf s hm { halfOf s hm with bytes := m }) with ecc := t.ecc }))

/-- A tile-memory word with a wrong address takes the translation fault, with the address in TADDR: outside the memory (SUB 1),
misaligned (SUB 2), beyond a half-macro, at a macro that the shaft-layer does not have, or at a remote target that is the tile
itself or of no partition of its domain (SUB 3) (R163 to R166, R202, R205). -/
def Sys2Proof.Claims.WrongTileAddressesFault : Prop :=
  (∀ (s : State) (g : Guard) (w : Width) (d : Reg) (ma : MemA), guardOn (me s) g = true → Readable s [ma.ba] → Readable s [d] →
    (2 ^ 21 ≤ (addrOf (me s) ma).toNat → ∀ i ∈ [Instr.ldsSigned g w d ma, .ldsUnsigned g w d ma, .sts g w d ma],
      exec i s = .next (takeTrap ⟨0x11, 1, 0, addrOf (me s) ma⟩ s.pipe (me s).bun none s.cur s)) ∧
    ((addrOf (me s) ma).toNat < 2 ^ 21 → (addrOf (me s) ma).toNat % 2 ^ w.toNat ≠ 0 →
      ∀ i ∈ [Instr.ldsSigned g w d ma, .ldsUnsigned g w d ma, .sts g w d ma],
      exec i s = .next (takeTrap ⟨0x11, 2, 0, addrOf (me s) ma⟩ s.pipe (me s).bun none s.cur s)) ∧
    ((me s).elastic = false → ∀ i ∈ [Instr.sldSigned g w d ma, .sldUnsigned g w d ma, .sst g w d ma],
      (m1Outside (addrOf (me s) ma) = true →
        exec i s = .next (takeTrap ⟨0x11, 1, 0, addrOf (me s) ma⟩ s.pipe (me s).bun none s.cur s)) ∧
      (m1Outside (addrOf (me s) ma) = false → (addrOf (me s) ma).toNat % 2 ^ w.toNat ≠ 0 →
        exec i s = .next (takeTrap ⟨0x11, 2, 0, addrOf (me s) ma⟩ s.pipe (me s).bun none s.cur s)) ∧
      (m1Outside (addrOf (me s) ma) = false → (addrOf (me s) ma).toNat % 2 ^ w.toNat = 0 →
        (let f := m1Fields (addrOf (me s) ma)
         30720 ≤ f.ofs ∨ macroCount s (m1Tile s.cur f) f.layer ≤ f.macro_ ∨
           f.rem = true ∧ (m1Tile s.cur f = s.cur ∨ partOf (m1Tile s.cur f) ∉ (domAt s (domOf s s.cur)).parts)) →
        exec i s = .next (takeTrap ⟨0x11, 3, 0, addrOf (me s) ma⟩ s.pipe (me s).bun none s.cur s)))) ∧
  (∀ (s : State) (g : Guard) (d : QN) (ma : MemA) (n : Nat), guardOn (me s) g = true → Readable s [ma.ba] →
    (n = 1 ∧ 2 ^ 21 ≤ (addrOf (me s) ma).toNat ∨
      n = 2 ∧ (addrOf (me s) ma).toNat < 2 ^ 21 ∧ (addrOf (me s) ma).toNat % 512 ≠ 0) →
    (Pushable s d → exec (.ldv g d ma) s = .next (takeTrap ⟨0x11, n, 0, addrOf (me s) ma⟩ s.pipe (me s).bun none s.cur s)) ∧
    (∀ v t, Takes s [⟨false, d⟩] [v] t →
      exec (.stv g d ma) s = .next (takeTrap ⟨0x11, n, 0, addrOf (me s) ma⟩ s.pipe (me s).bun none s.cur s)))

/-- The tile-memory words issue their access where the address is right, and fault where it is wrong (R73, R85, R163 to R168, R202, R205). -/
def Obligations.TileMemoryWordsIssueOrFault : Prop :=
  Claims.TileMemoryWordsIssueTheirAccess ∧ Claims.WrongTileAddressesFault

/-- A guarded word whose guard is false has no effect, even where it would fault: nothing of the machine changes but the count of
issued accesses of its tile, in which an M2, berth or remote word stands as complete; a D word that R287 makes illegal is illegal
under every guard, because the decoder judges it (R42, R48, R90, R287; the D word's case is log 18's reading). -/
def Obligations.AFalseGuardHasNoEffect : Prop :=
  ∀ (i : Instr) (s : State) (g : Guard), guardField i = some g → guardOn (me s) g = false →
    (IllegalD s i → exec i s = .next (takeTrap ⟨1, 0, 0, 0⟩ s.pipe (me s).bun none s.cur s)) ∧
    (¬ IllegalD s i → exec i s = .next s ∨ ∃ m1, exec i s = .next (issuesAccess s m1 .none .rlx .none [] false true s))

/-- The loads, stores, gathers, scatters and atomics of global memory, with their operands readable and their translations
right: the operands are taken at issue, the destination is pending or reserved, and the access is outstanding; FENCE stands
among the accesses (R72, R79, R81, R82, R166 to R173). That FENCE.sc, which makes no access, issues at every wheel position is log 34's
reading of R82. -/
def Obligations.GlobalWordsIssueTheirAccess : Prop :=
  (∀ (i : Instr) (s : State) (g : Guard) (f : GForm) (vs : List QVec) (t : Tile) (walk : Bool), gForm s i = some (g, f) →
    guardOn (me s) g = true → f.Ready s vs t walk →
    exec i s = .next (issuesAccess s false f.op f.sx.ord f.sx.scp (f.parts vs) walk false
      (f.eff (if f.src = [] then s else setTile s s.cur t)))) ∧
  (∀ (s : State) (g : Guard) (sx : Sfx), guardOn (me s) g = true →
    exec (.fence g sx) s = .next (issuesAccess s false .fence sx.ord sx.scp [] false true s))

/-- M2_ACCESS_PERFORM at pages outside the discovery table: a load reads its bytes; a store writes its bytes and no others; an atomic
reads the old value and leaves what R172 says; GAORV ORs a line; the lines of a vector that perform together do so in one step, each at
its place; an access at another die is back twelve cycles later; every other byte of memory is as before (R79, R83, R87, R167, R172,
R173; which lines perform together where channels are compiled, log 20). -/
def Sys2Proof.Claims.GlobalAccessesPerformAtTheirPlace : Prop :=
  (∀ (s : State) (x : Acc) (p : Part) (g : Page) (a : Nat), Performs s x p g a → Plain a p.len → unitOf s s.ev.a x p = [p] →
    (∀ w sg n, x.op = .load w sg n → p.len = w → ∃ y, exec .m2AccessPerform s = .next (setAcc s.ev.a y (usesLines s x p.idx a p.len s)) ∧
      Performed s x y p a (bytesAt s.mem a w) (extended sg w (bytesAt s.mem a w))) ∧
    (∀ q w, x.op = .loadV q ∨ x.op = .gather w q → ∃ y, exec .m2AccessPerform s = .next (setAcc s.ev.a y (usesLines s x p.idx a p.len s)) ∧
      Performed s x y p a (bytesAt s.mem a p.len) x.result) ∧
    (x.op = .store → ∃ y m, exec .m2AccessPerform s = .next (setAcc s.ev.a y (usesLines s x p.idx a p.len { s with mem := m })) ∧
      Performed s x y p a 0 x.result ∧ Stored s.mem m a p.len p.data) ∧
    (∀ fn w v c sg n, x.op = .atom fn w v c sg n → p.len = w → ∃ y m,
      exec .m2AccessPerform s = .next (setAcc s.ev.a y (usesLines s x p.idx a p.len { s with mem := m })) ∧
      Performed s x y p a (bytesAt s.mem a w) (extended sg w (bytesAt s.mem a w)) ∧
      Stored s.mem m a w (atomLeaves fn w (bytesAt s.mem a w) (v.toNat % 256 ^ w) (c.toNat % 256 ^ w))) ∧
    (x.op = .orv → p.len = 64 → ∃ y m, exec .m2AccessPerform s = .next (setAcc s.ev.a y (usesLines s x p.idx a p.len { s with mem := m })) ∧
      Performed s x y p a 0 x.result ∧ Stored s.mem m a 64 (bytesAt s.mem a 64 ||| p.data))) ∧
  (∀ (s : State) (x : Acc) (p : Part) (g : Page) (a k : Nat) (u : List Part), Performs s x p g a → u = unitOf s s.ev.a x p →
    (u.map (·.idx)).head? = some k → (x.parts.map (·.idx)).Nodup →
    (∀ q ∈ u, pageOf s (partOf s.ev.a) q.va ≠ none ∧ Plain (placeOfPart s q) q.len) →
    (∀ n, x.op = .loadV n → ∃ y, exec .m2AccessPerform s = .next (setAcc s.ev.a y (usesParts s x k u s)) ∧
      y = { x with parts := x.parts.map (fun q => if q ∈ u then { q with done := true, got := bytesAt s.mem (placeOfPart s q) q.len } else q),
                   done := y.done, back := u.foldl (fun b q => max b (backAt s (placeOfPart s q))) x.back } ∧
      (y.done = true ↔ ∀ q ∈ y.parts, q.done = true)) ∧
    (x.op = .store → ∃ y m, exec .m2AccessPerform s = .next (setAcc s.ev.a y (usesParts s x k u { s with mem := m })) ∧
      y = { x with parts := x.parts.map (fun q => if q ∈ u then { q with done := true, got := 0 } else q),
                   done := y.done, back := u.foldl (fun b q => max b (backAt s (placeOfPart s q))) x.back } ∧
      (y.done = true ↔ ∀ q ∈ y.parts, q.done = true) ∧ StoredParts s u s.mem m))

/-- What an access waits for (R79 to R82): it does not perform while an earlier one of its tile is open that shares a byte with it
on an RC or SO page, or that lies on an SO page as it does; while any earlier one is open that is an acquire, or when it is itself a
release, a `.sc` access counting as both; while the accesses that a FENCE between the two names are open; nor, a `.sc` access, while
one of its domain with a lower issue TC is open. That accesses which share a byte are accesses to one element in R79's sense is log 34's
reading. -/
def Obligations.EarlierAccessesHoldLaterOnesBack : Prop :=
  ∀ (s : State) (x : Acc) (p : Part), accOf (tileOf s s.ev.a) s.ev.b = some x → x.parts.find? (fun q => q.idx = s.ev.c) = some p →
    (∀ y, EarlierOpen s s.ev.a x y →
      (isBerth y.op = false → (∃ q ∈ y.parts, q.done = false ∧ p.va < q.va + q.len ∧ q.va < p.va + p.len) →
        ordAt s s.ev.a p.va ≠ .uo → exec .m2AccessPerform s = .next s) ∧
      (isBerth y.op = false → (∃ q ∈ y.parts, q.done = false ∧ ordAt s s.ev.a q.va = .so) → ordAt s s.ev.a p.va = .so →
        exec .m2AccessPerform s = .next s) ∧
      (y.ord = .acq ∨ x.ord = .rel ∨ y.ord = .sc ∨ x.ord = .sc → exec .m2AccessPerform s = .next s) ∧
      (∀ l r f, (tileOf s s.ev.a).out = l ++ f :: r → y ∈ l → f.id < x.id → f.op = .fence →
        (match f.ord with
          | .acq => LoadsOrAtomics y.op
          | .rel => StoresOrAtomics x.op
          | _ => True) → exec .m2AccessPerform s = .next s)) ∧
    (∀ (j : Nat) (y : Acc), x.ord = .sc → domOf s j = domOf s s.ev.a → y ∈ (tileOf s j).out → y.ord = .sc → y.m1 = false →
      y.op ≠ .fence → y.done = false → y.issue < x.issue → exec .m2AccessPerform s = .next s)

/-- PAGE_WALK_END fills the die's translation cache with the page that the first missing element needs; the access goes on when no
element misses any more, and walks on when another does; an element that does not exist or is not right fails the access, which
takes a translation fault with that address: of its form (SUB 1), its alignment (2), absent (4), not writable (5), or homed elsewhere
for an atomic or a `.sc` access (7) (R166, R171, R202). -/
def Sys2Proof.Claims.PageWalksFillOrFault : Prop :=
  ∀ (s : State) (id : Nat) (x : Acc) (va : Nat), s.ev.a = id → accOf (tileOf s id) s.ev.b = some x → x.walk = true → x.done = false →
    FirstMiss s id (accChk x) (x.parts.map (·.va)) va →
    (∀ g s', pageOf s (partOf id) va = some g → s' = setCache s (dieOf id) (fillCache (cacheAt s (dieOf id)) g) →
      ((∀ v ∈ x.parts.map (·.va), RightElem s' id (accChk x) v ∧ isCached s' (dieOf id) (partOf id) v = true) →
        exec .pageWalkEnd s = .next (setAcc id { x with walk := false } s')) ∧
      (∀ v, FirstMiss s' id (accChk x) (x.parts.map (·.va)) v → canonical v = true → v % (accChk x).align = 0 →
        exec .pageWalkEnd s = .next (setAcc id { x with walk := true } s')) ∧
      (∀ v n, FirstWrong s' id (accChk x) (x.parts.map (·.va)) v n → ∃ t, exec .pageWalkEnd s = .next t ∧ (causeOf (tileOf s id) = 0 →
        causeOf (tileOf t id) = 0x11 ∧ (tileOf t id).tcause.extractLsb' 32 8 = BitVec.ofNat 8 n ∧ (tileOf t id).taddr = BitVec.ofNat 64 v) ∧
        (domAt t (domOf s id)).faulted = true ∧ t.mem = s.mem)) ∧
    (pageOf s (partOf id) va = none → ∃ s', exec .pageWalkEnd s = .next s' ∧ (causeOf (tileOf s id) = 0 →
      causeOf (tileOf s' id) = 0x11 ∧ (tileOf s' id).taddr = BitVec.ofNat 64 va) ∧ (domAt s' (domOf s id)).faulted = true ∧ s'.mem = s.mem)

/-- A page walk fills the cache or faults, and an access performs at its place in memory (R79, R166, R167, R172, R173, R202). -/
def Obligations.GlobalAccessesTranslateAndPerform : Prop :=
  Claims.GlobalAccessesPerformAtTheirPlace ∧ Claims.PageWalksFillOrFault

namespace Sys2Proof.Claims

/-- The register of an operand that a literal may replace. -/
def litRegs : RegLit → List Reg
  | .reg r => [r]
  | .lit _ => []
/-- The scalar registers and the queues that a tile word names: its operands, a1 of BRL and RET; `.rev` of VSHUF takes nothing from
qb (R41, R72, R132, R151). -/
def names : Instr → List Reg × List QN
  | .add d a b | .sub d a b | .mul d a b | .mulh d a b | .mulhn d a b | .and d a b | .or d a b | .xor d a b | .andn d a b
  | .shl d a b | .shr d a b | .sra d a b | .rotl d a b | .min d a b | .max d a b | .minn d a b | .maxn d a b | .sel d a b
  | .adda d a b | .fadd d a b | .fsub d a b | .fmul d a b | .ffma d a b => ([d, a, b], [])
  | .clz d a | .popc d a | .addSl d a .. | .subSl d a .. | .mulSl d a .. | .mulhSl d a .. | .mulhnSl d a .. | .andSl d a ..
  | .orSl d a .. | .xorSl d a .. | .andnSl d a .. | .shlSl d a .. | .shrSl d a .. | .sraSl d a .. | .rotlSl d a ..
  | .minSl d a .. | .maxSl d a .. | .minnSl d a .. | .maxnSl d a .. | .selSl d a .. | .addaSl d a .. | .fcvt d a ..
  | .tidx d a .. | .tdim d a .. => ([d, a], [])
  | .pcmpEq _ a b | .pcmpNe _ a b | .pcmpLt _ a b | .pcmpGe _ a b | .pcmpLtn _ a b | .pcmpGen _ a b | .fcmpEq _ a b
  | .fcmpLt _ a b | .fcmpLe _ a b | .fcmpUn _ a b | .kst a b => ([a, b], [])
  | .pcmpEqSl _ a .. | .pcmpNeSl _ a .. | .pcmpLtSl _ a .. | .pcmpGeSl _ a .. | .pcmpLtnSl _ a .. | .pcmpGenSl _ a ..
  | .pset _ a | .wrsr _ a | .bri _ a | .waitcReg a | .macc _ a .. | .drdM0 _ _ _ _ a | .drdSh _ _ _ _ a | .dwrM0 _ _ _ _ a
  | .dwrSh _ _ _ _ a => ([a], [])
  | .movl d .. | .movk d .. | .addi d .. | .shli d .. | .shri d .. | .srai d .. | .movi d .. | .movf d .. | .tid d | .cyc d
  | .rdsr d .. | .ptid d | .rdwc d | .rdtc d | .mtroot _ _ d .. | .mthor _ _ d => ([d], [])
  | .brl .. | .ret .. => ([1], [])
  | .loop _ n .. | .loopr _ _ n .. => (litRegs n, [])
  | .vadd d a b .. | .vsub d a b .. | .vmul d a b .. | .vfma d a b .. | .vfms d a b .. | .vmin d a b .. | .vmax d a b ..
  | .vaddSat d a b .. | .vsubSat d a b .. | .vmulSat d a b .. | .vfmaSat d a b .. | .vfmsSat d a b .. | .vand d a b ..
  | .vor d a b .. | .vxor d a b .. | .vshl d a b .. | .vshr d a b .. | .vsra d a b .. | .vsel d a b .. | .vperm d a b ..
  | .vdot d a b .. | .vdotAcc d a b .. | .vrcpf d a b | .vrsqf d a b => ([], [d, a.q, b.q])
  | .vabs d a .. | .vneg d a .. | .vfmaVl d a .. | .vaddVl d a .. | .vnot d a .. | .vpopc d a .. | .vcvt d a ..
  | .vpackp d a .. | .vunpk d a .. | .vmovq d a | .vred d a ..
  | .vredAcc d a .. | .vrcp d a | .vrsq d a | .vexp2 d a | .vlog2 d a => ([], [d, a.q])
  | .vaddVi d .. | .vbcastVi d .. | .vaddVf d .. | .vbcastVf d .. | .viota d .. | .vpackpFl d .. | .vclr d => ([], [d])
  | .vcmpEq _ a b .. | .vcmpNe _ a b .. | .vcmpLt _ a b .. | .vcmpLe _ a b .. | .vcmpUn _ a b .. => ([], [a.q, b.q])
  | .vslideUp d a s .. | .vslideDn d a s .. => ([s.setWidth 6], [d, a.q])
  | .vbcast d s .. => ([s.setWidth 6], [d])
  | .ldsSigned _ _ d ma | .ldsUnsigned _ _ d ma | .sts _ _ d ma
  | .gldSigned _ _ _ d ma | .gldUnsigned _ _ _ d ma | .gst _ _ _ d ma => ([d, ma.ba], [])
  | .ldv _ d ma | .stv _ d ma | .gstv _ _ d ma | .gaorv _ _ d ma => ([ma.ba], [d])
  | .ggath _ _ _ d b => ([b], [d + 1])
  | .gscat _ _ _ d b | .kvapp _ _ d b => ([b], [d, d + 1])
  | .gldv _ _ _ ma => ([ma.ba], [])
  | .kvgath _ _ _ b .. => ([b], [])
  | .agset _ d .. => ([d, d + 1, d + 2, d + 3], [])
  | .dmrw 0 _ _ a => ([a], [])
  | .vdotW d a b .. | .vdotWAcc d a b .. => ([], [d, a.q, a.q + 1, b.q, b.q + 1])
  | .vwiden d a e t => ([], a.q :: if 0 < widenK e t then [d] else [])
  | .vnarrow d a _ e t .. => ([], d :: if 0 < widenK t e then [a.q] else [])
  | .vmxs d a .. => ([], [d, d + 1, a.q])
  | .gaadd _ _ _ d b .. | .gaor _ _ _ d b .. | .gaand _ _ _ d b .. | .gamaxI _ _ _ d b .. | .gamaxN _ _ _ d b ..
  | .gaminI _ _ _ d b .. | .gaminN _ _ _ d b .. | .gaxch _ _ _ d b .. | .gacas _ _ _ d b | .kvlook _ _ d b | .kvshr _ _ d b
  | .kvref _ _ d b => ([d, b], [])
  | .kvrel _ _ b => ([b], [])
  | .mpush _ q .. | .dwrQ _ _ _ _ q => ([], [q.q])
  | .mmodeC _ _ r .. => ([r], [])
  | .asrd _ q a .. | .mdrain _ q _ _ a => ([a], [q])
  | .aswr _ q a .. => ([a], [q.q])
  | .dact _ _ _ row => (litRegs row, [])
  | .drdQ _ _ _ _ q => ([], [q])
  | .mtld _ _ q x => (litRegs x, [q.q])
  | .mtst _ _ q x => (litRegs x, [q])
  | .mtupd _ _ a y | .mtadd _ _ a y => ([a] ++ litRegs y, [])
  | .mtsum _ _ d x | .mtfind _ _ d _ x | .mtleaf _ _ d x => ([d] ++ litRegs x, [])
  | .mtcut _ _ _ x => (litRegs x, [])
  | .vshuf d a b _ p => ([], [d, a.q] ++ if p = 4 then [] else [b.q])
  | _ => ([], [])

end Sys2Proof.Claims

/-- A tile word whose guard is not false and which names a register or a queue that is pending issues nothing: it takes a fault
against its own word, the timing fault of R72 (cause 5) or that of a lower cause code that it meets as well (R72, R208). A word of the
own shaft may stand in the tile's calendar at the fault: the freeze undoes the bundle (R206). A vector load, a gather or a KVGATH into a
queue that is pending reserves a further entry (log 18). -/
def Sys2Proof.Claims.PendingNamesTrap : Prop :=
  (∀ (i : Instr) (s : State), (∀ g, guardField i = some g → guardOn (me s) g = true) →
    ((∃ r ∈ (names i).1, regPending s r = true) ∨ ∃ q ∈ (names i).2, qPending s q = true) →
    ∃ x : Trap, x.cause ≤ 5 ∧ exec i s = .next (takeTrap x s.pipe (me s).bun none s.cur s)) ∧
  (∀ (s : State) (g : Guard) (w : Width) (d : Reg) (ma : MemA), guardOn (me s) g = true →
    (regPending s d = true ∨ regPending s ma.ba = true) →
    ∀ i ∈ [Instr.sldSigned g w d ma, .sldUnsigned g w d ma, .sst g w d ma], ∃ (x : Trap) (t : State), x.cause ≤ 5 ∧
      exec i s = .next (takeTrap x s.pipe (me s).bun none s.cur t) ∧
      (t = s ∨ ∃ p, t = setTile s s.cur { me s with cal := insertPend p (me s).cal }))

/-- A privileged word of a tile task takes the privilege fault, and a tile word that names a pending register or queue takes the
timing fault, or that of a lower cause that it meets as well (R72, R131, R202, R208). -/
def Obligations.PrivilegedWordsAndPendingRegistersTrap : Prop :=
  Claims.PrivilegedWordsTrapInTileTasks ∧ Claims.PendingRegistersTrap ∧ Claims.PendingNamesTrap

/-! ## Waits, berths, address generators -/

namespace Sys2Proof.Claims

/-- A DRAIN of a path issued at cycle c covers an access: one of the path, no fence, issued earlier (R90). -/
def Covered (p : DrainPath) (c : Nat) (x : Acc) : Prop :=
  x.op ≠ .fence ∧ x.issue < c ∧ (p = .all ∨ p = .m1 ∧ x.m1 = true ∨ p = .m2 ∧ x.m1 = false)
/-- The register that an access writes when a DRAIN releases it (R72, R168, R172, R311). -/
def resultReg (x : Acc) : Option Nat :=
  match x.op with
  | .load _ _ r => some r
  | .atom _ _ _ _ _ r => some r
  | .kvlook _ r => some r
  | .kvref _ r => some r
  | _ => none
/-- The number of parts one after another, the first lowest (R3). -/
def joined : List Part → Nat
  | [] => 0
  | p :: r => p.got + 256 ^ p.len * joined r
/-- The vector that the m-th entry which an access reserved holds after its release: the 512 bytes of a GLDV, the elements of a GGATH in
its first lanes, the m-th row of a KVGATH; an access that failed leaves what the entry held (R169, R171, R206, R312). -/
def returned (x : Acc) (m : Nat) (old : QVec) : QVec :=
  match x.op with
  | .loadV _ => if m = 0 then BitVec.ofNat 4096 (joined x.parts) else old
  | .gather w _ => if m = 0 then ofLanes w (x.parts.map (·.got)) else old
  | .kvgath .. => match x.parts[m]? with | some p => BitVec.ofNat 4096 p.got | none => old
  | _ => old
/-- The berth operation that the event names may perform: its access, its table base, its sequence's directory entry, and its
block's berth; nothing earlier holds it, its channels serve it, and no line it touches is in error. -/
def BerthPerforms (s : State) (x : Acc) (tb : Nat) (d : BDir) (n : Nat) : Prop :=
  accOf (tileOf s s.ev.a) s.ev.b = some x ∧ x.src = none ∧ berthReady s s.ev.a x = true ∧
    touchBad s (berthTouch s (partOf s.ev.a) x.op) = false ∧ tb = (partAt s (partOf s.ev.a)).tbase ∧
    d = rdDir s.mem tb (kSeq (accKey x.op)) ∧ n = rdBlk s.mem tb d (kBlk (accKey x.op))
/-- The access has used every line that issuers had moved for it (R280). -/
def usesAll (s : State) (x : Acc) (s' : State) : State :=
  { s' with grants := s'.grants.filter (fun g => decide (g.1 ≠ .acc s.ev.a x.id 0)) }
/-- The state after a new block has been allocated at the end of its sequence, where the key names one (R310, R313). -/
def grown (s : State) (tb : Nat) (d : BDir) (k : Word) : State :=
  if kBlk k = d.nblk then
    let a := bAlloc s.mem tb d.pool
    { s with mem := setNblk (storeLE a.2 (blkAt tb d (kBlk k)) a.1 4) tb (kSeq k) (kBlk k + 1) }
  else s
/-- Alloc and Free (R310): a berth and a slot are taken from their FIFOs; a berth's slot goes to its tier's FIFO, its entry becomes
free with the next generation, and its number goes to the FIFO of entries. -/
def allocated (m : Memory) (tb p : Nat) : Nat × Memory :=
  let n := fifoTake m tb (entQ tb p)
  let l := fifoTake n.2 tb (hslQ tb p)
  (n.1, wrEnt l.2 tb n.1 ⟨true, 1, 1, (rdEnt l.2 tb n.1).gen, l.1⟩)
def freed (m : Memory) (tb p n : Nat) : Memory :=
  let e := rdEnt m tb n
  fifoAdd (wrEnt (fifoAdd m tb (if e.st = 3 then aslQ tb p else hslQ tb p) e.loc) tb n ⟨e.v, 0, 0, (e.gen + 1) % 2 ^ 16, e.loc⟩) tb (entQ tb p) n
/-- The cancellation of the move k of berth n (R319): the destination slot goes to the tail of its FIFO, the berth is in its source
tier again, the command reports it, and the move is over once no gather holds it. -/
def cancelled (s : State) (part n k : Nat) : State :=
  let v := moveAt s k
  let tb := (partAt s part).tbase
  let m := fifoAdd s.mem tb (if v.up then hslQ tb v.pool else aslQ tb v.pool) v.dst
  reportMove repCancel v (setMove { s with
    mem := wrEnt m tb n { rdEnt m tb n with st := if v.up then 3 else 1 }
    grants := s.grants.filter (fun g => decide (g.1 ≠ .move k)) } k (if v.hold = 0 then Move.none else { v with state := 3 }))
/-- The block of berth n has a berth of its own: where n is shared, a new berth with all its bytes takes the block (R313). -/
def unshared (s : State) (part tb : Nat) (d : BDir) (k : Word) (n : Nat) : State :=
  if 1 < (rdEnt s.mem tb n).ref then
    let a := allocated s.mem tb d.pool
    let m := copyMem a.2 (berthBase s part d.pool n) (slotBase a.2 tb d.pool false (rdEnt a.2 tb a.1).loc) (bSize a.2 tb d.pool)
    { s with mem := storeLE (wrEnt m tb n { rdEnt a.2 tb n with ref := (rdEnt a.2 tb n).ref - 1 }) (blkAt tb d (kBlk k)) a.1 4 }
  else s
/-- Block b of a sequence is released: its berth has one count less, and with none its move is cancelled and it is free (R315). -/
def releases (part tb : Nat) (d : BDir) (s : State) (b : Nat) : State :=
  let n := rdBlk s.mem tb d b
  let e := rdEnt s.mem tb n
  let s := { s with mem := wrEnt s.mem tb n { e with ref := e.ref - 1 } }
  if e.ref ≤ 1 then
    let s := match moveOf s part n with | some k => cancelled s part n k | none => s
    { s with mem := freed s.mem tb d.pool n }
  else s
/-- The part of a gather that has got its row of 512 bytes, the rows standing from a place on (R312). -/
def gotRow (s : State) (a : Nat) (p : Part) : Part := { p with got := bytesAt s.mem (a + 512 * p.idx) 512, done := true }
/-- The words of the berth engine, with the registers they read and write, the queue they reserve from and how often, the queues
they take, and their operation over what they take (R309, R311 to R315). -/
structure KForm where
  need : List Reg
  dst  : Option Reg
  resv : Option (QN × Nat)
  src  : List QSrc
  op   : List QVec → AccOp
  n    : Nat
  eff  : State → State
def kForm (s : State) : Instr → Option (Guard × Sfx × KForm)
  | .kvlook g sx d b => some (g, sx, ⟨[b], some d, none, [], fun _ => .kvlook (rdReg (me s) b) (physReg (me s) d.toNat), 0, pendsReg s d⟩)
  | .kvref g sx d b => some (g, sx, ⟨[b], some d, none, [], fun _ => .kvref (rdReg (me s) b) (physReg (me s) d.toNat), 0, pendsReg s d⟩)
  | .kvgath g sx d b l => some (g, sx, ⟨[b], none, some (d, l.elim 1 (·.toNat)), [], fun _ => .kvgath (rdReg (me s) b) (l.elim 1 (·.toNat)) d,
      l.elim 1 (·.toNat), reserves s d (l.elim 1 (·.toNat))⟩)
  | .kvapp g sx d b => some (g, sx, ⟨[b], none, none, [⟨false, d⟩, ⟨false, d + 1⟩], fun vs => .kvapp (rdReg (me s) b) (vs.getD 0 0) (vs.getD 1 0), 0, id⟩)
  | .kvshr g sx d b => some (g, sx, ⟨[b, d], none, none, [], fun _ => .kvshr (rdReg (me s) b) (rdReg (me s) d), 0, id⟩)
  | .kvrel g sx b => some (g, sx, ⟨[b], none, none, [], fun _ => .kvrel (rdReg (me s) b), 0, id⟩)
  | _ => none

/-- The space of the memory position at which a word stands (R181). -/
def spaceAt (s : State) : AgSpace := if s.pipe = 4 then .m0 else .shaft
/-- Generator k of the tile. -/
def gen (s : State) (k : AgN) : Agen := agOf (me s) k.toNat
/-- The position suits the space that the generator records, if any (R181). -/
def AgHere (s : State) (k : AgN) : Prop := (gen s k).space = .none ∨ (gen s k).space = spaceAt s
/-- The address of vector k of a walk (R183). -/
def walkAddr (g : Agen) (k : Nat) : Int :=
  g.base.toNat + g.s0.toInt * (k % g.n0.toNat : Nat) + g.s1.toInt * (k / g.n0.toNat % g.n1.toNat : Nat)
    + g.s2.toInt * (k / (g.n0.toNat * g.n1.toNat) : Nat)
/-- A walk over M0 stays inside it and aligned: every address it reads is a multiple of 512 below 2 MiB (R183). -/
def WalkInM0 (g : Agen) : Prop :=
  (∀ i0 < g.n0.toNat, ∀ i1 < g.n1.toNat, ∀ i2 < g.n2.toNat,
    0 ≤ (g.base.toNat : Int) + i0 * g.s0.toInt + i1 * g.s1.toInt + i2 * g.s2.toInt ∧
    (g.base.toNat : Int) + i0 * g.s0.toInt + i1 * g.s1.toInt + i2 * g.s2.toInt < 2 ^ 21) ∧
  g.base.toNat % 512 = 0 ∧ (2 ≤ g.n0.toNat → g.s0.toInt % 512 = 0) ∧ (2 ≤ g.n1.toNat → g.s1.toInt % 512 = 0) ∧
  (2 ≤ g.n2.toNat → g.s2.toInt % 512 = 0)
/-- The vectors of a walk. -/
def walkLen (g : Agen) : Nat := g.n0.toNat * g.n1.toNat * g.n2.toNat

end Sys2Proof.Claims

/-- DRAIN holds the tile when it covers an access and makes its segment elastic, else does nothing; when the covered accesses have
performed and are back at the tile, their registers get their results, each entry that they reserved holds what its access got and is
visible, every other entry and register keeps its value, they are pending no longer, and the tile goes on; before that it waits
(R72, R87, R90, R105, R169, R171, R176, R312; that a DRAIN covers none of its own bundle's accesses is log 13's reading, and that the mode holds from
the next bundle on is log 14's). -/
def Obligations.DrainWaitsForWhatItCovers : Prop :=
  (∀ (s : State) (g : Guard) (p : DrainPath), guardOn (me s) g = true →
    ((∀ x ∈ (me s).out, ¬ Covered p (now s) x) → exec (.drain g p) s = .next s) ∧
    ((∃ x ∈ (me s).out, Covered p (now s) x) → exec (.drain g p) s =
      .next (setTile s s.cur { me s with modeNext := some true, hold := .drain p (now s) (now s) (me s).bun }))) ∧
  (∀ (s : State) (t : Tile) (p : DrainPath) (since c : Nat) (b : BRef), t = tileOf s s.ev.a → t.hold = .drain p since c b →
    ((∃ x ∈ t.out, Covered p c x ∧ (x.done = false ∨ tcAt s s.ev.a < x.back)) → exec .drainComplete s = .next s) ∧
    ((∀ x ∈ t.out, Covered p c x → x.done = true ∧ x.back ≤ tcAt s s.ev.a) → ∃ y, exec .drainComplete s = .next (setTile s s.ev.a y) ∧
      y = { t with hold := .none, next := max t.next (tcAt s s.ev.a), a := y.a, pendR := y.pendR, queues := y.queues, out := y.out } ∧
      (∀ x ∈ y.out, x ∈ t.out ∧ ¬ Covered p c x) ∧
      (∀ x ∈ t.out, x.op ≠ .fence → ¬ Covered p c x → (∀ z ∈ t.out, Covered p c z → z.id ≠ x.id) → x ∈ y.out) ∧
      (∀ q, q ∈ y.pendR ↔ q ∈ t.pendR ∧ ∀ x ∈ t.out, Covered p c x → x.id ≠ q.2) ∧
      (∀ r, (∀ x ∈ t.out, Covered p c x → resultReg x ≠ some r) → tabGet 0 y.a r = tabGet 0 t.a r) ∧
      (∀ x ∈ t.out, ∀ r, Covered p c x → resultReg x = some r → r ≠ 0 →
        (∀ z ∈ t.out, Covered p c z → resultReg z = some r → z = x) → tabGet 0 y.a r = x.result) ∧
      (∀ q, (qOf y q).length = (qOf t q).length) ∧
      (∀ (q : QN) (k : Nat) (e : QEnt), (qOf t q)[k]? = some e → (∀ n, e.resv = some n → ∀ x ∈ t.out, Covered p c x → x.id ≠ n) → (qOf y q)[k]? = some e) ∧
      (∀ (q : QN) (k : Nat) (e : QEnt) (x : Acc), (qOf t q)[k]? = some e → x ∈ t.out → Covered p c x → e.resv = some x.id →
        (∀ z ∈ t.out, Covered p c z → z.id = x.id → z = x) →
        (qOf y q)[k]? = some ⟨none, returned x (((qOf t q).take k).countP (fun f => f.resv == some x.id)) e.val⟩)))

/-- BARW arrives at its barrier and holds the tile; once every participant has come and their earlier M2 accesses have performed,
every participant goes on three cycles after that cycle, fifteen where the instance lies on several dies; a wait of 2^24 cycles is a
timing fault (R86, R177, R178, R180; that the mode holds from the next bundle on is log 14's reading). -/
def Obligations.BarriersMeetAndRelease : Prop :=
  (∀ (s : State) (g : Guard) (b : BarN) (h : LevelN) (code scope inst : Nat) (ps : List Nat), guardOn (me s) g = true →
    hierEntry (image s s.cur) h.toNat = some (code, scope) → inst = instOf code s.cur →
    ps = (taskTiles (image s s.cur)).filter (fun i => instOf code i = inst) → otherLevel s (me s).tt h.toNat b.toNat s.cur = false →
    (∀ i ∈ ps, (tileOf s i).ended = false ∨ now s < (tileOf s i).next) →
    exec (.barw g b h) s = .next { setTile s s.cur { me s with
        modeNext := some true, hold := .barw h.toNat inst b.toNat (now s) (me s).bun } with
      eps := if s.eps.any (isEp (me s).tt h.toNat inst b.toNat)
        then s.eps.map (fun e => if isEp (me s).tt h.toNat inst b.toNat e then { e with came := e.came ++ [(s.cur, now s)] } else e)
        else s.eps ++ [⟨h.toNat, inst, b.toNat, (me s).tt, if code = 0 then [0, 1, 2, 3, 4, 5] else [dieOf s.cur], ps, [(s.cur, now s)], none⟩] }) ∧
  (∀ (s : State) (e : Episode), s.eps[s.ev.a]? = some e → (∀ i ∈ e.parts, ∃ c, (i, c) ∈ e.came) →
    (∀ i c, (i, c) ∈ e.came → ∀ x ∈ (tileOf s i).out, x.m1 = true ∨ x.op = .fence ∨ x.done = true ∨ c ≤ x.issue) →
    ∃ t, exec .barwComplete s = .next t ∧ t.eps = s.eps.eraseIdx s.ev.a ∧ (∀ i ∉ e.parts, tileOf t i = tileOf s i) ∧
      ∀ i ∈ e.parts, tileOf t i = { tileOf s i with
        hold := .none, next := max (tileOf s i).next (s.ev.b + if e.dies.length ≤ 1 then 3 else 15) }) ∧
  (∀ (s : State) (since : Nat) (b : BRef), (∃ p c, (tileOf s s.ev.a).hold = .drain p since c b) ∨
      (∃ l i k, (tileOf s s.ev.a).hold = .barw l i k since b) →
    (since + 2 ^ 24 ≤ tcAt s s.ev.a →
      exec .waitLimitExpiry s = .next { takeTrap ⟨5, 9, 0, 0⟩ 6 b none s.ev.a s with ckpt := none }) ∧
    (tcAt s s.ev.a < since + 2 ^ 24 → exec .waitLimitExpiry s = .next s))

/-- The berth words take their operands at issue and their operation is outstanding; at the engine KVLOOK and KVREF return the
berth number with its generation and the entry, KVGATH its rows, holding the move of a migrating berth until its last row is read;
KVAPP extends its sequence, cancels its berth's move, gives a shared block a berth of its own and writes its key and value slices;
KVSHR shares blocks; KVREL takes a count from each block, and frees the berths that have none left; a fault case leaves memory as it
was; a berth word waits for the earlier ones of its tile (R307 to R316, R318 to R320; that written lines end their errors is log 30's
reading). -/
def Obligations.BerthOperationsFollowTheTable : Prop :=
  (∀ (i : Instr) (s : State) (g : Guard) (sx : Sfx) (f : KForm) (vs : List QVec) (t : Tile), kForm s i = some (g, sx, f) →
    guardOn (me s) g = true → Readable s f.need → (∀ d, f.dst = some d → Writable s d) →
    (∀ q n, f.resv = some (q, n) → isPort (me s) q = false) → Takes s f.src vs t →
    exec i s = .next (issuesAccess s false (f.op vs) sx.ord sx.scp ((List.range f.n).map (fun j => part j 0 0 0)) false false
      (f.eff (if f.src = [] then s else setTile s s.cur t)))) ∧
  (∀ (s : State) (x : Acc) (tb : Nat) (d : BDir) (n : Nat), BerthPerforms s x tb d n → berthBad s.mem tb x.op = false →
    (∀ k r, x.op = .kvlook k r → exec .berthOpPerform s = .next (setAcc s.ev.a { x with
      done := true, result := BitVec.ofNat 64 ((rdEnt s.mem tb n).gen * 2 ^ 32 + n) } (usesAll s x s))) ∧
    (∀ k r, x.op = .kvref k r → exec .berthOpPerform s = .next (setAcc s.ev.a { x with
      done := true, result := BitVec.ofNat 64 (bytesAt s.mem (bEntAt s.mem tb n) 8) } (usesAll s x s))) ∧
    (∀ k r q a, x.op = .kvgath k r q → a = berthBase s (partOf s.ev.a) d.pool n + 512 * kSlot k →
      (moveOf s (partOf s.ev.a) n = none → exec .berthOpPerform s = .next (setAcc s.ev.a { x with
        done := true, parts := x.parts.map (gotRow s a) } (usesAll s x s))) ∧
      (∀ mv, moveOf s (partOf s.ev.a) n = some mv → exec .berthOpPerform s = .next (setAcc s.ev.a { x with
        parts := x.parts.map (gotRow s a), src := some (mv, 0) }
        (setMove (usesAll s x s) mv { moveAt s mv with hold := (moveAt s mv).hold + 1 })))) ∧
    (∀ k v w s1 n1 s2 s3 p sl a, x.op = .kvapp k v w → s1 = grown (usesAll s x s) tb d k → n1 = rdBlk s1.mem tb d (kBlk k) →
      s2 = (match moveOf s1 (partOf s.ev.a) n1 with | some mv => cancelled s1 (partOf s.ev.a) n1 mv | none => s1) →
      s3 = unshared s2 (partOf s.ev.a) tb d k n1 → p = (rdDir s3.mem tb (kSeq k)).pool → sl = bSl s3.mem tb p →
      a = berthBase s3 (partOf s.ev.a) p (rdBlk s3.mem tb (rdDir s3.mem tb (kSeq k)) (kBlk k)) + kSlot k * sl →
      exec .berthOpPerform s = .next (touchHeal (berthTouch s (partOf s.ev.a) x.op) (setAcc s.ev.a { x with done := true, result := 0 }
        { s3 with mem := storeLE (storeLE s3.mem a (v.toNat % 256 ^ sl) sl) (a + bSize s3.mem tb p / 2) (w.toNat % 256 ^ sl) sl }))) ∧
    (∀ k e, x.op = .kvshr k e → exec .berthOpPerform s = .next (setAcc s.ev.a { x with done := true, result := 0 }
      { usesAll s x s with mem := setNblk (shareFrom tb d (rdDir s.mem tb e.toNat) (List.range (kBlk k)) s.mem) tb e.toNat (kBlk k) })) ∧
    (∀ k s', x.op = .kvrel k → s' = ((List.range (d.nblk - kBlk k)).map (kBlk k + ·)).foldl (releases (partOf s.ev.a) tb d) (usesAll s x s) →
      exec .berthOpPerform s = .next (setAcc s.ev.a { x with done := true, result := 0 }
        { s' with mem := setNblk s'.mem tb (kSeq k) (kBlk k) }))) ∧
  (∀ (s : State) (x : Acc) (mv z : Nat), accOf (tileOf s s.ev.a) s.ev.b = some x → x.src = some (mv, z) →
    exec .berthOpPerform s = .next (setAcc s.ev.a { x with done := true, src := none } (setMove s mv
      (if (moveAt s mv).state = 3 ∧ (moveAt s mv).hold ≤ 1 then Move.none else { moveAt s mv with hold := (moveAt s mv).hold - 1 })))) ∧
  (∀ (s : State) (x : Acc) (tb : Nat) (d : BDir) (n : Nat), BerthPerforms s x tb d n → berthBad s.mem tb x.op = true →
    ∃ t, exec .berthOpPerform s = .next t ∧ t.mem = s.mem ∧ (domAt t (domOf s s.ev.a)).faulted = true ∧
      (causeOf (tileOf s s.ev.a) = 0 → causeOf (tileOf t s.ev.a) = 0x12 ∧ (tileOf t s.ev.a).taddr = accKey x.op)) ∧
  (∀ (s : State) (x y : Acc), accOf (tileOf s s.ev.a) s.ev.b = some x → x.src = none → EarlierOpen s s.ev.a x y → isBerth y.op = true →
    exec .berthOpPerform s = .next s)

/-- AGSET and AGBIND take effect one cycle after issue; AGRUN starts the walk and frees the port after its last push; AGSTOP ends
it at once and does nothing to an idle generator; each walk address is read two cycles before its push (R75, R181 to R185; that a
generator without a walk is idle also when it is bound, and that these words perform in elastic code, is log 33's reading). -/
def Obligations.GeneratorsWalkAndPush : Prop :=
  (∀ (s : State) (g : Guard) (d : Reg) (k : AgN), guardOn (me s) g = true → AgHere s k → (gen s k).run = none →
    Readable s [d, d + 1, d + 2, d + 3] → exec (.agset g d k) s = .next (withAction s 1
      (.agSet k.toNat (spaceAt s) (rdReg (me s) d) (rdReg (me s) (d + 1)) (rdReg (me s) (d + 2)) (rdReg (me s) (d + 3))) s)) ∧
  (∀ (s : State) (g : Guard) (q : PortN) (k : AgN), guardOn (me s) g = true → AgHere s k → (gen s k).run = none →
    (∀ p ∈ (me s).gens, p.1 ≠ k.toNat → p.2.port ≠ some q.toNat) →
    exec (.agbind g q k) s = .next (withAction s 1 (.agBind k.toNat q.toNat) s)) ∧
  (∀ (s : State) (g : Guard) (k : AgN) (n : Lit) (a : Agen), guardOn (me s) g = true → (me s).elastic = false →
    AgHere s k → (gen s k).run = none → (gen s k).port ≠ none → (gen s k).space ≠ .none →
    ((gen s k).space = .m0 → walkLen (gen s k) = 0 ∨ WalkInM0 (gen s k)) → ((gen s k).space = .shaft → 6 ≤ n.toNat) →
    a = { gen s k with run := some ⟨now s + n.toNat, walkLen (gen s k), now s, (me s).bun⟩ } → agMeets s a = false →
    exec (.agrun g k n) s = .next (withAction s (n.toNat + walkLen (gen s k)) (.agFree k.toNat) (setTile s s.cur (setAg (me s) k.toNat a)))) ∧
  (∀ (s : State) (g : Guard) (k : AgN), guardOn (me s) g = true → AgHere s k →
    ((gen s k).run = none → exec (.agstop g k) s = .next s) ∧
    ((gen s k).run ≠ none → ∃ y, exec (.agstop g k) s = .next (withAction s 1 (.agFree k.toNat) (setTile s s.cur y)) ∧
      y = { me s with gens := y.gens, cal := y.cal } ∧ (∀ j, agOf y j = if j = k.toNat then { gen s k with run := none } else agOf (me s) j) ∧
      ∀ p, p ∈ y.cal ↔ p ∈ (me s).cal ∧ p.act ≠ .agFree k.toNat ∧ ∀ q v, p.act ≠ .agPush k.toNat q v)) ∧
  (∀ (s : State) (id k i : Nat) (a : Agen) (r : AgRun) (q : Nat), s.ev.a = id → s.ev.b = k → a = agOf (tileOf s id) k → a.run = some r →
    a.port = some q → i < r.total → tcAt s id + 2 = r.start + i → agClash s id k a (tcAt s id) (walkAddr a i) = none →
    (a.space = .m0 → eccLines s 2 id (walkAddr a i).toNat 512 = false →
      exec .agSourceRead s = .next (setTile s id (addPend (tileOf s id)
        ⟨tcAt s id + 2, r.issue, 4, r.bun, .agPush k (BitVec.ofNat 4 q) (vecAt (tileOf s id).m0 (walkAddr a i).toNat)⟩))) ∧
    (∀ f, a.space = .shaft → f = m1Fields (BitVec.ofInt 64 (walkAddr a i)) → agShaftTrap s id (BitVec.ofInt 64 (walkAddr a i)) = none →
      exec .agSourceRead s = .next (correctsLines s (m1Half s id f) f.ofs 512 (setTile s id (addPend (tileOf s id)
        ⟨tcAt s id + 2, r.issue, 5, r.bun, .agPush k (BitVec.ofNat 4 q) (vecAt (halfOf s (m1Half s id f)).bytes f.ofs)⟩))))) ∧
  (∀ (s : State) (p : Pend) (r : List Pend) (k : Nat) (q : QN) (v : QVec), Due s s.ev.a (isAgPush s.ev.b) p r → p.act = .agPush k q v →
    ∃ y, exec .agPush s = .next (setTile s s.ev.a y) ∧ (∀ j, qOf y j = if j = q then qOf (tileOf s s.ev.a) q ++ [⟨none, v⟩] else qOf (tileOf s s.ev.a) j) ∧
      y = { tileOf s s.ev.a with cal := r, queues := y.queues, spill := y.spill })

/-! ## The memory command slot -/

namespace Sys2Proof.Claims

/-- The channel that a D word of the tile names, its record, and its timing at the tile's slice factor (R26, R27, R287). -/
def dc (s : State) (lp : Bool) : Nat := dChan s.cur lp
def dch (s : State) (lp : Bool) : Chan := chanAt s (dc s lp)
def dtm (s : State) (lp : Bool) : Timing := timingOf s (dc s lp)
/-- A checked field of the channel's timing, by its number in R26. -/
def dfield (s : State) (lp : Bool) (k : Nat) : Nat := field (dtm s lp) (factorOf s s.cur) k
/-- The command may be given now: the tile owns the channel, its code is rigid, no window covers the cycle, every row of R274
that it is checked against holds, and it does not reach an expired bank (R275, R278, R281, R287, R288). -/
def DLegal (s : State) (lp : Bool) (k : DCmd) : Prop :=
  (lp = true → ownsLp s.cur = true) ∧ (me s).elastic = false ∧ winCovers (dch s lp) (now s) = false ∧
    (∀ r ∈ dRows (dtm s lp) (factorOf s s.cur) (dch s lp) (now s) k, r.2 = false) ∧
    (∀ b, (∃ r, k = .act b r) ∨ (∃ o, k = .rd b o) → expiredAt (dch s lp) (now s) b = false)
/-- The channel has the record c. -/
def withChan (s : State) (lp : Bool) (c : Chan) : State := setChan s (dc s lp) c
/-- A refresh at cycle x credits the account while pull-in allows it (R277). -/
def credited (s : State) (lp : Bool) (c : Chan) (x : Nat) : Nat :=
  if c.t0 + dfield s lp 14 * c.credit ≤ x + dfield s lp 17 then c.credit + 1 else c.credit
/-- A refresh moves the retention deadline of an ephemeral bank that has not expired (R278, R295). -/
def kept (s : State) (lp : Bool) (k : Bank) : Bank :=
  if k.eph = true ∧ k.expired = false ∧ now s < k.limit then { k with limit := now s + tRet (dtm s lp) (factorOf s s.cur) } else k
/-- A precharge closes an open bank and records the cycle (R290). -/
def closed (x : Nat) (k : Bank) : Bank := if k.row = none then k else { k with row := none, pre := some x, byWin := false }
/-- A column command is recorded for its group, its data cycles and its bank, a write also for tWTR (R274). -/
def ColumnDone (s : State) (lp : Bool) (b : Nat) (rd : Bool) (c' : Chan) : Prop :=
  c' = { dch s lp with banks := c'.banks, lastCol := c'.lastCol, data := c'.data, lastWr := c'.lastWr } ∧
    c'.lastWr = (if rd then (dch s lp).lastWr else some (now s)) ∧ (groupOf (dtm s lp) b, now s) ∈ c'.lastCol ∧
    now s + dfield s lp (if rd then 12 else 13) ∈ c'.data ∧
    (∀ j, bankAt c' j = if j = b then (if rd then { bankAt (dch s lp) b with rd := some (now s) }
      else { bankAt (dch s lp) b with wr := some (now s) }) else bankAt (dch s lp) j)
/-- The row that is open in a bank. -/
def openRow (s : State) (lp : Bool) (b : BankN) : Nat := (bankAt (dch s lp) b.toNat).row.getD 0
/-- An M0 line, or a half-macro line of the own shaft, that a transfer may use n cycles after issue (R74, R291). -/
def M0LineOk (s : State) (n : Nat) (a : Word) : Prop :=
  a.toNat < 2 ^ 21 ∧ a.toNat % 64 = 0 ∧ m0Busy s (now s + n) a.toNat = false
def ShaftLineOk (s : State) (n : Nat) (a : Word) : Prop :=
  (m1Fields a).rem = false ∧ M1Ok s a 64 ∧ (modeAt s (me s) (m1Half s s.cur (m1Fields a)) (now s + n)).1 = false ∧
    lanesOk s s.cur (hmLayer (m1Half s s.cur (m1Fields a))) = true ∧ hmBusy s s.cur (now s + n) (m1Half s s.cur (m1Fields a)) = false
/-- A column word to or from a place: its guard, channel, bank, column, place, and whether it reads; what its place needs. -/
structure ColForm where
  g   : Guard
  lp  : Bool
  b   : BankN
  o   : ColN
  rd  : Bool
  pl  : DPlace
  ok  : Prop
/-- The cycles from issue to the landing of a DRD, to the source read of a DWR, and to its data at the channel (R276). -/
def landAfter (s : State) (lp : Bool) : Nat := dfield s lp 12 + fabRd (dtm s lp) (factorOf s s.cur)
def readAfter (s : State) (lp : Bool) : Nat := max (dfield s lp 13 - fabWr (dtm s lp) (factorOf s s.cur)) 1
def colForm (s : State) : Instr → Option ColForm
  | .drdM0 g lp b o a => some ⟨g, lp, b, o, true, .m0 (rdReg (me s) a).toNat, Readable s [a] ∧ M0LineOk s (landAfter s lp) (rdReg (me s) a)⟩
  | .drdSh g lp b o a => some ⟨g, lp, b, o, true,
      .sh (m1Half s s.cur (m1Fields (rdReg (me s) a))) (m1Fields (rdReg (me s) a)).ofs,
      Readable s [a] ∧ ShaftLineOk s (landAfter s lp) (rdReg (me s) a)⟩
  | .drdQ g lp b o q => some ⟨g, lp, b, o, true, .q q, Pushable s q⟩
  | .dwrM0 g lp b o a => some ⟨g, lp, b, o, false, .m0 (rdReg (me s) a).toNat, Readable s [a] ∧ M0LineOk s (readAfter s lp) (rdReg (me s) a)⟩
  | .dwrSh g lp b o a => some ⟨g, lp, b, o, false,
      .sh (m1Half s s.cur (m1Fields (rdReg (me s) a))) (m1Fields (rdReg (me s) a)).ofs,
      Readable s [a] ∧ ShaftLineOk s (readAfter s lp) (rdReg (me s) a)⟩
  | _ => none
/-- The transfer that a column word schedules: a DRD its line, taken from the open row, a DWR the read of its source (R292,
R293). -/
def schedules (s : State) (f : ColForm) (s' : State) : State :=
  let row := openRow s f.lp f.b
  let p := linePlace (dc s f.lp) f.b.toNat row f.o.toNat
  if f.rd then withAction s (landAfter s f.lp)
    (.drd (dc s f.lp) f.b.toNat row f.o.toNat (bytesAt s.mem p 64) (eccLines s 7 0 p 64) f.pl) s'
  else withAction s (readAfter s f.lp) (.dwrRead (dc s f.lp) f.b.toNat row f.o.toNat f.pl (now s + dfield s f.lp 13)) s'

/-- The command of a D word, its guard and channel, and what its operands need so that nothing but its rows, the window and
retention can stop it. -/
structure DForm where
  g  : Guard
  lp : Bool
  k  : DCmd
  ok : Prop
def dForm (s : State) : Instr → Option DForm
  | .dact g lp b row =>
    let r := match row with | .reg a => (rdReg (me s) a).toNat | .lit v => v.toNat
    some ⟨g, lp, .act b.toNat r, countOk s row ∧ r < (dtm s lp).rows⟩
  | .dpre g lp b => some ⟨g, lp, .pre b.toNat, True⟩
  | .dprea g lp => some ⟨g, lp, .prea, True⟩
  | .dref g lp => some ⟨g, lp, .ref, True⟩
  | .drefb g lp b => some ⟨g, lp, .refb b.toNat, True⟩
  | .dmrw g lp _ a => some ⟨g, lp, .other, (me s).firmware = true ∧ Readable s [a]⟩
  | .dzq g lp => some ⟨g, lp, .other, (me s).firmware = true⟩
  | .dwrQ g lp b o q => some ⟨g, lp, .wr b.toNat o.toNat, o.toNat < (dtm s lp).cols ∧ ∃ v t, Takes s [q] [v] t⟩
  | i => (colForm s i).map (fun f =>
      ⟨f.g, f.lp, if f.rd then .rd f.b.toNat f.o.toNat else .wr f.b.toNat f.o.toNat, f.o.toNat < (dtm s f.lp).cols ∧ f.ok⟩)
/-- TADDR of a memory-command fault: channel, bank, row and column, 0 where the command has none; a column command is at the row
that its bank has open (R205). -/
def dTaddr (s : State) (lp : Bool) : DCmd → Word
  | .act b row => dAddr (dc s lp) b row 0
  | .pre b | .refb b => dAddr (dc s lp) b 0 0
  | .rd b col | .wr b col => dAddr (dc s lp) b ((bankAt (dch s lp) b).row.getD 0) col
  | .prea | .ref | .other => dAddr (dc s lp) 0 0 0
/-- No row of R274 is broken by the command now. -/
def RowsHold (s : State) (lp : Bool) (k : DCmd) : Prop :=
  ∀ p ∈ dRows (dtm s lp) (factorOf s s.cur) (dch s lp) (now s) k, p.2 = false
/-- The command reaches a bank past its retention deadline: an activate or a read (R278). -/
def Reaches (s : State) (lp : Bool) (k : DCmd) : Prop :=
  ∃ b, ((∃ r, k = .act b r) ∨ ∃ o, k = .rd b o) ∧ expiredAt (dch s lp) (now s) b = true

/-- Cycle x comes less than d cycles after an event. -/
def Soon (x d : Nat) (o : Option Nat) : Prop := ∃ a, o = some a ∧ x < a + d
/-- A column command of bank b, and a command that precharges bank b. -/
def IsColumn (k : DCmd) (b : Nat) : Prop := (∃ o, k = .rd b o) ∨ ∃ o, k = .wr b o
def Precharges (tm : Timing) (k : DCmd) (b : Nat) : Prop := k = .pre b ∨ (k = .prea ∧ b < tm.banks)
/-- The banks that a command needs precharged. -/
def NeedsClosed (tm : Timing) (k : DCmd) (b : Nat) : Prop :=
  (∃ r, k = .act b r) ∨ k = .refb b ∨ ((k = .ref ∨ k = .other) ∧ b < tm.banks)
/-- The data of a column command begins so many cycles after it. -/
def dataAfter (tm : Timing) (f : Nat) : DCmd → Nat
  | .rd .. => field tm f 12
  | _ => field tm f 13
/-- The rows of R274, each by its SUB: what it is for the row to be broken by a command at cycle x. The fields of R26 stand under the
same numbers. -/
def Broken (tm : Timing) (f : Nat) (c : Chan) (x : Nat) (k : DCmd) : Nat → Prop
  | 0 => ∃ b, IsColumn k b ∧ ((bankAt c b).row = none ∨ Soon x (field tm f 0) (bankAt c b).act)
  | 1 => ∃ b, NeedsClosed tm k b ∧ ((bankAt c b).row ≠ none ∨ Soon x (field tm f 1) (bankAt c b).pre)
  | 2 => ∃ b, Precharges tm k b ∧ (bankAt c b).row ≠ none ∧ Soon x (field tm f 2) (bankAt c b).act
  | 3 => ∃ b r, k = .act b r ∧ Soon x (field tm f 3) (bankAt c b).act
  | 4 => ∃ b r y, k = .act b r ∧ c.acts.find? (fun p => groupOf tm p.1 ≠ groupOf tm b) = some y ∧ x < y.2 + field tm f 4
  | 5 => ∃ b r y, k = .act b r ∧ c.acts.find? (fun p => groupOf tm p.1 = groupOf tm b ∧ p.1 ≠ b) = some y ∧ x < y.2 + field tm f 5
  | 6 => ∃ b r y, k = .act b r ∧ c.acts[3]? = some y ∧ x < y.2 + field tm f 6
  | 7 => ∃ b, IsColumn k b ∧ ((∃ p ∈ c.lastCol, p.1 ≠ groupOf tm b ∧ x < p.2 + field tm f 7) ∨
      ∃ y ∈ c.data, x + dataAfter tm f k < y + field tm f 7 ∧ y < x + dataAfter tm f k + field tm f 7)
  | 8 => ∃ b, IsColumn k b ∧ ∃ p ∈ c.lastCol, p.1 = groupOf tm b ∧ x < p.2 + field tm f 8
  | 9 => ∃ b, Precharges tm k b ∧ (bankAt c b).row ≠ none ∧ Soon x (field tm f 13 + field tm f 7 + field tm f 9) (bankAt c b).wr
  | 10 => ∃ b, Precharges tm k b ∧ (bankAt c b).row ≠ none ∧ Soon x (field tm f 10) (bankAt c b).rd
  | 11 => ∃ b o, k = .rd b o ∧ Soon x (field tm f 13 + field tm f 7 + field tm f 11) c.lastWr
  | 15 => Soon x (field tm f 15) c.ref
  | 16 => (∃ b r, k = .act b r ∧ Soon x (field tm f 16) (bankAt c b).refb) ∨ ∃ b, k = .refb b ∧ Soon x (field tm f 16) c.refb
  | _ => False

end Sys2Proof.Claims

/-- The D words that may be given: DACT opens its row, DPRE and DPREA close banks, DREF and DREFB refresh and credit the account,
DMRW and DZQ of firmware occupy the channel, DWIN opens a window or ends one with its cycle; the column words move one line of the
open row (R276 to R279, R287 to R297; a DRD's line is the one that the row holds at its issue, log 15). -/
def Sys2Proof.Claims.DramWordsActOnTheirChannel : Prop :=
  (∀ (s : State) (g : Guard) (lp : Bool) (b : BankN) (row : RegLit) (r : Nat), guardOn (me s) g = true → countOk s row →
    r = (match row with | .reg a => (rdReg (me s) a).toNat | .lit v => v.toNat) → r < (dtm s lp).rows → DLegal s lp (.act b.toNat r) →
    ∃ c', exec (.dact g lp b row) s = .next (withChan s lp c') ∧
      (∀ j, bankAt c' j = if j = b.toNat then
        ⟨some r, some (now s), (bankAt (dch s lp) j).pre, (bankAt (dch s lp) j).rd, (bankAt (dch s lp) j).wr, (bankAt (dch s lp) j).refb,
          (bankAt (dch s lp) j).eph, if (bankAt (dch s lp) j).eph then now s + tRet (dtm s lp) (factorOf s s.cur) else (bankAt (dch s lp) j).limit,
          (bankAt (dch s lp) j).expired, false⟩ else bankAt (dch s lp) j) ∧
      c' = { dch s lp with banks := c'.banks, acts := ((b.toNat, now s) :: (dch s lp).acts).take 16 }) ∧
  (∀ (s : State) (g : Guard) (lp : Bool) (b : BankN), guardOn (me s) g = true → DLegal s lp (.pre b.toNat) →
    ∃ c', exec (.dpre g lp b) s = .next (withChan s lp c') ∧ c' = { dch s lp with banks := c'.banks } ∧
      ∀ j, bankAt c' j = if j = b.toNat then closed (now s) (bankAt (dch s lp) j) else bankAt (dch s lp) j) ∧
  (∀ (s : State) (g : Guard) (lp : Bool), guardOn (me s) g = true → DLegal s lp .prea →
    ∃ c', exec (.dprea g lp) s = .next (withChan s lp c') ∧ c' = { dch s lp with banks := c'.banks } ∧
      ∀ j, bankAt c' j = if j < (dtm s lp).banks then closed (now s) (bankAt (dch s lp) j) else bankAt (dch s lp) j) ∧
  (∀ (s : State) (g : Guard) (lp : Bool), guardOn (me s) g = true → DLegal s lp .ref →
    ∃ c', exec (.dref g lp) s = .next (withChan s lp c') ∧
      c' = { dch s lp with banks := c'.banks, ref := some (now s), credit := credited s lp (dch s lp) (now s) } ∧
      ∀ j, bankAt c' j = if j < (dtm s lp).banks then kept s lp (bankAt (dch s lp) j) else bankAt (dch s lp) j) ∧
  (∀ (s : State) (g : Guard) (lp : Bool) (b : BankN) (round : List Nat), guardOn (me s) g = true → DLegal s lp (.refb b.toNat) →
    round = (if b.toNat ∈ (dch s lp).round then (dch s lp).round else b.toNat :: (dch s lp).round) →
    ∃ c', exec (.drefb g lp b) s = .next (withChan s lp c') ∧
      (∀ j, bankAt c' j = if j = b.toNat then { kept s lp (bankAt (dch s lp) j) with refb := some (now s) } else bankAt (dch s lp) j) ∧
      c' = { dch s lp with banks := c'.banks, refb := some (now s), round := c'.round, credit := c'.credit } ∧
      ((bankAt (dch s lp) b.toNat).eph = true → c'.round = (dch s lp).round ∧ c'.credit = (dch s lp).credit) ∧
      ((bankAt (dch s lp) b.toNat).eph = false → (∀ j < (dtm s lp).banks, (bankAt (dch s lp) j).eph = true ∨ j ∈ round) →
        c'.round = [] ∧ c'.credit = credited s lp (dch s lp) (now s)) ∧
      ((bankAt (dch s lp) b.toNat).eph = false → (∃ j < (dtm s lp).banks, (bankAt (dch s lp) j).eph = false ∧ j ∉ round) →
        c'.round = round ∧ c'.credit = (dch s lp).credit)) ∧
  (∀ (s : State) (g : Guard) (lp : Bool) (m : ModeReg) (a : Reg), guardOn (me s) g = true → (me s).firmware = true → DLegal s lp .other →
    exec (.dzq g lp) s = .next (withChan s lp { dch s lp with ref := some (now s) }) ∧
    (Readable s [a] → ∃ c', exec (.dmrw g lp m a) s = .next (setChan (withChan s lp { dch s lp with ref := some (now s) }) (dc s lp) c') ∧
      c' = { dch s lp with ref := some (now s), mode := c'.mode } ∧
      ∀ j, tabGet 0 c'.mode j = if j = m.toNat then (rdReg (me s) a).extractLsb' 0 8 else tabGet 0 (dch s lp).mode j)) ∧
  (∀ (s : State) (g : Guard) (lp : Bool) (n : WinLen), guardOn (me s) g = true → (lp = true → ownsLp s.cur = true) → (me s).elastic = false →
    (n ≠ 0 → winCovers (dch s lp) (now s) = false →
      exec (.dwin g lp n) s = .next (withChan s lp { dch s lp with win := some (now s + 1, now s + n.toNat) })) ∧
    (n = 0 → exec (.dwin g lp n) s = .next (if winCovers (dch s lp) (now s)
      then withChan s lp { dch s lp with win := (dch s lp).win.map (fun w => (w.1, now s)), closed := some (now s, (me s).bun) } else s))) ∧
  (∀ (i : Instr) (s : State) (f : ColForm), colForm s i = some f → guardOn (me s) f.g = true → f.o.toNat < (dtm s f.lp).cols → f.ok →
    DLegal s f.lp (if f.rd then .rd f.b.toNat f.o.toNat else .wr f.b.toNat f.o.toNat) →
    ∃ c', ColumnDone s f.lp f.b.toNat f.rd c' ∧ exec i s = .next (schedules s f (withChan s f.lp c'))) ∧
  (∀ (s : State) (g : Guard) (lp : Bool) (b : BankN) (o : ColN) (q : QSrc) (v : QVec) (t : Tile), guardOn (me s) g = true →
    o.toNat < (dtm s lp).cols → Takes s [q] [v] t → DLegal s lp (.wr b.toNat o.toNat) →
    ∃ c', ColumnDone s lp b.toNat false c' ∧ exec (.dwrQ g lp b o q) s = .next (withAction s (dfield s lp 13)
      (.dwrQ (dc s lp) b.toNat (openRow s lp b) o.toNat (v.toNat % 2 ^ 512)) (withChan (setTile s s.cur t) lp c')))

/-- A D word, of every kind, whose command breaks rows of R274 is suppressed: memory timing, cause 0x0D, with the lowest broken row
in SUB and the channel, bank, row and column in TADDR; one that reaches an expired bank takes a retention fault, and one inside a
window, or a DWIN that opens another, a window-close fault, each where no lower cause is (R205, R208, R274, R275, R278, R281, R288). -/
def Sys2Proof.Claims.BrokenTimingRowsFault : Prop :=
  (∀ (i : Instr) (s : State) (f : DForm), dForm s i = some f → guardOn (me s) f.g = true → (f.lp = true → ownsLp s.cur = true) →
    (me s).elastic = false → f.ok →
    (∀ r, (r, true) ∈ dRows (dtm s f.lp) (factorOf s s.cur) (dch s f.lp) (now s) f.k →
      (∀ p ∈ dRows (dtm s f.lp) (factorOf s s.cur) (dch s f.lp) (now s) f.k, p.2 = true → r ≤ p.1) →
      exec i s = .next (takeTrap ⟨0xD, r, 0, dTaddr s f.lp f.k⟩ s.pipe (me s).bun none s.cur s)) ∧
    (RowsHold s f.lp f.k → Reaches s f.lp f.k →
      exec i s = .next (takeTrap ⟨0xF, 0, 0, dTaddr s f.lp f.k⟩ s.pipe (me s).bun none s.cur s)) ∧
    (RowsHold s f.lp f.k → ¬ Reaches s f.lp f.k → winCovers (dch s f.lp) (now s) = true →
      exec i s = .next (takeTrap ⟨0x10, 0, 0, dTaddr s f.lp f.k⟩ s.pipe (me s).bun none s.cur s))) ∧
  (∀ (s : State) (g : Guard) (lp : Bool) (n : WinLen), guardOn (me s) g = true → (lp = true → ownsLp s.cur = true) →
    (me s).elastic = false → n ≠ 0 → winCovers (dch s lp) (now s) = true →
    exec (.dwin g lp n) s = .next (takeTrap ⟨0x10, 0, 0, dAddr (dc s lp) 0 0 0⟩ s.pipe (me s).bun none s.cur s))

/-- The rows that the checks find broken are those of the table of R274, which a command of firmware that is no D word of the table
(DMRW, DZQ) meets as a DREF does (R274, R296, R297). -/
def Sys2Proof.Claims.TheRowsAreThoseOfTheTable : Prop :=
  ∀ (tm : Timing) (f : Nat) (c : Chan) (x : Nat) (k : DCmd) (r : Nat), (r, true) ∈ dRows tm f c x k ↔ Broken tm f c x k r

/-- A D word acts on its channel where every row of R274 and R275 holds, and faults where one is broken; the rows are
those of the table of R274 (R202, R205, R274, R275, R286 to R297). -/
def Obligations.DramWordsActOrBreakTheirRows : Prop :=
  Claims.DramWordsActOnTheirChannel ∧ Claims.BrokenTimingRowsFault ∧ Claims.TheRowsAreThoseOfTheTable

/-- DRD_LANDS writes its line to its place, or only faults where the line is in error; DWR_SOURCE_READ reads its line and, once its
data is at the channel, the line's 64 bytes of memory hold it, no other byte changes, and the errors that a written line covers are gone
(R243, R292 to R294; log 30). -/
def Obligations.DramTransfersMoveOneLine : Prop :=
  (∀ (s : State) (id : Nat) (p : Pend) (r : List Pend) (ch b row col line : Nat) (bad : Bool) (dst : DPlace), s.ev.a = id →
    Due s id isDrd p r → p.act = .drd ch b row col line bad dst →
    (bad = true → exec .drdLands s =
      .next { takeTrap ⟨0x16, 0, 0, dAddr ch b row col⟩ p.pipe p.bun none id (without s id r) with ckpt := none }) ∧
    (bad = false → ∀ a, dst = .m0 a → ∃ t m, exec .drdLands s = .next t ∧ Uncovered s t 2 id a 64 ∧
      t = { setTile s id { tileOf s id with cal := r, m0 := m } with ecc := t.ecc } ∧ Stored (tileOf s id).m0 m a 64 line) ∧
    (bad = false → ∀ hm o, dst = .sh hm o → (halfOf s hm).mode = false → lanesOk s id (hmLayer hm) = true →
      ∃ t m, exec .drdLands s = .next t ∧ t = { setHalf (without s id r) hm { halfOf s hm with bytes := m } with ecc := t.ecc } ∧
        Uncovered s t 3 hm (8 * o) 512 ∧ Stored (halfOf s hm).bytes m o 64 line) ∧
    (bad = false → ∀ q, dst = .q q → ∃ y, exec .drdLands s = .next (setTile s id y) ∧
      y = { tileOf s id with cal := r, queues := y.queues, spill := y.spill } ∧
      ∀ j, qOf y j = if j = q then qOf (tileOf s id) q ++ [⟨none, BitVec.ofNat 4096 line⟩] else qOf (tileOf s id) j)) ∧
  (∀ (s : State) (id : Nat) (p : Pend) (r : List Pend) (ch b row col : Nat), s.ev.a = id → Due s id isDwr p r →
    (∀ v, p.act = .dwrQ ch b row col v → ∃ t, exec .dwrSourceRead s = .next t ∧
      t = { without s id r with mem := t.mem, ecc := t.ecc } ∧ Uncovered s t 7 0 (linePlace ch b row col) 64 ∧
      Stored s.mem t.mem (linePlace ch b row col) 64 v) ∧
    (∀ a due, p.act = .dwrRead ch b row col (.m0 a) due → eccLines s 2 id a 64 = false → tcAt s id < due →
      exec .dwrSourceRead s = .next (setTile s id { tileOf s id with
        cal := insertPend { p with due := due, act := .dwrQ ch b row col (bytesAt (tileOf s id).m0 a 64) } r })) ∧
    (∀ hm o due, p.act = .dwrRead ch b row col (.sh hm o) due → (halfOf s hm).mode = false → lanesOk s id (hmLayer hm) = true →
      Correctable s hm o 64 → tcAt s id < due → exec .dwrSourceRead s = .next (correctsLines s hm o 64 (setTile s id { tileOf s id with
        cal := insertPend { p with due := due, act := .dwrQ ch b row col (bytesAt (halfOf s hm).bytes o 64) } r }))))

namespace Sys2Proof.Claims
/-- What was moved on a channel and not used is not there any more (R281). -/
def ungranted (s : State) (ch : Nat) : State := { s with grants := s.grants.filter (fun g => chanOf (64 * g.2) ≠ ch) }
/-- The commands of a request: an activate of each of its rows in turn, the column commands of the row's lines, a precharge (log 20). -/
def planOf (r : Req) : List DCmd :=
  (r.lines.map (fun l => (l.bank, l.row))).eraseDups.flatMap (fun p => .act p.1 p.2 ::
    ((r.lines.filter (fun l => l.bank = p.1 ∧ l.row = p.2)).flatMap (fun l =>
      l.cols.map (fun w => if w then .wr l.bank l.col else .rd l.bank l.col)) ++ [.pre p.1]))
end Sys2Proof.Claims

/-- Beside the D words a channel is handed over precharged and without history, faults at its refresh deadline, loses an
ephemeral bank at its limit, goes back to open, ends its window, and while it is frozen precharges its open banks, records their rows
and refreshes; inside a window its issuer serves the requests in their order of arrival, each by an activate of each row, its column commands,
the last of which gives the requester all its lines on the channel, and precharges (R213, R272, R273, R277 to R282; the issuer's choices
inside a window, what one request is, and that lines moved and not used by the window's end are asked for again, are log 20's). -/
def Obligations.ChannelsFollowTheirRegimes : Prop :=
  (∀ s : State, (ttOf s s.ev.a).st = .armed → ∃ t, exec .channelHandover s = .next t ∧ t = { s with chans := t.chans } ∧
    (∀ ch, (∃ m, (ch, m) ∈ compiledChans (ttOf s s.ev.a).img) → chanAt t ch = { Chan.idle with mode := (chanAt s ch).mode, handed := true }) ∧
    (∀ ch, (∀ m, (ch, m) ∉ compiledChans (ttOf s s.ev.a).img) → chanAt t ch = chanAt s ch)) ∧
  (∀ (s : State) (ch : Nat) (c : Chan) (k : Nat) (f : Nat), s.ev.a = ch → c = chanAt s ch → c.comp = some k →
    f = imgSlice (ttOf s k).img →
    (c.t0 + field (timingOf s ch) f 14 * (c.credit + 1) + field (timingOf s ch) f 17 ≤ (domAt s (ttOf s k).dom).tc →
      exec .refreshDeadline s = .next { takeTrap ⟨0xE, 0, 0, BitVec.ofNat 64 (ch * 2 ^ 48)⟩ 0xF (dueBundle (tileOf s (chanOwner ch))) none
        (chanOwner ch) s with ckpt := none }) ∧
    (backToOpen s ch c (domAt s (ttOf s k).dom).tc = true → ∃ c',
      exec .channelToOpen s = .next (setChan (ungranted s ch) ch c') ∧ c'.comp = none ∧ c'.win = none ∧ c'.serve = none ∧ c'.queue = [] ∧
      c'.held = [] ∧ c'.seq = [] ∧ c'.credit = c.credit ∧ ∀ b, (bankAt c' b).row = none) ∧
    (∀ a b, c.win = some (a, b) → b < (domAt s (ttOf s k).dom).tc →
      exec .windowExpiry s = .next (setChan (ungranted s ch) ch { c with win := none, serve := none })) ∧
    ((domAt s (ttOf s k).dom).frozen = true →
      (∀ b q r, c.banks.find? (fun p => p.2.row.isSome) = some (b, q) → q.row = some r → ∃ c' y, exec .keepAliveRefresh s = .next (setChan s ch c') ∧
        c' = { c with banks := c'.banks, held := c.held ++ [(b, r)], seq := (y, .pre b) :: c.seq } ∧
        ∀ j, bankAt c' j = if j = b then { bankAt c b with row := none } else bankAt c j) ∧
      ((∀ p ∈ c.banks, p.2.row = none) → ∃ y, exec .keepAliveRefresh s = .next (setChan s ch { c with seq := (y, .ref) :: c.seq }) ∧
        ∀ p, c.seq.find? (fun p => p.2 == .ref) = some p → p.1 + field (timingOf s ch) f 14 ≤ y)) ∧
    (∀ a e x u d, c.win = some (a, e) → x = (domAt s (ttOf s k).dom).tc → a ≤ x → x ≤ e → (domAt s (ttOf s k).dom).frozen = false →
      u = arriveReqs s ch → d = chanAt u ch →
      (∀ r q l ls, d.serve = none → d.queue = r :: q → r.lines = l :: ls → mayStart (timingOf s ch) f x e r d = true →
        lineHeld u ch r = false →
        ∃ c', exec .windowIssuerCommand s = .next (setChan u ch c') ∧ (bankAt c' l.bank).row = some l.row ∧
          (bankAt c' l.bank).byWin = true ∧ (bankAt c' l.bank).act = some x ∧ c'.serve = some ⟨r, (planOf r).tail⟩ ∧ c'.queue = q) ∧
      (∀ r k rest b, d.serve = some ⟨r, k :: rest⟩ → IsColumn k b → dViol (timingOf s ch) f d x k = none →
        ∃ c', c'.serve = (if rest = [] then none else some ⟨r, rest⟩) ∧ c'.queue = d.queue ∧
          ((∃ o, k = .wr b o) → (bankAt c' b).wr = some x) ∧ ((∃ o, k = .rd b o) → (bankAt c' b).rd = some x) ∧
          (((∃ j ∈ rest, ∃ a, IsColumn j a) ∨ r ∉ chanWants (setChan u ch c') ch) →
            exec .windowIssuerCommand s = .next (setChan u ch c')) ∧
          ((∀ j ∈ rest, ∀ a, ¬ IsColumn j a) → r ∈ chanWants (setChan u ch c') ch → ∃ t, exec .windowIssuerCommand s = .next t ∧
            t = { setChan u ch c' with grants := s.grants ++ r.lines.map (fun l => (r.who, linePlace ch l.bank l.row l.col / 64)),
                                       agenda := t.agenda } ∧ ∃ w, t.agenda = w ++ u.agenda)) ∧
      (∀ r b rest, d.serve = some ⟨r, .pre b :: rest⟩ → dViol (timingOf s ch) f d x (.pre b) = none →
        ∃ c', exec .windowIssuerCommand s = .next (setChan u ch c') ∧ (bankAt c' b).row = none ∧
          c'.serve = (if rest = [] then none else some ⟨r, rest⟩) ∧ c'.queue = d.queue))) ∧
  (∀ (s : State) (ch : Nat) (c : Chan) (e : Nat), s.ev.a = ch → c = chanAt s ch → c.ephTt = some e → (bankAt c s.ev.b).eph = true →
    (bankAt c s.ev.b).limit ≤ (domAt s (ttOf s e).dom).tc →
    exec .retentionExpiry s = .next (setChan s ch (setBank c s.ev.b { bankAt c s.ev.b with expired := true })))

/-! ## Beats and the accumulation store -/

namespace Sys2Proof.Claims

/-- A word acts at every member of a set, in its order, at the access cycle of the member's layer (R250, R252). -/
def actsAt (s : State) (x : Nat → Act) : List Member → State → State
  | [], t => t
  | m :: r, t => actsAt s x r (withAction s (1 + m.layer) (x m.hm) t)
/-- A set word may act: rigid code, macros that exist, the mode it needs at each member's access cycle, valid interfaces, no
second access of a half-macro, at most 16 half-macros in one cycle for the words that count (R105, R238 to R241, R246, R253). -/
def SetOk (s : State) (h : HSet) (quota : Bool) (mode : Bool × FmtN → Prop) : Prop :=
  (me s).elastic = false ∧ (quota = true → overQuota s (members s h) = false) ∧
    ∀ m ∈ members s h, m.macro_ < macroCount s s.cur m.layer ∧ mode (modeAt s (me s) m.hm (now s + 1 + m.layer)) ∧
      lanesOk s s.cur m.layer = true ∧ hmBusy s s.cur (now s + 1 + m.layer) m.hm = false
/-- Compute mode. -/
def computing (m : Bool × FmtN) : Prop := m.1 = true
/-- A set word without other operands than a register: its guard, set, register, quota, mode, and its action. -/
structure XForm where
  g : Guard
  h : HSet
  need : List Reg
  quota : Bool
  mode : Bool × FmtN → Prop
  act : Nat → Act
def xForm (s : State) : Instr → Option XForm
  | .mclr g h => some ⟨g, h, [], false, computing, .mclr⟩
  | .mmodeC g f r h => some ⟨g, h, [r], false, fun m => m.1 = false, fun hm => .mmode hm true f (rdReg (me s) r)⟩
  | .mmodeS g h => some ⟨g, h, [], false, fun _ => True, fun hm => .mmode hm false 0 0⟩
  | .mpmask g m h => some ⟨g, h, [], false, fun x => x.1 = true ∧ 8 ≤ x.2.toNat ∧ m.toNat ≤ x.2.toNat - 6, fun hm => .mpmask hm m.toNat⟩
  | .mshift g h => some ⟨g, h, [], true, computing, .mshift⟩
  | _ => none
/-- No update of the accumulation store lands in cycle c yet (R258). -/
def AsFree (s : State) (c : Nat) : Prop := ∀ p ∈ (me s).cal, p.due = c → (∀ a b l g, p.act ≠ .maccLand a b l g) ∧ ∀ a b v, p.act ≠ .aswr a b v
/-- The rows of the store that a drain reads, beyond its first (R259). -/
def moreRows (t : OutTy) : Nat := if t.toNat = 0 then 0 else if t.toNat ≤ 2 then 1 else 3

/-- The entry k columns into the store. -/
def entry (t : Tile) (k : Nat) : XA := tabGet xaEmpty t.acc k
/-- The store, with entries n from k on given by f, the rest as in t. -/
def StoreIs (t y : Tile) (k n : Nat) (f : Nat → XA) : Prop := ∀ j, entry y j = if k ≤ j ∧ j < k + n then f (j - k) else entry t j
/-- The values of the members for a column, folded from an empty value in the order of the set, and whether a step saturated
(R257). -/
def folded (f : Nat → XA) : List Nat → XA × Bool → XA × Bool
  | [], v => v
  | m :: r, v => folded f r ((xaAdd v.1 (f m)).1, v.2 || (xaAdd v.1 (f m)).2)
/-- The value that a member sent for a column. -/
def sent (got : List (Nat × List XA)) (i hm : Nat) : XA :=
  match got.find? (fun p => p.1 = hm) with
  | some p => p.2.getD i xaEmpty
  | none => xaEmpty
/-- Bit of weight plane k (0 is the sign) of a column of a row (R233, R234). -/
def planeBit (h : Half) (row col k : Nat) : Nat :=
  bytesAt h.bytes (120 * row) 120 / 2 ^ (fmtWidth h.fmt * col + (fmtWidth h.fmt - 1 - k)) % 2
/-- The code of a small float element with ew exponent and mw mantissa bits, in units of its smallest subnormal (R51, R254). -/
def eltCode (ew mw c : Nat) : Int :=
  let m : Int := if c / 2 ^ mw % 2 ^ ew = 0 then (c % 2 ^ mw : Nat) else ((2 ^ mw + c % 2 ^ mw) * 2 ^ (c / 2 ^ mw % 2 ^ ew - 1) : Nat)
  if c / 2 ^ (ew + mw) % 2 = 1 then -m else m
/-- Element e of a vector of 512 elements of six bits: its upper four in the nibbles, its lower two behind them (R59). -/
def sixBits (v : QVec) (e : Nat) : Nat := v.toNat / 16 ^ e % 16 * 4 + v.toNat / 2 ^ (2048 + 2 * e) % 4
/-- Bit of plane p, of b planes, of a code: plane 0 is the sign of its two's complement (R254). -/
def planeOf (b p : Nat) (x : Int) : Nat := (x % 2 ^ b).toNat / 2 ^ (b - 1 - p) % 2
/-- The activation bit of plane p of element e in a format (R254). -/
def activation (f : FmtN) (v : QVec) (p e : Nat) : Nat :=
  match f.toNat with
  | 0 => planeOf 8 p (lane 1 v e)
  | 1 => planeOf 5 p (eltCode 2 1 (v.toNat / 16 ^ e % 16))
  | 2 => planeOf 10 p (eltCode 3 2 (sixBits v e))
  | 3 => planeOf 7 p (eltCode 2 3 (sixBits v e))
  | 8 => v.toNat / 2 ^ (2048 * p + e) % 2
  | 9 | 10 => v.toNat / 2 ^ (1024 * p + e) % 2
  | _ => v.toNat / 2 ^ (512 * p + e) % 2
/-- X of R255: the weighted counts of rows whose activation bit and weight bit are 1, over the planes enabled. -/
def planeSum (h : Half) (f : FmtN) (v : QVec) (p u col j : Nat) : Int :=
  ((List.range h.pm).map (fun k => (if k = 0 then (-1 : Int) else 1) * 2 ^ (h.pm - 1 - k) *
    (((List.range 32).filter (fun i => activation f v p (256 * u + 32 * j + i) = 1 ∧ planeBit h (32 * j + i) col k = 1)).length : Int))).sum
/-- The scale byte that block j of segment u takes (R254). -/
def scaleOf (v : QVec) (u j : Nat) : Byte := v.extractLsb' (8 * (8 * u + j)) 8
/-- The beat state that MMODE and MCLR leave (R249). -/
def beatCleared (h : Half) : Half := { h with bsum := [], np := 0, afmt := 0, asc := 0x7F7F7F7F7F7F7F7F, px := [] }
/-- The calendar without the beat writes of a half-macro that are in flight (R251). -/
def unforced (hm : Nat) (l : List Pend) : List Pend :=
  l.filter (fun p => match p.act with | .bsumIn h .. => decide (h ≠ hm) | .pxIn h _ => decide (h ≠ hm) | _ => true)
/-- Every bit of the half-macro's array reads as it was written (R243; log 30). -/
def ArrayClean (s : State) (hm : Nat) : Prop := ∀ x ∈ s.ecc, x.1 = 3 → x.2 / 2 ^ 32 ≠ hm
/-- PX of R66 from the block sums and the exponents e_j: the sum, with floors, at the exponent 40 below the greatest. -/
def ShiftedSum (b e : Nat → Int) (px : XA) : Prop :=
  ∃ Eh, (∃ j < 8, e j = Eh) ∧ (∀ j < 8, e j ≤ Eh) ∧
    px = xaMk ((List.range 8).map (fun j => ⌊(b j : ℚ) * 2 ^ (e j - (Eh - 40))⌋)).sum (Eh - 40)
/-- The exponent e_j of block j: the two scales and the two units, each less what was not read (R65, R66). -/
def blockExp (h : Half) (j : Nat) : Int :=
  (scaleByte h.asc j : Int) - 127 + ((scaleByte h.wscale j : Int) - 127) + (fmtUnit h.afmt + fmtWidth h.afmt - h.np) +
    (fmtUnit h.fmt + fmtWidth h.fmt - h.pm)
/-- A word of a set: its guard and set, whether it counts, the mode it needs, and what its other operands need. -/
structure SetWord where
  g : Guard
  h : HSet
  quota : Bool
  mode : Bool × FmtN → Prop
  ok : Prop
def setWord (s : State) : Instr → Option SetWord
  | .mpush g q k p u h =>
    let fmt : FmtN := (rdAf (me s) k.toNat).extractLsb' 12 4
    let sq : QN := (rdAf (me s) k.toNat).extractLsb' 8 4
    some ⟨g, h, true, computing, sq ≠ q.q ∧ p.toNat < fmtWidth fmt ∧ u.toNat < fmtSegs fmt ∧ ∃ v sc t, Takes s [q, ⟨q.pk, sq⟩] [v, sc] t⟩
  | .macc g a _ _ h => some ⟨g, h, true, computing, Readable s [a] ∧ (rdReg (me s) a).toNat + h.row.toNat ≤ 767 ∧ ∀ c, AsFree s c⟩
  | i => (xForm s i).map (fun f => ⟨f.g, f.h, f.quota, f.mode, Readable s f.need⟩)
/-- The word takes a fault at its bundle. -/
def TrapsAt (i : Instr) (s : State) (x : Trap) : Prop := exec i s = .next (takeTrap x s.pipe (me s).bun none s.cur s)
/-- The M1 address of a member, by its macro number. -/
def memberAddr (m : Member) : Word := BitVec.ofNat 64 (m.layer * 2 ^ 23 + m.macro_ * 2 ^ 16 + m.hm % 2 * 2 ^ 15)
/-- The first member of a set that a check refuses. -/
def FirstBad (s : State) (h : HSet) (bad : Member → Prop) (m : Member) : Prop :=
  ∃ l r, members s h = l ++ m :: r ∧ bad m ∧ ∀ x ∈ l, ¬ bad x
/-- The checks of a member: its macro exists, its half-macro is in the mode of the word at its access cycle, is free then, and its
interfaces are valid (R239, R246, R253). -/
def Present (s : State) (m : Member) : Prop := m.macro_ < macroCount s s.cur m.layer
def InMode (s : State) (mode : Bool × FmtN → Prop) (m : Member) : Prop := mode (modeAt s (me s) m.hm (now s + 1 + m.layer))
def FreeThen (s : State) (m : Member) : Prop := hmBusy s s.cur (now s + 1 + m.layer) m.hm = false
def Linked (s : State) (m : Member) : Prop := lanesOk s s.cur m.layer = true
/-- A MACC's landing receives the 32 values of a member. -/
def receives (p : Pend) (hm : Nat) (px : List XA) (x : Pend) : Pend :=
  match x.act with
  | .maccLand row cb ms got => if x.issue = p.issue ∧ x.pipe = p.pipe then { x with act := .maccLand row cb ms (got ++ [(hm, px)]) } else x
  | _ => x

end Sys2Proof.Claims

/-- A half-macro set names every included layer, macro and half, deepest layer first, then macros upward, then half 0 before half
1 (R252). -/
def Sys2Proof.Claims.HalfMacroSetsNameTheirMembersInOrder : Prop :=
  ∀ (s : State) (h : HSet), (∀ m, m ∈ members s h ↔ ∃ b < 2, m.layer < 4 ∧ h.lmask.getLsbD m.layer = true ∧ h.mbase.toNat ≤ m.macro_ ∧
      m.macro_ ≤ h.mbase.toNat + h.mcnt.toNat ∧ h.hmask.getLsbD b = true ∧ m.hm = hmKey s s.cur m.layer m.macro_ b) ∧
    (members s h).Pairwise (fun x y => y.layer < x.layer ∨ x.layer = y.layer ∧ (x.macro_ < y.macro_ ∨ x.macro_ = y.macro_ ∧ x.hm < y.hm))

/-- The X words: a set word acts at every member at issue + 1 + L, MMODE and MPUSH with what they read at issue, MACC also lands in
the store at issue + 4 + Lmax; MDRAIN and ASRD read the store, and ASWR writes it, at issue + 1; a second update of the store in one
cycle is a bank conflict, found and reported at the issue of the later word (R250 to R263; that the issue is the cycle of the report is
log 12's reading). -/
def Sys2Proof.Claims.BeatWordsActAtTheirCycles : Prop :=
  (∀ (i : Instr) (s : State) (f : XForm), xForm s i = some f → guardOn (me s) f.g = true → Readable s f.need →
    SetOk s f.h f.quota f.mode → exec i s = .next (actsAt s f.act (members s f.h) s)) ∧
  (∀ (s : State) (g : Guard) (q : QSrc) (k : AfN) (p : PlaneN) (u : SegN) (h : HSet) (fmt : FmtN) (sq : QN) (v sc : QVec) (t : Tile),
    guardOn (me s) g = true → fmt = (rdAf (me s) k.toNat).extractLsb' 12 4 → sq = (rdAf (me s) k.toNat).extractLsb' 8 4 → sq ≠ q.q →
    p.toNat < fmtWidth fmt → u.toNat < fmtSegs fmt → Takes s [q, ⟨q.pk, sq⟩] [v, sc] t → SetOk s h true computing →
    exec (.mpush g q k p u h) s =
      .next (actsAt s (fun hm => .mpush hm fmt p.toNat u.toNat v sc) (members s h) (setTile s s.cur t))) ∧
  (∀ (s : State) (g : Guard) (a : Reg) (c : ColG) (x : PerG) (h : HSet) (row lat : Nat), guardOn (me s) g = true → Readable s [a] →
    row = (rdReg (me s) a).toNat + h.row.toNat → row ≤ 767 → (∀ m ∈ members s h, m.layer + 4 ≤ lat) →
    (∃ m ∈ members s h, m.layer + 4 = lat) →
    SetOk s h true computing →
    (AsFree s (now s + lat) → exec (.macc g a c x h) s = .next (withAction s lat (.maccLand row c.toNat ((members s h).map (·.hm)) [])
      (actsAt s (fun hm => .macc hm x.toNat) (members s h) s))) ∧
    (¬ AsFree s (now s + lat) → exec (.macc g a c x h) s = .next (takeTrap ⟨9, 0, 0, 0⟩ s.pipe (me s).bun none s.cur s))) ∧
  (∀ (s : State) (g : Guard) (q : QN) (ty : OutTy) (clr : Bool) (a : Reg), guardOn (me s) g = true → (me s).elastic = false → Readable s [a] →
    Pushable s q → (rdReg (me s) a).toNat + moreRows ty ≤ 767 → ty.toNat ≤ 4 →
    exec (.mdrain g q ty clr a) s = .next (withAction s 1 (.mdrain (rdReg (me s) a).toNat ty clr q) s)) ∧
  (∀ (s : State) (g : Guard) (q : QN) (a : Reg) (x : ColG), guardOn (me s) g = true → (me s).elastic = false → Readable s [a] →
    Pushable s q → (rdReg (me s) a).toNat ≤ 767 → exec (.asrd g q a x) s = .next (withAction s 1 (.asrd (rdReg (me s) a).toNat x.toNat q) s)) ∧
  (∀ (s : State) (g : Guard) (q : QSrc) (a : Reg) (x : ColG) (v : QVec) (t : Tile), guardOn (me s) g = true → (me s).elastic = false →
    Readable s [a] → Takes s [q] [v] t → (rdReg (me s) a).toNat ≤ 767 → AsFree s (now s + 1) →
    exec (.aswr g q a x) s = .next (withAction s 1 (.aswr (rdReg (me s) a).toNat x.toNat v) (setTile s s.cur t)))

/-- Where the X words of a set fault at issue: in elastic code; where a half-macro is busy at its access cycle; at the first existing
member out of its mode; above sixteen half-macros in a cycle; at the first macro that the layer does not have; at the first member
behind an interface that is not valid; of several the lowest cause (R74, R105, R208, R239, R241, R246, R253, R265; that a busy half-macro is found at the issue of the later
word is log 12's reading, that members of macros that do not exist count towards the sixteen is log 18's). -/
def Sys2Proof.Claims.SetWordsFaultAtTheirMembers : Prop :=
  ∀ (i : Instr) (s : State) (f : SetWord), setWord s i = some f → guardOn (me s) f.g = true → f.ok →
    ((me s).elastic = true → TrapsAt i s ⟨5, 1, 0, 0⟩) ∧
    ((me s).elastic = false → (∃ m ∈ members s f.h, ¬ FreeThen s m) → TrapsAt i s ⟨9, 0, 0, 0⟩) ∧
    ((me s).elastic = false → (∀ m ∈ members s f.h, FreeThen s m) →
      (∀ m, FirstBad s f.h (fun m => Present s m ∧ ¬ InMode s f.mode m) m → TrapsAt i s ⟨0xA, 0, 0, memberAddr m⟩) ∧
      ((∀ m ∈ members s f.h, Present s m → InMode s f.mode m) →
        (f.quota = true → overQuota s (members s f.h) = true → TrapsAt i s ⟨0xB, 0, 0, 0⟩) ∧
        (f.quota = false ∨ overQuota s (members s f.h) = false →
          (∀ m, FirstBad s f.h (fun m => ¬ Present s m) m → TrapsAt i s ⟨0x11, 3, 0, memberAddr m⟩) ∧
          ((∀ m ∈ members s f.h, Present s m) → ∀ m, FirstBad s f.h (fun m => ¬ Linked s m) m → TrapsAt i s ⟨0x14, 0, 0, memberAddr m⟩))))

/-- A half-macro set names its members in order, and the X words act at them at their cycles or fault on them; a
conflict at a half-macro or in the store is reported at the issue of the later word, which is the reading of log 12 (R208, R239 to R241, R246,
R250 to R265). -/
def Obligations.BeatWordsActOnTheirMembers : Prop :=
  Claims.HalfMacroSetsNameTheirMembersInOrder ∧ Claims.BeatWordsActAtTheirCycles ∧ Claims.SetWordsFaultAtTheirMembers

/-- The block sums of a push are those of R255: the plane's sum, negated at the sign plane, else added to twice the old sum, in 32
bits, for every column and block. -/
def Obligations.PushesSumTheirPlanes : Prop :=
  ∀ (h : Half) (f : FmtN) (p u : Nat) (v : QVec) (col j : Nat), 1 ≤ h.pm → h.pm ≤ fmtWidth h.fmt → 1 ≤ fmtWidth h.fmt →
    col < fmtCols h.fmt → j < 8 →
    tabGet 0 (tabOf 0 (pushSums h f p u v)) (8 * col + j) =
      BitVec.ofInt 32 (if p = 0 then -planeSum h f v p u col j else 2 * (tabGet 0 h.bsum (8 * col + j)).toInt + planeSum h f v p u col j)

/-- At a half-macro the mode words take effect at once and discard the beat writes in flight; a push, a shift and a MACC take what is
there, a push's sums stand from the next cycle on, a shift's registers from the one after; a MACC's values are folded and added in the
store with MOF on saturation; drains and reads of the store push what they read; a push over rows whose parity is wrong faults (R66,
R243, R249 to R260, R264; PM in storage mode is log 19's reading, and how errors stand in the array is log 30's). -/
def Obligations.HalfMacrosAndTheStoreFollowTheBeats : Prop :=
  (∀ (s : State) (id : Nat) (p : Pend) (r : List Pend) (hm : Nat) (h : Half), s.ev.a = id → Due s id (isBeat s.ev.flag) p r →
    h = halfOf s hm → lanesOk s id (hmLayer hm) = true →
    (∀ c f w, p.act = .mmode hm c f w → exec .beatAccess s = .next (setHalf (setTile s id { tileOf s id with cal := unforced hm r }) hm
      { beatCleared h with mode := c, fmt := if c then f else 0, wscale := if c then w else 0, pm := fmtWidth (if c then f else 0) })) ∧
    (p.act = .mclr hm → exec .beatAccess s = .next (setHalf (setTile s id { tileOf s id with cal := unforced hm r }) hm (beatCleared h))) ∧
    (∀ m, p.act = .mpmask hm m → exec .beatAccess s = .next (setHalf (without s id r) hm { h with pm := m })) ∧
    (∀ f pl u v sc, p.act = .mpush hm f pl u v sc → ArrayClean s hm →
      exec .beatAccess s = .next (setTile s id { tileOf s id with cal := insertPend { p with
        due := tcAt s id + 1
        act := .bsumIn hm (tabOf 0 (pushSums h f pl u v)) (if pl = 0 then 1 else min (h.np + 1) 15)
          (if pl = 0 then some (f, (List.range 8).map (scaleOf sc u)) else none) } r })) ∧
    (∀ f pl u v sc, p.act = .mpush hm f pl u v sc → rowBad s hm = true → exec .beatAccess s =
      .next { takeTrap ⟨0x16, 0, 0, m1Word s hm 0⟩ p.pipe p.bun none id (without s id r) with ckpt := none }) ∧
    (p.act = .mshift hm → ∃ px, exec .beatAccess s = .next (setTile s id { tileOf s id with
        cal := insertPend { p with due := tcAt s id + 2, act := .pxIn hm px } r }) ∧
      (h.np = 0 → ∀ c, tabGet xaEmpty px c = xaEmpty) ∧
      (h.np ≠ 0 → ∀ c < fmtCols h.fmt,
        ((∃ j < 8, scaleByte h.asc j = 255 ∨ scaleByte h.wscale j = 255) → tabGet xaEmpty px c = xaNan) ∧
        ((∀ j < 8, scaleByte h.asc j ≠ 255 ∧ scaleByte h.wscale j ≠ 255) →
          ShiftedSum (fun j => (tabGet 0 h.bsum (8 * c + j)).toInt) (blockExp h) (tabGet xaEmpty px c)))) ∧
    (∀ g, p.act = .macc hm g → (∀ i < 32, eccBad s 4 (768 + hm) (32 * g + i) = false) →
      exec .beatAccess s = .next (setTile s id { tileOf s id with
        cal := r.map (receives p hm ((List.range 32).map (fun i =>
          if 32 * g + i < fmtCols h.fmt then tabGet xaEmpty h.px (32 * g + i) else xaEmpty))) }))) ∧
  (∀ (s : State) (id : Nat) (p : Pend) (r : List Pend) (hm : Nat), s.ev.a = id → Due s id isInForce p r →
    (∀ b n l, p.act = .bsumIn hm b n l → ∃ h, exec .beatWriteInForce s = .next (setHalf (without s id r) hm h) ∧
      h = { halfOf s hm with bsum := b, np := n, afmt := h.afmt, asc := h.asc } ∧
      (l = none → h.afmt = (halfOf s hm).afmt ∧ h.asc = (halfOf s hm).asc) ∧
      (∀ f sc, l = some (f, sc) → sc.length = 8 → h.afmt = f ∧ ∀ j < 8, h.asc.extractLsb' (8 * j) 8 = sc.getD j 0)) ∧
    (∀ px, p.act = .pxIn hm px → exec .beatWriteInForce s = .next (setHalf (without s id r) hm { halfOf s hm with px := px }))) ∧
  (∀ (s : State) (id : Nat) (p : Pend) (r : List Pend) (row cb : Nat) (ms : List Nat) (got : List (Nat × List XA)) (v : Nat → XA × Bool)
      (k : Nat), s.ev.a = id → Due s id isMaccLand p r → p.act = .maccLand row cb ms got → k = 128 * row + 32 * cb →
    (∀ i < 32, eccBad s 4 id (k + i) = false) → (∀ i, v i = folded (sent got i) ms (xaEmpty, false)) →
    ∃ y, exec .maccLands s = .next (setTile s id y) ∧ y = { tileOf s id with cal := r, acc := y.acc, astat := y.astat } ∧
      StoreIs (tileOf s id) y k 32 (fun i => (xaAdd (entry (tileOf s id) (k + i)) (v i).1).1) ∧
      y.astat = if ∃ i < 32, (v i).2 = true ∨ (xaAdd (entry (tileOf s id) (k + i)) (v i).1).2 = true
        then (tileOf s id).astat ||| 1 else (tileOf s id).astat) ∧
  (∀ (s : State) (id : Nat) (p : Pend) (r : List Pend), s.ev.a = id → Due s id isAsRead p r →
    (∀ row ty clr q n res, p.act = .mdrain row ty clr q → n = 512 / drainW ty → (∀ i < n, eccBad s 4 id (128 * row + i) = false) →
      res = (List.range n).map (fun i => xaDrain (drainFmt ty) (entry (tileOf s id) (128 * row + i))) →
      ∃ y, exec .asRead s = .next (setTile s id y) ∧ y = { tileOf s id with cal := y.cal, acc := y.acc } ∧
        StoreIs (tileOf s id) y (128 * row) (if clr then n else 0) (fun _ => xaEmpty) ∧
        y.cal = (if ∃ x ∈ res, x.ovf = true ∨ x.nv = true then insertPend { p with
            due := tcAt s id + 4, act := .flags .astat (ofNvA (res.any (·.ovf)) (res.any (·.nv))) } else fun l => l)
          (insertPend { p with due := tcAt s id + 4, act := .push q (ofLanes (drainW ty) (res.map (·.bits))) } r)) ∧
    (∀ row g q, p.act = .asrd row g q → (∀ i < 32, eccBad s 4 id (128 * row + 32 * g + i) = false) →
      ∃ v : QVec, exec .asRead s = .next (setTile s id { tileOf s id with
          cal := insertPend { p with due := tcAt s id + 2, act := .push q v } r }) ∧
        v.toNat < 2 ^ 3072 ∧ ∀ i < 32, v.extractLsb' (96 * i) 96 = entry (tileOf s id) (128 * row + 32 * g + i)))

/-! ## Mass trees -/

namespace Sys2Proof.Claims

/-- A register or literal operand, the literal zero-extended (R189, R190). -/
def rlValue (t : Tile) : RegLit → Word
  | .reg r => rdReg t r
  | .lit v => BitVec.ofNat 64 v.toNat
/-- The signed value of an MTADD (R190). -/
def rlSigned (t : Tile) : RegLit → Int
  | .reg r => (rdReg t r).toInt
  | .lit v => v.toInt
/-- A query: its guard, tree, operands to read, scalar and queue destinations, and what it starts with. -/
structure TForm where
  g : Guard
  t : TreeN
  need : List RegLit
  d : Option Reg
  q : Option QN
  x : MtQuery
/-- A query that has read nothing: kind, argument, its physical destination register, predicate, queue. -/
def query (s : State) (kind : MtKind) (arg : Nat) (d : Reg) (p : PredN) (q : QN) : MtQuery :=
  ⟨kind, arg, 0, 15, 0, 0, false, physReg (me s) d.toNat, p, q, true, arg, []⟩
/-- The queries of R195 to R197. -/
def tForm (s : State) : Instr → Option TForm
  | .mtst g t q x => some ⟨g, t, [x], none, some q, query s .store ((rlValue (me s) x).toNat % 256) 0 0 q⟩
  | .mtsum g t d x => some ⟨g, t, [x], some d, none, query s .sum (min (rlValue (me s) x).toNat 32768) d 0 0⟩
  | .mtfind g t d p x => some ⟨g, t, [x], some d, none, query s .find (rlValue (me s) x).toNat d p 0⟩
  | .mtcut g t p x => some ⟨g, t, [x], none, none, { query s .cut ((rlValue (me s) x).toNat - 1) 0 p 0 with
      miss := decide ((rlValue (me s) x).toNat = 0), op := (rlValue (me s) x).toNat }⟩
  | .mtroot g t d full => some ⟨g, t, [], some d, none, query s (if full then .full else .root) 32768 d 0 0⟩
  | .mtleaf g t d x => some ⟨g, t, [x], some d, none, query s .leaf ((rlValue (me s) x).toNat % 2 ^ 15) d 0 0⟩
  | .mthor g t d => some ⟨g, t, [], some d, none, query s .hor 0 d 0 0⟩
  | _ => none

/-- Prefix and Descend of R194, over the values that a query reads. -/
def prefixOf (rd : Nat → Nat → Nat) (i : Nat) : Nat :=
  if i = 32768 then rd 15 0
  else (((List.range 15).filter (fun l => i / 2 ^ l % 2 = 1)).map (fun l => rd l (i / 2 ^ l - 1))).sum
def descendFrom (rd : Nat → Nat → Nat) : Nat → Nat → Nat → Nat
  | 0, _, k => k
  | l + 1, m, k => if m < rd l (2 * k) then descendFrom rd l m (2 * k) else descendFrom rd l (m - rd l (2 * k)) (2 * k + 1)
/-- The reads of a query from a level down, where the tree of each level's cycle may differ. -/
def readDown (m : Nat → MTree) : Nat → MtQuery → MtQuery
  | 0, x => qRead (m 0) x
  | l + 1, x => readDown m l { qRead (m (l + 1)) x with level := l }
/-- The tree is settled: every node is the sum of its children (R186). -/
def Settled (rd : Nat → Nat → Nat) : Prop := ∀ l < 15, ∀ k < 2 ^ (14 - l), rd (l + 1) k = rd l (2 * k) + rd l (2 * k + 1)
/-- The unmasked prefix (R187). -/
def massBelow (rd : Nat → Nat → Nat) (i : Nat) : Nat := ((List.range i).map (rd 0)).sum

/-- An action of an engine step's word comes to stand in the tile's calendar. -/
def followed (id : Nat) (p : Pend) (due : Nat) (x : Act) (s : State) : State :=
  setTile s id { tileOf s id with cal := insertPend { p with due := due, act := x } (tileOf s id).cal }
/-- A register write follows; register 0 takes none. -/
def followedReg (id : Nat) (p : Pend) (due r : Nat) (v : Nat) (s : State) : State :=
  if r = 0 then s else followed id p due (.reg r (BitVec.ofNat 64 v)) s
/-- A predicate write follows; p0 takes none. -/
def followedPred (id : Nat) (p : Pend) (due : Nat) (d : PredN) (b : Bool) (s : State) : State :=
  if d = 0 then s else followed id p due (.pred d b) s
/-- y is t with the calendar r and another tree b. -/
def TreeChanged (t y : Tile) (b : TreeN) : Prop :=
  treeOf y (!b) = treeOf t (!b) ∧ y = { t with cal := y.cal, mt0 := y.mt0, mt1 := y.mt1 }
/-- The action is a write of tree b that is still in its settle state (R193). -/
def settles (b : TreeN) (x : Act) : Prop := (∃ l, x = .mtLeaf b l) ∨ (∃ l lf ks, x = .mtLevel b l lf ks) ∨ ∃ h, x = .mtHor b h

end Sys2Proof.Claims

/-- The T words: MTCLR, MTLD, MTUPD and MTADD write the leaves they name from the next cycle on, MTADD with a clamp that raises OF;
the queries start with their operand and read the root in the next cycle (R189 to R197). -/
def Obligations.MassTreeWordsStartTheirWork : Prop :=
  (∀ (s : State) (g : Guard) (t : TreeN), guardOn (me s) g = true → exec (.mtclr g t) s = .next (withAction s 1 (.mtClr t) s)) ∧
  (∀ (s : State) (g : Guard) (t : TreeN) (q : QSrc) (x : RegLit) (v : QVec) (u : Tile), guardOn (me s) g = true → countOk s x →
    Takes s [q] [v] u → exec (.mtld g t q x) s = .next (withAction s 1 (.mtLeaf t ((List.range 128).map (fun j =>
      (128 * ((rlValue (me s) x).toNat % 256) + j, lane 4 v j % 2 ^ 24)))) (setTile s s.cur u))) ∧
  (∀ (s : State) (g : Guard) (t : TreeN) (a : Reg) (y : RegLit) (k : Nat), guardOn (me s) g = true → Readable s [a] → countOk s y →
    k = (rdReg (me s) a).toNat % 2 ^ 15 →
    exec (.mtupd g t a y) s = .next (withAction s 1 (.mtLeaf t [(k, (rlValue (me s) y).toNat % 2 ^ 24)]) s) ∧
    ((∀ j, eccBad s 5 s.cur j = false) → ∀ x : Int, x = (node (treeOf (me s) t) 0 k : Int) + rlSigned (me s) y →
      exec (.mtadd g t a y) s = .next (
        if x < 0 then withAction s 1 (.flags .sstat 2) (withAction s 1 (.mtLeaf t [(k, 0)]) s)
        else if 2 ^ 24 ≤ x then withAction s 1 (.flags .sstat 2) (withAction s 1 (.mtLeaf t [(k, 2 ^ 24 - 1)]) s)
        else withAction s 1 (.mtLeaf t [(k, x.toNat)]) s))) ∧
  (∀ (i : Instr) (s : State) (f : TForm), tForm s i = some f → guardOn (me s) f.g = true → (∀ x ∈ f.need, countOk s x) →
    (∀ d, f.d = some d → Writable s d) → (∀ q, f.q = some q → Pushable s q) →
    exec i s = .next (withAction s 1 (.mtQ f.t f.x) s))

/-- What a query has read when it is through: Prefix below the horizon, the whole mass, a leaf, the horizon, or the leaf at which the
descent ends, over the values that stood at each level's cycle; on a settled tree the prefix is the sum of the leaves below the index,
and the descent finds the first leaf at which the mass exceeds the argument (R187, R194 to R197). -/
def Obligations.QueriesReadWhatTheirRulesSay : Prop :=
  (∀ (m : Nat → MTree) (rd : Nat → Nat → Nat) (x y : MtQuery), rd = (fun l k => node (m l) l k) → x.level = 15 → x.acc = 0 → x.k = 0 →
    y = readDown m 15 x →
    (x.kind = .sum → x.arg ≤ 32768 → y.acc = prefixOf rd (min x.arg (m 15).horizon)) ∧
    (x.kind = .root → x.arg = 32768 → y.acc = prefixOf rd (min 32768 (m 15).horizon)) ∧
    (x.kind = .full → y.acc = rd 15 0) ∧ (x.kind = .leaf → y.acc = rd 0 x.arg) ∧ (x.kind = .hor → y.acc = (m 15).horizon) ∧
    (x.kind = .find ∨ x.kind = .cut → y.hs = (m 15).horizon ∧ (y.miss = true ↔ x.miss = true ∨ rd 15 0 ≤ x.arg) ∧
      (y.miss = false → y.k = descendFrom rd 15 x.arg 0))) ∧
  (∀ rd : Nat → Nat → Nat, Settled rd →
    (∀ i ≤ 32768, prefixOf rd i = massBelow rd i) ∧
    (∀ a < rd 15 0, descendFrom rd 15 a 0 < 32768 ∧ a < massBelow rd (descendFrom rd 15 a 0 + 1) ∧ massBelow rd (descendFrom rd 15 a 0) ≤ a))

/-- The tree engine: a clear empties its tree and cancels the writes in flight; a write changes its leaves, then one level of their
ancestors a cycle, from the children as they stand; an MTCUT's horizon comes into force; a query reads one level a cycle and its
results land two cycles after its last read, the horizon one (R190 to R197). -/
def Obligations.MassTreesSettleLevelByLevel : Prop :=
  (∀ (s : State) (id : Nat) (p : Pend) (r : List Pend), s.ev.a = id → Due s id (isMtWrite s.ev.flag) p r →
    (∀ b, p.act = .mtClr b → ∃ y, exec .mtLevelWrite s = .next (setTile s id y) ∧ TreeChanged (tileOf s id) y b ∧
      (∀ l k, node (treeOf y b) l k = 0) ∧ (treeOf y b).horizon = 32768 ∧ (∀ q ∈ y.cal, ¬ settles b q.act) ∧
      (∀ q ∈ r, (∀ x, q.act ≠ .mtQ b x) → ¬ settles b q.act → q ∈ y.cal)) ∧
    (∀ b l, p.act = .mtLeaf b l → (l.map (·.1)).Nodup → (∀ x ∈ l, x.1 < 32768) → ∃ y ks, exec .mtLevelWrite s = .next (setTile s id y) ∧
      TreeChanged (tileOf s id) y b ∧ (treeOf y b).horizon = (treeOf (tileOf s id) b).horizon ∧ (∀ x ∈ l, node (treeOf y b) 0 x.1 = x.2) ∧
      (∀ v k, k < 32768 → (v ≠ 0 ∨ k ∉ l.map (·.1)) → node (treeOf y b) v k = node (treeOf (tileOf s id) b) v k) ∧
      (∀ k, k ∈ ks ↔ ∃ x ∈ l, x.1 / 2 = k) ∧ y.cal = insertPend { p with due := tcAt s id + 1, act := .mtLevel b 1 l ks } r) ∧
    (∀ b v lf ks, p.act = .mtLevel b v lf ks → 1 ≤ v → (∀ k ∈ ks, k < 16384) → (∀ j, eccBad s 5 id j = false) →
      ∃ y, exec .mtLevelWrite s = .next (setTile s id y) ∧ TreeChanged (tileOf s id) y b ∧
      (treeOf y b).horizon = (treeOf (tileOf s id) b).horizon ∧
      (∀ w k, k < 32768 → node (treeOf y b) w k = if w = v ∧ k ∈ ks then node (treeOf (tileOf s id) b) (v - 1) (2 * k) +
        node (treeOf (tileOf s id) b) (v - 1) (2 * k + 1) else node (treeOf (tileOf s id) b) w k) ∧
      (15 ≤ v → y.cal = r) ∧ (v < 15 → ∃ ls, (∀ k, k ∈ ls ↔ ∃ j ∈ ks, j / 2 = k) ∧
        y.cal = insertPend { p with due := tcAt s id + 1, act := .mtLevel b (v + 1) lf ls } r))) ∧
  (∀ (s : State) (id : Nat) (p : Pend) (r : List Pend) (b : TreeN) (h : Nat), s.ev.a = id → Due s id isMtHor p r → p.act = .mtHor b h →
    ∃ y, exec .mtHorizonWrite s = .next (setTile s id y) ∧ TreeChanged (tileOf s id) y b ∧ y.cal = r ∧
      treeOf y b = { treeOf (tileOf s id) b with horizon := h }) ∧
  (∀ (s : State) (id : Nat) (p : Pend) (r : List Pend) (b : TreeN) (x y : MtQuery) (c : Nat), s.ev.a = id → Due s id isMtQ p r →
    p.act = .mtQ b x → (∀ j, eccBad s 5 id j = false) → y = qRead (treeOf (tileOf s id) b) x → c = tcAt s id →
    (x.level ≠ 0 → exec .mtQueryLevelRead s = .next (followed id p (c + 1) (.mtQ b { y with level := x.level - 1 }) (without s id r))) ∧
    (x.level = 0 → (x.kind = .sum ∨ x.kind = .root ∨ x.kind = .full ∨ x.kind = .leaf ∨ x.kind = .hor →
      exec .mtQueryLevelRead s = .next (followedReg id p (c + 2) x.reg y.acc (without s id r)))) ∧
    (x.level = 0 → x.kind = .find → exec .mtQueryLevelRead s = .next (
      if y.miss = false ∧ y.k < y.hs then followedPred id p (c + 2) x.pd true (followedReg id p (c + 2) x.reg y.k (without s id r))
      else followedPred id p (c + 2) x.pd false (followedReg id p (c + 2) x.reg y.hs (without s id r)))) ∧
    (x.level = 0 → x.kind = .cut → exec .mtQueryLevelRead s = .next (followedPred id p (c + 2) x.pd (!y.miss)
      (if x.horOk then followed id p (c + 1) (.mtHor b (if y.miss then 32768 else y.k + 1)) (without s id r) else without s id r))) ∧
    (x.level = 0 → x.kind = .store → exec .mtQueryLevelRead s = .next (followed id p (c + 2) (.push x.q
      (ofLanes 4 ((List.range 128).map (fun j => node (treeOf (tileOf s id) b) 0 (128 * x.arg + j))))) (without s id r))))

/-! ## Faults, the freeze, snapshots, resume and abort -/

namespace Sys2Proof.Claims

/-- A fault whose numbers fit the fields of TCAUSE and TFPC (R203, R204). -/
def Fits (x : Trap) (pipe : Nat) (b : BRef) : Prop :=
  x.cause < 256 ∧ x.sub < 256 ∧ x.code < 65536 ∧ pipe < 16 ∧ b.seg < 2 ^ 20 ∧ b.half < 2 ∧ b.word < 256
/-- The register names the bundle: V, SEG, HALF, WORD, reserved bits 0 (R204). -/
def NamesBundle (w : Word) (b : BRef) : Prop :=
  w.getLsbD 63 = true ∧ w.extractLsb' 29 34 = 0 ∧ (w.extractLsb' 9 20).toNat = b.seg ∧ (w.extractLsb' 8 1).toNat = b.half ∧
    (w.extractLsb' 0 8).toNat = b.word
/-- TCAUSE: CODE, SUB, PIPE, CAUSE, reserved bits 0 (R203). -/
def CauseIs (w : Word) (x : Trap) (pipe : Nat) : Prop :=
  (w.extractLsb' 48 16).toNat = x.code ∧ w.extractLsb' 40 8 = 0 ∧ (w.extractLsb' 32 8).toNat = x.sub ∧ w.extractLsb' 24 8 = 0 ∧
    (w.extractLsb' 20 4).toNat = pipe ∧ w.extractLsb' 8 12 = 0 ∧ (w.extractLsb' 0 8).toNat = x.cause
/-- The tile of a frozen domain: TCYC holds the freeze cycle relative to T0 (R205). -/
def stopped (s : State) (d : Nat) (t : Tile) : Tile := { t with tcyc := BitVec.ofNat 64 ((domAt s d).tc - (ttOf s t.tt).t0) }
/-- A channel of a domain that freezes: its sequencer begins anew (R282). -/
def seqAnew (s : State) (d : Nat) (c : Chan) : Chan :=
  match c.comp with
  | some k => if (ttOf s k).dom = d then { c with seq := [] } else c
  | none => c
/-- The two tiles hold the same fault. -/
def SameFault (t u : Tile) : Prop := t.tcause = u.tcause ∧ t.tfpc = u.tfpc ∧ t.tbpc = u.tbpc ∧ t.taddr = u.taddr
/-- The entries of a queue that accesses of the cycle's bundle have reserved (R169). -/
def reservedNow (s : State) (d : Nat) (t : Tile) (l : List QEnt) : Nat :=
  (l.filter (fun e => match e.resv with
    | some i => t.out.any (fun x => x.id = i && x.issue = (domAt s d).tc)
    | none => false)).length
/-- A reservation of the cycle's bundle is the fifth entry of a queue (R71, R169). -/
def FifthEntry (s : State) (d id : Nat) : Prop :=
  ∃ q ∈ (tileOf s id).queues, 4 < q.2.length ∧ 0 < reservedNow s d (tileOf s id) q.2 ∧
    q.2.length ≤ 4 + reservedNow s d (tileOf s id) q.2
/-- The checkpoint of the domain's cycle. -/
def CkptOf (s : State) (d : Nat) (c : Ckpt) : Prop := s.ckpt = some c ∧ c.dom = d
/-- The fault registers of a tile after the end of the cycle: as they stood, and cause 0x07 of a fifth reservation where no cause
that is lower or equal stands (R71, R208). -/
def FaultKept (s : State) (d id : Nat) (t : Tile) : Prop :=
  (¬FifthEntry s d id ∨ (causeOf (tileOf s id) ≠ 0 ∧ causeOf (tileOf s id) ≤ 7) → SameFault t (tileOf s id)) ∧
  (FifthEntry s d id → id ∈ domTiles s d → causeOf (tileOf s id) = 0 ∨ 7 < causeOf (tileOf s id) → CauseIs t.tcause ⟨7, 0, 0, 0⟩ 6)
/-- A joint that is a hold point stands at TC in a Running timetable of the domain (R282). -/
def AtHoldPoint (s : State) (d : Nat) : Prop :=
  ∃ k n dg, (ttOf s k).st = .running ∧ (ttOf s k).dom = d ∧ (ttOf s k).t0 ≤ (domAt s d).tc ∧ n < 256 ∧
    jointEntry (ttOf s k).img n = ((domAt s d).tc - (ttOf s k).t0, true, true, dg)
/-- Every access of the domain's tiles is complete, or waits for a repair (R207, R247). -/
def AccessesOver (s : State) (d : Nat) : Prop :=
  ∀ id ∈ domTiles s d, ∀ x ∈ (tileOf s id).out, x.op = .fence ∨ x.stuck = true ∨ (x.done = true ∧ x.walk = false)
/-- The request for a hold that a die has made is known on every die of the domain: its own, or 12 cycles have passed (R87, R282). -/
def HoldKnown (s : State) (d : Nat) : Prop :=
  ∃ h ∈ (domAt s d).holds, (∀ die ∈ domDies s d, die = h.1) ∨ h.2 + 12 ≤ (domAt s d).tc
/-- A cause that R201 marks "no" stands in a tile of the domain, or one met an interface on its way whose repair has failed (R246,
R247). -/
def MayNotGoOn (s : State) (d : Nat) : Prop :=
  (∃ id ∈ domTiles s d, causeOf (tileOf s id) ∉ [0, 0x14, 0x17, 0x18]) ∨
    ∃ id ∈ domTiles s d, ∃ i ∈ metShafts id (tileOf s id), ∃ l ≤ i.2, (shaftKey s i.1, l) ∈ s.hc.lost

/-- A part of an access that no path can deliver (R350). -/
def Undelivered (s : State) (id : Nat) (x : Acc) (p : Part) : Prop :=
  partOrdered s id x p = true ∧ ∃ g, pageOf s (partOf id) p.va = some g ∧ reachable s g = false

end Sys2Proof.Claims

/-- Taking a fault: the tile's TCAUSE gets the cause, subcode, code and pipe, TFPC the faulting bundle, TBPC the branch where there is
one, TADDR the address; its domain is to freeze; nothing else of the tile, of other tiles or of memory changes. A lower or equal cause
already recorded stays (R208; an equal one by the model's reading, log 18). TRAP takes it with its code, but passes at the cycle of a
resume; a link past its delivery time takes cause 0x16 (R137, R201 to R208, R214, R350; when that time is over is the
model's choice, log 21). -/
def Obligations.TakingAFaultFillsTheFaultRegisters : Prop :=
  (∀ (x : Trap) (pipe : Nat) (b : BRef) (tb : Option BRef) (id : Nat) (s t : State) (y : Tile), t = takeTrap x pipe b tb id s →
    y = tileOf t id → Fits x pipe b →
    domAt t (domOf s id) = { domAt s (domOf s id) with faulted := true } ∧ t.mem = s.mem ∧ (∀ j, j ≠ id → tileOf t j = tileOf s j) ∧
    y = { tileOf s id with tcause := y.tcause, tfpc := y.tfpc, tbpc := y.tbpc, taddr := y.taddr } ∧
    (causeOf (tileOf s id) = 0 ∨ x.cause < causeOf (tileOf s id) → CauseIs y.tcause x pipe ∧ NamesBundle y.tfpc b ∧ y.taddr = x.addr ∧
      (tb = none → y.tbpc = 0) ∧ (∀ r, tb = some r → r.seg < 2 ^ 20 → r.half < 2 → r.word < 256 → NamesBundle y.tbpc r)) ∧
    (causeOf (tileOf s id) ≠ 0 → causeOf (tileOf s id) ≤ x.cause → y = tileOf s id)) ∧
  (∀ (s : State) (c : Cond) (v : Lit), (me s).delay = 0 →
    (condTrue (me s) c = true → (me s).skip ≠ some (now s, 0x18) →
      exec (.trap c v) s = .next (takeTrap ⟨0x18, 0, v.toNat, 0⟩ s.pipe (me s).bun none s.cur s)) ∧
    (condTrue (me s) c = false ∨ (me s).skip = some (now s, 0x18) → exec (.trap c v) s = .next s)) ∧
  (∀ (s : State) (x : Acc) (p : Part), accOf (tileOf s s.ev.a) s.ev.b = some x → p ∈ x.parts → Undelivered s s.ev.a x p →
    (∀ q ∈ x.parts, Undelivered s s.ev.a x q → q = p) →
    ∃ t, exec .linkDeliveryTimeout s = .next t ∧ t.mem = s.mem ∧ (domAt t (domOf s s.ev.a)).faulted = true ∧
      (causeOf (tileOf s s.ev.a) = 0 → causeOf (tileOf t s.ev.a) = 0x16 ∧ (tileOf t s.ev.a).taddr = BitVec.ofNat 64 p.va))

/-- At the end of a cycle's bundles a faulted domain freezes, and so does one with a fifth reservation: where the fault is one of its
bundles, the cycle's bundles are undone and the fault registers kept; where an engine found it, they keep their effects; TCYC gets the
cycle and the running timetables are Frozen; what an issuer of its channels has moved and is not used is asked for again (R19, R71,
R205, R206, R208; the model's checkpoint, log 5; the requests, log 20). -/
def Obligations.AFaultFreezesItsDomainPrecisely : Prop :=
  ∀ (s : State) (d : Nat) (r : List Work), s.agenda = .close d :: r → (domAt s d).frozen = false → (domAt s d).doomed = false →
    (s.chans.map (·.1)).Nodup → (∀ c, s.ckpt = some c → (c.chans.map (·.1)).Nodup) →
    ((domAt s d).faulted = true ∨ ∃ c id, CkptOf s d c ∧ id ∈ domTiles s d ∧ FifthEntry s d id) →
    ∃ t, step s = .next t ∧ t.agenda = r ∧ t.mem = s.mem ∧ t.halves = s.halves ∧ t.ckpt = none ∧
    domAt t d = { domAt s d with frozen := true, faulted := false } ∧
    (∀ k, (ttOf s k).st = .running → (ttOf s k).dom = d → ttOf t k = { ttOf s k with st := .frozen }) ∧
    (∀ c, CkptOf s d c → (∀ ch, chanAt t ch = seqAnew s d (tabGet Chan.idle c.chans ch)) ∧ t.eps = c.eps ∧
      ∀ id ∈ domTiles { s with tiles := c.tiles } d, FaultKept s d id (tileOf t id) ∧
        tileOf t id = stopped s d { tabGet Tile.reset c.tiles id with
          tcause := (tileOf t id).tcause, tfpc := (tileOf t id).tfpc, tbpc := (tileOf t id).tbpc, taddr := (tileOf t id).taddr }) ∧
    ((∀ c, ¬CkptOf s d c) → (∀ ch, chanAt t ch = seqAnew s d (chanAt s ch)) ∧ t.eps = s.eps ∧
      ∀ id ∈ domTiles s d, tileOf t id = stopped s d (tileOf s id)) ∧
    ∀ g, g ∈ t.grants ↔ g ∈ s.grants ∧ ∀ k, (chanAt t (chanOf (64 * g.2))).comp = some k → (ttOf s k).dom ≠ d

/-- A frozen domain's snapshot is taken once its accesses are through; a requested hold freezes the domain at its hold point and
nowhere else; a domain is resumed at its recorded cycle with its tiles, half-macros and episodes as recorded, by their logical names,
or doomed where R215 refuses the snapshot; after a fatal error nothing resumes; one that may not go on is aborted: its timetables' slots
are Empty, its tiles cleared but for M0 and the accumulation store (R19, R104, R109, R206 to R216, R246, R247, R282, R341). That a resume
gives the fault registers the values they have without a fault is the model's choice (log 32); that one tile whose cause R201 marks "no"
aborts every timetable of its domain, and that a domain whose timetables were all Armed needs no snapshot, are readings of log 18. -/
def Obligations.FrozenDomainsAreResumedOrAborted : Prop :=
  (∀ (s : State) (d : Nat), s.ev.a = d → (domAt s d).frozen = true → AccessesOver s d → (∀ n ∈ s.snaps, n.dom ≠ d) →
    ∃ t, exec .snapshotTaken s = .next t ∧ t = { s with snaps := t.snaps, doms := t.doms } ∧
      domAt t d = { domAt s d with doomed := (domAt s d).doomed || (domAt s d).faulted, faulted := false } ∧
      (∀ n ∈ s.snaps, n ∈ t.snaps) ∧
      ∀ k, (ttOf s k).st = .frozen → (ttOf s k).dom = d → ∃ n ∈ t.snaps, n.dom = d ∧ n.tt = k ∧ n.tcf = (domAt s d).tc ∧
        n.t0 = (ttOf s k).t0 ∧ n.ttid = (ttOf s k).ttid ∧ n.parts = (ttOf s k).parts ∧ n.serial = s.disc.serial ∧ n.portable = s.ev.flag ∧
        (n.fault = true ↔ ∃ id ∈ domTiles s d, causeOf (tileOf s id) ≠ 0) ∧
        (∀ p ∈ s.tiles, p.2.tt = k → (p.1, mapTile (hmName s p.1) p.2) ∈ n.tiles) ∧
        (∀ e ∈ s.eps, e.tt = k → e ∈ n.eps) ∧
        (∀ c ∈ s.chans, c.2.comp = some k → c ∈ n.chans)) ∧
  (∀ (s : State) (d : Nat), s.ev.a = d → (domAt s d).frozen = false →
    (HoldKnown s d → AtHoldPoint s d → exec .holdPointFreeze s = .next (setDom s d { domAt s d with faulted := true, thermal := true, holds := [] })) ∧
    (¬HoldKnown s d ∨ ¬AtHoldPoint s d → exec .holdPointFreeze s = .next s)) ∧
  (∀ (s : State) (d : Nat) (n : Snap), s.ev.a = d → s.ev.snap = none → (domAt s d).frozen = true → (domAt s d).live = true →
    waitsFor s d = false → s.snaps.filter (fun n => n.dom = d) = [n] →
    (s.hc.dying = true ∨ s.hc.halted = true → exec .resume s = .next s) ∧
    (s.hc.dying = false → s.hc.halted = false →
    (snapOk s n = false → exec .resume s = .next (setDom s d { domAt s d with doomed := true })) ∧
    (∀ k, snapOk s n = true → snapTt s n = some k → (n.tiles.map (·.1)).Nodup → (n.chans.map (·.1)).Nodup →
      (n.shafts.map (fun h => hmOfName s h.1)).Nodup → (s.halves.map (·.1)).Nodup → ∃ t, exec .resume s = .next t ∧
      domAt t d = ⟨(domAt s d).parts, n.tcf, false, false, (domAt s d).holds, false, true, false, false, false, []⟩ ∧
      ttOf t k = { ttOf s k with st := .running, t0 := n.t0, dom := d } ∧ t.snaps = s.snaps.filter (fun n => n.dom ≠ d) ∧
      (∀ p ∈ n.tiles, tileOf t p.1 = { mapTile (hmOfName s) p.2 with
        tt := k, tcause := 0x0000000000F00000, tfpc := 0, tbpc := 0, taddr := 0, tcyc := 0
        skip := if causeOf p.2 = 0x18 ∨ causeOf p.2 = 0x17 then some (n.tcf, causeOf p.2) else none
        out := p.2.out.map (fun x => { x with stuck := false, back := 0 }) }) ∧
      (∀ h ∈ n.shafts, halfOf t (hmOfName s h.1) =
        if n.portable = true then h.2 else { h.2 with bytes := (halfOf s (hmOfName s h.1)).bytes }) ∧
      (∀ p ∈ n.tiles, ∀ hm, hm / 1024 = shaftKey s p.1 → hm ∉ n.shafts.map (fun h => hmOfName s h.1) →
        halfOf t hm = if n.portable = true then Half.reset else { Half.reset with bytes := (halfOf s hm).bytes }) ∧
      (∀ e ∈ n.eps, { e with tt := k } ∈ t.eps) ∧ (∀ c ∈ n.chans, (chanAt t c.1).comp = some k) ∧
      (∃ l, t.agenda = s.agenda ++ l) ∧ t.mem = s.mem))) ∧
  (∀ (s : State) (d : Nat), s.ev.a = d → (domAt s d).frozen = true → (domAt s d).live = true →
    ((∃ n ∈ s.snaps, n.dom = d) ∨ ∀ k, (ttOf s k).st = .frozen → (ttOf s k).dom ≠ d) →
    (domAt s d).doomed = true ∨ MayNotGoOn s d →
    ∃ t, exec .harbourAbort s = .next t ∧ (domAt t d).frozen = false ∧
      ∀ k, (ttOf s k).st = .frozen → (ttOf s k).dom = d → ttOf t k = TT.none ∧ (∀ n ∈ t.snaps, n.tt ≠ k) ∧
        (∀ e ∈ t.eps, e.tt ≠ k) ∧ ∀ id ∈ ttTiles s k, tileOf t id = { Tile.reset with m0 := (tileOf s id).m0, acc := (tileOf s id).acc })

/-! ## Quay queues -/

namespace Sys2Proof.Claims

/-- The queue whose command runs. -/
def qr (s : State) : Queue := queueAt s s.ev.a
/-- A register of a queue; c0 reads 0 and takes nothing (R328). -/
def cval (x : Queue) (n : Nat) : Word := if n = 0 then 0 else tabGet 0 x.c n
def cput (x : Queue) (n : Nat) (v : Word) : Queue := if n = 0 then x else { x with c := tabSet 0 x.c n v }
/-- ca, cb, cd, the sign-extended immediate, and y of R329, of the command word that the queue holds. -/
def va (x : Queue) : Word := cval x (irA x.ir)
def vb (x : Queue) : Word := cval x (irB x.ir)
def vd (x : Queue) : Word := cval x (irD x.ir)
def vi (x : Queue) : Word := BitVec.ofInt 64 (irImm x.ir).toInt
def vy (x : Queue) : Word := if irX x.ir = 1 then vi x else vb x
/-- The queue with cd set. -/
def setD (x : Queue) (v : Word) : Queue := cput x (irD x.ir) v
/-- What was moved for the queue is used up (R280). -/
def spent (s b : State) : State := { b with grants := b.grants.filter (fun g => g.1 ≠ .queue s.ev.a) }
/-- An engine writes bytes at a place for a source: at once when the lines are open and no waiting request has the source or one of the
lines, else the write waits for its channel (R18, R327). -/
def posted (src : Option Nat) (p : Nat) (bs : List Byte) (s : State) : State :=
  if (∀ k ∈ touchLines [⟨p, bs.length, true⟩], lineOpen s none (64 * k) = true ∧ ∀ w ∈ s.waiting, k ∉ touchLines w.l) ∧
      ∀ w ∈ s.waiting, w.src = none ∨ w.src ≠ src then { s with mem := storeBytes s.mem p bs }
  else { s with
    waiting := s.waiting ++ [⟨s.nwait, .cxlMemAccess, { EvArgs.zero with a := p, c := 1, flag := true, bytes := bs }, [⟨p, bs.length, true⟩], src⟩]
    nwait := s.nwait + 1 }
/-- The source of the writes that the front end makes for a queue. -/
def ofQueue (q : Nat) : Option Nat := some (2 ^ 17 + q)
/-- Every earlier write for the queue has performed (R336). -/
def WritesPerformed (s : State) : Prop := ∀ w ∈ s.waiting, w.src ≠ ofQueue s.ev.a
/-- The head mirror receives a value, where its page exists and may be written (R324, R327). -/
def mirrored (s : State) (q : Nat) (h : Nat) (s' : State) : State :=
  match qPage s q (queueAt s q).qhm.toNat with
  | some g => if g.wr then posted (ofQueue q) (placeOf g (queueAt s q).qhm.toNat) (leBytes h 8) s' else s'
  | none => s'
/-- The queue of the running command is x and goes on at a place; a place at or after NW completes the slot: HEAD advances and the
mirror receives it (R327, R330). `b` says what memory and the outside have got from the command. -/
def goesOn (s b : State) (x : Queue) (p : CPlace) : State :=
  match p with
  | .slot i =>
    if lineNw x ≤ i then mirrored s s.ev.a ((x.head + 1) % 2 ^ 64)
      (setQueue b s.ev.a { x with head := (x.head + 1) % 2 ^ 64, line := none, at_ := .slot 0, wait := .none })
    else setQueue b s.ev.a { x with at_ := .slot i, wait := .none }
  | .buf v => setQueue b s.ev.a { x with at_ := .buf v, wait := .none }
/-- The place k words on. -/
def onward (p : CPlace) (k : Nat) : CPlace :=
  match p with
  | .slot i => .slot (i + k)
  | .buf v => .buf ((v + 8 * k) % 2 ^ 64)
/-- The command is done: the queue is x, and the next word follows. -/
def done (s b : State) (x : Queue) : State := goesOn s (spent s b) x (onward (qr s).at_ 1)
/-- The address of slot HEAD, for N slots, and of the word at a place (R325). -/
def headVa (x : Queue) : Nat := x.base.toNat + 64 * (x.head % (if x.nslot = 0 then 1 else x.nslot.toNat))
def wordVa (x : Queue) : CPlace → Nat
  | .slot i => headVa x + 8 + 8 * i
  | .buf v => v
/-- The queue stops with an error, before any effect of its command (R335). -/
def stops (s : State) (code : Nat) : State :=
  setQueue s s.ev.a { qr s with
    st := 2, err := code, wait := .none
    word := match (qr s).at_ with | .slot i => i | .buf _ => 0
    erra := BitVec.ofNat 64 (wordVa (qr s) (qr s).at_) }
/-- The command waits for a window of a channel that it uses, or for an earlier write of its queue, and is tried again (R18, R336). -/
def paused (s : State) : State := setQueue s s.ev.a { qr s with wait := .window }
/-- The n bytes at an address, in the address space of the queue's process, make the number v (R3, R324). -/
def QBytes (s : State) (a n v : Nat) : Prop :=
  v < 256 ^ n ∧ ∀ k < n, ∃ g, qPage s s.ev.a (a + k) = some g ∧ physByte s (placeOf g (a + k)) = BitVec.ofNat 8 (v / 256 ^ k)
/-- The queue may write n bytes at an address now: the page is writable, and each line is on an open channel or was moved for the queue
in a window (R18, R280, R324). -/
def QWrites (s : State) (a n : Nat) (g : Page) : Prop := qPage s s.ev.a a = some g ∧ g.wr = true ∧ qServed s s.ev.a a n = true
/-- n bytes of v stand at the page's place, and no other byte of memory has changed. -/
def QStored (s b : State) (a n v : Nat) (g : Page) : Prop := b = { s with mem := b.mem } ∧ Stored s.mem b.mem (placeOf g a) n v
/-- The results of the arithmetic commands (R329). -/
def cResult (x : Queue) : Instr → Option Word
  | .cli => some (vi x)
  | .cmov => some (va x)
  | .cadd => some (BitVec.ofInt 64 ((va x).toInt + (vy x).toInt))
  | .csub => some (BitVec.ofInt 64 ((va x).toInt - (vy x).toInt))
  | .cand => some (va x &&& vy x)
  | .cor => some (va x ||| vy x)
  | .cshl => some (BitVec.ofNat 64 ((va x).toNat * 2 ^ ((vy x).toNat % 64)))
  | .cshr => some (BitVec.ofNat 64 ((va x).toNat / 2 ^ ((vy x).toNat % 64)))
  | _ => none
/-- The conditions of CB and CWAIT, by code (R330, R331). -/
def ccTrue : Nat → Word → Word → Bool
  | 0, _, _ => true
  | 1, a, b => decide (a = b)
  | 2, a, b => decide (a ≠ b)
  | 3, a, b => decide (a.toInt < b.toInt)
  | 4, a, b => decide (b.toInt ≤ a.toInt)
  | 5, a, b => decide (a.toNat < b.toNat)
  | _, a, b => decide (b.toNat ≤ a.toNat)
/-- A branch of the running command with the queue x: its target by the offset, in a slot inside words 0 to NW (R330). -/
def BranchTo (x : Queue) (p : CPlace) : Prop :=
  match x.at_, p with
  | .slot i, .slot j => (j : Int) = i + (irImm x.ir).toInt ∧ j ≤ lineNw x
  | .buf v, .buf w => (w : Int) = (v + 8 * (irImm x.ir).toInt) % 2 ^ 64
  | _, _ => False
/-- The address of the running word in its slot lets no target in. -/
def BranchOut (x : Queue) : Prop := ∃ i, x.at_ = .slot i ∧ ((i : Int) + (irImm x.ir).toInt < 0 ∨ (lineNw x : Int) < i + (irImm x.ir).toInt)
/-- The address of a CLD, CST or CCALL, and the bytes of a CLD or CST (R330). -/
def qAddr (x : Queue) : Nat := (va x + vi x).toNat
def qWidth (x : Queue) : Nat := if irX x.ir = 1 then 4 else 8
/-- The line of a copy at src is v: read before, or to be read now (R335). -/
def LineOf (s : State) (buf : Option Nat) (src v : Nat) : Prop :=
  buf = some v ∨ (buf = none ∧ QBytes s src 64 v ∧ qServed s s.ev.a src 64 = true)
/-- Every line of a copy is mapped, and those of the destination may be written (R330, R335). -/
def CopyPages (s : State) (dst src n : Nat) : Prop :=
  ∀ i < n / 64, qPage s s.ev.a (src + 64 * i) ≠ none ∧ ∃ g, qPage s s.ev.a (dst + 64 * i) = some g ∧ g.wr = true
/-- The registers that a queue takes when it starts (R324). -/
def started (x : Queue) : Queue :=
  { x with en := true, st := 1, head := x.tail, c := [], stack := [], line := none, at_ := .slot 0, wait := .none, err := 0, word := 0, erra := 0 }
/-- The host reaches the registers of the queue: a device that verified its firmware, a queue that exists (R324, R343). -/
def Reached (s : State) : Prop := s.hc.locked = false ∧ s.ev.a < 256
/-- A row of the command tables (R329 to R331, R333 to R335): opcode, values of X, the fields that the entry uses, the immediates that it
lets, and the command. -/
structure CmdRow where
  op  : Nat
  xs  : List Nat
  d   : Bool
  a   : Bool
  b   : Bool
  imm : Nat → Prop
  i   : Instr
def immAny (_ : Nat) : Prop := True
def immZero (n : Nat) : Prop := n = 0
/-- IMM[30:12] of a CSIG is 0 (R331). -/
def immSig (n : Nat) : Prop := ∀ k, 12 ≤ k → k < 31 → n.testBit k = false
/-- y of an arithmetic command: cb and no immediate, or the immediate and no cb. -/
def arithRows (op : Nat) (i : Instr) : List CmdRow :=
  [⟨op, [0], true, true, true, immZero, i⟩, ⟨op, [1], true, true, false, immAny, i⟩]
def cmdRows : List CmdRow :=
  [⟨0x00, [0], false, false, false, immZero, .cnop⟩, ⟨0x01, [0], true, false, false, immAny, .cli⟩,
   ⟨0x01, [1], true, false, false, immZero, .cliLiteral⟩, ⟨0x02, [0], true, true, false, immZero, .cmov⟩] ++
  arithRows 0x03 .cadd ++ arithRows 0x04 .csub ++ arithRows 0x05 .cand ++ arithRows 0x06 .cor ++ arithRows 0x07 .cshl ++
  arithRows 0x08 .cshr ++
  [⟨0x10, [0, 1], true, true, false, immAny, .cld⟩, ⟨0x11, [0, 1], false, true, true, immAny, .cst⟩,
   ⟨0x18, [0, 1, 2, 3, 4, 5, 6], false, true, true, immAny, .cb⟩, ⟨0x19, [0], false, true, false, immAny, .cloop⟩,
   ⟨0x1A, [0], false, true, false, immAny, .ccall⟩, ⟨0x1B, [0], false, false, false, immZero, .cret⟩,
   ⟨0x1C, [1, 2, 3, 4, 5, 6], true, true, true, immAny, .cwait⟩, ⟨0x1D, [0], false, true, true, immSig, .csig⟩,
   ⟨0x20, [0, 1], true, true, true, immZero, .cttld⟩, ⟨0x20, [2, 3], true, false, true, immZero, .cttldUn⟩,
   ⟨0x21, [0, 1], true, true, true, immZero, .claunchTc⟩, ⟨0x21, [4, 5], true, true, true, immZero, .claunchRel⟩,
   ⟨0x21, [2, 3], true, true, true, (· < 256), .claunchJt⟩, ⟨0x21, [6, 7], true, true, false, immZero, .claunchWd⟩,
   ⟨0x22, [0], true, true, true, immZero, .ccopy⟩, ⟨0x23, [0], true, true, true, (· < 32), .cdemote⟩,
   ⟨0x24, [0], true, true, true, (· < 32), .cpromote⟩, ⟨0x28, [0], false, false, false, immZero, .cfence⟩,
   ⟨0x29, [0], false, false, false, immZero, .chalt⟩]
/-- A command word made of its fields (R328). -/
def wordOf (op d a b x imm : Nat) : Word :=
  BitVec.ofNat 64 (op * 2 ^ 56 + d * 2 ^ 52 + a * 2 ^ 48 + b * 2 ^ 44 + x * 2 ^ 40 + imm)
/-- The word is one of a row: the reserved bits are 0, and so is every field that the row does not use (R328). -/
def RowHas (r : CmdRow) (w : Word) : Prop :=
  ∃ d a b x imm, d < 16 ∧ a < 16 ∧ b < 16 ∧ x ∈ r.xs ∧ imm < 2 ^ 32 ∧ r.imm imm ∧ (r.d = false → d = 0) ∧ (r.a = false → a = 0) ∧
    (r.b = false → b = 0) ∧ w = wordOf r.op d a b x imm

end Sys2Proof.Claims

/-- A command word names the command of the row whose it is; a word of no row is error 0x01 and has no effect (R328 to R331, R333 to
R335). -/
def Sys2Proof.Claims.CommandWordsDecodeByTheTables : Prop :=
  (∀ (w : Word) (r : CmdRow), r ∈ cmdRows → RowHas r w → decodeCmd w = some r.i) ∧
  (∀ w : Word, (∀ r ∈ cmdRows, ¬RowHas r w) → decodeCmd w = none) ∧
  (∀ (s : State) (q : Nat) (w : Word) (r : List Work), s.agenda = .cmd q :: r → (queueAt s q).wait = .none →
    wordAt s q (queueAt s q).at_ = some w → wordServed s q (queueAt s q).at_ = true → (∀ r ∈ cmdRows, ¬RowHas r w) →
    step s = .next (stops { s with agenda := r, ev := { EvArgs.zero with a := q } } 1))

/-- CNOP and the arithmetic commands: cd gets the result of R329, c0 takes none, and the next word follows; CFENCE waits until the
earlier writes for its queue have performed; CLI takes its literal from the next word, which is skipped, and at the last word of a slot is
error 0x0A (R327 to R329, R336). -/
def Sys2Proof.Claims.QueueArithmeticFollowsTheTable : Prop :=
  (∀ (s : State) (i : Instr) (v : Word), cResult (qr s) i = some v → exec i s = .next (done s s (setD (qr s) v))) ∧
  (∀ s : State, exec .cnop s = .next (done s s (qr s)) ∧ (WritesPerformed s → exec .cfence s = .next (done s s (qr s))) ∧
    (¬WritesPerformed s → exec .cfence s = .next (paused s))) ∧
  (∀ (s : State) (k : Nat), (qr s).at_ = .slot k →
    (k + 1 < lineNw (qr s) → exec .cliLiteral s =
      .next (goesOn s s (setD (qr s) (BitVec.ofNat 64 (((qr s).line.getD []).getD (k + 2) 0))) (.slot (k + 2)))) ∧
    (lineNw (qr s) ≤ k + 1 → exec .cliLiteral s = .next (stops s 0x0A))) ∧
  (∀ (s : State) (a v : Nat), (qr s).at_ = .buf a → QBytes s ((a + 8) % 2 ^ 64) 8 v →
    exec .cliLiteral s = .next (if qServed s s.ev.a ((a + 8) % 2 ^ 64) 8 = true
      then goesOn s (spent s s) (setD (qr s) (BitVec.ofNat 64 v)) (.buf ((a + 16) % 2 ^ 64)) else paused s))

/-- CLD, CST, CB, CLOOP, CCALL, CRET and CHALT act as R330 says; a bad address, permission, target or stack stops the queue with its
error code, and the command has no effect (R324, R327, R330, R335). -/
def Sys2Proof.Claims.QueueMemoryAndControlFollowTheTable : Prop :=
  (∀ (s : State) (x : Queue) (a n : Nat), x = qr s → a = qAddr x → n = qWidth x →
    (a % n ≠ 0 → exec .cld s = .next (stops s 3) ∧ exec .cst s = .next (stops s 3)) ∧
    (∀ v, a % n = 0 → QBytes s a n v → exec .cld s = .next (
      if qServed s s.ev.a a n = true then done s s (setD x (BitVec.ofNat 64 v)) else paused s)) ∧
    (a % n = 0 → qPage s s.ev.a a = none → exec .cld s = .next (stops s 2) ∧ exec .cst s = .next (stops s 2)) ∧
    (∀ g, a % n = 0 → QWrites s a n g → ∃ b, exec .cst s = .next (done s b x) ∧ QStored s b a n (vb x).toNat g) ∧
    (∀ g, a % n = 0 → qPage s s.ev.a a = some g → g.wr = true → qServed s s.ev.a a n = false → exec .cst s = .next (paused s)) ∧
    (∀ g, a % n = 0 → qPage s s.ev.a a = some g → g.wr = false → exec .cst s = .next (stops s 2))) ∧
  (∀ (s : State) (x : Queue), x = qr s →
    (ccTrue (irX x.ir) (va x) (vb x) = false → exec .cb s = .next (done s s x)) ∧
    (ccTrue (irX x.ir) (va x) (vb x) = true → (∀ p, BranchTo x p → exec .cb s = .next (goesOn s s x p)) ∧
      (BranchOut x → exec .cb s = .next (stops s 4)))) ∧
  (∀ (s : State) (x y : Queue), x = qr s → x.st = 1 → y = cput x (irA x.ir) (va x - 1) →
    (cval y (irA x.ir) = 0 → exec .cloop s = .next (done s s y)) ∧
    (cval y (irA x.ir) ≠ 0 → (∀ p, BranchTo x p → exec .cloop s = .next (goesOn s s y p)) ∧
      (BranchOut x → exec .cloop s = .next (stops s 4)))) ∧
  (∀ (s : State) (x : Queue), x = qr s →
    (4 ≤ x.stack.length → exec .ccall s = .next (stops s 5)) ∧
    (x.stack.length < 4 → qAddr x % 8 ≠ 0 → exec .ccall s = .next (stops s 3)) ∧
    (x.stack.length < 4 → qAddr x % 8 = 0 → qPage s s.ev.a (qAddr x) = none → exec .ccall s = .next (stops s 2)) ∧
    (∀ g, x.stack.length < 4 → qAddr x % 8 = 0 → qPage s s.ev.a (qAddr x) = some g →
      exec .ccall s = .next (goesOn s s { x with stack := wordVa x (onward x.at_ 1) :: x.stack } (.buf (qAddr x)))) ∧
    (x.stack = [] → exec .cret s = .next (stops s 6)) ∧
    (∀ p r, x.stack = p :: r →
      (∀ i ≤ lineNw x, p = wordVa x (.slot i) → exec .cret s = .next (goesOn s s { x with stack := r } (.slot i))) ∧
      ((∀ i ≤ lineNw x, p ≠ wordVa x (.slot i)) → exec .cret s = .next (goesOn s s { x with stack := r } (.buf p)))) ∧
    exec .chalt s = .next (mirrored s s.ev.a ((x.head + 1) % 2 ^ 64) (setQueue s s.ev.a { x with
      head := (x.head + 1) % 2 ^ 64, line := none, at_ := .slot 0, wait := .none, en := false, st := 0 })))

/-- A command word names the command of its row or is error 0x01; the commands that compute, load, store and branch (R328 to R331, R333 to
R335; a stop before any effect, alignment before
translation, and the error of a bad length: log 26). -/
def Obligations.QueueCommandsComputeLoadStoreAndBranch : Prop :=
  Claims.CommandWordsDecodeByTheTables ∧ Claims.QueueArithmeticFollowsTheTable ∧ Claims.QueueMemoryAndControlFollowTheTable

/-- CWAIT reads once and goes on, or polls until its condition holds or its time is over, when cd gets the last value read; CSIG writes
once the earlier writes for its queue have performed, then interrupts; CCOPY copies line after line, and its last line completes it; an
error is found before a command has any effect, but for a translation that fails while a copy or a poll is on its way; traffic waits for
its channels (R18, R331, R335, R336). The error codes of a length that is no multiple of 64 below 2^32 and of a vector beyond the table are the model's reading
(log 26). -/
def Obligations.QueueWaitsSignalsAndCopies : Prop :=
  (∀ (s : State) (x : Queue) (a v : Nat), x = qr s → a = (va x).toNat →
    (a % 8 ≠ 0 → exec .cwait s = .next (stops s 3)) ∧
    (a % 8 = 0 → qPage s s.ev.a a = none → exec .cwait s = .next (stops s 2)) ∧
    (a % 8 = 0 → QBytes s a 8 v → qServed s s.ev.a a 8 = false → exec .cwait s = .next (paused s)) ∧
    (a % 8 = 0 → QBytes s a 8 v → qServed s s.ev.a a 8 = true →
    (ccTrue (irX x.ir) (BitVec.ofNat 64 v) (vb x) = true ∨ irImm x.ir = 0 → exec .cwait s = .next (done s s (setD x (BitVec.ofNat 64 v)))) ∧
    (ccTrue (irX x.ir) (BitVec.ofNat 64 v) (vb x) = false → irImm x.ir ≠ 0 → exec .cwait s = .next (setQueue (spent s s) s.ev.a { x with
      wait := .poll (irX x.ir) (irD x.ir) a (vb x) (if irImm x.ir = BitVec.allOnes 32 then none else some (irImm x.ir).toNat)
        (BitVec.ofNat 64 v) })))) ∧
  (∀ (s : State) (x : Queue) (cc d a : Nat) (w last : Word) (t : Option Nat) (v : Nat), x = qr s → x.wait = .poll cc d a w t last →
    (QBytes s a 8 v → qServed s s.ev.a a 8 = true →
      (ccTrue cc (BitVec.ofNat 64 v) w = true → exec .cwaitSatisfied s = .next (done s s (cput x d (BitVec.ofNat 64 v)))) ∧
      (ccTrue cc (BitVec.ofNat 64 v) w = false → exec .cwaitSatisfied s =
        .next (setQueue (spent s s) s.ev.a { x with wait := .poll cc d a w t (BitVec.ofNat 64 v) }))) ∧
    (QBytes s a 8 v → qServed s s.ev.a a 8 = false → exec .cwaitSatisfied s = .next s) ∧
    (qPage s s.ev.a a = none → exec .cwaitSatisfied s = .next (stops s 2)) ∧
    (t ≠ none → exec .cwaitTimeout s = .next (done s s (cput x d last)))) ∧
  (∀ (s : State) (x : Queue) (a m : Nat), x = qr s → a = (va x).toNat → m = (irImm x.ir).toNat % 4096 →
    (2048 ≤ m → exec .csig s = .next (stops s 1)) ∧
    (m < 2048 → a % 8 ≠ 0 → exec .csig s = .next (stops s 3)) ∧
    (m < 2048 → a % 8 = 0 → (∀ g, qPage s s.ev.a a = some g → g.wr = false) → exec .csig s = .next (stops s 2)) ∧
    (∀ g, m < 2048 → a % 8 = 0 → qPage s s.ev.a a = some g → g.wr = true → qServed s s.ev.a a 8 = false ∨ ¬WritesPerformed s →
      exec .csig s = .next (paused s)) ∧
    (∀ g, m < 2048 → a % 8 = 0 → QWrites s a 8 g → WritesPerformed s → ∃ b, QStored s b a 8 (vb x).toNat g ∧
      exec .csig s = .next (done s (if (irImm x.ir).getLsbD 31 then { b with out := b.out ++ [.msix m] } else b) x))) ∧
  (∀ (s : State) (x : Queue), x = qr s → x.wait = .none →
    ((vb x).toNat % 64 ≠ 0 ∨ 2 ^ 32 ≤ (vb x).toNat → exec .ccopy s = .next (stops s 1)) ∧
    (vb x = 0 → exec .ccopy s = .next (done s s x)) ∧
    ((vb x).toNat % 64 = 0 → (vb x).toNat < 2 ^ 32 → vb x ≠ 0 →
      ((vd x).toNat % 64 ≠ 0 ∨ (va x).toNat % 64 ≠ 0 → exec .ccopy s = .next (stops s 3)) ∧
      ((vd x).toNat % 64 = 0 → (va x).toNat % 64 = 0 →
        (¬CopyPages s (vd x).toNat (va x).toNat (vb x).toNat → exec .ccopy s = .next (stops s 2)) ∧
        (CopyPages s (vd x).toNat (va x).toNat (vb x).toNat →
          exec .ccopy s = .next (setQueue s s.ev.a { x with wait := .copy (vd x).toNat (va x).toNat (vb x).toNat none }))))) ∧
  (∀ (s : State) (i : Instr) (x : Queue) (dst src n : Nat) (buf : Option Nat), x = qr s → x.wait = .copy dst src n buf →
    i = (if 64 < n then .ccopy else .ccopyComplete) →
    (buf = none → qPage s s.ev.a src = none → exec i s = .next (stops s 2)) ∧
    (∀ v, buf = none → QBytes s src 64 v → qServed s s.ev.a src 64 = false → exec i s = .next s) ∧
    (∀ v, LineOf s buf src v →
      (∀ g, QWrites s dst 64 g → ∃ b, QStored s b dst 64 v g ∧ exec i s = .next (
        if 64 < n then setQueue (spent s b) s.ev.a { x with wait := .copy (dst + 64) (src + 64) (n - 64) none } else done s b x)) ∧
      ((∀ g, qPage s s.ev.a dst = some g → g.wr = false) → exec i s = .next (stops s 2)) ∧
      (∀ g, qPage s s.ev.a dst = some g → g.wr = true → qServed s s.ev.a dst 64 = false → exec i s = .next (
        if buf = none then setQueue (spent s s) s.ev.a { x with wait := .copy dst src n (some v) } else s))))

/-- A write to QTAIL applies the monotonic maximum: at or below TAIL it is ignored, up to HEAD + N it becomes TAIL, above it is ignored
and error 0x08 comes at the next slot boundary, whatever the queue's state and whether it is mapped; the writes apply in the order in which
they arrive (R326). -/
def Obligations.TailWritesFollowTheMonotonicMaximum : Prop :=
  (∀ (s : State) (x : Queue) (v : Nat), Reached s → x = qr s → v = s.ev.v.toNat →
    (v ≤ x.tail → exec .qtailWrite s = .next s) ∧
    (x.tail < v → v ≤ x.head + x.nslot.toNat → exec .qtailWrite s = .next (setQueue s s.ev.a { x with tail := v })) ∧
    (x.tail < v → x.head + x.nslot.toNat < v → exec .qtailWrite s = .next (setQueue s s.ev.a { x with bad08 := true }))) ∧
  (∀ (s : State) (x : Queue), x = qr s → x.en = true → x.st = 1 → x.mapped = true → x.line = none → x.wait = .none → x.bad08 = true →
    ∃ y, exec .slotExecute s = .next (setQueue s s.ev.a y) ∧ y.st = 2 ∧ y.err = 8 ∧ y.bad08 = false ∧ y.head = x.head ∧ y.tail = x.tail) ∧
  (∀ (s : State) (x : EvArgs) (r : List (Instr × EvArgs)), s.agenda = [] → s.inputs = (.qtailWrite, x) :: r →
    step s = exec .qtailWrite { s with inputs := r, ev := { x with go := none } })

/-- A queue begins slot HEAD when HEAD < TAIL and the stamp read matches, and else waits; EN starts it with its registers cleared or
stops it; SKIP leaves the failing slot, and is ignored while the queue is unmapped; the registers of queues and partitions are written only
while they may be (R303, R324, R325, R349, R350). The numbers of the registers are the model's (log 23), and that a write of EN = 0 clears
ERR, WORD and QERRA is a reading of log 26. -/
def Obligations.QueuesStartAndBeginTheirSlots : Prop :=
  (∀ (s : State) (x : Queue) (v : Nat), x = qr s → x.en = true → x.st = 1 → x.mapped = true → x.line = none → x.wait = .none →
    x.bad08 = false →
    (x.tail ≤ x.head → exec .slotExecute s = .next s) ∧
    (x.head < x.tail → qPage s s.ev.a (headVa x) = none → exec .slotExecute s = .next (stops s 2)) ∧
    (x.head < x.tail → QBytes s (headVa x) 64 v → qServed s s.ev.a (headVa x) 64 = false → exec .slotExecute s = .next s) ∧
    (x.head < x.tail → QBytes s (headVa x) 64 v → qServed s s.ev.a (headVa x) 64 = true →
      (v % 2 ^ 16 ≠ x.head % 2 ^ 16 → exec .slotExecute s = .next (spent s s)) ∧
      (v % 2 ^ 16 = x.head % 2 ^ 16 → (v / 2 ^ 16 % 8 = 0 ∨ v / 2 ^ 19 % 2 ^ 45 ≠ 0) → exec .slotExecute s = .next (stops (spent s s) 9)) ∧
      (v % 2 ^ 16 = x.head % 2 ^ 16 → v / 2 ^ 16 % 8 ≠ 0 → v / 2 ^ 19 % 2 ^ 45 = 0 → exec .slotExecute s = .next (setQueue (spent s s) s.ev.a { x with
        line := some ((List.range 8).map (fun i => v / 2 ^ (64 * i) % 2 ^ 64)), at_ := .slot 0 })))) ∧
  (∀ (s : State) (x : Queue), Reached s → x = qr s →
    (s.ev.flag = true → x.en = false → s.hc.halted = false →
      exec .qctlEnWrite s = .next (setQueue s s.ev.a (started x))) ∧
    (s.ev.flag = false → exec .qctlEnWrite s = .next (setQueue (spent s s) s.ev.a { x with
      en := false, st := 0, line := none, wait := .none, err := 0, word := 0, erra := 0 })) ∧
    (x.st = 2 → x.mapped = true → exec .qctlSkip s = .next (setQueue s s.ev.a { x with
      st := 1, head := (x.head + 1) % 2 ^ 64, err := 0, word := 0, erra := 0, line := none, at_ := .slot 0, wait := .none })) ∧
    (x.st ≠ 2 ∨ x.mapped = false → exec .qctlSkip s = .next s)) ∧
  (∀ (s : State) (k : Nat) (x : Queue) (p : Partn) (v : Word), k = s.ev.b → x = queueAt s k → p = partAt s k → v = s.ev.v →
    (x.en = true → s.ev.a ≤ 2 → exec .registerWrite s = .next s) ∧
    (s.hc.locked = true → s.ev.a ≠ 9 → exec .registerWrite s = .next s) ∧ (14 ≤ s.ev.a → exec .registerWrite s = .next s) ∧
    ((slotTt s k 0 ≠ none ∨ slotTt s k 1 ≠ none) → s.ev.a = 3 ∨ s.ev.a = 4 → exec .registerWrite s = .next s) ∧
    (s.hc.locked = false →
    (k < 256 → x.en = false → s.ev.a = 0 → exec .registerWrite s = .next (setQueue s k { x with base := v })) ∧
    (k < 256 → x.en = false → s.ev.a = 1 → exec .registerWrite s = .next (setQueue s k { x with nslot := v })) ∧
    (k < 256 → x.en = false → s.ev.a = 2 → exec .registerWrite s = .next (setQueue s k { x with qhm := v })) ∧
    (k < 24 → slotTt s k 0 = none → slotTt s k 1 = none → s.ev.a = 3 →
      exec .registerWrite s = .next (setPart s k { p with pcfg := v &&& 0x800000F800000000 })) ∧
    (k < 24 → slotTt s k 0 = none → slotTt s k 1 = none → s.ev.a = 4 →
      exec .registerWrite s = .next (setPart s k { p with ptroot := v &&& 0xFFFFFFFFFFFFF000 })) ∧
    (k < 64 → s.ev.a = 5 → ∃ t, exec .registerWrite s = .next t ∧ t = { s with routes := t.routes } ∧ (k, s.ev.list.map (·.1)) ∈ t.routes ∧
      (∀ r, r.1 ≠ k → (r ∈ t.routes ↔ r ∈ s.routes)) ∧ ∀ r ∈ t.routes, r.1 = k → r.2 = s.ev.list.map (·.1)) ∧
    (k < 24 → (∀ y ∈ s.tts, k ∈ y.2.parts → y.2.st ≠ .running ∧ y.2.st ≠ .frozen) → s.ev.a = 6 →
      exec .registerWrite s = .next (setPart s k { p with tbase := v.toNat })) ∧
    ((∃ y ∈ s.tts, k ∈ y.2.parts ∧ (y.2.st = .running ∨ y.2.st = .frozen)) → s.ev.a = 6 → exec .registerWrite s = .next s) ∧
    (k < 64 → s.ev.a = 12 → exec .registerWrite s = .next { s with hc := { s.hc with device := k } })))

/-! ## Loads, launches, berth moves -/

namespace Sys2Proof.Claims

/-- The command with destination cd gives a status: the queue is done, and b is what else has changed. -/
def reports (s b : State) (x : Queue) (d : Nat) (v : Nat) : State := done s b (cput x d (BitVec.ofNat 64 v))
/-- The partitions of a mask, and those of the process's share group (R333, R337). -/
def InGroup (s : State) (m : Nat) : Prop := ∀ p < 24, m / 2 ^ p % 2 = 1 → p ∈ procParts s s.ev.a
/-- Status 1 of a load: the mask is no set of enabled partitions of the group, or it does not hold every task's partition. -/
def BadMask (s : State) (m : Nat) (img : List Byte) : Prop :=
  m = 0 ∨ 2 ^ 24 ≤ m ∨ ¬ InGroup s m ∨ (∃ p < 24, m / 2 ^ p % 2 = 1 ∧ (partAt s p).pcfg.getLsbD 63 = false) ∨
    ∃ id ∈ taskTiles img, ¬ (partOf id < 24 ∧ m / 2 ^ partOf id % 2 = 1)
/-- Status 2: slot k of some named partition is not Empty. -/
def Occupied (s : State) (m k : Nat) : Prop := ∃ p < 24, m / 2 ^ p % 2 = 1 ∧ slotTt s p k ≠ none
/-- The checks 3 to 13 of a load, by their status (R333). -/
def loadCheck (s : State) (img : List Byte) (m : Nat) : Nat → Bool
  | 3 => headerOk img
  | 4 => signedFor s img (maskParts m)
  | 5 => profilesOk s img
  | 6 => decide (1 ≤ imgSlice img ∧ imgSlice img ≤ 2 ∧ s.disc.slice ≤ imgSlice img)
  | 7 => decide (imgLE img 7 1 ≤ s.disc.therm)
  | 8 => dramOk s img
  | 9 => (allCode img).all (fun x => x.2.all (macrosOk s x.1))
  | 10 => codeOk s img
  | 11 => staticOk img
  | 12 => tablesOk img
  | 13 => residentOk s img (maskParts m)
  | _ => true
/-- Line i of an image at an address is there for the queue (R18). -/
def LineThere (s : State) (a : Nat) (img : List Byte) (i : Nat) : Prop :=
  qServed s s.ev.a (a + 64 * i) (min 64 (img.length - 64 * i)) = true
/-- The load may be decided: the lines of the image from line j on are there for the queue, and firmware has restored the repair
registers (R18, R246). -/
def LoadReady (s : State) (a : Nat) (img : List Byte) (j : Nat) : Prop :=
  s.hc.restored = true ∧ ∀ i, j ≤ i → 64 * i < img.length → LineThere s a img i
/-- Partition p's slot k holds timetable n (R333). -/
def Holds (s : State) (p k n : Nat) : Prop := ∃ y, slotTt s p k = some (n, y)
/-- The dies' requests for a hold, once a launch has joined or formed the domain: those that stood, and one of every die of its tiles that
is at 100 °C or above and had none (R30). -/
def AskedBy (s : State) (img : List Byte) (o n : Dom) : Prop :=
  n = { o with holds := n.holds } ∧ ∀ h, h ∈ n.holds ↔ h ∈ o.holds ∨
    (h.2 = o.tc ∧ 100 ≤ tabGet 25 s.temps h.1 ∧ (∃ id ∈ taskTiles img, dieOf id = h.1) ∧ ∀ y ∈ o.holds, y.1 ≠ h.1)
/-- The 32 bytes of a completion record: STATE, slot, T0, TC, and the fault fields (R334). -/
def recordOf (state slot t0 : Nat) : Nat := state + slot % 256 * 2 ^ 32 + t0 % 2 ^ 64 * 2 ^ 64
/-- A launch names its timetable: its slot holds the Loaded timetable (k, x) of the group, and its record's place is aligned and writable
(R334). -/
def LaunchNames (s : State) (k : Nat) (x : TT) (g : Page) : Prop :=
  launchTt s s.ev.a (irX (qr s).ir % 2) = some (k, x) ∧ ttOf s k = x ∧ x.st = .loaded ∧ x.un = [] ∧
    (va (qr s)).toNat % 32 = 0 ∧ qPage s s.ev.a (va (qr s)).toNat = some g ∧ g.wr = true
/-- A launch may be considered: its record's place is served too (R18). -/
def Launches (s : State) (k : Nat) (x : TT) (g : Page) : Prop :=
  LaunchNames s k x g ∧ qServed s s.ev.a (va (qr s)).toNat 32 = true
/-- The Armed launch (k, x) that a CLAUNCH.wd names: of its slot, with its completion record at ca (R334). -/
def Withdraws (s : State) (g : Page) : Prop := (va (qr s)).toNat % 32 = 0 ∧ qPage s s.ev.a (va (qr s)).toNat = some g
def named (s : State) (g : Page) : Option (Nat × TT) := armedTt s s.ev.a (irX (qr s).ir % 2) (placeOf g (va (qr s)).toNat)
/-- TC as the launch sees it: the domain's that it joins, 0 for one that it forms (R16, R334). -/
def launchTc (s : State) (x : TT) : Nat := match joinDom s x.parts with | some d => (domAt s d).tc | none => 0
/-- T0 by the form of the launch, and the timetable that it follows (R334). -/
def LaunchAt (s : State) (x : TT) (i : Instr) (t0 : Nat) (after : Option Nat) : Prop :=
  (i = .claunchTc ∧ after = none ∧ t0 = (vb (qr s)).toNat) ∨
  (i = .claunchRel ∧ after = none ∧ t0 = (launchTc s x + (vb (qr s)).toNat) % 2 ^ 64) ∨
  (i = .claunchJt ∧ ∃ k y j h g, otherTt s x = some (k, y) ∧ jointEntry y.img (irImm (qr s).ir).toNat = (j, true, h, g) ∧ after = some k ∧
    t0 = (y.t0 + j + 1 + (vb (qr s)).toNat) % 2 ^ 64)
/-- Statuses 1 to 3 of a launch (R334). -/
def TooEarly (s : State) (x : TT) (t0 : Nat) : Prop := t0 < launchTc s x + 2048
def OffWheel (x : TT) (t0 : Nat) : Prop := (∃ p < 4096, wheelOwner x.img p ≠ none) ∧ t0 % 4096 ≠ imgLE x.img 0x0A 2
def Conflicts (s : State) (k : Nat) (x : TT) : Prop :=
  ∃ y ∈ s.tts, y.1 ≠ k ∧ isActive y.2 = true ∧ share x.parts y.2.parts = true ∧ conflict x y.2 = true
/-- A berth that a move names: partition, table base, directory entry, berth number (R335). -/
def MoveNames (s : State) (p tb : Nat) (d : BDir) (n : Nat) : Prop :=
  p = (irImm (qr s).ir).toNat % 32 ∧ tb = (partAt s p).tbase ∧ d = rdDir s.mem tb (kSeq (vb (qr s))) ∧ n = rdBlk s.mem tb d (kBlk (vb (qr s)))
/-- A move may be considered: the partition is of the group, its report's place is right, its engine has a free place (R335), and what
its start reads and writes of the table is served (R303). -/
def MoveOk (s : State) (p key : Nat) (up start : Bool) : Prop :=
  p ∈ procParts s s.ev.a ∧ (va (qr s)).toNat % 8 = 0 ∧ qCanWrite s s.ev.a (va (qr s)).toNat = true ∧
    freeMove s (p / 4) = some key ∧ mayMove s (.queue s.ev.a) (moveTouch s p up start (vb (qr s))) = true
/-- The state with the report of a move posted at its address (R335). -/
def moveReports (s : State) (v : Move) (s' : State) : State :=
  match qPage s v.q v.report with
  | some g => posted none (placeOf g v.report) (leBytes 1 8) s'
  | none => s'

end Sys2Proof.Claims

/-- CTTLD starts a load, which reads its image line after line as its channels let it; its completion accepts or refuses it: the status is that of the first check that fails, with the offset of the
offending item for 10 to 12, and 0 when every check passes, when the timetable is Loaded in its partitions with its TTID and its
translations pinned; a refused load changes nothing but cd; CTTLD.un empties Loaded slots or reports 1 or 2 (R18, R19, R166, R210, R333;
how the loader follows the code of an image for statuses 9 to 11 is log 22's reading). -/
def Obligations.LoadsFillAndEmptySlots : Prop :=
  (∀ (s : State) (x : Queue), x = qr s → exec .cttld s = .next (setQueue s s.ev.a { x with
    wait := .load (irD x.ir) (va x).toNat (vb x).toNat (irX x.ir % 2) [] })) ∧
  (∀ (s : State) (x : Queue) (d a m k j : Nat) (img : List Byte), x = qr s → x.wait = .load d a m k (img.take (64 * j)) →
    imageAt s s.ev.a a = some img → 64 * j < img.length → ¬ LineThere s a img j →
    exec .cttldComplete s = .next (setQueue s s.ev.a x)) ∧
  (∀ (s : State) (x : Queue) (d a m k : Nat), x = qr s → x.wait = .load d a m k [] → qPage s s.ev.a a = none →
    exec .cttldComplete s = .next (stops s 2)) ∧
  (∀ (s : State) (x : Queue) (d a m k j : Nat) (img : List Byte), x = qr s → x.wait = .load d a m k (img.take (64 * j)) →
    imageAt s s.ev.a a = some img → LoadReady s a img j →
    (BadMask s m img → exec .cttldComplete s = .next (reports s s x d 1)) ∧
    (¬ BadMask s m img → Occupied s m k → exec .cttldComplete s = .next (reports s s x d 2)) ∧
    (¬ BadMask s m img → ¬ Occupied s m k → (∀ u, loadCheck s img m u = true) → ∃ b n, exec .cttldComplete s = .next (reports s b x d 0) ∧
      b = { s with tts := b.tts, caches := b.caches } ∧ (∀ y ∈ s.tts, y.1 ≠ n ∧ y.2.after ≠ some n) ∧
      ttOf b n = { TT.none with slot := k, parts := maskParts m, st := .loaded, img := img, ttid := (Config.shake256 img).setWidth 64 } ∧
      (∀ j, j ≠ n → ttOf b j = ttOf s j) ∧ (∀ die, ∃ j, (cacheAt b die).filled = (cacheAt s die).filled.drop j) ∧
      ∀ p ∈ maskParts m, ∀ g ∈ pinsOf s img (maskParts m), (n, g) ∈ (cacheAt b (p / 4)).pinned) ∧
    (∀ v, ¬ BadMask s m img → ¬ Occupied s m k → loadCheck s img m v = false → (∀ u < v, loadCheck s img m u = true) →
      (v ≤ 9 ∨ v = 13 → exec .cttldComplete s = .next (reports s s x d v)) ∧
      (10 ≤ v → v ≤ 12 → exec .cttldComplete s = .next (reports s s x d (loadItem s img v % 2 ^ 32 * 2 ^ 32 + v))))) ∧
  (∀ (s : State) (x : Queue) (m k : Nat), x = qr s → m = (vb x).toNat → k = irX x.ir % 2 →
    (m = 0 ∨ 2 ^ 24 ≤ m ∨ ¬ InGroup s m → exec .cttldUn s = .next (reports s s x (irD x.ir) 1)) ∧
    (m ≠ 0 → m < 2 ^ 24 → InGroup s m →
      ((∃ p < 24, m / 2 ^ p % 2 = 1 ∧ ∀ n y, slotTt s p k = some (n, y) → y.st ≠ .loaded) →
        exec .cttldUn s = .next (reports s s x (irD x.ir) 2)) ∧
      (∀ p n y, p < 24 → m = 2 ^ p → slotTt s p k = some (n, y) → y.st = .loaded → ∃ b, exec .cttldUn s = .next (reports s b x (irD x.ir) 0) ∧
        b = { s with tts := b.tts, caches := b.caches } ∧ (∀ j, j ≠ n → ttOf b j = ttOf s j) ∧
        ((∀ r ∈ y.parts, r = p ∨ r ∈ y.un) → ttOf b n = TT.none ∧ ∀ die, ∀ z ∈ (cacheAt b die).pinned, z.1 ≠ n) ∧
        ((∃ r ∈ y.parts, r ≠ p ∧ r ∉ y.un) → ttOf b n = { y with un := p :: y.un } ∧
          ∀ die, ∀ z ∈ (cacheAt b die).pinned, z ∈ (cacheAt s die).pinned ∧
            (z.1 = n → ∃ o ∈ y.parts, o ≠ p ∧ o ∉ y.un ∧ rootOf s o = z.2.root))) ∧
      ((s.tts.map (·.1)).Pairwise (· < ·) → (∀ p < 24, m / 2 ^ p % 2 = 1 → ∃ n y, slotTt s p k = some (n, y) ∧ y.st = .loaded) →
        ∃ b, exec .cttldUn s = .next (reports s b x (irD x.ir) 0) ∧ b = { s with tts := b.tts, caches := b.caches } ∧
        (∀ n, (∀ p < 24, m / 2 ^ p % 2 = 1 → ¬ Holds s p k n) → ttOf b n = ttOf s n) ∧
        ∀ n y, (n, y) ∈ s.tts → (∃ p < 24, m / 2 ^ p % 2 = 1 ∧ Holds s p k n) →
          ((∀ r ∈ y.parts, r ∈ y.un ∨ (r < 24 ∧ m / 2 ^ r % 2 = 1 ∧ Holds s r k n)) →
            ttOf b n = TT.none ∧ ∀ die, ∀ z ∈ (cacheAt b die).pinned, z.1 ≠ n) ∧
          ((∃ r ∈ y.parts, r ∉ y.un ∧ ¬ (r < 24 ∧ m / 2 ^ r % 2 = 1 ∧ Holds s r k n)) → ∃ l,
            ttOf b n = { y with un := l ++ y.un } ∧ (∀ p, p ∈ l ↔ p < 24 ∧ m / 2 ^ p % 2 = 1 ∧ Holds s p k n) ∧
            ∀ die, ∀ z ∈ (cacheAt b die).pinned, z ∈ (cacheAt s die).pinned ∧
              (z.1 = n → ∃ o ∈ y.parts, o ∉ l ++ y.un ∧ rootOf s o = z.2.root)))))

/-- CLAUNCH: T0 by its form; the statuses of R334 in their order; an accepted launch arms the slot, joins the domain of its partitions or
forms one at TC 0, for which its hot dies request a hold, and writes its record; a slot that is not Loaded is error 0x07; CLAUNCH.wd before T0 returns the slot to Loaded and
its record, by which ca names it, shows it (R16, R18, R19, R30, R334; which timetable of the group a launch names, log 18). -/
def Obligations.LaunchesArmAndWithdraw : Prop :=
  (∀ (i : Instr) (s : State) (k : Nat) (x : TT) (g : Page) (t0 : Nat) (after : Option Nat), Launches s k x g → LaunchAt s x i t0 after →
    (TooEarly s x t0 → exec i s = .next (reports s s (qr s) (irD (qr s).ir) 1)) ∧
    (¬ TooEarly s x t0 → OffWheel x t0 → exec i s = .next (reports s s (qr s) (irD (qr s).ir) 2)) ∧
    (¬ TooEarly s x t0 → ¬ OffWheel x t0 → Conflicts s k x → exec i s = .next (reports s s (qr s) (irD (qr s).ir) 3)) ∧
    (¬ TooEarly s x t0 → ¬ OffWheel x t0 → ¬ Conflicts s k x → ∃ b d place, exec i s = .next (reports s b (qr s) (irD (qr s).ir) 0) ∧
      b = { s with mem := b.mem, tts := b.tts, doms := b.doms } ∧ place = placeOf g (va (qr s)).toNat ∧
      Stored s.mem b.mem place 32 (recordOf 1 x.slot t0) ∧
      ttOf b k = { x with st := .armed, t0 := t0, dom := d, record := some (s.ev.a, place), after := after } ∧
      (∀ j, j ≠ k → ttOf b j = ttOf s j) ∧ (∀ e, e ≠ d → domAt b e = domAt s e) ∧
      (∀ e, joinDom s x.parts = some e → d = e ∧ AskedBy s x.img (domAt s d) (domAt b d)) ∧
      (joinDom s x.parts = none → (∀ y ∈ s.doms, y.1 ≠ d) ∧
        AskedBy s x.img { Dom.none with parts := x.parts, tc := 0, live := true } (domAt b d)))) ∧
  (∀ (i : Instr) (s : State) (k : Nat) (x : TT) (g : Page), i = .claunchTc ∨ i = .claunchRel ∨ i = .claunchJt → LaunchNames s k x g →
    qServed s s.ev.a (va (qr s)).toNat 32 = false → exec i s = .next (paused s)) ∧
  (∀ (s : State) (k : Nat) (x : TT) (g : Page), Launches s k x g →
    (otherTt s x = none ∨ ∃ n y, otherTt s x = some (n, y) ∧ (jointEntry y.img (irImm (qr s).ir).toNat).2.1 = false) →
    exec .claunchJt s = .next (reports s s (qr s) (irD (qr s).ir) 4)) ∧
  (∀ (i : Instr) (s : State), i = .claunchTc ∨ i = .claunchRel ∨ i = .claunchJt →
    (launchTt s s.ev.a (irX (qr s).ir % 2) = none ∨
      ∃ k x, launchTt s s.ev.a (irX (qr s).ir % 2) = some (k, x) ∧ (x.st ≠ .loaded ∨ x.un ≠ [])) →
    exec i s = .next (stops s 7)) ∧
  (∀ (s : State) (g : Page), Withdraws s g →
    (∀ k x, named s g = some (k, x) → ttOf s k = x → (domAt s x.dom).tc < x.t0 → ∃ b,
      exec .claunchWd s = .next (reports s b (qr s) (irD (qr s).ir) 0) ∧
      ttOf b k = { x with st := .loaded, t0 := 0, dom := 0, record := none, after := none } ∧ (∀ j, j ≠ k → ttOf b j = ttOf s j) ∧
      b.queues = s.queues ∧ b.tiles = s.tiles ∧ (∀ p ∈ compiledChans x.img, (chanAt b p.1).handed = false) ∧
      ∀ q place, x.record = some (q, place) → b.mem = (posted none place (leBytes (recordOf 4 x.slot x.t0) 32) s).mem ∧
        b.waiting = (posted none place (leBytes (recordOf 4 x.slot x.t0) 32) s).waiting) ∧
    (named s g = none ∨ (∃ k x, named s g = some (k, x) ∧ x.t0 ≤ (domAt s x.dom).tc) →
      exec .claunchWd s = .next (reports s s (qr s) (irD (qr s).ir) 5))) ∧
  (∀ s : State, ((va (qr s)).toNat % 32 ≠ 0 → exec .claunchWd s = .next (stops s 3)) ∧
    ((va (qr s)).toNat % 32 = 0 → qPage s s.ev.a (va (qr s)).toNat = none → exec .claunchWd s = .next (stops s 2)))

/-- CDEMOTE and CPROMOTE take a destination slot, mark the berth migrating and report 0, or 3, 1 or 2 in this order, and wait while the
engine has no free place or the table is not served; the copy goes on line after line where the channels do not let it be made at once; at
commit the berth's bytes stand in the destination slot, which the entry names, and the report is written; the source slot returns once
nothing holds the move; traffic on a frozen compiled channel stands still (R303, R317, R318, R323, R335; R335 gives no order of the
statuses nor of the errors 0x0B, 0x03 and 0x02: both orders are readings of log 26). -/
def Obligations.BerthMovesChangeTiers : Prop :=
  (∀ (s : State) (up : Bool) (i : Instr) (p tb : Nat) (d : BDir) (n : Nat), i = (if up then .cpromote else .cdemote) → MoveNames s p tb d n →
    (p ∉ procParts s s.ev.a → exec i s = .next (stops s 0x0B)) ∧
    (p ∈ procParts s s.ev.a → (va (qr s)).toNat % 8 ≠ 0 → exec i s = .next (stops s 3)) ∧
    (p ∈ procParts s s.ev.a → (va (qr s)).toNat % 8 = 0 → qCanWrite s s.ev.a (va (qr s)).toNat = false → exec i s = .next (stops s 2)) ∧
    (p ∈ procParts s s.ev.a → (va (qr s)).toNat % 8 = 0 → qCanWrite s s.ev.a (va (qr s)).toNat = true →
      (freeMove s (p / 4) = none ∨ ∀ b, mayMove s (.queue s.ev.a) (moveTouch s p up b (vb (qr s))) = false) →
      exec i s = .next (setQueue s s.ev.a { qr s with wait := .move })) ∧
    (∀ key, (MoveOk s p key up false → noBerth s.mem tb (vb (qr s)) = true → exec i s = .next (reports s s (qr s) (irD (qr s).ir) 3)) ∧
      (MoveOk s p key up false → noBerth s.mem tb (vb (qr s)) = false → (rdEnt s.mem tb n).st ≠ (if up then bAnch else bHbm) →
        exec i s = .next (reports s s (qr s) (irD (qr s).ir) 1)) ∧
      (noBerth s.mem tb (vb (qr s)) = false → (rdEnt s.mem tb n).st = (if up then bAnch else bHbm) →
        (MoveOk s p key up false → fifoCount s.mem (if up then hslQ tb d.pool else aslQ tb d.pool) = 0 →
          exec i s = .next (reports s s (qr s) (irD (qr s).ir) 2)) ∧
        (∀ f, MoveOk s p key up true → fifoCount s.mem (if up then hslQ tb d.pool else aslQ tb d.pool) ≠ 0 →
          f = fifoTake s.mem tb (if up then hslQ tb d.pool else aslQ tb d.pool) →
          exec i s = .next (reports s { s with
              mem := wrEnt f.2 tb n { rdEnt f.2 tb n with st := bMigr }
              moves := tabSet Move.none s.moves key ⟨p, n, d.pool, up, (rdEnt s.mem tb n).loc, f.1, 0, mvCopy, (va (qr s)).toNat, s.ev.a, 0, none⟩ }
            (qr s) (irD (qr s).ir) 0))))) ∧
  (∀ (s : State) (k : Nat) (v : Move) (tb src dst left n : Nat), k = s.ev.a → v = moveAt s k → v.state = mvCopy →
    tb = (partAt s v.part).tbase → src = slotBase s.mem tb v.pool v.up v.src + v.pos → dst = slotBase s.mem tb v.pool (!v.up) v.dst + v.pos →
    left = bSize s.mem tb v.pool - v.pos → n = min 64 left →
    (v.buf ≠ none ∨ mayMove s (.move k) (commitTouch s v) = false →
      (left = 0 ∨ mayMove s (.move k) (lineTouchOf s v) = false → exec .moveCommit s = .next s) ∧
      (left ≠ 0 → mayMove s (.move k) (lineTouchOf s v) = true →
        (v.buf = none → exec .moveCommit s = .next { s with
          moves := tabSet Move.none s.moves k { v with buf := some (bytesAt s.mem src n) }
          grants := s.grants.filter (fun g => g.1 ≠ .move k) }) ∧
        (∀ x, v.buf = some x → ∃ t, exec .moveCommit s = .next t ∧ Stored s.mem t.mem dst n x ∧ t = { s with
          mem := t.mem, ecc := t.ecc, moves := tabSet Move.none s.moves k { v with buf := none, pos := v.pos + n }
          grants := s.grants.filter (fun g => g.1 ≠ .move k) }))) ∧
    (v.buf = none → mayMove s (.move k) (commitTouch s v) = true → ∃ t m m', exec .moveCommit s = .next t ∧
      t = { s with mem := t.mem, moves := t.moves, ecc := t.ecc, grants := s.grants.filter (fun g => g.1 ≠ .move k), waiting := t.waiting, nwait := t.nwait } ∧
      moveAt t k = { v with state := mvHeld } ∧ (∀ j, j ≠ k → moveAt t j = moveAt s j) ∧
      Stored s.mem m dst left (bytesAt s.mem src left) ∧
      m' = wrEnt m tb v.n { rdEnt m tb v.n with st := if v.up then bHbm else bAnch, loc := v.dst } ∧
      t.mem = (moveReports s v { s with mem := m' }).mem ∧ t.waiting = (moveReports s v s).waiting)) ∧
  (∀ (s : State) (k : Nat) (v : Move) (tb : Nat), k = s.ev.a → v = moveAt s k → v.state = mvHeld → v.hold = 0 → tb = (partAt s v.part).tbase →
    (mayMove s (.move k) (returnTouch s v) = false → exec .moveSlotReturn s = .next s) ∧
    (mayMove s (.move k) (returnTouch s v) = true → exec .moveSlotReturn s = .next { s with
      mem := fifoAdd s.mem tb (if v.up then aslQ tb v.pool else hslQ tb v.pool) v.src
      moves := tabSet Move.none s.moves k Move.none
      grants := s.grants.filter (fun g => g.1 ≠ .move k) }))

/-! ## Domains, timetables, tasks; heat; replicas -/

namespace Sys2Proof.Claims

/-- A task may start: the timetable runs, the record is the tile's, and TC is its start cycle (R104). -/
def TaskDue (s : State) (id k i : Nat) (x : TT) : Prop :=
  s.ev.a = id ∧ s.ev.b = k ∧ s.ev.c = i ∧ x = ttOf s k ∧ x.st = .running ∧ taskTile x.img i = id ∧
    (domAt s x.dom).tc = x.t0 + taskStart x.img i
/-- The state of a task at its start as a program can read it (R104). -/
def AtStart (x : TT) (i T : Nat) (t y : Tile) : Prop :=
  (∀ r, rdReg y r = 0) ∧ (∀ p, rdPred y p = decide (p = 0)) ∧ (∀ k, rdLc y k = 0) ∧ (∀ q, qOf y q = []) ∧
    (∀ m, m ≠ 0 → rdMask y m = 0) ∧ (∀ k, rdAf y k = 0) ∧ (∀ k, agOf y k = Agen.idle) ∧ y.mt0 = MTree.clear ∧ y.mt1 = MTree.clear ∧
    y.sstat = 0 ∧ y.vstat = 0 ∧ y.astat = 0 ∧ y.rb = 0 ∧ y.rs = imgLE x.img (taskOfs x.img i + 2) 1 ∧
    (∀ j, rdKb y j = if j < imgLE x.img (taskOfs x.img i + 0x14) 2
      then BitVec.ofNat 32 (imgLE x.img (imgLE x.img (taskOfs x.img i + 0x18) 4 + 4 * j) 4) else 0) ∧
    (∀ k : ShapeN, imgLE x.img (taskOfs x.img i + 0x16) 2 ≤ k.toNat → (shapeOf y k).dims = []) ∧
    y.half = 0 ∧ y.pc = 0 ∧ y.code.getD 0 [] = segWords x.img (imgLE x.img (taskOfs x.img i + 8) 4) ∧
    y.segs.getD 0 0 = imgLE x.img (taskOfs x.img i + 8) 4 ∧ y.pilot.start = T ∧ y.elastic = false ∧ y.next = T ∧ y.started = true ∧
    y.ended = false ∧ y.tt = t.tt ∧ y.firmware = x.firmware ∧ y.cal = [] ∧ y.out = [] ∧ y.m0 = t.m0 ∧ y.acc = t.acc
/-- The bank is ephemeral by the mask of an image's entry. -/
def inMask (m b : Nat) : Bool := decide (m / 2 ^ b % 2 = 1)
/-- A domain has a tile on a die. -/
def OnDie (s : State) (d die : Nat) : Prop := d ∈ s.doms.map (·.1) ∧ die ∈ domDies s d
/-- The die has that temperature. -/
def heated (s : State) (die n : Nat) : State := { s with temps := tabSet 25 s.temps die n }
/-- A digest exchange whose time is up: TC has reached the next defined joint (R352). -/
def DueExch (s : State) (d : Nat) (e : Exch) : Prop :=
  e ∈ s.exchs ∧ e.dom = d ∧ ∃ j, nextJoint (ttOf s e.tt).img (e.upTo - (ttOf s e.tt).t0) = some j ∧ j + (ttOf s e.tt).t0 = (domAt s d).tc
/-- An exchange whose time is over: such a one, or one of a timetable with nothing else left (R20, R352). -/
def OverExch (s : State) (d : Nat) (e : Exch) : Prop := DueExch s d e ∨ (e ∈ s.exchs ∧ e.dom = d ∧ ttDone s e.tt = true)
/-- Every tile of the domain that recorded no cause has recorded a divergence, the domain is to freeze, and the host hears of it. -/
def Diverged (s t : State) (d : Nat) : Prop :=
  (∀ id ∈ domTiles s d, causeOf (tileOf s id) = 0 → causeOf (tileOf t id) = 0x17) ∧ t.out = s.out ++ [.divergence d] ∧ t.mem = s.mem
/-- The line of a region is there for the exchange's digest engines (R18). -/
def LineServed (s : State) (e : Exch) (l : DigLine) : Prop := servedAll s (.digest e.tt e.joint) none (lineTouch s l) = true
/-- The exchange with what has become known of it. -/
def exchWith (s : State) (e y : Exch) : List Exch := s.exchs.map (fun x => if x = e then y else x)

/-- The completion record of a timetable that ends (R334). -/
def endRecord (s : State) (x : TT) : List Byte := leBytes (recordOf 2 x.slot x.t0 + (domAt s x.dom).tc % 2 ^ 64 * 2 ^ 128) 32
/-- The tile of a started timetable before its task starts: its own, with the task's first segment (R277, R283). -/
def assigned (x : TT) (k i : Nat) (t : Tile) : Tile :=
  { Tile.reset with
    m0 := t.m0, acc := t.acc, tt := k
    segs := [imgLE x.img (taskOfs x.img i + 8) 4, imgLE x.img (taskOfs x.img i + 8) 4] }

end Sys2Proof.Claims

/-- TC of a domain that is not frozen rises by one, and the cycle's work follows: before its end every tile of the domain issues; at T0
a timetable runs, and its tiles and channels are its own; a task starts in the state of R104; when all is done the timetable is Ended, its
record written, its slot Empty, unless a digest exchange stands out, when the domain is to freeze before the cycle's bundles (R16, R19,
R20, R104, R109, R272, R273, R334, R352; the division of a cycle into steps is log 4's, the checkpoint before the bundles log 5's, and
that the end of a timetable stands at a boundary log 18's). -/
def Obligations.DomainsTickAndTimetablesRunAndEnd : Prop :=
  (∀ (s : State) (d : Nat), s.ev.a = d →
    ((domAt s d).live = false ∨ (domAt s d).frozen = true → exec .tcTick s = .next s) ∧
    ((domAt s d).live = true → (domAt s d).frozen = false → ∃ t, exec .tcTick s = .next t ∧
      t = { s with doms := t.doms, agenda := t.agenda, ckpt := none, wallNs := t.wallNs, free := s.free + 1 } ∧
      domAt t d = { domAt s d with tc := ((domAt s d).tc + 1) % 2 ^ 64 } ∧ (∀ e, e ≠ d → domAt t e = domAt s e) ∧ s.wallNs ≤ t.wallNs ∧
      ((domAt s d).faulted = false → ∃ l1 l2 l3, t.agenda = s.agenda ++ l1 ++ [.ckpt d] ++ l2 ++ [.close d] ++ l3 ∧
        .last d ∈ l3 ∧ (∀ id ∈ domTiles s d, .issue id ∈ l2) ∧
        ∀ c ∈ domChans s d, ∃ x : EvArgs, x.a = c.1 ∧ .ev .windowIssuerCommand x ∈ l3))) ∧
  (∀ (s : State) (k : Nat) (x : TT), s.ev.a = k → x = ttOf s k → x.st = .armed → (domAt s x.dom).tc = x.t0 →
    ((compiledChans x.img).map (·.1)).Nodup → (taskTiles x.img).Nodup → ∃ t, exec .timetableStart s = .next t ∧
    t = { s with tts := t.tts, chans := t.chans, tiles := t.tiles } ∧
    (∀ i < nTask x.img, tileOf t (taskTile x.img i) = assigned x k i (tileOf s (taskTile x.img i))) ∧
    (∀ id, id ∉ taskTiles x.img → tileOf t id = tileOf s id) ∧
    ttOf t k = { x with st := .running } ∧ (∀ j, j ≠ k → ttOf t j = ttOf s j) ∧
    (∀ ch, (∀ m, (ch, m) ∉ compiledChans x.img) → chanAt t ch = chanAt s ch) ∧
    ∀ ch m, (ch, m) ∈ compiledChans x.img → (chanAt t ch).comp = some k ∧ (chanAt t ch).t0 = x.t0 ∧ (chanAt t ch).credit = 0 ∧
      ∀ b < (timingOf s ch).banks, (bankAt (chanAt t ch) b).row = none ∧ (bankAt (chanAt t ch) b).eph = inMask m b ∧
        (inMask m b = true → (bankAt (chanAt t ch) b).limit = x.t0 + tRet (timingOf s ch) (imgSlice x.img))) ∧
  (∀ (s : State) (id k i : Nat) (x : TT), TaskDue s id k i x → ∃ y, exec .taskStart s = .next (setTile s id y) ∧
    AtStart x i (x.t0 + taskStart x.img i) { tileOf s id with tt := k } y) ∧
  (∀ (s : State) (k : Nat) (x : TT), s.ev.a = k → x = ttOf s k → x.st = .running → (domAt s x.dom).frozen = false →
    (domAt s x.dom).faulted = false →
    (ttDone s k = false → exec .timetableEnded s = .next s) ∧
    (ttDone s k = true → (∃ e ∈ s.exchs, e.tt = k ∧ e.done = false) →
      exec .timetableEnded s = .next (setDom s x.dom { domAt s x.dom with faulted := true, digest := true })) ∧
    (ttDone s k = true → (∀ e ∈ s.exchs, e.tt = k → e.done = true) → (∃ e ∈ s.exchs, e.tt = k ∧ e.equal = false) →
      ∃ t, exec .timetableEnded s = .next t ∧ Diverged s t x.dom ∧ (domAt t x.dom).faulted = true) ∧
    (ttDone s k = true → (∀ e ∈ s.exchs, e.tt = k → e.done = true ∧ e.equal = true) → (∀ id ∈ domTiles s x.dom, causeOf (tileOf s id) = 0) →
      (∀ ch, ∀ b ∈ (chanAt s ch).banks, b.2.expired = false) → ∃ t, exec .timetableEnded s = .next t ∧
      ttOf t k = TT.none ∧ (∀ j, j ≠ k → ttOf t j = ttOf s j) ∧
      (∀ q place, x.record = some (q, place) → t.mem = (posted none place (endRecord s x) s).mem ∧
        t.waiting = (posted none place (endRecord s x) s).waiting) ∧
      (x.record = none → t.mem = s.mem ∧ t.waiting = s.waiting) ∧
      (∀ id ∈ ttTiles s k, tileOf t id = { Tile.reset with m0 := (tileOf s id).m0, acc := (tileOf s id).acc }) ∧
      (∀ ch, (chanAt s ch).comp = some k → (chanAt t ch).comp = none ∧ (chanAt t ch).win = none ∧
        ∀ b, (bankAt (chanAt t ch) b).row = none) ∧
      (∀ ch, (chanAt s ch).ephTt = some k → (chanAt t ch).ephTt = none ∧ ∀ b, (bankAt (chanAt t ch) b).eph = false) ∧
      ((∀ y ∈ s.tts, y.1 ≠ k → y.2.dom = x.dom → isActive y.2 = false) → domAt t x.dom = Dom.none)))

/-- A die at 100 °C asks every domain with a tile on it for a hold, and withdraws its request below 95 °C; at 112 °C a running domain is to
freeze and be aborted, its tiles with cause 0x15, and a frozen one waits; at a digest joint the lines of the regions are read as their
channels let them, and the digests go to the peers of the records; equal answers let the domain go on, a difference is cause 0x17, a late
answer freezes it with cause 0; the hosts decide; a replica record is written while the slots are Empty, on a device that is not locked
(R18, R20, R30, R283, R343, R351, R352). -/
def Obligations.HeatAndReplicasActOnDomains : Prop :=
  (∀ (s : State) (die n : Nat), s.ev.a = die → s.ev.b = n →
    (n < 100 → exec .thermalHoldRequest s = .next (heated s die n)) ∧
    (100 ≤ n → ∃ t, exec .thermalHoldRequest s = .next t ∧ t = { heated s die n with doms := t.doms } ∧
      (∀ d, OnDie s d die → domAt t d = { domAt s d with
        holds := if ∃ h ∈ (domAt s d).holds, h.1 = die then (domAt s d).holds else (die, (domAt s d).tc) :: (domAt s d).holds }) ∧
      ∀ d, ¬ OnDie s d die → domAt t d = domAt s d) ∧
    (95 ≤ n → exec .thermalCooldown s = .next (heated s die n)) ∧
    (n < 95 → (∀ d, OnDie s d die → (domAt s d).frozen = false ∨ (domAt s d).thermal = false ∨ isHot (heated s die n) (domDies s d) = true) →
      ∃ t, exec .thermalCooldown s = .next t ∧ t = { heated s die n with doms := t.doms } ∧
      (∀ d, OnDie s d die → domAt t d = { domAt s d with holds := (domAt s d).holds.filter (·.1 ≠ die) }) ∧
      ∀ d, ¬ OnDie s d die → domAt t d = domAt s d) ∧
    (∀ d x, n < 95 → s.doms = [(d, x)] → OnDie s d die → isHot (heated s die n) (domDies s d) = false → x.frozen = true → x.thermal = true →
      exec .thermalCooldown s = .next (resumeDom (setDom (heated s die n) d { x with holds := x.holds.filter (·.1 ≠ die) }) d)) ∧
    (n < 112 → exec .thermalTrip s = .next (heated s die n)) ∧
    (112 ≤ n → ∃ t, exec .thermalTrip s = .next t ∧ t = { heated s die n with doms := t.doms } ∧
      (∀ d, OnDie s d die → domAt t d = if (domAt s d).frozen then { domAt s d with thermal := true }
        else { domAt s d with faulted := true, doomed := true }) ∧ ∀ d, ¬ OnDie s d die → domAt t d = domAt s d)) ∧
  (∀ (s : State) (d : Nat) (r : List Work), s.agenda = .close d :: r → (domAt s d).frozen = false → (domAt s d).faulted = true →
    (domAt s d).doomed = true → s.ckpt = none → ∃ t, step s = .next t ∧ (domAt t d).frozen = true ∧ (domAt t d).doomed = true ∧
      ∀ id ∈ domTiles s d, causeOf (tileOf s id) = 0 ∨ 0x15 < causeOf (tileOf s id) → causeOf (tileOf t id) = 0x15) ∧
  (∀ (s : State) (d : Nat) (e : Exch), s.ev.a = d →
    s.exchs.find? (fun e => e.dom = d && e.joint = s.ev.b && e.tt = s.ev.c && e.mine.isNone) = some e →
    (doneBefore s d e.upTo = false → exec .digestJoint s = .next s) ∧
    (doneBefore s d e.upTo = true → e.read.length = 64 * ((digestLines s e.tt).length - (unread s e).length) →
      (∀ l x r, unread s e = l ++ x :: r → (∀ y ∈ l, LineServed s e y) → ¬ LineServed s e x → exec .digestJoint s = .next { s with
        grants := s.grants.filter (fun g => g.1 ≠ .digest e.tt e.joint)
        exchs := exchWith s e { e with read := e.read ++ l.flatMap (lineBytes s) } }) ∧
      (∀ m, (∀ y ∈ unread s e, LineServed s e y) → m = digestMsg s e.tt e.joint (e.read ++ (unread s e).flatMap (lineBytes s)) →
        ∃ peers, (∀ q, q ∈ peers ↔ ∃ p ∈ (ttOf s e.tt).parts, ∃ l, (partAt s p).rep = some (q.1, q.2, l)) ∧
          exec .digestJoint s = .next { s with
            grants := s.grants.filter (fun g => g.1 ≠ .digest e.tt e.joint)
            exchs := exchWith s e { e with mine := some m, read := e.read ++ (unread s e).flatMap (lineBytes s) }
            out := s.out ++ [.digests d peers m] }))) ∧
  (∀ (s : State) (d : Nat) (e : Exch) (l : List Exch), s.ev.a = d →
    s.exchs.find? (fun e => e.dom = d && e.joint = s.ev.b && e.tt = s.ev.c && (e.mine.isSome && !e.done)) = some e →
    l = exchWith s e { e with done := true, equal := decide (e.mine = some s.ev.bytes) } →
    ((domAt s d).frozen = false ∨ (domAt s d).digest = false → exec .digestExchangeDone s = .next { s with exchs := l }) ∧
    ((domAt s d).frozen = true → (domAt s d).digest = true →
      ((∃ y, OverExch { s with exchs := l } d y ∧ y.done = true ∧ y.equal = false) → ∃ t, exec .digestExchangeDone s = .next t ∧
        Diverged s t d ∧ domAt t d = { domAt s d with digest := false } ∧ ∀ n ∈ t.snaps, n.dom ≠ d) ∧
      ((∀ y, OverExch { s with exchs := l } d y → y.done = true ∧ y.equal = true) → ∃ l',
        (∀ y, y ∈ l' ↔ y ∈ l ∧ ¬ OverExch { s with exchs := l } d y) ∧
        exec .digestExchangeDone s = .next (resumeDom { setDom s d { domAt s d with digest := false } with exchs := l' } d)) ∧
      ((∃ y, OverExch { s with exchs := l } d y ∧ y.done = false) →
        (∀ y, OverExch { s with exchs := l } d y → y.done = false ∨ y.equal = true) →
        exec .digestExchangeDone s = .next { s with exchs := l }))) ∧
  (∀ (s : State) (d : Nat), s.ev.a = d → (domAt s d).frozen = false →
    ((∀ e, ¬ DueExch s d e) → exec .digestDeadline s = .next s) ∧
    ((∃ e, DueExch s d e ∧ e.done = true ∧ e.equal = false) → ∃ t, exec .digestDeadline s = .next t ∧ Diverged s t d ∧
      (domAt t d).faulted = true) ∧
    ((∃ e, DueExch s d e ∧ e.done = false) → (∀ e, DueExch s d e → e.done = false ∨ e.equal = true) →
      exec .digestDeadline s = .next (setDom s d { domAt s d with faulted := true, digest := true })) ∧
    ((∃ e, DueExch s d e) → (∀ e, DueExch s d e → e.done = true ∧ e.equal = true) → ∃ t, exec .digestDeadline s = .next t ∧
      t = { s with exchs := t.exchs } ∧ ∀ e, e ∈ t.exchs ↔ e ∈ s.exchs ∧ ¬ DueExch s d e)) ∧
  (∀ (s : State) (d : Nat), s.ev.a = d →
    ((domAt s d).frozen = false ∨ (∀ id ∈ domTiles s d, causeOf (tileOf s id) ≠ 0x17) → exec .replicaDecision s = .next s) ∧
    ((domAt s d).frozen = true → (∃ id ∈ domTiles s d, causeOf (tileOf s id) = 0x17) →
      (s.ev.flag = false → exec .replicaDecision s = .next (setDom s d { domAt s d with doomed := true })) ∧
      (s.ev.flag = true → exec .replicaDecision s =
        .next (resumeDom (setDom s d { domAt s d with go := s.ev.b :: (domAt s d).go }) d)))) ∧
  (∀ (s : State) (p : Nat), s.ev.a = p → p < 24 → s.ev.list.length ≤ 16 →
    (∀ r ∈ s.ev.list, r.1 < 6 ∧ r.2.1 % 64 = 0 ∧ r.2.2 % 64 = 0) →
    (s.hc.locked = true → exec .replicaRecordWrite s = .next s) ∧
    (s.hc.locked = false → slotTt s p 0 = none → slotTt s p 1 = none →
      exec .replicaRecordWrite s = .next (setPart s p { partAt s p with rep := some (s.ev.b, s.ev.c, s.ev.list) })) ∧
    (slotTt s p 0 ≠ none ∨ slotTt s p 1 ≠ none → exec .replicaRecordWrite s = .next s))

/-! ## The Harbour complex and the outside -/

namespace Sys2Proof.Claims

/-- The RIGHTS bits that a firmware access needs: read, write, fetch; a capability's load or store also needs hold (R339). -/
def needs (n : Nat) : BitVec 4 := match n with | 0 => 1 | 1 => 2 | 2 => 4 | 3 => 9 | _ => 10
/-- The bytes of a firmware access: those that it names, or a capability's 16 (R339). -/
def sizeOf (op n : Nat) : Nat := if op ≤ 2 then n else 16
/-- A capability's window: BASE × 64, and LEN (R339). -/
def winBase (c : BitVec 128) : Nat := (c.extractLsb' 48 51).toNat * 64
/-- A capability is live: its tag is 1, its region is valid and of its generation, its window and rights lie within it (R339). -/
def Live (s : State) (c : BitVec 128) (tag : Bool) : Prop :=
  ∃ r, r = tabGet Region.none s.hc.regions (c.extractLsb' 112 8).toNat ∧ tag = true ∧ r.valid = true ∧ c.extractLsb' 104 8 = r.gen ∧
    r.base ≤ winBase c ∧ winBase c + (c.extractLsb' 0 48).toNat ≤ r.base + r.len ∧
    c.extractLsb' 120 4 &&& r.rights = c.extractLsb' 120 4
/-- An access through a capability performs: a live capability, its rights, its kind or the any-kind code 15, its window (R340). -/
def CapOk (s : State) (c : BitVec 128) (tag : Bool) (op kind o n : Nat) : Prop :=
  Live s c tag ∧ c.extractLsb' 120 4 &&& needs op = needs op ∧ (kind = 15 ∨ kind = (c.extractLsb' 124 4).toNat) ∧
    o + n ≤ (c.extractLsb' 0 48).toNat
/-- A derivation: the window narrows, no right is added, the kind stays or replaces kind 0 without fetch; region, generation and the
reserved bits are as they must be (R339). -/
def Narrows (o n : BitVec 128) : Prop :=
  winBase o ≤ winBase n ∧ winBase n + (n.extractLsb' 0 48).toNat ≤ winBase o + (o.extractLsb' 0 48).toNat ∧
    n.extractLsb' 120 4 &&& o.extractLsb' 120 4 = n.extractLsb' 120 4 ∧ n.extractLsb' 104 16 = o.extractLsb' 104 16 ∧
    n.extractLsb' 99 5 = 0 ∧
    (n.extractLsb' 124 4 = o.extractLsb' 124 4 ∨ o.extractLsb' 124 4 = 0 ∧ (n.extractLsb' 120 4).getLsbD 2 = false)
/-- A fatal error has begun: every domain is to freeze, every queue is stopped, the dump's header is known, nothing else changes; no
tile records the cause (R340, R341). -/
def Halts (s t : State) (d : Dump) : Prop :=
  t = { s with doms := t.doms, queues := t.queues, hc := { s.hc with halted := true, dying := true, dump := some d } } ∧
    (∀ k, k ∈ s.doms.map (·.1) → domAt t k = { domAt s k with faulted := (domAt s k).faulted || !(domAt s k).frozen }) ∧
    ∀ q, (queueAt t q).en = false ∧ (queueAt t q).st = 0 ∧ (queueAt t q).wait = .none ∧ (queueAt t q).mapped = true
/-- A core of the Harbour complex, its registers, and the state with it changed (R338; log 23). -/
def core (s : State) (k : Nat) : HcCore := tabGet HcCore.reset s.hc.cores k
def xr (c : HcCore) (r : Nat) : Word := if r = 0 then 0 else tabGet 0 c.x r
def cr (c : HcCore) (r : Nat) : BitVec 128 × Bool := tabGet (0, false) c.caps r
def withCore (s : State) (k : Nat) (c : HcCore) : State := { s with hc := { s.hc with cores := tabSet HcCore.reset s.hc.cores k c } }
/-- A capability fault: it is logged, and it is a fatal error of KIND 1 and cause 0x13 (R340 to R342). -/
def CapFaults (s t : State) (k : Nat) (cap : BitVec 128 × Bool) (n a : Nat) : Prop :=
  Halts { s with hc := { s.hc with log := s.hc.log ++ [.capFault k] } } t ⟨1, k, 0x13, (core s k).pc, cap.1, cap.2, n, a, 0⟩
/-- An access of a core, as the event names it (log 23): the code of the access, the core, the registers of the capability, of the
value and of the offset, the window's capability, the offset, the size, the address. -/
structure CapAcc where
  op  : Nat
  k   : Nat
  r   : Nat
  cap : BitVec 128 × Bool
  o   : Nat
  n   : Nat
  a   : Nat
def capAcc (s : State) : CapAcc :=
  let x := s.ev
  let w := x.list.headD (0, 0, 0)
  let c := core s (w.1 % 4)
  let cap := cr c w.2.1
  let o := (xr c (x.list.getD 1 (0, 0, 0)).1).toNat
  ⟨x.a, w.1 % 4, w.2.2, cap, o, sizeOf x.a x.b, winBase cap.1 + o⟩
/-- The region of a capability is region 0, firmware memory (R339). -/
def Firm (y : CapAcc) : Prop := y.cap.1.extractLsb' 112 8 = 0
/-- What an access touches in physical memory. -/
def capTouch (y : CapAcc) : List Touch := if y.cap.1.extractLsb' 112 8 = 0 then [] else [⟨y.a, y.n, decide (y.op = 1 ∨ 4 ≤ y.op)⟩]
/-- A request from outside the timetables may go on: it has waited, or its lines are open and no earlier one stands before it, for a line or
from its source (R18, R350). -/
def Free (s : State) (l : List Touch) (src : Option Nat) : Prop :=
  s.ev.go ≠ none ∨ ((∀ k ∈ touchLines l, lineOpen s none (64 * k) = true ∧ ∀ w ∈ s.waiting, k ∉ touchLines w.l) ∧
    (src ≠ none → ∀ w ∈ s.waiting, w.src ≠ src))
/-- The request waits under a number of its own. -/
def waits (s : State) (i : Instr) (l : List Touch) (src : Option Nat) : State :=
  { s with waiting := s.waiting ++ [⟨s.nwait, i, s.ev, l, src⟩], nwait := s.nwait + 1 }
/-- The process's domains: those of its active timetables, whose records its queues named (R334, R337). -/
def InProc (s : State) (qs : List Nat) (d : Nat) : Prop :=
  ∃ y ∈ s.tts, isActive y.2 = true ∧ y.2.dom = d ∧ ∃ q place, y.2.record = some (q, place) ∧ q ∈ qs
/-- The process has nothing to do (R337). -/
def Idle (s : State) (qs : List Nat) : Prop :=
  (∀ q ∈ qs, (queueAt s q).st ≠ 1 ∨ (∃ cc d a w t l, (queueAt s q).wait = .poll cc d a w t l) ∨
    ((queueAt s q).wait = .window ∧ decodeCmd (queueAt s q).ir = some .cwait) ∨ ((queueAt s q).wait = .none ∧ (queueAt s q).line = none)) ∧
  ∀ y ∈ s.tts, (∃ q place, y.2.record = some (q, place) ∧ q ∈ qs) → y.2.st ≠ .armed ∧ y.2.st ≠ .running
/-- A command that is no CWAIT is in progress (R337). -/
def Busy (s : State) (qs : List Nat) : Prop :=
  ∃ q ∈ qs, (∃ d a m k l, (queueAt s q).wait = .load d a m k l) ∨ (∃ a b c d, (queueAt s q).wait = .copy a b c d) ∨
    (queueAt s q).wait = .move ∨ ((queueAt s q).wait = .window ∧ decodeCmd (queueAt s q).ir ≠ some .cwait)
/-- The queues are mapped, or not, and no other queue has changed. -/
def Mapped (s t : State) (qs : List Nat) (b : Bool) : Prop :=
  (∀ q ∈ qs, queueAt t q = { queueAt s q with mapped := b }) ∧ ∀ q, q ∉ qs → queueAt t q = queueAt s q
/-- The n bytes of a list at an offset, as a number. -/
def leAt (l : List Byte) (o n : Nat) : Nat := ((List.range n).map (fun i => (l.getD (o + i) 0).toNat * 256 ^ i)).sum
/-- The header of a dump's bytes (R342). -/
def DumpHead (s : State) (d : Dump) (b : List Byte) : Prop :=
  leAt b 0 4 = 0x504D5544 ∧ leAt b 4 2 = 1 ∧ leAt b 6 2 = s.snaps.length % 2 ^ 16 ∧ leAt b 8 8 = s.disc.serial % 2 ^ 64 ∧
    leAt b 0x10 8 = s.disc.epoch % 2 ^ 64 ∧ leAt b 0x18 1 = d.kind % 256 ∧ leAt b 0x19 1 = d.core % 256 ∧ leAt b 0x1A 1 = d.cause % 256 ∧
    leAt b 0x1B 5 = 0 ∧ leAt b 0x20 8 = d.fpc.toNat ∧ leAt b 0x28 16 = d.fcap.toNat ∧ leAt b 0x38 1 = (if d.ftag then 1 else 0) ∧
    leAt b 0x39 3 = 0 ∧ leAt b 0x3C 4 = d.fsize % 2 ^ 32 ∧ leAt b 0x40 8 = d.faddr % 2 ^ 64 ∧ leAt b 0x58 4 = b.length % 2 ^ 32 ∧
    leAt b 0x5C 4 = 0 ∧ b.length % 64 = 0
/-- Every domain is frozen and has its snapshots (R207, R341). -/
def AllFrozen (s : State) : Prop :=
  ∀ d ∈ s.doms.map (·.1), (domAt s d).frozen = true ∧
    ((∀ y ∈ s.tts, y.2.dom = d → y.2.st ≠ .frozen) ∨ ∃ n ∈ s.snaps, n.dom = d)
/-- What both resets leave: no timetable, no domain, no outstanding work, every queue and interface at its reset value; the epoch is the
next one (R22, R244 to R246, R346). -/
def Fresh (s t : State) : Prop :=
  t.tts = [] ∧ t.doms = [] ∧ t.snaps = [] ∧ t.eps = [] ∧ t.queues = [] ∧ t.agenda = [] ∧ t.ckpt = none ∧ t.waiting = [] ∧ t.grants = [] ∧
    (∀ k, vrepAt t k = ⟨false, [0x3FFF, 0x3FFF, 0x3FFF, 0x3FFF]⟩) ∧ t.fused = s.fused ∧ t.smaps = s.smaps ∧ t.hc.halted = false ∧
    t.hc.restored = false ∧ t.hc.lost = [] ∧ t.disc.epoch = (s.disc.epoch + 1) % 2 ^ 64 ∧ t.disc.serial = s.disc.serial
/-- What only warm reset keeps: every array bit, with every half-macro in storage mode and its beat state at its reset values; M0 (log
1); the mode registers of the DRAM devices; keys, capability regions, measurements (R244, R249, R297, R343). -/
def Kept (s t : State) : Prop :=
  (∀ k, halfOf t k = { Half.reset with bytes := (halfOf s k).bytes }) ∧ (∀ id, tileOf t id = { Tile.reset with m0 := (tileOf s id).m0 }) ∧
    (∀ ch, chanAt t ch = { Chan.idle with mode := (chanAt s ch).mode }) ∧ (∀ p, (partAt t p).keys = (partAt s p).keys) ∧ t.hc.regions = s.hc.regions ∧ t.hc.meas = s.hc.meas ∧ t.hc.locked = s.hc.locked
/-- The register that records a stage (R343). -/
def measured (img : List Byte) : BitVec 256 :=
  Config.shake256 (leBytes 0 32 ++ leBytes (Config.shake256 img).toNat 32)
/-- A quote: the nonce, serial and epoch, the measurements, a TTID or 0 for each slot of each partition, the signature (R345). -/
def Quoted (s : State) (nonce b : List Byte) : Prop :=
  ∃ body, b = body ++ leBytes (Config.falconSign body).length 2 ++ Config.falconSign body ∧ body.take nonce.length = nonce ∧
    ∃ l, body.drop nonce.length = leBytes s.disc.serial 8 ++ leBytes s.disc.epoch 8 ++ s.hc.meas.flatMap (fun m => leBytes m.toNat 32) ++ l ∧
      l.length = 384 ∧ ∀ p k, p < 24 → k < 2 → (l.drop (16 * p + 8 * k)).take 8 =
        leBytes (match slotTt s p k with | some (_, x) => x.ttid.toNat | none => 0) 8
/-- The answer goes out, free bytes apart; nothing else changes (R346). -/
def Says (s : State) (t : State) (m : OutMsg) : Prop := t = { s with out := s.out ++ [m], free := t.free }
/-- The code of a slot's state (R19). -/
def slotCode (s : State) (p k : Nat) : Nat :=
  match slotTt s p k with
  | none => 0
  | some (_, x) => match x.st with | .loaded => 1 | .armed => 2 | .running => 3 | .frozen => 4 | .ended => 5 | .aborted => 6
/-- The bytes of memory from an address. -/
def run (m : Memory) (a n : Nat) : List Byte := (List.range n).map (fun i => byteAt m (a + i))
/-- No lane has that number (R245). -/
def NoLane (l : Nat) : Prop := 9856 ≤ l ∧ l ≤ 16382
/-- Firmware copies the fused lanes of an interface, and sets VALID but where one is no lane (R245, R246). -/
def Copied (s : State) (k : Nat) (v : Vrep) : Prop :=
  v.lanes = tabGet noLanes s.fused k ∧ (v.valid = true ↔ ∀ l ∈ tabGet noLanes s.fused k, ¬ NoLane l)
/-- The first byte of the dump region, the last 8 GiB of the numbers of the LP6 lines (log 8). -/
def dumpAt : Nat := 3263 * 2 ^ 33
/-- The digest under which stage k verifies: in fuses for the first after the ROM, else what the stage before it has (R343). -/
def keyDigest (s : State) (k : Nat) : BitVec 256 :=
  if k = 1 then s.hc.fuse else Config.nextDigest (s.hc.stages.getD (k - 1) [])
/-- The stage is signed under a key of that digest (R343). -/
def Verifies (s : State) (k : Nat) (img : List Byte) : Prop :=
  Config.shake256 (Config.stageParts img).1 = keyDigest s k ∧
    Config.falconVerify (Config.stageParts img).1 (Config.stageParts img).2.1 (Config.stageParts img).2.2 = true

end Sys2Proof.Claims

/-- A run list's turn maps its process's queues and resumes its preempted domains; at the end of its quantum, or when it is idle, its domains
freeze, and once no command but a CWAIT is in progress its queues are unmapped and the next process has its turn; a process joins its
group's list last, and when it leaves its regions are revoked; a core that registers a region holds its capability, and the registers that
an instruction writes stand in its core. A firmware access through a capability performs, in a core's registers and
in memory, or is a fatal error of KIND 1, as a derivation is that widens; a revoked region's capabilities are dead (R337 to R341; how an
event names a core's instruction, and the number of the register, log 23; firmware that did not verify is not run, R343). -/
def Obligations.FirmwareRunsByTurnsAndCapabilities : Prop :=
  (∀ (s : State) (r : RunList) (p : Proc), s.hc.runs[s.ev.a]? = some r → r.procs[r.turn]? = some p →
    (r.ending = true → exec .runListTurn s = .next s) ∧
    (r.ending = false → (∀ d, InProc s p.queues d → (domAt s d).preempted = false) →
      ∃ t, exec .runListTurn s = .next t ∧ t = { s with queues := t.queues } ∧ Mapped s t p.queues true) ∧
    (∀ d, r.ending = false → procDoms s p.queues = [d] → (domAt s d).preempted = true → ∃ u, u = { s with queues := u.queues } ∧
      Mapped s u p.queues true ∧ exec .runListTurn s = .next (resumeDom (setDom u d { domAt s d with preempted := false }) d)) ∧
    (s.ev.flag = true → r.ending = false → ¬ Idle s p.queues → exec .quantumExpiry s = .next s) ∧
    (s.ev.flag = false ∨ r.ending = true ∨ Idle s p.queues → ∃ t, exec .quantumExpiry s = .next t ∧
      (∀ d, r.ending = false → InProc s p.queues d →
        domAt t d = { domAt s d with preempted := true, faulted := (domAt s d).faulted || !(domAt s d).frozen }) ∧
      (∀ d, r.ending = true ∨ ¬ InProc s p.queues d → domAt t d = domAt s d) ∧
      (Busy s p.queues → t.queues = s.queues ∧ t.hc.runs[s.ev.a]? = some { r with ending := true }) ∧
      (¬ Busy s p.queues → Mapped s t p.queues false ∧
        t.hc.runs[s.ev.a]? = some { r with turn := (r.turn + 1) % r.procs.length, ending := false }))) ∧
  (∀ (s : State), s.hc.runs[s.ev.a]? = none → exec .runListTurn s = .next s ∧ exec .quantumExpiry s = .next s) ∧
  (∀ (s : State) (g : Nat) (p : Proc), s.hc.locked = false → s.ev.a = 7 → s.ev.b = g → g < 24 →
    p = ⟨s.ev.c, s.ev.list.map (·.1), s.ev.cap, s.ev.bytes.map (·.toNat)⟩ →
    (s.ev.flag = true → 1 ≤ p.quantum → p.quantum ≤ 1000000 → (∀ q ∈ p.queues, q < 256 ∧ ∀ r ∈ s.hc.runs, ∀ y ∈ r.procs, q ∉ y.queues) →
      ∃ t, exec .registerWrite s = .next t ∧ Mapped s t p.queues false ∧
        ((∀ r ∈ s.hc.runs, r.group ≠ g) → t.hc.runs = s.hc.runs ++ [⟨g, [p], 0, false⟩]) ∧
        (∀ r, s.hc.runs = [r] → r.group = g → t.hc.runs = [{ r with procs := r.procs ++ [p] }])) ∧
    (∀ r y, s.ev.flag = false → s.hc.runs = [r] → r.group = g → r.procs[s.ev.c]? = some y → (r.turn = s.ev.c → Idle s y.queues) →
      ∃ t, exec .registerWrite s = .next t ∧ Mapped s t y.queues false ∧ (∀ z ∈ t.hc.runs, z.procs = r.procs.eraseIdx s.ev.c) ∧
        ∀ (c : BitVec 128) (tag : Bool), c.extractLsb' 112 8 = y.table.extractLsb' 112 8 ∨ (c.extractLsb' 112 8).toNat ∈ y.regions →
          Live s c tag → ¬ Live t c tag)) ∧
  (∀ (s : State) (k n : Nat) (r : Region) (b l : Nat) (e : BitVec 4), s.hc.locked = false → s.ev.a = 8 → s.ev.b = k → 0 < k → k < 256 →
    s.ev.c = n → n < 4 → s.ev.flag = true → s.ev.list = [(b, l, e.toNat)] → b % 64 = 0 → b < 2 ^ 57 → l < 2 ^ 48 →
    r = ⟨true, b, l, e, (tabGet Region.none s.hc.regions k).gen⟩ → ∃ t c, exec .registerWrite s = .next t ∧
      t = withCore { s with hc := { s.hc with regions := t.hc.regions } } n { core s n with
        caps := tabSet (0, false) (core s n).caps s.ev.v.toNat (c, true) } ∧
      tabGet Region.none t.hc.regions k = r ∧ (∀ j, j ≠ k → tabGet Region.none t.hc.regions j = tabGet Region.none s.hc.regions j) ∧
      Live t c true ∧ c.extractLsb' 124 4 = 0 ∧ c.extractLsb' 120 4 = e ∧ (c.extractLsb' 112 8).toNat = k ∧ winBase c = b ∧
      (c.extractLsb' 0 48).toNat = l) ∧
  (∀ (s : State) (k file r v : Nat), s.hc.locked = false → s.ev.a = 13 → s.ev.b = k → k < 4 → s.ev.list = [(file, r, v)] → r < 32 →
    (file = 0 → exec .registerWrite s = .next (withCore s k { core s k with
      pc := s.ev.v, x := if r = 0 then (core s k).x else tabSet 0 (core s k).x r (BitVec.ofNat 64 v) })) ∧
    (file = 1 → exec .registerWrite s = .next (withCore s k { core s k with pc := s.ev.v, f := tabSet 0 (core s k).f r (BitVec.ofNat 64 v) })) ∧
    (file = 2 → exec .registerWrite s = .next (withCore s k { core s k with pc := s.ev.v, fcsr := BitVec.ofNat 32 v }))) ∧
  (∀ (s : State), s.hc.locked = true → exec .capAccess s = .next s ∧ exec .capDerive s = .next s) ∧
  (∀ (s : State) (y : CapAcc) (c : HcCore) (l : List Touch) (src : Option Nat), y = capAcc s → c = core s y.k → l = capTouch y →
    src = some (65536 + y.k) → s.hc.dying = false → s.hc.locked = false →
    (¬ CapOk s y.cap.1 y.cap.2 y.op s.ev.c y.o y.n → ∃ t, exec .capAccess s = .next t ∧ CapFaults s t y.k y.cap y.n y.a) ∧
    (CapOk s y.cap.1 y.cap.2 y.op s.ev.c y.o y.n →
      (¬ Free s l src → exec .capAccess s = .next (waits s .capAccess l src)) ∧
      (Free s l src →
        (∀ v, y.op = 0 → v = (if y.cap.1.extractLsb' 112 8 = 0 then bytesAt s.hc.fw y.a y.n else physLE s y.a y.n) →
          exec .capAccess s = .next (withCore s y.k { c with
            pc := s.ev.v, x := if y.r = 0 then c.x else tabSet 0 c.x y.r (BitVec.ofNat 64 v) })) ∧
        (y.op = 2 → exec .capAccess s = .next (withCore s y.k { c with pc := s.ev.v })) ∧
        (∀ v, y.op = 3 → v = (if y.cap.1.extractLsb' 112 8 = 0 then bytesAt s.hc.fw y.a 16 else physLE s y.a 16) →
          exec .capAccess s = .next (withCore s y.k { c with
            pc := s.ev.v
            caps := tabSet (0, false) c.caps y.r (BitVec.ofNat 128 v,
              decide (y.cap.1.extractLsb' 112 8 = 0 ∧ y.a % 16 = 0 ∧ y.a / 16 ∈ s.hc.tags)) })) ∧
        (∀ v, y.op = 1 ∨ 4 ≤ y.op → v = (if y.op = 1 then (xr c y.r).toNat else (cr c y.r).1.toNat) → ∃ t m,
          exec .capAccess s = .next (withCore t y.k { c with pc := s.ev.v }) ∧ Stored (if y.cap.1.extractLsb' 112 8 = 0 then s.hc.fw else s.mem) m y.a y.n v ∧
          (¬ Firm y → t = { s with mem := m }) ∧
          (Firm y → t = { s with hc := { s.hc with fw := m, tags := t.hc.tags } } ∧
            ∀ g, g ∈ t.hc.tags ↔ (y.op ≠ 1 ∧ (cr c y.r).2 = true ∧ y.a % 16 = 0 ∧ g = y.a / 16) ∨
              (g ∈ s.hc.tags ∧ ¬ (g * 16 < y.a + y.n ∧ y.a < g * 16 + 16))))))) ∧
  (∀ (s : State) (y : CapAcc) (c : HcCore), y = capAcc s → c = core s y.k → s.hc.dying = false →
    s.hc.locked = false →
    (Live s y.cap.1 y.cap.2 → Narrows y.cap.1 s.ev.cap → exec .capDerive s = .next (withCore s y.k { c with
      pc := s.ev.v, caps := tabSet (0, false) c.caps y.r (s.ev.cap, true) })) ∧
    (¬ Live s y.cap.1 y.cap.2 ∨ ¬ Narrows y.cap.1 s.ev.cap → ∃ t, exec .capDerive s = .next t ∧ CapFaults s t y.k y.cap 0 0)) ∧
  (∀ (s : State) (j : Nat), j = s.ev.a % 256 → ∃ t, exec .regionRevoke s = .next t ∧ t = { s with hc := { s.hc with regions := t.hc.regions } } ∧
    (∀ k, tabGet Region.none t.hc.regions k = if k = j
      then { tabGet Region.none s.hc.regions k with gen := (tabGet Region.none s.hc.regions k).gen + 1 }
      else tabGet Region.none s.hc.regions k) ∧
    ∀ (c : BitVec 128) (tag : Bool), (c.extractLsb' 112 8).toNat = j → Live s c tag → ¬ Live t c tag)

/-- A fatal error freezes every domain and stops every queue; once the snapshots are there the dump is written, or waits for its channel,
with its header, signed, and every timetable is aborted. Warm reset aborts every timetable and keeps the arrays, M0 (log 1), keys and measurements, resets the queues
(log 1) and clears the repair registers; bring-up runs each stage that verifies under the digest of the one before it and locks the device
at one that does not (R22, R244 to R246, R249, R341, R342, R343, R346, R354; bytes that nothing has written and the table after a reset:
logs 2 and 10; the host's places from 2^64 on, which bring-up leaves alone: log 7; where the dump region lies: log 8). -/
def Obligations.FatalErrorsHaltAndResetsRestoreTheDevice : Prop :=
  (∀ (s : State) (x : EvArgs), s.ev = x → s.hc.dying = false →
    (∃ t, exec .fatalError s = .next t ∧ Halts s t ⟨2, x.a % 4, 0x16, (core s (x.a % 4)).pc, (cr (core s (x.a % 4)) x.v.toNat).1,
      (cr (core s (x.a % 4)) x.v.toNat).2, x.b, x.c, 0⟩) ∧
    (∃ t, exec .watchdogExpiry s = .next t ∧ Halts s t ⟨3, 0xFF, 0, 0, 0, false, 0, 0, 0⟩) ∧
    (s.hc.locked = false → ∃ t, exec .sbDumpRequest s = .next t ∧
      Halts (send (.sideband 7 []) s) t ⟨4, 0xFF, 0, 0, 0, false, 0, 0, 0⟩) ∧
    (s.hc.locked = true → exec .sbDumpRequest s = .next s)) ∧
  (∀ (s : State) (d : Dump), s.hc.dying = true → s.hc.dump = some d →
    (¬ AllFrozen s → exec .fatalError s = .next s) ∧
    (AllFrozen s → ∃ t body u, exec .fatalError s = .next t ∧ (∀ k, ttOf t k = TT.none) ∧ t.doms = [] ∧ t.hc.dying = false ∧
      t.hc.halted = s.hc.halted ∧ DumpHead s d body ∧ t.hc.dump = some { d with len := body.length + (Config.falconSign body).length } ∧
      u = posted none dumpAt (body ++ Config.falconSign body) s ∧ (s.tts = [] → t.mem = u.mem ∧ t.waiting = u.waiting) ∧
      ∀ k x q place r, s.tts = [(k, x)] → x.after ≠ some k → x.record = some (q, place) → (∀ id, causeOf (tileOf s id) = 0) →
        (∀ ch, ∀ b ∈ (chanAt s ch).banks, b.2.expired = false) →
        r = leBytes (recordOf 3 x.slot x.t0 + (domAt s x.dom).tc % 2 ^ 64 * 2 ^ 128) 32 →
        t.mem = (posted none place r u).mem ∧ t.waiting = (posted none place r u).waiting)) ∧
  (∀ (s : State), (s.halves.map (·.1)).Nodup → (s.tiles.map (·.1)).Nodup → (s.parts.map (·.1)).Nodup → (s.chans.map (·.1)).Nodup →
    (∃ t, exec .warmReset s = .next t ∧ Fresh s t ∧ Kept s t ∧
      (s.ev.list = [] → t.disc.remap = [] ∧ t.disc.dead = [0, 0, 0, 0, 0, 0] ∧ t.disc.slice = 1)) ∧
    (∃ t l, exec .sbResetWarm s = .next t ∧ Fresh s t ∧ Kept s t ∧ t.out = s.out ++ .sideband 5 [0] :: l)) ∧
  (∀ (s : State), (∃ t, exec .bringUp s = .next t ∧ Fresh s t ∧
      t = { State.reset with free := s.free, inputs := s.inputs, smaps := s.smaps, fused := s.fused, pages := s.pages, temps := s.temps
                             lanes := s.lanes, ports := s.ports, out := s.out, mem := t.mem, disc := t.disc, hc := t.hc } ∧
      (∀ b, byteAt t.mem b = if 2 ^ 64 ≤ b then byteAt s.mem b else 0) ∧
      t.hc = { Harbour.reset with stages := s.hc.stages, fuse := s.hc.fuse, meas := t.hc.meas, locked := t.hc.locked } ∧
      (t.hc.locked = true ↔ ∃ k img, 0 < k ∧ s.hc.stages[k]? = some img ∧ ¬ Verifies s k img) ∧
      (∀ k img, k < 4 → s.hc.stages[k]? = some img → (∀ j y, 0 < j → j ≤ k → s.hc.stages[j]? = some y → Verifies s j y) →
        t.hc.meas[k]? = some (measured img))) ∧
    (∃ t l, exec .sbResetCold s = .next t ∧ Fresh s t ∧ t.tiles = [] ∧ t.halves = [] ∧ t.chans = [] ∧
      t.out = s.out ++ .sideband 5 [1] :: l))

/-- The side band answers each command: inventory, health, dump information, dump bytes, a quote, an error to an unknown command; after
a failed verification only inventory, health and reset are answered. A key enters a partition's store with a chain or a signature of
the same store; a dump read waits for its channel (R18, R343 to R346; contents the spec leaves open are free bytes, log 25; where the
dump region lies, log 8). -/
def Obligations.TheSideBandAnswersAndKeysAreGuarded : Prop :=
  (∀ (s : State), exec .sbInventory s = .next (send (.sideband 1 (leBytes s.disc.serial 8 ++
    [0x49, 0x4C, 0x4E, 0x2D, 0x4B, 0x59, 0x36, 0x2D, 0x4D, 0x31] ++ s.hc.meas.flatMap (fun m => leBytes m.toNat 32) ++
    (List.range 64).map (discByte s))) s)) ∧
  (∀ (s : State), ∃ t x y, exec .sbHealth s = .next t ∧ x.length = 14 ∧ y.length = 48 ∧ Says s t (.sideband 2 ((List.range 6).map
    (fun d => BitVec.ofNat 8 (tabGet 25 s.temps d)) ++ x ++ y ++ leBytes s.hc.log.length 4)) ∧
    ∀ p k, p < 24 → k < 2 → y[2 * p + k]? = some (BitVec.ofNat 8 (slotCode s p k))) ∧
  (∀ (s : State), s.hc.locked = false →
    ((s.hc.dump = none ∨ ∃ d, s.hc.dump = some d ∧ d.len = 0) →
      exec .sbDumpInfo s = .next (send (.sideband 3 [0, 0, 0, 0, 0, 0, 0, 0, 0, 0]) s) ∧
      exec .sbDumpRead s = .next (send (.sideband 0xFF []) s)) ∧
    (∀ d, s.hc.dump = some d → d.len ≠ 0 →
      exec .sbDumpInfo s = .next (send (.sideband 3 (1 :: BitVec.ofNat 8 d.kind :: leBytes d.len 8)) s) ∧
      (s.ev.b = 0 ∨ 1024 < s.ev.b → exec .sbDumpRead s = .next (send (.sideband 0xFF []) s)) ∧
      (∀ l, 1 ≤ s.ev.b → s.ev.b ≤ 1024 → l = [⟨dumpAt + s.ev.a, min s.ev.b (d.len - s.ev.a), false⟩] →
        (¬ Free s l none → exec .sbDumpRead s = .next (waits s .sbDumpRead l none)) ∧
        (Free s l none → ∃ x, exec .sbDumpRead s = .next (send (.sideband 4 x) s) ∧ x.length = s.ev.b ∧
          ∀ i < s.ev.b, x[i]? = some (if s.ev.a + i < d.len then byteAt s.mem (dumpAt + s.ev.a + i) else 0)))) ∧
    (s.ev.bytes.length = 32 → (∃ b, exec .sbQuote s = .next (send (.sideband 6 b) s) ∧ Quoted s s.ev.bytes b) ∧
      ∃ b, exec .attestationQuote s = .next (send (.quote b) s) ∧ Quoted s s.ev.bytes b) ∧
    exec .sbUnknownCommand s = .next (send (.sideband 0xFF []) s) ∧
    ∃ t x, exec .mctpControlMessage s = .next t ∧ Says s t (.mctp x)) ∧
  (∀ (s : State) (i : Instr), s.hc.locked = true →
    i ∈ [.sbDumpInfo, .sbDumpRead, .sbQuote, .sbUnknownCommand, .mctpControlMessage, .attestationQuote, .keyInstall, .keyRemove] →
    exec i s = .next s) ∧
  (∀ (s : State) (p k : Nat) (ks : Tab (List Byte)), s.hc.locked = false → s.ev.a = p → s.ev.b = k → ks = (partAt s p).keys →
    (p < 24 → k < 8 → Config.chainOk s.ev.bytes s.ev.bytes2 = true ∨ (∃ x ∈ ks, Config.falconVerify x.2 s.ev.bytes s.ev.bytes2 = true) →
      ∃ t, exec .keyInstall s = .next t ∧ t = { s with parts := t.parts } ∧ (∀ q, q ≠ p → partAt t q = partAt s q) ∧
        partAt t p = { partAt s p with keys := (partAt t p).keys } ∧
        ∀ j, tabGet [] (partAt t p).keys j = if j = k then s.ev.bytes else tabGet [] ks j) ∧
    (24 ≤ p ∨ 8 ≤ k ∨ (Config.chainOk s.ev.bytes s.ev.bytes2 = false ∧
      ∀ x ∈ ks, Config.falconVerify x.2 s.ev.bytes s.ev.bytes2 = false) → exec .keyInstall s = .next s) ∧
    ∃ t, exec .keyRemove s = .next t ∧ t = { s with parts := t.parts } ∧ (∀ q, q ≠ p → partAt t q = partAt s q) ∧
      partAt t p = { partAt s p with keys := (partAt t p).keys } ∧ tabGet [] (partAt t p).keys k = [] ∧
      ∀ j, j ≠ k → tabGet [] (partAt t p).keys j = tabGet [] ks j)

/-- Firmware copies the fused lanes of every interface, and VALID is refused where one is no lane; a failing lane makes its interface
invalid until a spare takes its place, and the domain that met it resumes; with no spare left the interface is lost. A host access to the CXL window performs, or waits for a window of its
channel, or finds no region; queue and partition registers read as they stand; flits replay on a CRC error and else deliver their writes
in order and answer their loads, but on a device that is locked; the window maps lines of the anchorage tier; a failed port is not used
again (R18, R245 to R247, R324, R343, R347 to R350). How an event names them is
the model's choice (log 25). -/
def Obligations.LanesAndLinksFailAndRecover : Prop :=
  (∀ (s : State), s.ev.flag = true → ∃ t, exec .shaftRepair s = .next t ∧ t = { s with vreps := t.vreps, hc := t.hc } ∧
    t.hc.restored = true ∧ (∀ k, Copied s k (vrepAt t k)) ∧
    ∀ p ∈ s.fused, (∃ l ∈ p.2, NoLane l) → .badRepair (p.1 / 4) (p.1 % 4) ∈ t.hc.log) ∧
  (∀ (s : State) (sh i lane : Nat) (v : Vrep), s.ev.a = sh → s.ev.b = i → i < 4 → s.ev.c = lane → v = vrepAt s (4 * sh + i) →
    (∃ t, exec .laneTestFail s = .next t ∧ t = { s with vreps := t.vreps, hc := { s.hc with badLanes := s.hc.badLanes ++ [(sh, i, lane)] } } ∧
      vrepAt t (4 * sh + i) = { v with valid := false } ∧ ∀ k, k ≠ 4 * sh + i → vrepAt t k = vrepAt s k) ∧
    (s.ev.flag = false → NoLane lane → ∃ t, exec .shaftRepair s = .next t ∧ t = { s with hc := t.hc } ∧
      t.hc.log = s.hc.log ++ [.badRepair sh i]) ∧
    (∀ n, s.ev.flag = false → lane < 9856 → n < v.lanes.length → v.lanes.getD n 0 = 0x3FFF → (∀ m < n, v.lanes.getD m 0 ≠ 0x3FFF) →
      (∀ x ∈ v.lanes, ¬ NoLane x) → ∃ u, u = { s with vreps := u.vreps, hc := u.hc } ∧
      u.hc.log = s.hc.log ++ [.repaired sh i lane] ∧ u.hc.lost = s.hc.lost ∧ vrepAt u (4 * sh + i) = ⟨true, v.lanes.set n lane⟩ ∧ (∀ k, k ≠ 4 * sh + i → vrepAt u k = vrepAt s k) ∧
      ((∀ d ∈ s.doms.map (·.1), ∀ id ∈ domTiles s d, causeOf (tileOf s id) ≠ 0x14) → exec .shaftRepair s = .next u) ∧
      (∀ d x, s.doms = [(d, x)] → (∃ id ∈ domTiles s d, ∃ j ∈ metShafts id (tileOf s id), shaftKey s j.1 = sh) →
        exec .shaftRepair s = .next (resumeDom u d))) ∧
    (∀ n, s.ev.flag = false → lane < 9856 → n < v.lanes.length → v.lanes.getD n 0 = 0x3FFF → (∀ m < n, v.lanes.getD m 0 ≠ 0x3FFF) →
      (∃ x ∈ v.lanes, NoLane x) → ∃ t, exec .shaftRepair s = .next t ∧ t = { s with vreps := t.vreps, hc := t.hc } ∧
      t.hc.log = s.hc.log ++ [.badRepair sh i] ∧ vrepAt t (4 * sh + i) = ⟨false, v.lanes.set n lane⟩ ∧
      ∀ k, k ≠ 4 * sh + i → vrepAt t k = vrepAt s k) ∧
    (s.ev.flag = false → lane < 9856 → (∀ x ∈ v.lanes, x ≠ 0x3FFF) → ∃ t, exec .shaftRepair s = .next t ∧ t = { s with hc := t.hc } ∧
      t.hc.lost = (sh, i) :: s.hc.lost)) ∧
  (∀ (s : State) (l : List (Nat × Nat × Nat)), s.hc.locked = false → s.ev.a = 11 → l = s.ev.list →
    ((l.map (·.2.2)).sum ≤ 1528 * 2 ^ 30 → (∀ e ∈ l, inDump e.2.1 e.2.2 = false ∧
        ∀ k ∈ linesOf e.2.1 e.2.2, 768 ≤ chanOf (64 * k) ∧ chanOf (64 * k) < 816) →
      exec .registerWrite s = .next { s with hc := { s.hc with window := l } }) ∧
    (1528 * 2 ^ 30 < (l.map (·.2.2)).sum ∨ (∃ e ∈ l, inDump e.2.1 e.2.2 = true ∨
        ∃ k ∈ linesOf e.2.1 e.2.2, chanOf (64 * k) < 768 ∨ 816 ≤ chanOf (64 * k)) → exec .registerWrite s = .next s)) ∧
  (∀ (s : State) (a n : Nat), s.ev.a = a → s.ev.c = 0 → s.hc.locked = false → n = (if s.ev.flag then s.ev.bytes.length else s.ev.b) →
    (windowRun s a n = none → exec .cxlMemAccess s = .next s) ∧
    (∀ p l, windowRun s a n = some p → l = [⟨p, n, s.ev.flag⟩] →
      (¬ Free s l none → exec .cxlMemAccess s = .next (waits s .cxlMemAccess l none)) ∧
      (Free s l none → s.ev.flag = false → exec .cxlMemAccess s = .next { s with out := s.out ++ [.cxlRead a (run s.mem p n)] }) ∧
      (Free s l none → s.ev.flag = true → ∃ m, exec .cxlMemAccess s = .next { s with mem := m, out := s.out ++ [.cxlWriteDone a] } ∧
        ∀ b, byteAt m b = if p ≤ b ∧ b < p + n then s.ev.bytes.getD (b - p) 0 else byteAt s.mem b))) ∧
  (∀ (s : State) (e : Nat × Nat × Nat) (o n : Nat), s.hc.window = [e] → 1 ≤ n →
    (e.1 ≤ o → o + n ≤ e.1 + e.2.2 → windowRun s o n = some (e.2.1 + (o - e.1))) ∧ (o < e.1 ∨ e.1 + e.2.2 < o + n → windowRun s o n = none)) ∧
  (∀ (s : State) (q p v : Nat), s.ev.c = 2 → s.hc.locked = false → q < 256 → p < 24 →
    (s.ev.a = 0x10020 + 0x1000 * q ∧ v = (queueAt s q).tail) ∨ (s.ev.a = 0x10028 + 0x1000 * q ∧ v = (queueAt s q).head) ∨
      (s.ev.a = 0x10030 + 0x1000 * q ∧
        v = (queueAt s q).err % 256 * 256 + (queueAt s q).word % 8 * 4 + (if (queueAt s q).mapped then (queueAt s q).st else 3)) ∨
      (s.ev.a = 0x4000 + 16 * p ∧ v = (partAt s p).pcfg.toNat) ∨ (s.ev.a = 0x4008 + 16 * p ∧ v = (partAt s p).ptroot.toNat) →
    exec .cxlMemAccess s = .next { s with out := s.out ++ [.cxlRead s.ev.a (leBytes v 8)] }) ∧
  (∀ (s : State), (8 ≤ s.ev.a → exec .cxlLaneFail s = .next { s with lanes := 8 }) ∧
    (s.ev.a < 8 → exec .cxlLaneFail s = .next s) ∧
    ∃ t, exec .linkPortFail s = .next t ∧ t = { s with ports := t.ports } ∧ ∀ p, p ∈ t.ports ↔ p ∈ s.ports ∧ p ≠ s.ev.a) ∧
  (∀ (s : State), s.hc.locked = true → exec .linkFlitReceive s = .next s) ∧
  (∀ (s : State), s.hc.locked = false → s.ev.flag = false → exec .linkFlitReceive s = .next { s with out := s.out ++ [.linkReplay s.ev.a] }) ∧
  (∀ (s : State) (l : List Touch), s.hc.locked = false → s.ev.flag = true → (∀ w ∈ s.ev.list, inDump w.1 w.2.2 = false) →
    l = s.ev.list.map (fun w => ⟨w.1, w.2.2, decide (s.ev.c = 0)⟩) →
    (¬ Free s l (some s.ev.b) → exec .linkFlitReceive s = .next (waits s .linkFlitReceive l (some s.ev.b))) ∧
    (Free s l (some s.ev.b) → s.ev.c ≠ 0 → exec .linkFlitReceive s = .next { s with
      out := s.out ++ s.ev.list.map (fun w => .linkData s.ev.b w.2.1 (run s.mem w.1 w.2.2)) }) ∧
    (Free s l (some s.ev.b) → s.ev.c = 0 → ∃ m, exec .linkFlitReceive s = .next { s with mem := m } ∧
      (∀ b, (∀ w ∈ s.ev.list, b < w.1 ∨ w.1 + w.2.2 ≤ b) → byteAt m b = byteAt s.mem b) ∧
      ∀ r a v n b, s.ev.list = r ++ [(a, v, n)] → a ≤ b → b < a + n → byteAt m b = BitVec.ofNat 8 (v / 256 ^ (b - a))))
end

