-- ==== Sys2Proof/Laws/Tab.lean ====
section
/-! SUPPORT. Sparse tables and memories: a read after a write, the canonical form, and what a store of bytes leaves. -/

namespace Sys2Proof.Machine

variable {α : Type}

@[simp] theorem tabGet_nil (d : α) (x : Nat) : tabGet d [] x = d := rfl
@[simp] theorem tabDel_nil (x : Nat) : tabDel ([] : Tab α) x = [] := rfl

theorem tabGet_del_same (d : α) (t : Tab α) (x : Nat) : tabGet d (tabDel t x) x = d := by
  induction t with
  | nil => rfl
  | cons p r ih =>
    obtain ⟨k, v⟩ := p
    by_cases h : k = x
    · simpa [tabDel, h] using ih
    · have : tabDel ((k, v) :: r) x = (k, v) :: tabDel r x := by simp [tabDel, h]
      simp [this, tabGet, h, ih]

theorem tabGet_del_other (d : α) (t : Tab α) {x y : Nat} (h : y ≠ x) : tabGet d (tabDel t x) y = tabGet d t y := by
  induction t with
  | nil => rfl
  | cons p r ih =>
    obtain ⟨k, v⟩ := p
    by_cases hk : k = x
    · have : tabDel ((k, v) :: r) x = tabDel r x := by simp [tabDel, hk]
      rw [this, ih]; simp [tabGet, hk, Ne.symm h]
    · have : tabDel ((k, v) :: r) x = (k, v) :: tabDel r x := by simp [tabDel, hk]
      simp [this, tabGet, ih]

theorem tabGet_put_other (d : α) (t : Tab α) {x y : Nat} (v : α) (h : y ≠ x) :
    tabGet d (tabPut t x v) y = tabGet d t y := by
  induction t with
  | nil => simp [tabPut, tabGet, Ne.symm h]
  | cons p r ih =>
    obtain ⟨k, w⟩ := p
    simp only [tabPut]; split
    · simp [tabGet, Ne.symm h]
    · simp [tabGet, ih]

/-- A key that no entry has. -/
def Fresh (t : Tab α) (x : Nat) : Prop := ∀ p ∈ t, p.1 ≠ x

theorem fresh_del (t : Tab α) (x : Nat) : Fresh (tabDel t x) x := by
  intro p hp; simp [tabDel] at hp; exact hp.2

theorem tabGet_put_same (d : α) (t : Tab α) (x : Nat) (v : α) (h : Fresh t x) : tabGet d (tabPut t x v) x = v := by
  induction t with
  | nil => simp [tabPut, tabGet]
  | cons p r ih =>
    obtain ⟨k, w⟩ := p
    have hk : k ≠ x := h (k, w) (by simp)
    simp only [tabPut]; split
    · simp [tabGet]
    · simp [tabGet, hk, ih (fun q hq => h q (by simp [hq]))]

/-- A read of the key that was written. -/
@[simp] theorem tabGet_set_same [DecidableEq α] (d : α) (t : Tab α) (x : Nat) (v : α) : tabGet d (tabSet d t x v) x = v := by
  unfold tabSet; split
  · next h => rw [tabGet_del_same, h]
  · exact tabGet_put_same d _ x v (fresh_del t x)

/-- A read of another key. -/
theorem tabGet_set_other [DecidableEq α] (d : α) (t : Tab α) {x y : Nat} (v : α) (h : y ≠ x) :
    tabGet d (tabSet d t x v) y = tabGet d t y := by
  unfold tabSet; split
  · exact tabGet_del_other d t h
  · rw [tabGet_put_other d _ v h, tabGet_del_other d t h]

/-! ## The canonical form -/

theorem tabWf_cons [DecidableEq α] (d : α) (k : Nat) (v : α) (r : Tab α) :
    tabWf d ((k, v) :: r) = true ↔ v ≠ d ∧ (∀ p ∈ r, k < p.1) ∧ tabWf d r = true := by
  induction r generalizing k v with
  | nil => simp [tabWf]
  | cons p r ih =>
    obtain ⟨k', v'⟩ := p
    have hc := ih k' v'
    simp only [tabWf, Bool.and_eq_true, bne_iff_ne, ne_eq, decide_eq_true_eq]
    constructor
    · rintro ⟨⟨h1, h2⟩, h3⟩
      refine ⟨h1, ?_, h3⟩
      intro p hp
      rcases List.mem_cons.1 hp with rfl | hp
      · exact h2
      · exact Nat.lt_trans h2 ((hc.1 h3).2.1 p hp)
    · rintro ⟨h1, h2, h3⟩
      exact ⟨⟨h1, h2 (k', v') (by simp)⟩, h3⟩

theorem tabWf_del [DecidableEq α] (d : α) (t : Tab α) (x : Nat) (h : tabWf d t = true) : tabWf d (tabDel t x) = true := by
  induction t with
  | nil => rfl
  | cons p r ih =>
    obtain ⟨k, v⟩ := p
    obtain ⟨h1, h2, h3⟩ := (tabWf_cons d k v r).1 h
    by_cases hk : k = x
    · have : tabDel ((k, v) :: r) x = tabDel r x := by simp [tabDel, hk]
      rw [this]; exact ih h3
    · have : tabDel ((k, v) :: r) x = (k, v) :: tabDel r x := by simp [tabDel, hk]
      rw [this, tabWf_cons]
      refine ⟨h1, ?_, ih h3⟩
      intro p hp; simp only [tabDel, List.mem_filter] at hp; exact h2 p hp.1

theorem mem_tabPut (t : Tab α) (x : Nat) (v : α) (p : Nat × α) : p ∈ tabPut t x v ↔ p = (x, v) ∨ p ∈ t := by
  induction t with
  | nil => simp [tabPut]
  | cons q r ih =>
    obtain ⟨k, w⟩ := q
    simp only [tabPut]; split
    · simp
    · simp only [List.mem_cons, ih]; tauto

theorem tabWf_put [DecidableEq α] (d : α) (t : Tab α) (x : Nat) (v : α) (hv : v ≠ d) (hf : Fresh t x)
    (h : tabWf d t = true) : tabWf d (tabPut t x v) = true := by
  induction t with
  | nil => simp [tabPut, tabWf, hv]
  | cons p r ih =>
    obtain ⟨k, w⟩ := p
    obtain ⟨h1, h2, h3⟩ := (tabWf_cons d k w r).1 h
    have hk : k ≠ x := hf (k, w) (by simp)
    simp only [tabPut]; split
    · next hx =>
      rw [tabWf_cons]
      refine ⟨hv, ?_, h⟩
      intro p hp
      rcases List.mem_cons.1 hp with rfl | hp
      · exact hx
      · exact Nat.lt_trans hx (h2 p hp)
    · next hx =>
      rw [tabWf_cons]
      refine ⟨h1, ?_, ih (fun q hq => hf q (by simp [hq])) h3⟩
      intro p hp
      rcases (mem_tabPut r x v p).1 hp with rfl | hp
      · simp; omega
      · exact h2 p hp

/-- Every write keeps the canonical form. -/
theorem tabWf_set [DecidableEq α] (d : α) (t : Tab α) (x : Nat) (v : α) (h : tabWf d t = true) :
    tabWf d (tabSet d t x v) = true := by
  unfold tabSet; split
  · exact tabWf_del d t x h
  · next hv => exact tabWf_put d _ x v hv (fresh_del t x) (tabWf_del d t x h)

/-! ## Bytes -/

@[simp] theorem byteAt_set_same (m : Memory) (a : Nat) (b : Byte) : byteAt (setByte m a b) a = b :=
  tabGet_set_same emptyByte m a b
theorem byteAt_set_other (m : Memory) {a c : Nat} (b : Byte) (h : c ≠ a) : byteAt (setByte m a b) c = byteAt m c :=
  tabGet_set_other emptyByte m b h
theorem wf_setByte (m : Memory) (a : Nat) (b : Byte) (h : m.wf = true) : (setByte m a b).wf = true :=
  tabWf_set emptyByte m a b h

theorem wf_storeLE (m : Memory) (a v n : Nat) (h : m.wf = true) : (storeLE m a v n).wf = true := by
  induction n with
  | zero => exact h
  | succ n ih => exact wf_setByte _ _ _ ih

theorem wf_storeBytes (m : Memory) (a : Nat) (l : List Byte) (h : m.wf = true) : (storeBytes m a l).wf = true := by
  induction l generalizing m a with
  | nil => exact h
  | cons b r ih => exact ih _ _ (wf_setByte m a b h)

/-- A store leaves every byte outside its n bytes. -/
theorem byteAt_storeLE_out (m : Memory) (a v n c : Nat) (h : c < a ∨ a + n ≤ c) : byteAt (storeLE m a v n) c = byteAt m c := by
  induction n with
  | zero => rfl
  | succ n ih =>
    rw [storeLE, byteAt_set_other _ _ (by omega)]
    exact ih (by omega)

/-- Byte i of a store, the lowest first (R3). -/
theorem byteAt_storeLE_in (m : Memory) (a v n i : Nat) (h : i < n) :
    byteAt (storeLE m a v n) (a + i) = BitVec.ofNat 8 (v / 256 ^ i) := by
  induction n with
  | zero => omega
  | succ n ih =>
    rw [storeLE]
    by_cases hi : i = n
    · subst hi; simp
    · rw [byteAt_set_other _ _ (by omega)]; exact ih (by omega)

theorem byteAt_storeBytes_out (m : Memory) (a : Nat) (l : List Byte) (c : Nat) (h : c < a ∨ a + l.length ≤ c) :
    byteAt (storeBytes m a l) c = byteAt m c := by
  induction l generalizing m a with
  | nil => rfl
  | cons b r ih =>
    simp only [List.length_cons] at h
    rw [storeBytes, ih _ _ (by omega), byteAt_set_other _ _ (by omega)]

theorem byteAt_storeBytes_in (m : Memory) (a : Nat) (l : List Byte) (i : Nat) (h : i < l.length) :
    byteAt (storeBytes m a l) (a + i) = l[i] := by
  induction l generalizing m a i with
  | nil => simp at h
  | cons b r ih =>
    rw [storeBytes]
    cases i with
    | zero => rw [byteAt_storeBytes_out _ _ _ _ (by omega)]; simp
    | succ i =>
      have := ih (setByte m a b) (a + 1) i (by simpa using h)
      simpa [Nat.add_assoc, Nat.add_comm 1 i] using this

/-- What n bytes read as after they were stored. -/
theorem loadLE_storeLE (m : Memory) (a v n : Nat) : loadLE (storeLE m a v n) a n = v % 256 ^ n := by
  have key : ∀ k, k ≤ n → loadLE (storeLE m a v n) a k = v % 256 ^ k := by
    intro k
    induction k with
    | zero => intro _; simp [loadLE, Nat.mod_one]
    | succ k ih =>
      intro hk
      have h8 : (2 : Nat) ^ 8 = 256 := by norm_num
      rw [loadLE, ih (by omega), byteAt_storeLE_in _ _ _ _ _ (by omega), BitVec.toNat_ofNat, h8, Nat.pow_succ,
        Nat.mod_mul (x := v) (a := 256 ^ k) (b := 256), Nat.mul_comm]
  exact key n (Nat.le_refl n)

end Sys2Proof.Machine
end

