-- ==== Sys2Proof/Laws/State.lean ====
section
/-! SUPPORT. What each named update leaves of the state: one lemma per field. -/

namespace Sys2Proof.Machine

variable (s : State)

/-! ## setTile changes tiles only -/

@[simp] theorem setTile_cur (k : Nat) (x : Tile) : (setTile s k x).cur = s.cur := rfl
@[simp] theorem setTile_pipe (k : Nat) (x : Tile) : (setTile s k x).pipe = s.pipe := rfl
@[simp] theorem setTile_ev (k : Nat) (x : Tile) : (setTile s k x).ev = s.ev := rfl
@[simp] theorem setTile_free (k : Nat) (x : Tile) : (setTile s k x).free = s.free := rfl
@[simp] theorem setTile_agenda (k : Nat) (x : Tile) : (setTile s k x).agenda = s.agenda := rfl
@[simp] theorem setTile_inputs (k : Nat) (x : Tile) : (setTile s k x).inputs = s.inputs := rfl
@[simp] theorem setTile_waiting (k : Nat) (x : Tile) : (setTile s k x).waiting = s.waiting := rfl
@[simp] theorem setTile_nwait (k : Nat) (x : Tile) : (setTile s k x).nwait = s.nwait := rfl
@[simp] theorem setTile_grants (k : Nat) (x : Tile) : (setTile s k x).grants = s.grants := rfl
@[simp] theorem setTile_ckpt (k : Nat) (x : Tile) : (setTile s k x).ckpt = s.ckpt := rfl
@[simp] theorem setTile_halves (k : Nat) (x : Tile) : (setTile s k x).halves = s.halves := rfl
@[simp] theorem setTile_vreps (k : Nat) (x : Tile) : (setTile s k x).vreps = s.vreps := rfl
@[simp] theorem setTile_fused (k : Nat) (x : Tile) : (setTile s k x).fused = s.fused := rfl
@[simp] theorem setTile_smaps (k : Nat) (x : Tile) : (setTile s k x).smaps = s.smaps := rfl
@[simp] theorem setTile_chans (k : Nat) (x : Tile) : (setTile s k x).chans = s.chans := rfl
@[simp] theorem setTile_mem (k : Nat) (x : Tile) : (setTile s k x).mem = s.mem := rfl
@[simp] theorem setTile_pages (k : Nat) (x : Tile) : (setTile s k x).pages = s.pages := rfl
@[simp] theorem setTile_caches (k : Nat) (x : Tile) : (setTile s k x).caches = s.caches := rfl
@[simp] theorem setTile_tts (k : Nat) (x : Tile) : (setTile s k x).tts = s.tts := rfl
@[simp] theorem setTile_doms (k : Nat) (x : Tile) : (setTile s k x).doms = s.doms := rfl
@[simp] theorem setTile_eps (k : Nat) (x : Tile) : (setTile s k x).eps = s.eps := rfl
@[simp] theorem setTile_snaps (k : Nat) (x : Tile) : (setTile s k x).snaps = s.snaps := rfl
@[simp] theorem setTile_disc (k : Nat) (x : Tile) : (setTile s k x).disc = s.disc := rfl
@[simp] theorem setTile_queues (k : Nat) (x : Tile) : (setTile s k x).queues = s.queues := rfl
@[simp] theorem setTile_parts (k : Nat) (x : Tile) : (setTile s k x).parts = s.parts := rfl
@[simp] theorem setTile_moves (k : Nat) (x : Tile) : (setTile s k x).moves = s.moves := rfl
@[simp] theorem setTile_hc (k : Nat) (x : Tile) : (setTile s k x).hc = s.hc := rfl
@[simp] theorem setTile_temps (k : Nat) (x : Tile) : (setTile s k x).temps = s.temps := rfl
@[simp] theorem setTile_exchs (k : Nat) (x : Tile) : (setTile s k x).exchs = s.exchs := rfl
@[simp] theorem setTile_ecc (k : Nat) (x : Tile) : (setTile s k x).ecc = s.ecc := rfl
@[simp] theorem setTile_wallNs (k : Nat) (x : Tile) : (setTile s k x).wallNs = s.wallNs := rfl
@[simp] theorem setTile_lanes (k : Nat) (x : Tile) : (setTile s k x).lanes = s.lanes := rfl
@[simp] theorem setTile_ports (k : Nat) (x : Tile) : (setTile s k x).ports = s.ports := rfl
@[simp] theorem setTile_routes (k : Nat) (x : Tile) : (setTile s k x).routes = s.routes := rfl
@[simp] theorem setTile_out (k : Nat) (x : Tile) : (setTile s k x).out = s.out := rfl

/-! ## setHalf changes halves only -/

@[simp] theorem setHalf_cur (k : Nat) (x : Half) : (setHalf s k x).cur = s.cur := rfl
@[simp] theorem setHalf_pipe (k : Nat) (x : Half) : (setHalf s k x).pipe = s.pipe := rfl
@[simp] theorem setHalf_ev (k : Nat) (x : Half) : (setHalf s k x).ev = s.ev := rfl
@[simp] theorem setHalf_free (k : Nat) (x : Half) : (setHalf s k x).free = s.free := rfl
@[simp] theorem setHalf_agenda (k : Nat) (x : Half) : (setHalf s k x).agenda = s.agenda := rfl
@[simp] theorem setHalf_inputs (k : Nat) (x : Half) : (setHalf s k x).inputs = s.inputs := rfl
@[simp] theorem setHalf_waiting (k : Nat) (x : Half) : (setHalf s k x).waiting = s.waiting := rfl
@[simp] theorem setHalf_nwait (k : Nat) (x : Half) : (setHalf s k x).nwait = s.nwait := rfl
@[simp] theorem setHalf_grants (k : Nat) (x : Half) : (setHalf s k x).grants = s.grants := rfl
@[simp] theorem setHalf_ckpt (k : Nat) (x : Half) : (setHalf s k x).ckpt = s.ckpt := rfl
@[simp] theorem setHalf_tiles (k : Nat) (x : Half) : (setHalf s k x).tiles = s.tiles := rfl
@[simp] theorem setHalf_vreps (k : Nat) (x : Half) : (setHalf s k x).vreps = s.vreps := rfl
@[simp] theorem setHalf_fused (k : Nat) (x : Half) : (setHalf s k x).fused = s.fused := rfl
@[simp] theorem setHalf_smaps (k : Nat) (x : Half) : (setHalf s k x).smaps = s.smaps := rfl
@[simp] theorem setHalf_chans (k : Nat) (x : Half) : (setHalf s k x).chans = s.chans := rfl
@[simp] theorem setHalf_mem (k : Nat) (x : Half) : (setHalf s k x).mem = s.mem := rfl
@[simp] theorem setHalf_pages (k : Nat) (x : Half) : (setHalf s k x).pages = s.pages := rfl
@[simp] theorem setHalf_caches (k : Nat) (x : Half) : (setHalf s k x).caches = s.caches := rfl
@[simp] theorem setHalf_tts (k : Nat) (x : Half) : (setHalf s k x).tts = s.tts := rfl
@[simp] theorem setHalf_doms (k : Nat) (x : Half) : (setHalf s k x).doms = s.doms := rfl
@[simp] theorem setHalf_eps (k : Nat) (x : Half) : (setHalf s k x).eps = s.eps := rfl
@[simp] theorem setHalf_snaps (k : Nat) (x : Half) : (setHalf s k x).snaps = s.snaps := rfl
@[simp] theorem setHalf_disc (k : Nat) (x : Half) : (setHalf s k x).disc = s.disc := rfl
@[simp] theorem setHalf_queues (k : Nat) (x : Half) : (setHalf s k x).queues = s.queues := rfl
@[simp] theorem setHalf_parts (k : Nat) (x : Half) : (setHalf s k x).parts = s.parts := rfl
@[simp] theorem setHalf_moves (k : Nat) (x : Half) : (setHalf s k x).moves = s.moves := rfl
@[simp] theorem setHalf_hc (k : Nat) (x : Half) : (setHalf s k x).hc = s.hc := rfl
@[simp] theorem setHalf_temps (k : Nat) (x : Half) : (setHalf s k x).temps = s.temps := rfl
@[simp] theorem setHalf_exchs (k : Nat) (x : Half) : (setHalf s k x).exchs = s.exchs := rfl
@[simp] theorem setHalf_ecc (k : Nat) (x : Half) : (setHalf s k x).ecc = s.ecc := rfl
@[simp] theorem setHalf_wallNs (k : Nat) (x : Half) : (setHalf s k x).wallNs = s.wallNs := rfl
@[simp] theorem setHalf_lanes (k : Nat) (x : Half) : (setHalf s k x).lanes = s.lanes := rfl
@[simp] theorem setHalf_ports (k : Nat) (x : Half) : (setHalf s k x).ports = s.ports := rfl
@[simp] theorem setHalf_routes (k : Nat) (x : Half) : (setHalf s k x).routes = s.routes := rfl
@[simp] theorem setHalf_out (k : Nat) (x : Half) : (setHalf s k x).out = s.out := rfl

/-! ## setChan changes chans only -/

@[simp] theorem setChan_cur (k : Nat) (x : Chan) : (setChan s k x).cur = s.cur := rfl
@[simp] theorem setChan_pipe (k : Nat) (x : Chan) : (setChan s k x).pipe = s.pipe := rfl
@[simp] theorem setChan_ev (k : Nat) (x : Chan) : (setChan s k x).ev = s.ev := rfl
@[simp] theorem setChan_free (k : Nat) (x : Chan) : (setChan s k x).free = s.free := rfl
@[simp] theorem setChan_agenda (k : Nat) (x : Chan) : (setChan s k x).agenda = s.agenda := rfl
@[simp] theorem setChan_inputs (k : Nat) (x : Chan) : (setChan s k x).inputs = s.inputs := rfl
@[simp] theorem setChan_waiting (k : Nat) (x : Chan) : (setChan s k x).waiting = s.waiting := rfl
@[simp] theorem setChan_nwait (k : Nat) (x : Chan) : (setChan s k x).nwait = s.nwait := rfl
@[simp] theorem setChan_grants (k : Nat) (x : Chan) : (setChan s k x).grants = s.grants := rfl
@[simp] theorem setChan_ckpt (k : Nat) (x : Chan) : (setChan s k x).ckpt = s.ckpt := rfl
@[simp] theorem setChan_tiles (k : Nat) (x : Chan) : (setChan s k x).tiles = s.tiles := rfl
@[simp] theorem setChan_halves (k : Nat) (x : Chan) : (setChan s k x).halves = s.halves := rfl
@[simp] theorem setChan_vreps (k : Nat) (x : Chan) : (setChan s k x).vreps = s.vreps := rfl
@[simp] theorem setChan_fused (k : Nat) (x : Chan) : (setChan s k x).fused = s.fused := rfl
@[simp] theorem setChan_smaps (k : Nat) (x : Chan) : (setChan s k x).smaps = s.smaps := rfl
@[simp] theorem setChan_mem (k : Nat) (x : Chan) : (setChan s k x).mem = s.mem := rfl
@[simp] theorem setChan_pages (k : Nat) (x : Chan) : (setChan s k x).pages = s.pages := rfl
@[simp] theorem setChan_caches (k : Nat) (x : Chan) : (setChan s k x).caches = s.caches := rfl
@[simp] theorem setChan_tts (k : Nat) (x : Chan) : (setChan s k x).tts = s.tts := rfl
@[simp] theorem setChan_doms (k : Nat) (x : Chan) : (setChan s k x).doms = s.doms := rfl
@[simp] theorem setChan_eps (k : Nat) (x : Chan) : (setChan s k x).eps = s.eps := rfl
@[simp] theorem setChan_snaps (k : Nat) (x : Chan) : (setChan s k x).snaps = s.snaps := rfl
@[simp] theorem setChan_disc (k : Nat) (x : Chan) : (setChan s k x).disc = s.disc := rfl
@[simp] theorem setChan_queues (k : Nat) (x : Chan) : (setChan s k x).queues = s.queues := rfl
@[simp] theorem setChan_parts (k : Nat) (x : Chan) : (setChan s k x).parts = s.parts := rfl
@[simp] theorem setChan_moves (k : Nat) (x : Chan) : (setChan s k x).moves = s.moves := rfl
@[simp] theorem setChan_hc (k : Nat) (x : Chan) : (setChan s k x).hc = s.hc := rfl
@[simp] theorem setChan_temps (k : Nat) (x : Chan) : (setChan s k x).temps = s.temps := rfl
@[simp] theorem setChan_exchs (k : Nat) (x : Chan) : (setChan s k x).exchs = s.exchs := rfl
@[simp] theorem setChan_ecc (k : Nat) (x : Chan) : (setChan s k x).ecc = s.ecc := rfl
@[simp] theorem setChan_wallNs (k : Nat) (x : Chan) : (setChan s k x).wallNs = s.wallNs := rfl
@[simp] theorem setChan_lanes (k : Nat) (x : Chan) : (setChan s k x).lanes = s.lanes := rfl
@[simp] theorem setChan_ports (k : Nat) (x : Chan) : (setChan s k x).ports = s.ports := rfl
@[simp] theorem setChan_routes (k : Nat) (x : Chan) : (setChan s k x).routes = s.routes := rfl
@[simp] theorem setChan_out (k : Nat) (x : Chan) : (setChan s k x).out = s.out := rfl

/-! ## setTt changes tts only -/

@[simp] theorem setTt_cur (k : Nat) (x : TT) : (setTt s k x).cur = s.cur := rfl
@[simp] theorem setTt_pipe (k : Nat) (x : TT) : (setTt s k x).pipe = s.pipe := rfl
@[simp] theorem setTt_ev (k : Nat) (x : TT) : (setTt s k x).ev = s.ev := rfl
@[simp] theorem setTt_free (k : Nat) (x : TT) : (setTt s k x).free = s.free := rfl
@[simp] theorem setTt_agenda (k : Nat) (x : TT) : (setTt s k x).agenda = s.agenda := rfl
@[simp] theorem setTt_inputs (k : Nat) (x : TT) : (setTt s k x).inputs = s.inputs := rfl
@[simp] theorem setTt_waiting (k : Nat) (x : TT) : (setTt s k x).waiting = s.waiting := rfl
@[simp] theorem setTt_nwait (k : Nat) (x : TT) : (setTt s k x).nwait = s.nwait := rfl
@[simp] theorem setTt_grants (k : Nat) (x : TT) : (setTt s k x).grants = s.grants := rfl
@[simp] theorem setTt_ckpt (k : Nat) (x : TT) : (setTt s k x).ckpt = s.ckpt := rfl
@[simp] theorem setTt_tiles (k : Nat) (x : TT) : (setTt s k x).tiles = s.tiles := rfl
@[simp] theorem setTt_halves (k : Nat) (x : TT) : (setTt s k x).halves = s.halves := rfl
@[simp] theorem setTt_vreps (k : Nat) (x : TT) : (setTt s k x).vreps = s.vreps := rfl
@[simp] theorem setTt_fused (k : Nat) (x : TT) : (setTt s k x).fused = s.fused := rfl
@[simp] theorem setTt_smaps (k : Nat) (x : TT) : (setTt s k x).smaps = s.smaps := rfl
@[simp] theorem setTt_chans (k : Nat) (x : TT) : (setTt s k x).chans = s.chans := rfl
@[simp] theorem setTt_mem (k : Nat) (x : TT) : (setTt s k x).mem = s.mem := rfl
@[simp] theorem setTt_pages (k : Nat) (x : TT) : (setTt s k x).pages = s.pages := rfl
@[simp] theorem setTt_caches (k : Nat) (x : TT) : (setTt s k x).caches = s.caches := rfl
@[simp] theorem setTt_doms (k : Nat) (x : TT) : (setTt s k x).doms = s.doms := rfl
@[simp] theorem setTt_eps (k : Nat) (x : TT) : (setTt s k x).eps = s.eps := rfl
@[simp] theorem setTt_snaps (k : Nat) (x : TT) : (setTt s k x).snaps = s.snaps := rfl
@[simp] theorem setTt_disc (k : Nat) (x : TT) : (setTt s k x).disc = s.disc := rfl
@[simp] theorem setTt_queues (k : Nat) (x : TT) : (setTt s k x).queues = s.queues := rfl
@[simp] theorem setTt_parts (k : Nat) (x : TT) : (setTt s k x).parts = s.parts := rfl
@[simp] theorem setTt_moves (k : Nat) (x : TT) : (setTt s k x).moves = s.moves := rfl
@[simp] theorem setTt_hc (k : Nat) (x : TT) : (setTt s k x).hc = s.hc := rfl
@[simp] theorem setTt_temps (k : Nat) (x : TT) : (setTt s k x).temps = s.temps := rfl
@[simp] theorem setTt_exchs (k : Nat) (x : TT) : (setTt s k x).exchs = s.exchs := rfl
@[simp] theorem setTt_ecc (k : Nat) (x : TT) : (setTt s k x).ecc = s.ecc := rfl
@[simp] theorem setTt_wallNs (k : Nat) (x : TT) : (setTt s k x).wallNs = s.wallNs := rfl
@[simp] theorem setTt_lanes (k : Nat) (x : TT) : (setTt s k x).lanes = s.lanes := rfl
@[simp] theorem setTt_ports (k : Nat) (x : TT) : (setTt s k x).ports = s.ports := rfl
@[simp] theorem setTt_routes (k : Nat) (x : TT) : (setTt s k x).routes = s.routes := rfl
@[simp] theorem setTt_out (k : Nat) (x : TT) : (setTt s k x).out = s.out := rfl

/-! ## setDom changes doms only -/

@[simp] theorem setDom_cur (k : Nat) (x : Dom) : (setDom s k x).cur = s.cur := rfl
@[simp] theorem setDom_pipe (k : Nat) (x : Dom) : (setDom s k x).pipe = s.pipe := rfl
@[simp] theorem setDom_ev (k : Nat) (x : Dom) : (setDom s k x).ev = s.ev := rfl
@[simp] theorem setDom_free (k : Nat) (x : Dom) : (setDom s k x).free = s.free := rfl
@[simp] theorem setDom_agenda (k : Nat) (x : Dom) : (setDom s k x).agenda = s.agenda := rfl
@[simp] theorem setDom_inputs (k : Nat) (x : Dom) : (setDom s k x).inputs = s.inputs := rfl
@[simp] theorem setDom_waiting (k : Nat) (x : Dom) : (setDom s k x).waiting = s.waiting := rfl
@[simp] theorem setDom_nwait (k : Nat) (x : Dom) : (setDom s k x).nwait = s.nwait := rfl
@[simp] theorem setDom_grants (k : Nat) (x : Dom) : (setDom s k x).grants = s.grants := rfl
@[simp] theorem setDom_ckpt (k : Nat) (x : Dom) : (setDom s k x).ckpt = s.ckpt := rfl
@[simp] theorem setDom_tiles (k : Nat) (x : Dom) : (setDom s k x).tiles = s.tiles := rfl
@[simp] theorem setDom_halves (k : Nat) (x : Dom) : (setDom s k x).halves = s.halves := rfl
@[simp] theorem setDom_vreps (k : Nat) (x : Dom) : (setDom s k x).vreps = s.vreps := rfl
@[simp] theorem setDom_fused (k : Nat) (x : Dom) : (setDom s k x).fused = s.fused := rfl
@[simp] theorem setDom_smaps (k : Nat) (x : Dom) : (setDom s k x).smaps = s.smaps := rfl
@[simp] theorem setDom_chans (k : Nat) (x : Dom) : (setDom s k x).chans = s.chans := rfl
@[simp] theorem setDom_mem (k : Nat) (x : Dom) : (setDom s k x).mem = s.mem := rfl
@[simp] theorem setDom_pages (k : Nat) (x : Dom) : (setDom s k x).pages = s.pages := rfl
@[simp] theorem setDom_caches (k : Nat) (x : Dom) : (setDom s k x).caches = s.caches := rfl
@[simp] theorem setDom_tts (k : Nat) (x : Dom) : (setDom s k x).tts = s.tts := rfl
@[simp] theorem setDom_eps (k : Nat) (x : Dom) : (setDom s k x).eps = s.eps := rfl
@[simp] theorem setDom_snaps (k : Nat) (x : Dom) : (setDom s k x).snaps = s.snaps := rfl
@[simp] theorem setDom_disc (k : Nat) (x : Dom) : (setDom s k x).disc = s.disc := rfl
@[simp] theorem setDom_queues (k : Nat) (x : Dom) : (setDom s k x).queues = s.queues := rfl
@[simp] theorem setDom_parts (k : Nat) (x : Dom) : (setDom s k x).parts = s.parts := rfl
@[simp] theorem setDom_moves (k : Nat) (x : Dom) : (setDom s k x).moves = s.moves := rfl
@[simp] theorem setDom_hc (k : Nat) (x : Dom) : (setDom s k x).hc = s.hc := rfl
@[simp] theorem setDom_temps (k : Nat) (x : Dom) : (setDom s k x).temps = s.temps := rfl
@[simp] theorem setDom_exchs (k : Nat) (x : Dom) : (setDom s k x).exchs = s.exchs := rfl
@[simp] theorem setDom_ecc (k : Nat) (x : Dom) : (setDom s k x).ecc = s.ecc := rfl
@[simp] theorem setDom_wallNs (k : Nat) (x : Dom) : (setDom s k x).wallNs = s.wallNs := rfl
@[simp] theorem setDom_lanes (k : Nat) (x : Dom) : (setDom s k x).lanes = s.lanes := rfl
@[simp] theorem setDom_ports (k : Nat) (x : Dom) : (setDom s k x).ports = s.ports := rfl
@[simp] theorem setDom_routes (k : Nat) (x : Dom) : (setDom s k x).routes = s.routes := rfl
@[simp] theorem setDom_out (k : Nat) (x : Dom) : (setDom s k x).out = s.out := rfl

/-! ## setQueue changes queues only -/

@[simp] theorem setQueue_cur (k : Nat) (x : Queue) : (setQueue s k x).cur = s.cur := rfl
@[simp] theorem setQueue_pipe (k : Nat) (x : Queue) : (setQueue s k x).pipe = s.pipe := rfl
@[simp] theorem setQueue_ev (k : Nat) (x : Queue) : (setQueue s k x).ev = s.ev := rfl
@[simp] theorem setQueue_free (k : Nat) (x : Queue) : (setQueue s k x).free = s.free := rfl
@[simp] theorem setQueue_agenda (k : Nat) (x : Queue) : (setQueue s k x).agenda = s.agenda := rfl
@[simp] theorem setQueue_inputs (k : Nat) (x : Queue) : (setQueue s k x).inputs = s.inputs := rfl
@[simp] theorem setQueue_waiting (k : Nat) (x : Queue) : (setQueue s k x).waiting = s.waiting := rfl
@[simp] theorem setQueue_nwait (k : Nat) (x : Queue) : (setQueue s k x).nwait = s.nwait := rfl
@[simp] theorem setQueue_grants (k : Nat) (x : Queue) : (setQueue s k x).grants = s.grants := rfl
@[simp] theorem setQueue_ckpt (k : Nat) (x : Queue) : (setQueue s k x).ckpt = s.ckpt := rfl
@[simp] theorem setQueue_tiles (k : Nat) (x : Queue) : (setQueue s k x).tiles = s.tiles := rfl
@[simp] theorem setQueue_halves (k : Nat) (x : Queue) : (setQueue s k x).halves = s.halves := rfl
@[simp] theorem setQueue_vreps (k : Nat) (x : Queue) : (setQueue s k x).vreps = s.vreps := rfl
@[simp] theorem setQueue_fused (k : Nat) (x : Queue) : (setQueue s k x).fused = s.fused := rfl
@[simp] theorem setQueue_smaps (k : Nat) (x : Queue) : (setQueue s k x).smaps = s.smaps := rfl
@[simp] theorem setQueue_chans (k : Nat) (x : Queue) : (setQueue s k x).chans = s.chans := rfl
@[simp] theorem setQueue_mem (k : Nat) (x : Queue) : (setQueue s k x).mem = s.mem := rfl
@[simp] theorem setQueue_pages (k : Nat) (x : Queue) : (setQueue s k x).pages = s.pages := rfl
@[simp] theorem setQueue_caches (k : Nat) (x : Queue) : (setQueue s k x).caches = s.caches := rfl
@[simp] theorem setQueue_tts (k : Nat) (x : Queue) : (setQueue s k x).tts = s.tts := rfl
@[simp] theorem setQueue_doms (k : Nat) (x : Queue) : (setQueue s k x).doms = s.doms := rfl
@[simp] theorem setQueue_eps (k : Nat) (x : Queue) : (setQueue s k x).eps = s.eps := rfl
@[simp] theorem setQueue_snaps (k : Nat) (x : Queue) : (setQueue s k x).snaps = s.snaps := rfl
@[simp] theorem setQueue_disc (k : Nat) (x : Queue) : (setQueue s k x).disc = s.disc := rfl
@[simp] theorem setQueue_parts (k : Nat) (x : Queue) : (setQueue s k x).parts = s.parts := rfl
@[simp] theorem setQueue_moves (k : Nat) (x : Queue) : (setQueue s k x).moves = s.moves := rfl
@[simp] theorem setQueue_hc (k : Nat) (x : Queue) : (setQueue s k x).hc = s.hc := rfl
@[simp] theorem setQueue_temps (k : Nat) (x : Queue) : (setQueue s k x).temps = s.temps := rfl
@[simp] theorem setQueue_exchs (k : Nat) (x : Queue) : (setQueue s k x).exchs = s.exchs := rfl
@[simp] theorem setQueue_ecc (k : Nat) (x : Queue) : (setQueue s k x).ecc = s.ecc := rfl
@[simp] theorem setQueue_wallNs (k : Nat) (x : Queue) : (setQueue s k x).wallNs = s.wallNs := rfl
@[simp] theorem setQueue_lanes (k : Nat) (x : Queue) : (setQueue s k x).lanes = s.lanes := rfl
@[simp] theorem setQueue_ports (k : Nat) (x : Queue) : (setQueue s k x).ports = s.ports := rfl
@[simp] theorem setQueue_routes (k : Nat) (x : Queue) : (setQueue s k x).routes = s.routes := rfl
@[simp] theorem setQueue_out (k : Nat) (x : Queue) : (setQueue s k x).out = s.out := rfl

/-! ## setPart changes parts only -/

@[simp] theorem setPart_cur (k : Nat) (x : Partn) : (setPart s k x).cur = s.cur := rfl
@[simp] theorem setPart_pipe (k : Nat) (x : Partn) : (setPart s k x).pipe = s.pipe := rfl
@[simp] theorem setPart_ev (k : Nat) (x : Partn) : (setPart s k x).ev = s.ev := rfl
@[simp] theorem setPart_free (k : Nat) (x : Partn) : (setPart s k x).free = s.free := rfl
@[simp] theorem setPart_agenda (k : Nat) (x : Partn) : (setPart s k x).agenda = s.agenda := rfl
@[simp] theorem setPart_inputs (k : Nat) (x : Partn) : (setPart s k x).inputs = s.inputs := rfl
@[simp] theorem setPart_waiting (k : Nat) (x : Partn) : (setPart s k x).waiting = s.waiting := rfl
@[simp] theorem setPart_nwait (k : Nat) (x : Partn) : (setPart s k x).nwait = s.nwait := rfl
@[simp] theorem setPart_grants (k : Nat) (x : Partn) : (setPart s k x).grants = s.grants := rfl
@[simp] theorem setPart_ckpt (k : Nat) (x : Partn) : (setPart s k x).ckpt = s.ckpt := rfl
@[simp] theorem setPart_tiles (k : Nat) (x : Partn) : (setPart s k x).tiles = s.tiles := rfl
@[simp] theorem setPart_halves (k : Nat) (x : Partn) : (setPart s k x).halves = s.halves := rfl
@[simp] theorem setPart_vreps (k : Nat) (x : Partn) : (setPart s k x).vreps = s.vreps := rfl
@[simp] theorem setPart_fused (k : Nat) (x : Partn) : (setPart s k x).fused = s.fused := rfl
@[simp] theorem setPart_smaps (k : Nat) (x : Partn) : (setPart s k x).smaps = s.smaps := rfl
@[simp] theorem setPart_chans (k : Nat) (x : Partn) : (setPart s k x).chans = s.chans := rfl
@[simp] theorem setPart_mem (k : Nat) (x : Partn) : (setPart s k x).mem = s.mem := rfl
@[simp] theorem setPart_pages (k : Nat) (x : Partn) : (setPart s k x).pages = s.pages := rfl
@[simp] theorem setPart_caches (k : Nat) (x : Partn) : (setPart s k x).caches = s.caches := rfl
@[simp] theorem setPart_tts (k : Nat) (x : Partn) : (setPart s k x).tts = s.tts := rfl
@[simp] theorem setPart_doms (k : Nat) (x : Partn) : (setPart s k x).doms = s.doms := rfl
@[simp] theorem setPart_eps (k : Nat) (x : Partn) : (setPart s k x).eps = s.eps := rfl
@[simp] theorem setPart_snaps (k : Nat) (x : Partn) : (setPart s k x).snaps = s.snaps := rfl
@[simp] theorem setPart_disc (k : Nat) (x : Partn) : (setPart s k x).disc = s.disc := rfl
@[simp] theorem setPart_queues (k : Nat) (x : Partn) : (setPart s k x).queues = s.queues := rfl
@[simp] theorem setPart_moves (k : Nat) (x : Partn) : (setPart s k x).moves = s.moves := rfl
@[simp] theorem setPart_hc (k : Nat) (x : Partn) : (setPart s k x).hc = s.hc := rfl
@[simp] theorem setPart_temps (k : Nat) (x : Partn) : (setPart s k x).temps = s.temps := rfl
@[simp] theorem setPart_exchs (k : Nat) (x : Partn) : (setPart s k x).exchs = s.exchs := rfl
@[simp] theorem setPart_ecc (k : Nat) (x : Partn) : (setPart s k x).ecc = s.ecc := rfl
@[simp] theorem setPart_wallNs (k : Nat) (x : Partn) : (setPart s k x).wallNs = s.wallNs := rfl
@[simp] theorem setPart_lanes (k : Nat) (x : Partn) : (setPart s k x).lanes = s.lanes := rfl
@[simp] theorem setPart_ports (k : Nat) (x : Partn) : (setPart s k x).ports = s.ports := rfl
@[simp] theorem setPart_routes (k : Nat) (x : Partn) : (setPart s k x).routes = s.routes := rfl
@[simp] theorem setPart_out (k : Nat) (x : Partn) : (setPart s k x).out = s.out := rfl

/-! ## setCache changes caches only -/

@[simp] theorem setCache_cur (k : Nat) (x : Tcache) : (setCache s k x).cur = s.cur := rfl
@[simp] theorem setCache_pipe (k : Nat) (x : Tcache) : (setCache s k x).pipe = s.pipe := rfl
@[simp] theorem setCache_ev (k : Nat) (x : Tcache) : (setCache s k x).ev = s.ev := rfl
@[simp] theorem setCache_free (k : Nat) (x : Tcache) : (setCache s k x).free = s.free := rfl
@[simp] theorem setCache_agenda (k : Nat) (x : Tcache) : (setCache s k x).agenda = s.agenda := rfl
@[simp] theorem setCache_inputs (k : Nat) (x : Tcache) : (setCache s k x).inputs = s.inputs := rfl
@[simp] theorem setCache_waiting (k : Nat) (x : Tcache) : (setCache s k x).waiting = s.waiting := rfl
@[simp] theorem setCache_nwait (k : Nat) (x : Tcache) : (setCache s k x).nwait = s.nwait := rfl
@[simp] theorem setCache_grants (k : Nat) (x : Tcache) : (setCache s k x).grants = s.grants := rfl
@[simp] theorem setCache_ckpt (k : Nat) (x : Tcache) : (setCache s k x).ckpt = s.ckpt := rfl
@[simp] theorem setCache_tiles (k : Nat) (x : Tcache) : (setCache s k x).tiles = s.tiles := rfl
@[simp] theorem setCache_halves (k : Nat) (x : Tcache) : (setCache s k x).halves = s.halves := rfl
@[simp] theorem setCache_vreps (k : Nat) (x : Tcache) : (setCache s k x).vreps = s.vreps := rfl
@[simp] theorem setCache_fused (k : Nat) (x : Tcache) : (setCache s k x).fused = s.fused := rfl
@[simp] theorem setCache_smaps (k : Nat) (x : Tcache) : (setCache s k x).smaps = s.smaps := rfl
@[simp] theorem setCache_chans (k : Nat) (x : Tcache) : (setCache s k x).chans = s.chans := rfl
@[simp] theorem setCache_mem (k : Nat) (x : Tcache) : (setCache s k x).mem = s.mem := rfl
@[simp] theorem setCache_pages (k : Nat) (x : Tcache) : (setCache s k x).pages = s.pages := rfl
@[simp] theorem setCache_tts (k : Nat) (x : Tcache) : (setCache s k x).tts = s.tts := rfl
@[simp] theorem setCache_doms (k : Nat) (x : Tcache) : (setCache s k x).doms = s.doms := rfl
@[simp] theorem setCache_eps (k : Nat) (x : Tcache) : (setCache s k x).eps = s.eps := rfl
@[simp] theorem setCache_snaps (k : Nat) (x : Tcache) : (setCache s k x).snaps = s.snaps := rfl
@[simp] theorem setCache_disc (k : Nat) (x : Tcache) : (setCache s k x).disc = s.disc := rfl
@[simp] theorem setCache_queues (k : Nat) (x : Tcache) : (setCache s k x).queues = s.queues := rfl
@[simp] theorem setCache_parts (k : Nat) (x : Tcache) : (setCache s k x).parts = s.parts := rfl
@[simp] theorem setCache_moves (k : Nat) (x : Tcache) : (setCache s k x).moves = s.moves := rfl
@[simp] theorem setCache_hc (k : Nat) (x : Tcache) : (setCache s k x).hc = s.hc := rfl
@[simp] theorem setCache_temps (k : Nat) (x : Tcache) : (setCache s k x).temps = s.temps := rfl
@[simp] theorem setCache_exchs (k : Nat) (x : Tcache) : (setCache s k x).exchs = s.exchs := rfl
@[simp] theorem setCache_ecc (k : Nat) (x : Tcache) : (setCache s k x).ecc = s.ecc := rfl
@[simp] theorem setCache_wallNs (k : Nat) (x : Tcache) : (setCache s k x).wallNs = s.wallNs := rfl
@[simp] theorem setCache_lanes (k : Nat) (x : Tcache) : (setCache s k x).lanes = s.lanes := rfl
@[simp] theorem setCache_ports (k : Nat) (x : Tcache) : (setCache s k x).ports = s.ports := rfl
@[simp] theorem setCache_routes (k : Nat) (x : Tcache) : (setCache s k x).routes = s.routes := rfl
@[simp] theorem setCache_out (k : Nat) (x : Tcache) : (setCache s k x).out = s.out := rfl

/-! ## setMove changes moves only -/

@[simp] theorem setMove_cur (k : Nat) (x : Move) : (setMove s k x).cur = s.cur := rfl
@[simp] theorem setMove_pipe (k : Nat) (x : Move) : (setMove s k x).pipe = s.pipe := rfl
@[simp] theorem setMove_ev (k : Nat) (x : Move) : (setMove s k x).ev = s.ev := rfl
@[simp] theorem setMove_free (k : Nat) (x : Move) : (setMove s k x).free = s.free := rfl
@[simp] theorem setMove_agenda (k : Nat) (x : Move) : (setMove s k x).agenda = s.agenda := rfl
@[simp] theorem setMove_inputs (k : Nat) (x : Move) : (setMove s k x).inputs = s.inputs := rfl
@[simp] theorem setMove_waiting (k : Nat) (x : Move) : (setMove s k x).waiting = s.waiting := rfl
@[simp] theorem setMove_nwait (k : Nat) (x : Move) : (setMove s k x).nwait = s.nwait := rfl
@[simp] theorem setMove_grants (k : Nat) (x : Move) : (setMove s k x).grants = s.grants := rfl
@[simp] theorem setMove_ckpt (k : Nat) (x : Move) : (setMove s k x).ckpt = s.ckpt := rfl
@[simp] theorem setMove_tiles (k : Nat) (x : Move) : (setMove s k x).tiles = s.tiles := rfl
@[simp] theorem setMove_halves (k : Nat) (x : Move) : (setMove s k x).halves = s.halves := rfl
@[simp] theorem setMove_vreps (k : Nat) (x : Move) : (setMove s k x).vreps = s.vreps := rfl
@[simp] theorem setMove_fused (k : Nat) (x : Move) : (setMove s k x).fused = s.fused := rfl
@[simp] theorem setMove_smaps (k : Nat) (x : Move) : (setMove s k x).smaps = s.smaps := rfl
@[simp] theorem setMove_chans (k : Nat) (x : Move) : (setMove s k x).chans = s.chans := rfl
@[simp] theorem setMove_mem (k : Nat) (x : Move) : (setMove s k x).mem = s.mem := rfl
@[simp] theorem setMove_pages (k : Nat) (x : Move) : (setMove s k x).pages = s.pages := rfl
@[simp] theorem setMove_caches (k : Nat) (x : Move) : (setMove s k x).caches = s.caches := rfl
@[simp] theorem setMove_tts (k : Nat) (x : Move) : (setMove s k x).tts = s.tts := rfl
@[simp] theorem setMove_doms (k : Nat) (x : Move) : (setMove s k x).doms = s.doms := rfl
@[simp] theorem setMove_eps (k : Nat) (x : Move) : (setMove s k x).eps = s.eps := rfl
@[simp] theorem setMove_snaps (k : Nat) (x : Move) : (setMove s k x).snaps = s.snaps := rfl
@[simp] theorem setMove_disc (k : Nat) (x : Move) : (setMove s k x).disc = s.disc := rfl
@[simp] theorem setMove_queues (k : Nat) (x : Move) : (setMove s k x).queues = s.queues := rfl
@[simp] theorem setMove_parts (k : Nat) (x : Move) : (setMove s k x).parts = s.parts := rfl
@[simp] theorem setMove_hc (k : Nat) (x : Move) : (setMove s k x).hc = s.hc := rfl
@[simp] theorem setMove_temps (k : Nat) (x : Move) : (setMove s k x).temps = s.temps := rfl
@[simp] theorem setMove_exchs (k : Nat) (x : Move) : (setMove s k x).exchs = s.exchs := rfl
@[simp] theorem setMove_ecc (k : Nat) (x : Move) : (setMove s k x).ecc = s.ecc := rfl
@[simp] theorem setMove_wallNs (k : Nat) (x : Move) : (setMove s k x).wallNs = s.wallNs := rfl
@[simp] theorem setMove_lanes (k : Nat) (x : Move) : (setMove s k x).lanes = s.lanes := rfl
@[simp] theorem setMove_ports (k : Nat) (x : Move) : (setMove s k x).ports = s.ports := rfl
@[simp] theorem setMove_routes (k : Nat) (x : Move) : (setMove s k x).routes = s.routes := rfl
@[simp] theorem setMove_out (k : Nat) (x : Move) : (setMove s k x).out = s.out := rfl

/-! ## setVrep changes vreps only -/

@[simp] theorem setVrep_cur (k : Nat) (x : Vrep) : (setVrep s k x).cur = s.cur := rfl
@[simp] theorem setVrep_pipe (k : Nat) (x : Vrep) : (setVrep s k x).pipe = s.pipe := rfl
@[simp] theorem setVrep_ev (k : Nat) (x : Vrep) : (setVrep s k x).ev = s.ev := rfl
@[simp] theorem setVrep_free (k : Nat) (x : Vrep) : (setVrep s k x).free = s.free := rfl
@[simp] theorem setVrep_agenda (k : Nat) (x : Vrep) : (setVrep s k x).agenda = s.agenda := rfl
@[simp] theorem setVrep_inputs (k : Nat) (x : Vrep) : (setVrep s k x).inputs = s.inputs := rfl
@[simp] theorem setVrep_waiting (k : Nat) (x : Vrep) : (setVrep s k x).waiting = s.waiting := rfl
@[simp] theorem setVrep_nwait (k : Nat) (x : Vrep) : (setVrep s k x).nwait = s.nwait := rfl
@[simp] theorem setVrep_grants (k : Nat) (x : Vrep) : (setVrep s k x).grants = s.grants := rfl
@[simp] theorem setVrep_ckpt (k : Nat) (x : Vrep) : (setVrep s k x).ckpt = s.ckpt := rfl
@[simp] theorem setVrep_tiles (k : Nat) (x : Vrep) : (setVrep s k x).tiles = s.tiles := rfl
@[simp] theorem setVrep_halves (k : Nat) (x : Vrep) : (setVrep s k x).halves = s.halves := rfl
@[simp] theorem setVrep_fused (k : Nat) (x : Vrep) : (setVrep s k x).fused = s.fused := rfl
@[simp] theorem setVrep_smaps (k : Nat) (x : Vrep) : (setVrep s k x).smaps = s.smaps := rfl
@[simp] theorem setVrep_chans (k : Nat) (x : Vrep) : (setVrep s k x).chans = s.chans := rfl
@[simp] theorem setVrep_mem (k : Nat) (x : Vrep) : (setVrep s k x).mem = s.mem := rfl
@[simp] theorem setVrep_pages (k : Nat) (x : Vrep) : (setVrep s k x).pages = s.pages := rfl
@[simp] theorem setVrep_caches (k : Nat) (x : Vrep) : (setVrep s k x).caches = s.caches := rfl
@[simp] theorem setVrep_tts (k : Nat) (x : Vrep) : (setVrep s k x).tts = s.tts := rfl
@[simp] theorem setVrep_doms (k : Nat) (x : Vrep) : (setVrep s k x).doms = s.doms := rfl
@[simp] theorem setVrep_eps (k : Nat) (x : Vrep) : (setVrep s k x).eps = s.eps := rfl
@[simp] theorem setVrep_snaps (k : Nat) (x : Vrep) : (setVrep s k x).snaps = s.snaps := rfl
@[simp] theorem setVrep_disc (k : Nat) (x : Vrep) : (setVrep s k x).disc = s.disc := rfl
@[simp] theorem setVrep_queues (k : Nat) (x : Vrep) : (setVrep s k x).queues = s.queues := rfl
@[simp] theorem setVrep_parts (k : Nat) (x : Vrep) : (setVrep s k x).parts = s.parts := rfl
@[simp] theorem setVrep_moves (k : Nat) (x : Vrep) : (setVrep s k x).moves = s.moves := rfl
@[simp] theorem setVrep_hc (k : Nat) (x : Vrep) : (setVrep s k x).hc = s.hc := rfl
@[simp] theorem setVrep_temps (k : Nat) (x : Vrep) : (setVrep s k x).temps = s.temps := rfl
@[simp] theorem setVrep_exchs (k : Nat) (x : Vrep) : (setVrep s k x).exchs = s.exchs := rfl
@[simp] theorem setVrep_ecc (k : Nat) (x : Vrep) : (setVrep s k x).ecc = s.ecc := rfl
@[simp] theorem setVrep_wallNs (k : Nat) (x : Vrep) : (setVrep s k x).wallNs = s.wallNs := rfl
@[simp] theorem setVrep_lanes (k : Nat) (x : Vrep) : (setVrep s k x).lanes = s.lanes := rfl
@[simp] theorem setVrep_ports (k : Nat) (x : Vrep) : (setVrep s k x).ports = s.ports := rfl
@[simp] theorem setVrep_routes (k : Nat) (x : Vrep) : (setVrep s k x).routes = s.routes := rfl
@[simp] theorem setVrep_out (k : Nat) (x : Vrep) : (setVrep s k x).out = s.out := rfl

/-! ## updTile changes tiles only -/

@[simp] theorem updTile_cur (k : Nat) (f : Tile → Tile) : (updTile s k f).cur = s.cur := rfl
@[simp] theorem updTile_pipe (k : Nat) (f : Tile → Tile) : (updTile s k f).pipe = s.pipe := rfl
@[simp] theorem updTile_ev (k : Nat) (f : Tile → Tile) : (updTile s k f).ev = s.ev := rfl
@[simp] theorem updTile_free (k : Nat) (f : Tile → Tile) : (updTile s k f).free = s.free := rfl
@[simp] theorem updTile_agenda (k : Nat) (f : Tile → Tile) : (updTile s k f).agenda = s.agenda := rfl
@[simp] theorem updTile_inputs (k : Nat) (f : Tile → Tile) : (updTile s k f).inputs = s.inputs := rfl
@[simp] theorem updTile_waiting (k : Nat) (f : Tile → Tile) : (updTile s k f).waiting = s.waiting := rfl
@[simp] theorem updTile_nwait (k : Nat) (f : Tile → Tile) : (updTile s k f).nwait = s.nwait := rfl
@[simp] theorem updTile_grants (k : Nat) (f : Tile → Tile) : (updTile s k f).grants = s.grants := rfl
@[simp] theorem updTile_ckpt (k : Nat) (f : Tile → Tile) : (updTile s k f).ckpt = s.ckpt := rfl
@[simp] theorem updTile_halves (k : Nat) (f : Tile → Tile) : (updTile s k f).halves = s.halves := rfl
@[simp] theorem updTile_vreps (k : Nat) (f : Tile → Tile) : (updTile s k f).vreps = s.vreps := rfl
@[simp] theorem updTile_fused (k : Nat) (f : Tile → Tile) : (updTile s k f).fused = s.fused := rfl
@[simp] theorem updTile_smaps (k : Nat) (f : Tile → Tile) : (updTile s k f).smaps = s.smaps := rfl
@[simp] theorem updTile_chans (k : Nat) (f : Tile → Tile) : (updTile s k f).chans = s.chans := rfl
@[simp] theorem updTile_mem (k : Nat) (f : Tile → Tile) : (updTile s k f).mem = s.mem := rfl
@[simp] theorem updTile_pages (k : Nat) (f : Tile → Tile) : (updTile s k f).pages = s.pages := rfl
@[simp] theorem updTile_caches (k : Nat) (f : Tile → Tile) : (updTile s k f).caches = s.caches := rfl
@[simp] theorem updTile_tts (k : Nat) (f : Tile → Tile) : (updTile s k f).tts = s.tts := rfl
@[simp] theorem updTile_doms (k : Nat) (f : Tile → Tile) : (updTile s k f).doms = s.doms := rfl
@[simp] theorem updTile_eps (k : Nat) (f : Tile → Tile) : (updTile s k f).eps = s.eps := rfl
@[simp] theorem updTile_snaps (k : Nat) (f : Tile → Tile) : (updTile s k f).snaps = s.snaps := rfl
@[simp] theorem updTile_disc (k : Nat) (f : Tile → Tile) : (updTile s k f).disc = s.disc := rfl
@[simp] theorem updTile_queues (k : Nat) (f : Tile → Tile) : (updTile s k f).queues = s.queues := rfl
@[simp] theorem updTile_parts (k : Nat) (f : Tile → Tile) : (updTile s k f).parts = s.parts := rfl
@[simp] theorem updTile_moves (k : Nat) (f : Tile → Tile) : (updTile s k f).moves = s.moves := rfl
@[simp] theorem updTile_hc (k : Nat) (f : Tile → Tile) : (updTile s k f).hc = s.hc := rfl
@[simp] theorem updTile_temps (k : Nat) (f : Tile → Tile) : (updTile s k f).temps = s.temps := rfl
@[simp] theorem updTile_exchs (k : Nat) (f : Tile → Tile) : (updTile s k f).exchs = s.exchs := rfl
@[simp] theorem updTile_ecc (k : Nat) (f : Tile → Tile) : (updTile s k f).ecc = s.ecc := rfl
@[simp] theorem updTile_wallNs (k : Nat) (f : Tile → Tile) : (updTile s k f).wallNs = s.wallNs := rfl
@[simp] theorem updTile_lanes (k : Nat) (f : Tile → Tile) : (updTile s k f).lanes = s.lanes := rfl
@[simp] theorem updTile_ports (k : Nat) (f : Tile → Tile) : (updTile s k f).ports = s.ports := rfl
@[simp] theorem updTile_routes (k : Nat) (f : Tile → Tile) : (updTile s k f).routes = s.routes := rfl
@[simp] theorem updTile_out (k : Nat) (f : Tile → Tile) : (updTile s k f).out = s.out := rfl

/-! ## onMe changes tiles only -/

@[simp] theorem onMe_cur (f : Tile → Tile) : (onMe s f).cur = s.cur := rfl
@[simp] theorem onMe_pipe (f : Tile → Tile) : (onMe s f).pipe = s.pipe := rfl
@[simp] theorem onMe_ev (f : Tile → Tile) : (onMe s f).ev = s.ev := rfl
@[simp] theorem onMe_free (f : Tile → Tile) : (onMe s f).free = s.free := rfl
@[simp] theorem onMe_agenda (f : Tile → Tile) : (onMe s f).agenda = s.agenda := rfl
@[simp] theorem onMe_inputs (f : Tile → Tile) : (onMe s f).inputs = s.inputs := rfl
@[simp] theorem onMe_waiting (f : Tile → Tile) : (onMe s f).waiting = s.waiting := rfl
@[simp] theorem onMe_nwait (f : Tile → Tile) : (onMe s f).nwait = s.nwait := rfl
@[simp] theorem onMe_grants (f : Tile → Tile) : (onMe s f).grants = s.grants := rfl
@[simp] theorem onMe_ckpt (f : Tile → Tile) : (onMe s f).ckpt = s.ckpt := rfl
@[simp] theorem onMe_halves (f : Tile → Tile) : (onMe s f).halves = s.halves := rfl
@[simp] theorem onMe_vreps (f : Tile → Tile) : (onMe s f).vreps = s.vreps := rfl
@[simp] theorem onMe_fused (f : Tile → Tile) : (onMe s f).fused = s.fused := rfl
@[simp] theorem onMe_smaps (f : Tile → Tile) : (onMe s f).smaps = s.smaps := rfl
@[simp] theorem onMe_chans (f : Tile → Tile) : (onMe s f).chans = s.chans := rfl
@[simp] theorem onMe_mem (f : Tile → Tile) : (onMe s f).mem = s.mem := rfl
@[simp] theorem onMe_pages (f : Tile → Tile) : (onMe s f).pages = s.pages := rfl
@[simp] theorem onMe_caches (f : Tile → Tile) : (onMe s f).caches = s.caches := rfl
@[simp] theorem onMe_tts (f : Tile → Tile) : (onMe s f).tts = s.tts := rfl
@[simp] theorem onMe_doms (f : Tile → Tile) : (onMe s f).doms = s.doms := rfl
@[simp] theorem onMe_eps (f : Tile → Tile) : (onMe s f).eps = s.eps := rfl
@[simp] theorem onMe_snaps (f : Tile → Tile) : (onMe s f).snaps = s.snaps := rfl
@[simp] theorem onMe_disc (f : Tile → Tile) : (onMe s f).disc = s.disc := rfl
@[simp] theorem onMe_queues (f : Tile → Tile) : (onMe s f).queues = s.queues := rfl
@[simp] theorem onMe_parts (f : Tile → Tile) : (onMe s f).parts = s.parts := rfl
@[simp] theorem onMe_moves (f : Tile → Tile) : (onMe s f).moves = s.moves := rfl
@[simp] theorem onMe_hc (f : Tile → Tile) : (onMe s f).hc = s.hc := rfl
@[simp] theorem onMe_temps (f : Tile → Tile) : (onMe s f).temps = s.temps := rfl
@[simp] theorem onMe_exchs (f : Tile → Tile) : (onMe s f).exchs = s.exchs := rfl
@[simp] theorem onMe_ecc (f : Tile → Tile) : (onMe s f).ecc = s.ecc := rfl
@[simp] theorem onMe_wallNs (f : Tile → Tile) : (onMe s f).wallNs = s.wallNs := rfl
@[simp] theorem onMe_lanes (f : Tile → Tile) : (onMe s f).lanes = s.lanes := rfl
@[simp] theorem onMe_ports (f : Tile → Tile) : (onMe s f).ports = s.ports := rfl
@[simp] theorem onMe_routes (f : Tile → Tile) : (onMe s f).routes = s.routes := rfl
@[simp] theorem onMe_out (f : Tile → Tile) : (onMe s f).out = s.out := rfl

/-! ## later changes tiles only -/

@[simp] theorem later_cur (n : Nat) (a : Act) : (later s n a).cur = s.cur := rfl
@[simp] theorem later_pipe (n : Nat) (a : Act) : (later s n a).pipe = s.pipe := rfl
@[simp] theorem later_ev (n : Nat) (a : Act) : (later s n a).ev = s.ev := rfl
@[simp] theorem later_free (n : Nat) (a : Act) : (later s n a).free = s.free := rfl
@[simp] theorem later_agenda (n : Nat) (a : Act) : (later s n a).agenda = s.agenda := rfl
@[simp] theorem later_inputs (n : Nat) (a : Act) : (later s n a).inputs = s.inputs := rfl
@[simp] theorem later_waiting (n : Nat) (a : Act) : (later s n a).waiting = s.waiting := rfl
@[simp] theorem later_nwait (n : Nat) (a : Act) : (later s n a).nwait = s.nwait := rfl
@[simp] theorem later_grants (n : Nat) (a : Act) : (later s n a).grants = s.grants := rfl
@[simp] theorem later_ckpt (n : Nat) (a : Act) : (later s n a).ckpt = s.ckpt := rfl
@[simp] theorem later_halves (n : Nat) (a : Act) : (later s n a).halves = s.halves := rfl
@[simp] theorem later_vreps (n : Nat) (a : Act) : (later s n a).vreps = s.vreps := rfl
@[simp] theorem later_fused (n : Nat) (a : Act) : (later s n a).fused = s.fused := rfl
@[simp] theorem later_smaps (n : Nat) (a : Act) : (later s n a).smaps = s.smaps := rfl
@[simp] theorem later_chans (n : Nat) (a : Act) : (later s n a).chans = s.chans := rfl
@[simp] theorem later_mem (n : Nat) (a : Act) : (later s n a).mem = s.mem := rfl
@[simp] theorem later_pages (n : Nat) (a : Act) : (later s n a).pages = s.pages := rfl
@[simp] theorem later_caches (n : Nat) (a : Act) : (later s n a).caches = s.caches := rfl
@[simp] theorem later_tts (n : Nat) (a : Act) : (later s n a).tts = s.tts := rfl
@[simp] theorem later_doms (n : Nat) (a : Act) : (later s n a).doms = s.doms := rfl
@[simp] theorem later_eps (n : Nat) (a : Act) : (later s n a).eps = s.eps := rfl
@[simp] theorem later_snaps (n : Nat) (a : Act) : (later s n a).snaps = s.snaps := rfl
@[simp] theorem later_disc (n : Nat) (a : Act) : (later s n a).disc = s.disc := rfl
@[simp] theorem later_queues (n : Nat) (a : Act) : (later s n a).queues = s.queues := rfl
@[simp] theorem later_parts (n : Nat) (a : Act) : (later s n a).parts = s.parts := rfl
@[simp] theorem later_moves (n : Nat) (a : Act) : (later s n a).moves = s.moves := rfl
@[simp] theorem later_hc (n : Nat) (a : Act) : (later s n a).hc = s.hc := rfl
@[simp] theorem later_temps (n : Nat) (a : Act) : (later s n a).temps = s.temps := rfl
@[simp] theorem later_exchs (n : Nat) (a : Act) : (later s n a).exchs = s.exchs := rfl
@[simp] theorem later_ecc (n : Nat) (a : Act) : (later s n a).ecc = s.ecc := rfl
@[simp] theorem later_wallNs (n : Nat) (a : Act) : (later s n a).wallNs = s.wallNs := rfl
@[simp] theorem later_lanes (n : Nat) (a : Act) : (later s n a).lanes = s.lanes := rfl
@[simp] theorem later_ports (n : Nat) (a : Act) : (later s n a).ports = s.ports := rfl
@[simp] theorem later_routes (n : Nat) (a : Act) : (later s n a).routes = s.routes := rfl
@[simp] theorem later_out (n : Nat) (a : Act) : (later s n a).out = s.out := rfl

variable (t : Tile)

/-! ## addPend changes cal only -/

@[simp] theorem addPend_a (x : Pend) : (addPend t x).a = t.a := rfl
@[simp] theorem addPend_rs (x : Pend) : (addPend t x).rs = t.rs := rfl
@[simp] theorem addPend_rb (x : Pend) : (addPend t x).rb = t.rb := rfl
@[simp] theorem addPend_preds (x : Pend) : (addPend t x).preds = t.preds := rfl
@[simp] theorem addPend_lc (x : Pend) : (addPend t x).lc = t.lc := rfl
@[simp] theorem addPend_loops (x : Pend) : (addPend t x).loops = t.loops := rfl
@[simp] theorem addPend_queues (x : Pend) : (addPend t x).queues = t.queues := rfl
@[simp] theorem addPend_vm (x : Pend) : (addPend t x).vm = t.vm := rfl
@[simp] theorem addPend_sh (x : Pend) : (addPend t x).sh = t.sh := rfl
@[simp] theorem addPend_kb (x : Pend) : (addPend t x).kb = t.kb := rfl
@[simp] theorem addPend_af (x : Pend) : (addPend t x).af = t.af := rfl
@[simp] theorem addPend_mt0 (x : Pend) : (addPend t x).mt0 = t.mt0 := rfl
@[simp] theorem addPend_mt1 (x : Pend) : (addPend t x).mt1 = t.mt1 := rfl
@[simp] theorem addPend_gens (x : Pend) : (addPend t x).gens = t.gens := rfl
@[simp] theorem addPend_code (x : Pend) : (addPend t x).code = t.code := rfl
@[simp] theorem addPend_segs (x : Pend) : (addPend t x).segs = t.segs := rfl
@[simp] theorem addPend_half (x : Pend) : (addPend t x).half = t.half := rfl
@[simp] theorem addPend_pc (x : Pend) : (addPend t x).pc = t.pc := rfl
@[simp] theorem addPend_pilot (x : Pend) : (addPend t x).pilot = t.pilot := rfl
@[simp] theorem addPend_branch (x : Pend) : (addPend t x).branch = t.branch := rfl
@[simp] theorem addPend_delay (x : Pend) : (addPend t x).delay = t.delay := rfl
@[simp] theorem addPend_vstat (x : Pend) : (addPend t x).vstat = t.vstat := rfl
@[simp] theorem addPend_pack (x : Pend) : (addPend t x).pack = t.pack := rfl
@[simp] theorem addPend_sstat (x : Pend) : (addPend t x).sstat = t.sstat := rfl
@[simp] theorem addPend_astat (x : Pend) : (addPend t x).astat = t.astat := rfl
@[simp] theorem addPend_pendR (x : Pend) : (addPend t x).pendR = t.pendR := rfl
@[simp] theorem addPend_out (x : Pend) : (addPend t x).out = t.out := rfl
@[simp] theorem addPend_elastic (x : Pend) : (addPend t x).elastic = t.elastic := rfl
@[simp] theorem addPend_modeNext (x : Pend) : (addPend t x).modeNext = t.modeNext := rfl
@[simp] theorem addPend_nacc (x : Pend) : (addPend t x).nacc = t.nacc := rfl
@[simp] theorem addPend_loopEnd (x : Pend) : (addPend t x).loopEnd = t.loopEnd := rfl
@[simp] theorem addPend_wait (x : Pend) : (addPend t x).wait = t.wait := rfl
@[simp] theorem addPend_hold (x : Pend) : (addPend t x).hold = t.hold := rfl
@[simp] theorem addPend_next (x : Pend) : (addPend t x).next = t.next := rfl
@[simp] theorem addPend_started (x : Pend) : (addPend t x).started = t.started := rfl
@[simp] theorem addPend_ended (x : Pend) : (addPend t x).ended = t.ended := rfl
@[simp] theorem addPend_bun (x : Pend) : (addPend t x).bun = t.bun := rfl
@[simp] theorem addPend_tt (x : Pend) : (addPend t x).tt = t.tt := rfl
@[simp] theorem addPend_firmware (x : Pend) : (addPend t x).firmware = t.firmware := rfl
@[simp] theorem addPend_skip (x : Pend) : (addPend t x).skip = t.skip := rfl
@[simp] theorem addPend_tcause (x : Pend) : (addPend t x).tcause = t.tcause := rfl
@[simp] theorem addPend_tfpc (x : Pend) : (addPend t x).tfpc = t.tfpc := rfl
@[simp] theorem addPend_tbpc (x : Pend) : (addPend t x).tbpc = t.tbpc := rfl
@[simp] theorem addPend_taddr (x : Pend) : (addPend t x).taddr = t.taddr := rfl
@[simp] theorem addPend_tcyc (x : Pend) : (addPend t x).tcyc = t.tcyc := rfl
@[simp] theorem addPend_m0 (x : Pend) : (addPend t x).m0 = t.m0 := rfl
@[simp] theorem addPend_acc (x : Pend) : (addPend t x).acc = t.acc := rfl
@[simp] theorem addPend_spill (x : Pend) : (addPend t x).spill = t.spill := rfl

/-! ## setQ changes queues only -/

@[simp] theorem setQ_a (q : QN) (l : List QEnt) : (setQ t q l).a = t.a := rfl
@[simp] theorem setQ_rs (q : QN) (l : List QEnt) : (setQ t q l).rs = t.rs := rfl
@[simp] theorem setQ_rb (q : QN) (l : List QEnt) : (setQ t q l).rb = t.rb := rfl
@[simp] theorem setQ_preds (q : QN) (l : List QEnt) : (setQ t q l).preds = t.preds := rfl
@[simp] theorem setQ_lc (q : QN) (l : List QEnt) : (setQ t q l).lc = t.lc := rfl
@[simp] theorem setQ_loops (q : QN) (l : List QEnt) : (setQ t q l).loops = t.loops := rfl
@[simp] theorem setQ_vm (q : QN) (l : List QEnt) : (setQ t q l).vm = t.vm := rfl
@[simp] theorem setQ_sh (q : QN) (l : List QEnt) : (setQ t q l).sh = t.sh := rfl
@[simp] theorem setQ_kb (q : QN) (l : List QEnt) : (setQ t q l).kb = t.kb := rfl
@[simp] theorem setQ_af (q : QN) (l : List QEnt) : (setQ t q l).af = t.af := rfl
@[simp] theorem setQ_mt0 (q : QN) (l : List QEnt) : (setQ t q l).mt0 = t.mt0 := rfl
@[simp] theorem setQ_mt1 (q : QN) (l : List QEnt) : (setQ t q l).mt1 = t.mt1 := rfl
@[simp] theorem setQ_gens (q : QN) (l : List QEnt) : (setQ t q l).gens = t.gens := rfl
@[simp] theorem setQ_code (q : QN) (l : List QEnt) : (setQ t q l).code = t.code := rfl
@[simp] theorem setQ_segs (q : QN) (l : List QEnt) : (setQ t q l).segs = t.segs := rfl
@[simp] theorem setQ_half (q : QN) (l : List QEnt) : (setQ t q l).half = t.half := rfl
@[simp] theorem setQ_pc (q : QN) (l : List QEnt) : (setQ t q l).pc = t.pc := rfl
@[simp] theorem setQ_pilot (q : QN) (l : List QEnt) : (setQ t q l).pilot = t.pilot := rfl
@[simp] theorem setQ_branch (q : QN) (l : List QEnt) : (setQ t q l).branch = t.branch := rfl
@[simp] theorem setQ_delay (q : QN) (l : List QEnt) : (setQ t q l).delay = t.delay := rfl
@[simp] theorem setQ_vstat (q : QN) (l : List QEnt) : (setQ t q l).vstat = t.vstat := rfl
@[simp] theorem setQ_pack (q : QN) (l : List QEnt) : (setQ t q l).pack = t.pack := rfl
@[simp] theorem setQ_sstat (q : QN) (l : List QEnt) : (setQ t q l).sstat = t.sstat := rfl
@[simp] theorem setQ_astat (q : QN) (l : List QEnt) : (setQ t q l).astat = t.astat := rfl
@[simp] theorem setQ_pendR (q : QN) (l : List QEnt) : (setQ t q l).pendR = t.pendR := rfl
@[simp] theorem setQ_out (q : QN) (l : List QEnt) : (setQ t q l).out = t.out := rfl
@[simp] theorem setQ_elastic (q : QN) (l : List QEnt) : (setQ t q l).elastic = t.elastic := rfl
@[simp] theorem setQ_modeNext (q : QN) (l : List QEnt) : (setQ t q l).modeNext = t.modeNext := rfl
@[simp] theorem setQ_nacc (q : QN) (l : List QEnt) : (setQ t q l).nacc = t.nacc := rfl
@[simp] theorem setQ_loopEnd (q : QN) (l : List QEnt) : (setQ t q l).loopEnd = t.loopEnd := rfl
@[simp] theorem setQ_wait (q : QN) (l : List QEnt) : (setQ t q l).wait = t.wait := rfl
@[simp] theorem setQ_hold (q : QN) (l : List QEnt) : (setQ t q l).hold = t.hold := rfl
@[simp] theorem setQ_next (q : QN) (l : List QEnt) : (setQ t q l).next = t.next := rfl
@[simp] theorem setQ_started (q : QN) (l : List QEnt) : (setQ t q l).started = t.started := rfl
@[simp] theorem setQ_ended (q : QN) (l : List QEnt) : (setQ t q l).ended = t.ended := rfl
@[simp] theorem setQ_cal (q : QN) (l : List QEnt) : (setQ t q l).cal = t.cal := rfl
@[simp] theorem setQ_bun (q : QN) (l : List QEnt) : (setQ t q l).bun = t.bun := rfl
@[simp] theorem setQ_tt (q : QN) (l : List QEnt) : (setQ t q l).tt = t.tt := rfl
@[simp] theorem setQ_firmware (q : QN) (l : List QEnt) : (setQ t q l).firmware = t.firmware := rfl
@[simp] theorem setQ_skip (q : QN) (l : List QEnt) : (setQ t q l).skip = t.skip := rfl
@[simp] theorem setQ_tcause (q : QN) (l : List QEnt) : (setQ t q l).tcause = t.tcause := rfl
@[simp] theorem setQ_tfpc (q : QN) (l : List QEnt) : (setQ t q l).tfpc = t.tfpc := rfl
@[simp] theorem setQ_tbpc (q : QN) (l : List QEnt) : (setQ t q l).tbpc = t.tbpc := rfl
@[simp] theorem setQ_taddr (q : QN) (l : List QEnt) : (setQ t q l).taddr = t.taddr := rfl
@[simp] theorem setQ_tcyc (q : QN) (l : List QEnt) : (setQ t q l).tcyc = t.tcyc := rfl
@[simp] theorem setQ_m0 (q : QN) (l : List QEnt) : (setQ t q l).m0 = t.m0 := rfl
@[simp] theorem setQ_acc (q : QN) (l : List QEnt) : (setQ t q l).acc = t.acc := rfl
@[simp] theorem setQ_spill (q : QN) (l : List QEnt) : (setQ t q l).spill = t.spill := rfl

/-! ## setAg changes gens only -/

@[simp] theorem setAg_a (k : Nat) (g : Agen) : (setAg t k g).a = t.a := rfl
@[simp] theorem setAg_rs (k : Nat) (g : Agen) : (setAg t k g).rs = t.rs := rfl
@[simp] theorem setAg_rb (k : Nat) (g : Agen) : (setAg t k g).rb = t.rb := rfl
@[simp] theorem setAg_preds (k : Nat) (g : Agen) : (setAg t k g).preds = t.preds := rfl
@[simp] theorem setAg_lc (k : Nat) (g : Agen) : (setAg t k g).lc = t.lc := rfl
@[simp] theorem setAg_loops (k : Nat) (g : Agen) : (setAg t k g).loops = t.loops := rfl
@[simp] theorem setAg_queues (k : Nat) (g : Agen) : (setAg t k g).queues = t.queues := rfl
@[simp] theorem setAg_vm (k : Nat) (g : Agen) : (setAg t k g).vm = t.vm := rfl
@[simp] theorem setAg_sh (k : Nat) (g : Agen) : (setAg t k g).sh = t.sh := rfl
@[simp] theorem setAg_kb (k : Nat) (g : Agen) : (setAg t k g).kb = t.kb := rfl
@[simp] theorem setAg_af (k : Nat) (g : Agen) : (setAg t k g).af = t.af := rfl
@[simp] theorem setAg_mt0 (k : Nat) (g : Agen) : (setAg t k g).mt0 = t.mt0 := rfl
@[simp] theorem setAg_mt1 (k : Nat) (g : Agen) : (setAg t k g).mt1 = t.mt1 := rfl
@[simp] theorem setAg_code (k : Nat) (g : Agen) : (setAg t k g).code = t.code := rfl
@[simp] theorem setAg_segs (k : Nat) (g : Agen) : (setAg t k g).segs = t.segs := rfl
@[simp] theorem setAg_half (k : Nat) (g : Agen) : (setAg t k g).half = t.half := rfl
@[simp] theorem setAg_pc (k : Nat) (g : Agen) : (setAg t k g).pc = t.pc := rfl
@[simp] theorem setAg_pilot (k : Nat) (g : Agen) : (setAg t k g).pilot = t.pilot := rfl
@[simp] theorem setAg_branch (k : Nat) (g : Agen) : (setAg t k g).branch = t.branch := rfl
@[simp] theorem setAg_delay (k : Nat) (g : Agen) : (setAg t k g).delay = t.delay := rfl
@[simp] theorem setAg_vstat (k : Nat) (g : Agen) : (setAg t k g).vstat = t.vstat := rfl
@[simp] theorem setAg_pack (k : Nat) (g : Agen) : (setAg t k g).pack = t.pack := rfl
@[simp] theorem setAg_sstat (k : Nat) (g : Agen) : (setAg t k g).sstat = t.sstat := rfl
@[simp] theorem setAg_astat (k : Nat) (g : Agen) : (setAg t k g).astat = t.astat := rfl
@[simp] theorem setAg_pendR (k : Nat) (g : Agen) : (setAg t k g).pendR = t.pendR := rfl
@[simp] theorem setAg_out (k : Nat) (g : Agen) : (setAg t k g).out = t.out := rfl
@[simp] theorem setAg_elastic (k : Nat) (g : Agen) : (setAg t k g).elastic = t.elastic := rfl
@[simp] theorem setAg_modeNext (k : Nat) (g : Agen) : (setAg t k g).modeNext = t.modeNext := rfl
@[simp] theorem setAg_nacc (k : Nat) (g : Agen) : (setAg t k g).nacc = t.nacc := rfl
@[simp] theorem setAg_loopEnd (k : Nat) (g : Agen) : (setAg t k g).loopEnd = t.loopEnd := rfl
@[simp] theorem setAg_wait (k : Nat) (g : Agen) : (setAg t k g).wait = t.wait := rfl
@[simp] theorem setAg_hold (k : Nat) (g : Agen) : (setAg t k g).hold = t.hold := rfl
@[simp] theorem setAg_next (k : Nat) (g : Agen) : (setAg t k g).next = t.next := rfl
@[simp] theorem setAg_started (k : Nat) (g : Agen) : (setAg t k g).started = t.started := rfl
@[simp] theorem setAg_ended (k : Nat) (g : Agen) : (setAg t k g).ended = t.ended := rfl
@[simp] theorem setAg_cal (k : Nat) (g : Agen) : (setAg t k g).cal = t.cal := rfl
@[simp] theorem setAg_bun (k : Nat) (g : Agen) : (setAg t k g).bun = t.bun := rfl
@[simp] theorem setAg_tt (k : Nat) (g : Agen) : (setAg t k g).tt = t.tt := rfl
@[simp] theorem setAg_firmware (k : Nat) (g : Agen) : (setAg t k g).firmware = t.firmware := rfl
@[simp] theorem setAg_skip (k : Nat) (g : Agen) : (setAg t k g).skip = t.skip := rfl
@[simp] theorem setAg_tcause (k : Nat) (g : Agen) : (setAg t k g).tcause = t.tcause := rfl
@[simp] theorem setAg_tfpc (k : Nat) (g : Agen) : (setAg t k g).tfpc = t.tfpc := rfl
@[simp] theorem setAg_tbpc (k : Nat) (g : Agen) : (setAg t k g).tbpc = t.tbpc := rfl
@[simp] theorem setAg_taddr (k : Nat) (g : Agen) : (setAg t k g).taddr = t.taddr := rfl
@[simp] theorem setAg_tcyc (k : Nat) (g : Agen) : (setAg t k g).tcyc = t.tcyc := rfl
@[simp] theorem setAg_m0 (k : Nat) (g : Agen) : (setAg t k g).m0 = t.m0 := rfl
@[simp] theorem setAg_acc (k : Nat) (g : Agen) : (setAg t k g).acc = t.acc := rfl
@[simp] theorem setAg_spill (k : Nat) (g : Agen) : (setAg t k g).spill = t.spill := rfl

end Sys2Proof.Machine
end

