-- ==== Sys2Proof/Laws/Ops.lean ====
section
/-! SUPPORT. What the shared operations do, once each: reads after writes of the tables of the state, delayed actions,
checks and words, taking a fault. -/

namespace Sys2Proof.Machine

variable (s : State)

/-! ## Tables of the state -/

@[simp] theorem tileOf_setTile_same (k : Nat) (x : Tile) : tileOf (setTile s k x) k = x := by simp [tileOf, setTile]
theorem tileOf_setTile_other {k j : Nat} (x : Tile) (h : j ≠ k) : tileOf (setTile s k x) j = tileOf s j :=
  tabGet_set_other _ _ _ h
@[simp] theorem tileOf_updTile_same (k : Nat) (f : Tile → Tile) : tileOf (updTile s k f) k = f (tileOf s k) :=
  tileOf_setTile_same s k _
theorem tileOf_updTile_other {k j : Nat} (f : Tile → Tile) (h : j ≠ k) : tileOf (updTile s k f) j = tileOf s j :=
  tileOf_setTile_other s _ h
@[simp] theorem halfOf_setHalf_same (k : Nat) (x : Half) : halfOf (setHalf s k x) k = x := by simp [halfOf, setHalf]
theorem halfOf_setHalf_other {k j : Nat} (x : Half) (h : j ≠ k) : halfOf (setHalf s k x) j = halfOf s j :=
  tabGet_set_other _ _ _ h
@[simp] theorem chanAt_setChan_same (k : Nat) (x : Chan) : chanAt (setChan s k x) k = x := by simp [chanAt, setChan]
theorem chanAt_setChan_other {k j : Nat} (x : Chan) (h : j ≠ k) : chanAt (setChan s k x) j = chanAt s j :=
  tabGet_set_other _ _ _ h
@[simp] theorem ttOf_setTt_same (k : Nat) (x : TT) : ttOf (setTt s k x) k = x := by simp [ttOf, setTt]
theorem ttOf_setTt_other {k j : Nat} (x : TT) (h : j ≠ k) : ttOf (setTt s k x) j = ttOf s j :=
  tabGet_set_other _ _ _ h
@[simp] theorem domAt_setDom_same (k : Nat) (x : Dom) : domAt (setDom s k x) k = x := by simp [domAt, setDom]
theorem domAt_setDom_other {k j : Nat} (x : Dom) (h : j ≠ k) : domAt (setDom s k x) j = domAt s j :=
  tabGet_set_other _ _ _ h
@[simp] theorem queueAt_setQueue_same (k : Nat) (x : Queue) : queueAt (setQueue s k x) k = x := by
  simp [queueAt, setQueue]
theorem queueAt_setQueue_other {k j : Nat} (x : Queue) (h : j ≠ k) : queueAt (setQueue s k x) j = queueAt s j :=
  tabGet_set_other _ _ _ h
@[simp] theorem partAt_setPart_same (k : Nat) (x : Partn) : partAt (setPart s k x) k = x := by simp [partAt, setPart]
theorem partAt_setPart_other {k j : Nat} (x : Partn) (h : j ≠ k) : partAt (setPart s k x) j = partAt s j :=
  tabGet_set_other _ _ _ h
@[simp] theorem moveAt_setMove_same (k : Nat) (x : Move) : moveAt (setMove s k x) k = x := by simp [moveAt, setMove]
@[simp] theorem cacheAt_setCache_same (k : Nat) (x : Tcache) : cacheAt (setCache s k x) k = x := by
  simp [cacheAt, setCache]

/-! ## The tile whose word is executed -/

@[simp] theorem me_onMe (f : Tile → Tile) : me (onMe s f) = f (me s) := tileOf_updTile_same s s.cur f
@[simp] theorem me_setTile (x : Tile) : me (setTile s s.cur x) = x := tileOf_setTile_same s s.cur x
theorem tileOf_onMe_other {j : Nat} (f : Tile → Tile) (h : j ≠ s.cur) : tileOf (onMe s f) j = tileOf s j :=
  tileOf_updTile_other s f h
/-- A word schedules an action: its tile's calendar gets it, in order; nothing else changes. -/
theorem later_eq (n : Nat) (a : Act) :
    later s n a = onMe s (fun t => addPend t ⟨now s + n, now s, s.pipe, t.bun, a⟩) := rfl
@[simp] theorem me_later (n : Nat) (a : Act) :
    me (later s n a) = addPend (me s) ⟨now s + n, now s, s.pipe, (me s).bun, a⟩ := me_onMe s _
theorem tileOf_later_other {j : Nat} (n : Nat) (a : Act) (h : j ≠ s.cur) : tileOf (later s n a) j = tileOf s j :=
  tileOf_onMe_other s _ h
/-- Insertion in order keeps every action and adds one. -/
theorem mem_insertPend (x y : Pend) (l : List Pend) : y ∈ insertPend x l ↔ y = x ∨ y ∈ l := by
  induction l with
  | nil => simp [insertPend]
  | cons z r ih =>
    simp only [insertPend]; split
    · simp only [List.mem_cons, ih]; tauto
    · simp
/-- The action that a word schedules stands in its tile's calendar. -/
theorem later_mem_cal (n : Nat) (a : Act) :
    (⟨now s + n, now s, s.pipe, (me s).bun, a⟩ : Pend) ∈ (me (later s n a)).cal := by
  rw [me_later]; exact (mem_insertPend _ _ _).2 (Or.inl rfl)

/-! ## Scalar destinations -/

@[simp] theorem rdReg_zero (t : Tile) : rdReg t 0 = 0 := by simp [rdReg]
@[simp] theorem landReg_zero (n : Nat) (v : Word) : landReg s 0 n v = s := by simp [landReg]
theorem landReg_of_ne {d : Reg} (h : d ≠ 0) (n : Nat) (v : Word) :
    landReg s d n v = later s n (.reg (physReg (me s) d.toNat) v) := if_neg h
@[simp] theorem landPred_zero (n : Nat) (b : Bool) : landPred s 0 n b = s := by simp [landPred]
@[simp] theorem landMask_zero (n : Nat) (v : BitVec 512) : landMask s 0 n v = s := by simp [landMask]
@[simp] theorem rdPred_zero (t : Tile) : rdPred t 0 = true := by simp [rdPred]
@[simp] theorem rdMask_zero (t : Tile) : rdMask t 0 = BitVec.allOnes 512 := by simp [rdMask]
@[simp] theorem landReg_mem (d : Reg) (n : Nat) (v : Word) : (landReg s d n v).mem = s.mem := by
  unfold landReg; split <;> simp
@[simp] theorem landPred_mem (d : PredN) (n : Nat) (b : Bool) : (landPred s d n b).mem = s.mem := by
  unfold landPred; split <;> simp
@[simp] theorem landMask_mem (d : MaskN) (n : Nat) (v : BitVec 512) : (landMask s d n v).mem = s.mem := by
  unfold landMask; split <;> simp
@[simp] theorem landPush_mem (q : QN) (n : Nat) (v : QVec) : (landPush s q n v).mem = s.mem := rfl

/-! ## Checks and words -/

theorem worse_none {x y : Option Trap} : worse x y = none ↔ x = none ∧ y = none := by
  cases x <;> cases y <;> simp [worse]
  split <;> simp
/-- A word reports no fault exactly when none of its checks fails. -/
theorem worst_none (l : List (Option Trap)) : worst l = none ↔ ∀ c ∈ l, c = none := by
  induction l with
  | nil => simp [worst]
  | cons x r ih => simp [worst, worse_none, ih]
/-- The fault that a word reports is one of its checks'. -/
theorem worst_mem (l : List (Option Trap)) (x : Trap) (h : worst l = some x) : some x ∈ l := by
  induction l with
  | nil => simp [worst] at h
  | cons y r ih =>
    rw [worst] at h
    cases y with
    | none => simp [worse] at h; exact List.mem_cons_of_mem _ (ih h)
    | some a =>
      cases hr : worst r with
      | none => rw [hr] at h; simp [worse] at h; simp [h]
      | some b =>
        rw [hr] at h ih
        simp only [worse] at h
        split at h
        · exact List.mem_cons_of_mem _ (ih h)
        · simp at h; simp [h]
/-- Its cause is the lowest of those that fail (R208). -/
theorem worst_least (l : List (Option Trap)) (x : Trap) (h : worst l = some x) :
    ∀ y, some y ∈ l → x.cause ≤ y.cause := by
  induction l generalizing x with
  | nil => simp [worst] at h
  | cons c r ih =>
    intro y hy
    rw [worst] at h
    rcases List.mem_cons.1 hy with hy | hy
    · subst hy
      cases hr : worst r with
      | none => rw [hr] at h; simp [worse] at h; simp [h]
      | some b =>
        rw [hr] at h; simp only [worse] at h; split at h <;> simp at h <;> subst h
        · omega
        · exact Nat.le_refl _
    · cases hr : worst r with
      | none => exact absurd ((worst_none r).1 hr _ hy) (by simp)
      | some b =>
        have hb := ih b hr y hy
        rw [hr] at h
        cases c with
        | none => simp [worse] at h; subst h; exact hb
        | some a => simp only [worse] at h; split at h <;> simp at h <;> subst h <;> omega
@[simp] theorem trapIf_none (b : Bool) (c n : Nat) (a : Word) : trapIf b c n a = none ↔ b = false := by
  cases b <;> simp [trapIf]

/-- A word whose checks pass has its effect. -/
theorem doWord_pass {c : List (Option Trap)} {f : State → State} (h : ∀ x ∈ c, x = none) : doWord s c f = .next (f s) := by
  simp [doWord, (worst_none c).2 h]
/-- A word with a failing check takes the fault. -/
theorem doWord_trap {c : List (Option Trap)} {f : State → State} {x : Trap} (h : worst c = some x) :
    doWord s c f = .next (trapHere x s) := by simp [doWord, h]
/-- A word answers a next state: its effect, or the fault of one of its checks. -/
theorem doWord_next {c : List (Option Trap)} {f : State → State} {t : State} (h : doWord s c f = .next t) :
    (worst c = none ∧ t = f s) ∨ ∃ x, worst c = some x ∧ t = trapHere x s := by
  unfold doWord at h
  split at h
  · next x hx => exact .inr ⟨x, hx, by simpa using h.symm⟩
  · next hx => exact .inl ⟨hx, by simpa using h.symm⟩
@[simp] theorem guarded_zero (k : Host.Outcome State Fault Refusal) : guarded s 0 k = k := by simp [guarded, guardOn]
theorem guarded_on {g : Guard} (h : guardOn (me s) g = true) (k : Host.Outcome State Fault Refusal) : guarded s g k = k := by
  simp [guarded, h]
theorem guarded_off {g : Guard} (h : guardOn (me s) g = false) (k : Host.Outcome State Fault Refusal) :
    guarded s g k = .next s := by simp [guarded, h]

/-! ## Taking a fault (R203 to R208) -/

/-- The fault registers of the tile that takes a fault. -/
theorem takeTrap_tile (x : Trap) (pipe : Nat) (b : BRef) (tb : Option BRef) (id : Nat) :
    tileOf (takeTrap x pipe b tb id s) id = recordTrap x pipe b tb (tileOf s id) := by
  unfold takeTrap markFault tileOf; simp [setDom]; exact tileOf_updTile_same s id _
theorem takeTrap_tile_other (x : Trap) (pipe : Nat) (b : BRef) (tb : Option BRef) {id j : Nat} (h : j ≠ id) :
    tileOf (takeTrap x pipe b tb id s) j = tileOf s j := by
  unfold takeTrap markFault tileOf; simp [setDom]; exact tileOf_updTile_other s _ h
/-- The domain of the tile is marked: it freezes. -/
theorem takeTrap_dom (x : Trap) (pipe : Nat) (b : BRef) (tb : Option BRef) (id : Nat) :
    domAt (takeTrap x pipe b tb id s) (domOf s id) = { domAt s (domOf s id) with faulted := true } := by
  unfold takeTrap markFault; rw [domAt_setDom_same]; rfl
@[simp] theorem takeTrap_mem (x : Trap) (pipe : Nat) (b : BRef) (tb : Option BRef) (id : Nat) :
    (takeTrap x pipe b tb id s).mem = s.mem := rfl
@[simp] theorem trapHere_mem (x : Trap) : (trapHere x s).mem = s.mem := rfl
/-- A first fault is recorded whole. -/
theorem recordTrap_first (x : Trap) (pipe : Nat) (b : BRef) (tb : Option BRef) (t : Tile) (h : causeOf t = 0) :
    recordTrap x pipe b tb t = { t with tcause := causeWord x pipe, tfpc := pcWord b,
                                        tbpc := (match tb with | some r => pcWord r | none => 0), taddr := x.addr } :=
  if_neg (by simp [h])

end Sys2Proof.Machine
end

