-- ==== Sys2Proof/Laws/Process.lean ====
section
/-! SUPPORT. What the operations that wait for a channel do (Machine/Process.lean): a request performs or waits, a posted write
lands or waits, and with no compiled channel nothing waits. -/

namespace Sys2Proof.Machine

/-! ## A request that waits -/

@[simp] theorem addWait_waiting (i : Instr) (x : EvArgs) (l : List Touch) (src : Option Nat) (s : State) :
    (addWait i x l src s).waiting = s.waiting ++ [⟨s.nwait, i, x, l, src⟩] := rfl
@[simp] theorem addWait_nwait (i : Instr) (x : EvArgs) (l : List Touch) (src : Option Nat) (s : State) :
    (addWait i x l src s).nwait = s.nwait + 1 := rfl
@[simp] theorem addWait_mem (i : Instr) (x : EvArgs) (l : List Touch) (src : Option Nat) (s : State) :
    (addWait i x l src s).mem = s.mem := rfl
@[simp] theorem addWait_tiles (i : Instr) (x : EvArgs) (l : List Touch) (src : Option Nat) (s : State) :
    (addWait i x l src s).tiles = s.tiles := rfl
@[simp] theorem addWait_chans (i : Instr) (x : EvArgs) (l : List Touch) (src : Option Nat) (s : State) :
    (addWait i x l src s).chans = s.chans := rfl
@[simp] theorem addWait_out (i : Instr) (x : EvArgs) (l : List Touch) (src : Option Nat) (s : State) :
    (addWait i x l src s).out = s.out := rfl
/-- A request performs when it has waited or may go on, and waits otherwise (R18). -/
theorem orWait_cases (i : Instr) (l : List Touch) (src : Option Nat) (k : State → State) (s : State) :
    ((s.ev.go.isSome ∨ freeNow s l src = true) ∧ orWait i l src k s = k s) ∨
      (s.ev.go = none ∧ freeNow s l src = false ∧ orWait i l src k s = addWait i s.ev l src s) := by
  unfold orWait
  cases hg : s.ev.go <;> cases hf : freeNow s l src <;> simp

/-! ## A posted write -/

/-- A posted write lands whole at once, or memory stays as it was and the write waits (R18). -/
theorem postBytes_cases (src : Option Nat) (p : Nat) (bs : List Byte) (s : State) :
    (freeNow s [⟨p, bs.length, true⟩] src = true ∧ postBytes src p bs s = { s with mem := storeBytes s.mem p bs }) ∨
      (freeNow s [⟨p, bs.length, true⟩] src = false ∧ (postBytes src p bs s).mem = s.mem ∧
        (postBytes src p bs s).waiting.length = s.waiting.length + 1) := by
  unfold postBytes
  cases hf : freeNow s [⟨p, bs.length, true⟩] src <;> simp [hf]

/-! ## Channels without an owner -/

/-- Every channel is open while none is compiled (R272). -/
theorem lineOpen_of_open (s : State) (fz : Option Nat) (p : Nat) (h : (chanAt s (chanOf p)).comp = none) : lineOpen s fz p = true := by
  unfold lineOpen
  simp [h]
/-- A requester whose lines lie in open channels waits for no issuer (R18). -/
theorem served_of_open (s : State) (w : Who) (fz : Option Nat) (p n : Nat)
    (h : ∀ k ∈ linesOf p n, (chanAt s (chanOf (64 * k))).comp = none) : served s w fz p n = true := by
  unfold served
  rw [List.all_eq_true]
  intro k hk
  simp [lineOpen_of_open s fz _ (h k hk)]
@[simp] theorem leBytes_length (v n : Nat) : (leBytes v n).length = n := by simp [leBytes]
@[simp] theorem spend_mem (w : Who) (s : State) : (spend w s).mem = s.mem := rfl
@[simp] theorem spend_tiles (w : Who) (s : State) : (spend w s).tiles = s.tiles := rfl
@[simp] theorem spend_chans (w : Who) (s : State) : (spend w s).chans = s.chans := rfl
@[simp] theorem spendAt_mem (w : Who) (p n : Nat) (s : State) : (spendAt w p n s).mem = s.mem := rfl
@[simp] theorem spendAt_tiles (w : Who) (p n : Nat) (s : State) : (spendAt w p n s).tiles = s.tiles := rfl
@[simp] theorem spendAt_chans (w : Who) (p n : Nat) (s : State) : (spendAt w p n s).chans = s.chans := rfl
/-- What a requester has used is moved for it no longer, and nothing else changes hands (R280). -/
theorem mem_spendAt (w : Who) (p n : Nat) (s : State) (g : Who × Nat) :
    g ∈ (spendAt w p n s).grants ↔ g ∈ s.grants ∧ ¬(g.1 = w ∧ g.2 ∈ linesOf p n) := by
  simp [spendAt, imp_iff_not_or]

end Sys2Proof.Machine
end

