-- ==== Sys2Proof/Tests/Slice0.lean ====
section
/-! SUPPORT. The model's own tests: words written out from the spec's encodings, ill-formed terms, single steps on small
states, and for every statement with hypotheses a witness that meets them. -/

open Sys2Proof Sys2Proof.Machine Sys2Proof.Claims

namespace Sys2Proof.Tests

-- One theorem after another: the checks of many at once would take more memory than the build has.
set_option Elab.async false

/-! ## Small states -/

/-- The words at their positions, with their literals, decode to the instructions. -/
def readAs (l : List ((Nat × Nat × Lit) × Instr)) : Bool := l.all (fun p => decide (decodeWord p.1.1 p.1.2.1 p.1.2.2 = some p.2))
/-- The command words decode to the commands. -/
def cmdAs (l : List (Word × Instr)) : Bool := l.all (fun p => decide (decodeCmd p.1 = some p.2))
/-- A tile that runs a task. -/
def task : Tile := { Tile.reset with started := true }
/-- Tile 0 as given, in a machine at reset whose repair registers are restored. -/
def on0 (t : Tile) : State := { State.reset with tiles := [(0, t)], hc := { Harbour.reset with restored := true } }
/-- The event's operands. -/
def evt (a b c : Nat) (s : State) : State := { s with ev := { EvArgs.zero with a := a, b := b, c := c } }
/-- The bytes of an image: each field as offset, size and value, the rest 0. -/
def imgOf (n : Nat) (l : List (Nat × Nat × Nat)) : List Byte :=
  (List.range n).map (fun o => match l.find? (fun f => f.1 ≤ o && o < f.1 + f.2.1) with
    | some f => BitVec.ofNat 8 (f.2.2 / 256 ^ (o - f.1))
    | none => 0)
/-- A running timetable 0 of partition 0 in domain 0 whose TC is c; tile 0 as given. -/
def inTime (c : Nat) (img : List Byte) (t : Tile) : State :=
  { on0 t with
    tts := [(0, { TT.none with parts := [0], st := .running, img := img })]
    doms := [(0, { Dom.none with parts := [0], tc := c, live := true })] }
/-- A tile with one action in its calendar, due at once. -/
def withAct (x : Act) (t : Tile) : Tile := { t with cal := [⟨0, 0, 1, BRef.zero, x⟩] }

/-- An access that was issued in cycle 0. -/
def acc0 (op : AccOp) (ps : List Part) : Acc := ⟨0, 0, 4, BRef.zero, false, op, .rlx, .none, ps, false, false, 0, none, false, 0⟩

/-! ## Witnesses: decoding and stepping -/

theorem wit_EncodingLosesNoOperand : (Instr.addSl 63 63 (.lit 0xFFFFFFFF)).WellFormed ∧
    encTile (.addSl 63 63 (.lit 0xFFFFFFFF)) = some (0x0FFFC000, some 0xFFFFFFFF) := ⟨by unfold Instr.WellFormed; decide, by decide⟩
/-- A bundle of words with these majors: each but the last chains. -/
def majors (l : List Nat) (w : Nat) : Nat :=
  match l[w]? with
  | some m => 2 ^ 26 * m + (if w + 1 < l.length then 2 ^ 31 else 0)
  | none => 0
/-- The words that a bundle of these majors splits into, by majors. -/
def splits (l ms : List Nat) : Option Nat :=
  match splitBundle (majors l) 7 0 0 with
  | .ok r => some (ofMajors r.1 ms)
  | .error _ => none
theorem wit_WordsThatTheSpecRefusesDoNotDecode :
    (majOf 0x14000000 ∈ [5, 6, 7, 0x13, 0x1D, 0x1F] ∧ majOf 0x7FFFFFFF ∈ [5, 6, 7, 0x13, 0x1D, 0x1F]) ∧
    (∃ w i, decodeWord 3 w 0 = some i ∧ majOf w = 0x14) ∧ (∃ w i, decodeWord 3 w 0 = some i ∧ majOf w = 0x15) ∧
    (∃ w i, decodeWord 3 w 0 = some i ∧ majOf w = 0x16) ∧ (∃ w i, decodeWord 2 w 0 = some i ∧ majOf w = 0x17) ∧
    (wantsLit 0x0C310000 = true ∧ (2 + 1) % 3 = 0 ∧ (254 + 1) % 3 = 0) ∧
    ((248 : Nat) + 6 < 255 ∧ ∀ k, k < 6 → chainOf 0x80000000 = true ∧ wantsLit 0x80000000 = false) ∧
    (∃ (get : Nat → Nat) (w k : Nat), k < 6 ∧ (∀ j, j < k → chainOf (get (w + j)) = true ∧ wantsLit (get (w + j)) = false) ∧
      wantsLit (get (w + k)) = true ∧ (w + k + 1) % 3 = 0 ∧ w + k = 254) ∧
    (splits [0, 7, 0x1E] [0, 1, 2, 3, 4, 5, 6, 7, 0x1E] = some 3 ∧ splits [8, 0xB] [8, 9, 0xA, 0xB] = some 2 ∧
      splits [0xC, 0x13] [0xC, 0xD, 0xE, 0xF, 0x10, 0x11, 0x12, 0x13] = some 2 ∧
      splits [0x14, 0x15, 0x14, 0x15] [0x14, 0x15, 0x16, 0x17] = some 4 ∧ splits [0x18, 0x18] [0x18, 0x19] = some 2 ∧
      splits [0x1A, 0x1B] [0x1A, 0x1B] = some 2 ∧ splits [0x1C, 0x1C] [0x1C] = some 2) := by
  refine ⟨by decide, ⟨0x50000000, _, rfl, by decide⟩, ⟨0x54000000, _, rfl, by decide⟩, ⟨0x58200100, _, rfl, by decide⟩,
    ⟨0x5C7C0000, _, rfl, by decide⟩, by decide, by decide,
    ⟨fun w => if w = 254 then 0x0C310000 else 0x80000000, 252, 2, by decide, by decide, by decide, by decide, rfl⟩, ?_⟩
  decide
/-- A tile at word 0 of a segment with a word, then ADD a3, a1, a2. -/
def coded (w : Nat) : State := { on0 { task with code := [[BitVec.ofNat 32 w, 0x00304200]] } with agenda := [.issue 0] }
theorem wit_AStepRunsTheDecodedInstruction :
    (∃ s id r l nx p i rest, s.agenda = .issue id :: r ∧ id < 768 ∧ Issues (tileOf s id) (tcAt s id) ∧
      decodeBundle (halfWord (tileOf s id)) (tileOf s id).pc = .ok (l, nx) ∧ clash (tileOf s id) l = false ∧
      codeEcc s id (tileOf s id) (tileOf s id).pc nx = none ∧ liveWords l = (p, i) :: rest) ∧
    (∃ (s : State) (id p : Nat) (i : Instr) (r : List Work), s.agenda = .word id p i :: r ∧ id < 768) ∧
    (∃ (s : State) (i : Instr) (x : EvArgs) (r : List Work), s.agenda = .ev i x :: r) ∧
    (∃ (s : State) (i : Instr) (x : EvArgs) (r : List (Instr × EvArgs)), s.agenda = [] ∧ s.inputs = (i, x) :: r) ∧
    (∃ (s : State) (q : Nat) (w : Word) (i : Instr) (r : List Work), s.agenda = .cmd q :: r ∧
      (∀ a b c d, (queueAt s q).wait ≠ .copy a b c d) ∧ (queueAt s q).wait ≠ .move ∧ (queueAt s q).wait ≠ .window ∧
      wordAt s q (queueAt s q).at_ = some w ∧ wordServed s q (queueAt s q).at_ = true ∧ decodeCmd w = some i) ∧
    (∃ (s : State) (q : Nat) (r : List Work) (a b c : Nat), s.agenda = .cmd q :: r ∧ (queueAt s q).wait = .copy a b c (some 0)) ∧
    (∃ (s : State) (q : Nat) (i : Instr) (r : List Work), s.agenda = .cmd q :: r ∧ (queueAt s q).wait = .move ∧
      decodeCmd (queueAt s q).ir = some i) ∧
    (∃ (s : State) (q : Nat) (i : Instr) (r : List Work), s.agenda = .cmd q :: r ∧ (queueAt s q).wait = .window ∧
      decodeCmd (queueAt s q).ir = some i) ∧
    (∃ s id p i k, storageOf (tileOf s id) i = [k] ∧ eccBad s 6 id k = true ∧ p = (1 : Nat)) := by
  refine ⟨⟨coded 0x00304200, 0, [], _, _, _, _, _, rfl, by decide, ⟨by decide, by decide, by decide, by decide, by decide, nofun⟩,
    rfl, rfl, rfl, rfl⟩, ⟨{ State.reset with agenda := [.word 767 1 .nop] }, 767, 1, .nop, [], rfl, by decide⟩,
    ⟨{ State.reset with agenda := [.ev .tcTick EvArgs.zero] }, _, _, _, rfl⟩,
    ⟨{ State.reset with inputs := [(.warmReset, EvArgs.zero)] }, _, _, _, rfl, rfl⟩,
    ⟨{ State.reset with agenda := [.cmd 0], queues := [(0, { Queue.off with line := some [0x10001, 0x0120000000004000] })] }, 0, _, _, [],
      rfl, nofun, nofun, nofun, rfl, rfl, rfl⟩,
    ⟨{ State.reset with agenda := [.cmd 0], queues := [(0, { Queue.off with wait := .copy 0 64 64 (some 0) })] }, 0, [], 0, 64, 64, rfl, rfl⟩,
    ⟨{ State.reset with agenda := [.cmd 0], queues := [(0, { Queue.off with wait := .move, ir := 0x0120000000004000 })] }, 0, _, [], rfl, rfl, rfl⟩,
    ⟨{ State.reset with agenda := [.cmd 0], queues := [(0, { Queue.off with wait := .window, ir := 0x0120000000004000 })] }, 0, _, [], rfl, rfl, rfl⟩,
    ⟨{ on0 task with ecc := [(6, 95)] }, 0, 1, .plogAnd 1 15 0, 95, by decide, by decide, rfl⟩⟩
theorem wit_AnIllegalBundleTrapsAndIssuesNothing : (∃ s id r, s.agenda = .issue id :: r ∧ id < 768 ∧
    Issues (tileOf s id) (tcAt s id) ∧ FetchesIllegal s id ∧ causeOf (tileOf s id) = 0 ∧
      ∃ e, decodeBundle (halfWord (tileOf s id)) (tileOf s id).pc = .error e) ∧
    ∃ s id r, s.agenda = .issue id :: r ∧ id < 768 ∧ Issues (tileOf s id) (tcAt s id) ∧ FetchesIllegal s id ∧ causeOf (tileOf s id) = 0 ∧
      ∃ x, decodeBundle (halfWord (tileOf s id)) (tileOf s id).pc = .ok x :=
  ⟨⟨coded 0x7FFFFFFF, 0, [], rfl, by decide, ⟨by decide, by decide, by decide, by decide, by decide, nofun⟩, .inl ⟨_, rfl, rfl⟩, by decide,
      _, rfl⟩,
    coded 0x80304200, 0, [], rfl, by decide, ⟨by decide, by decide, by decide, by decide, by decide, nofun⟩,
      .inr ⟨[(0, .add 3 1 2), (1, .add 3 1 2)], 2, .add 3 1 2, .add 3 1 2, rfl, by decide, by decide, .inl ⟨3, by decide, by decide, by decide⟩, rfl⟩,
      by decide, _, rfl⟩
theorem wit_EveryStepKeepsMemoryCanonical : ∃ s t, MemOk s ∧ step s = .next t :=
  ⟨{ coded 0 with mem := [(7, 1)] }, _, ⟨by decide, by decide, by unfold TilesOk; decide, by unfold HalvesOk; decide, nofun, nofun⟩, rfl⟩

/-! ## Scalar words -/

/-- Registers 1 to 4 with values, registers 8 to 10 for accesses. -/
def regs : Tile := { task with a := [(1, 0x8000000000000000), (2, 3), (3, 64), (4, 0x3F800000)] }
theorem wit_IntegerWordsComputeTheirResults : ∃ i s f, aForm (me s) i = some f ∧ Readable s f.src ∧ Writable s f.d :=
  ⟨.sel 3 1 2, on0 regs, _, rfl, by unfold Readable; decide, by unfold Writable; decide⟩
theorem wit_PredicateWordsComputeTheirResults : ∃ i s f, pForm (me s) i = some f ∧ Readable s f.src :=
  ⟨.fcmpUn 15 4 4, on0 regs, _, rfl, by unfold Readable; decide⟩
theorem wit_FloatWordsRoundOnceAndConvert : (∃ i s f, fForm (me s) i = some f ∧ Readable s f.src ∧ Writable s f.d) ∧
    ∃ s, Readable s [4] ∧ Writable s 63 :=
  ⟨⟨.ffma 63 4 4, on0 regs, _, rfl, by unfold Readable; decide, by unfold Writable; decide⟩,
   on0 regs, by unfold Readable; decide, by unfold Writable; decide⟩
/-- Shape 7 with two extents, 3 and 4. -/
def shaped : State := on0 { regs with sh := [(7, ⟨[(3, 0xAAAAAAAB, 1), (4, 0x80000000, 1)]⟩)] }
theorem wit_TensorIndexWordsFollowTheShape : (shapeOf (me shaped) 7).dims ≠ [] ∧ (62 : Reg) ≠ 0 ∧
    (62 : Reg).toNat + (shapeOf (me shaped) 7).dims.length ≤ 64 ∧ Readable shaped [2] ∧
    (∀ j < (shapeOf (me shaped) 7).dims.length, Writable shaped (BitVec.ofNat 6 ((62 : Reg).toNat + j))) ∧
    64 < (63 : Reg).toNat + (shapeOf (me shaped) 7).dims.length ∧ (shapeOf (me shaped) 8).dims = [] :=
  ⟨by decide, by decide, by decide, by unfold Readable; decide, by unfold Writable; decide, by decide, by decide⟩
theorem wit_SystemWordsReadAndWriteTheirRegisters : (∃ i s d v, readForm s i = some (d, v) ∧ Writable s d) ∧
    (∃ i s d v, (me s).firmware = true ∧ privForm s i = some (d, v) ∧ Writable s d) ∧
    (∃ s, Readable s [1, 2]) ∧ ∃ s, Readable s [1] ∧ afReserved .sstat (rdReg (me s) 1) = false :=
  ⟨⟨.rdsr 63 .segst, on0 regs, _, _, rfl, by unfold Writable; decide⟩,
   ⟨.rdtc 63, on0 { regs with firmware := true }, _, _, rfl, rfl, by unfold Writable; decide⟩,
   ⟨on0 regs, by unfold Readable; decide⟩, on0 regs, by unfold Readable; decide, by decide⟩
theorem wit_PrivilegedWordsAndPendingRegistersTrap :
    (∃ i s, privileged i = true ∧ (me s).firmware = false ∧ ∀ d, i = .ptid d ∨ i = .rdwc d ∨ i = .rdtc d → Writable s d) ∧
    (∃ i s f, aForm (me s) i = some f ∧ ¬ Writable s f.d) ∧
    (∃ i s f, aForm (me s) i = some f ∧ ∃ r ∈ f.src, regPending s r = true) ∧
    (∃ i s, (∀ g, guardField i = some g → guardOn (me s) g = true) ∧ ∃ r ∈ (names i).1, regPending s r = true) ∧
    (∃ i s, (∀ g, guardField i = some g → guardOn (me s) g = true) ∧ ∃ q ∈ (names i).2, qPending s q = true) ∧
    ∃ (s : State) (g : Guard) (ma : MemA), guardOn (me s) g = true ∧ regPending s ma.ba = true :=
  ⟨⟨.ptid 63, on0 regs, by decide, by decide, fun d h => by rcases h with h | h | h <;> cases h; unfold Writable; decide⟩,
   ⟨.add 31 1 2, inTime 5 [] { regs with pendR := [(31, 0)], out := [acc0 (.load 8 false 31) []] }, _, rfl, by unfold Writable; decide⟩,
   ⟨.add 3 31 2, inTime 5 [] { regs with pendR := [(31, 0)], out := [acc0 (.load 8 false 31) []] }, _, rfl, 31, by decide, by decide⟩,
   ⟨.gst 0 3 ⟨.rlx, .none⟩ 4 ⟨31, none⟩, inTime 5 [] { regs with pendR := [(31, 0)], out := [acc0 (.load 8 false 31) []] },
     fun g h => by cases h; decide, 31, by decide, by decide⟩,
   ⟨.vmovq 1 ⟨true, 15⟩, inTime 5 [] { regs with queues := [(15, [⟨some 0, 0⟩])], out := [acc0 (.loadV 15) []] }, nofun, 15, by decide, by decide⟩,
   ⟨inTime 5 [] { regs with pendR := [(31, 0)], out := [acc0 (.load 8 false 31) []] }, 0, ⟨31, none⟩, by decide, by decide⟩⟩

/-! ## Landing and control -/

theorem wit_WritesLandInIssueOrderInTheirTile :
    (∃ s p r, Due s s.ev.a (isLanding s.ev.flag) p r ∧
      ∀ row g v k, p.act = .aswr row g v → k < 32 → eccBad s 4 s.ev.a (128 * row + 32 * g + k) = false) ∧
    (∃ s p r row g v, Due s s.ev.a (isLanding s.ev.flag) p r ∧ p.act = .aswr row g v ∧
      ∃ k < 32, eccBad s 4 s.ev.a (128 * row + 32 * g + k) = true) ∧
    ([⟨0, 0, 1, BRef.zero, .lc 0 1⟩, ⟨0, 0, 2, BRef.zero, .lc 1 1⟩] : List Pend).Pairwise (fun p q => pendBefore p q = true) ∧
    (∃ (t : Tile) (m n : Nat), t.rs ≤ 32 ∧ m < 64 ∧ n < 64 ∧ physReg t m = physReg t n) ∧
    ∃ (t : Tile) (i : Nat), t.rs ≤ 32 ∧ t.rb < t.rs ∧ i + 1 < t.rs := by
  refine ⟨⟨on0 (withAct (.reg 3 7) task), ⟨0, 0, 1, BRef.zero, .reg 3 7⟩, [], ⟨[], [], rfl, rfl, by decide, by decide, by simp⟩,
      fun _ _ _ _ h => Act.noConfusion h⟩,
    ⟨{ on0 (withAct (.aswr 767 3 0) task) with ecc := [(4, 98303)] }, ⟨0, 0, 1, BRef.zero, .aswr 767 3 0⟩, [], 767, 3, 0,
      ⟨[], [], rfl, rfl, by decide, by decide, by simp⟩, rfl, 31, by decide, by decide⟩, by decide,
    ⟨{ task with rs := 32, rb := 31 }, 63, 63, by decide, by decide, by decide, rfl⟩,
    { task with rs := 32, rb := 31 }, 30, by decide, by decide, by decide⟩

/-- Two loops around word 0 of a code half of six words, three delay bundles on. -/
def looping (t : Tile) : Tile := { t with loops := [⟨0, 3, 5, true, 2⟩, ⟨1, 0, 8, false, 0⟩], lc := [(0, 2), (1, 1)], rs := 4, pc := 6, loopEnd := true }
/-- The tile has a branch whose delay bundles have issued. -/
def branching (w : Nat) : State := on0 { looping task with branch := some ⟨w, BRef.zero, 0⟩ }
theorem wit_BranchesReachTheirTargetsOrFault :
    (∃ (s : State) (c : Cond), (me s).delay = 0 ∧ condTrue (me s) c = false ∧ Readable s [1]) ∧
    (∃ (s : State) (i : Instr), (me s).delay ≠ 0 ∧ controlWord i = true) ∧
    (∃ (s : State) (w w' : Nat), (me s).delay = 0 ∧ Writable s 1 ∧ nextBundle (me s) (me s).pc = some w ∧ nextBundle (me s) w = some w') ∧
    (∃ s id b, s.ev.a = id ∧ (tileOf s id).branch = some b ∧ b.left = 0 ∧ (tileOf s id).wait = .none ∧ (tileOf s id).hold = .none ∧
      (tileOf s id).next ≤ tcAt s id ∧ b.target < 255 ∧ b.target % 3 = 0 ∧
      codeEcc s id (tileOf s id) b.target (fetchEnd (halfWord (tileOf s id)) 7 b.target 0) = none) ∧
    (∃ s id b k, s.ev.a = id ∧ (tileOf s id).branch = some b ∧ b.left = 0 ∧ (tileOf s id).wait = .none ∧ (tileOf s id).hold = .none ∧
      (tileOf s id).next ≤ tcAt s id ∧ b.target < 255 ∧ b.target % 3 = 0 ∧
      codeEcc s id (tileOf s id) b.target (fetchEnd (halfWord (tileOf s id)) 7 b.target 0) = some k) ∧
    (∃ s id b, s.ev.a = id ∧ (tileOf s id).branch = some b ∧ b.left = 0 ∧ (tileOf s id).wait = .none ∧ (tileOf s id).hold = .none ∧
      (tileOf s id).next ≤ tcAt s id ∧ 255 ≤ b.target) ∧
    ∃ s id b, s.ev.a = id ∧ (tileOf s id).branch = some b ∧ b.left = 0 ∧ (tileOf s id).wait = .none ∧ (tileOf s id).hold = .none ∧
      (tileOf s id).next ≤ tcAt s id ∧ b.target < 255 ∧ b.target % 3 ≠ 0 := by
  refine ⟨⟨on0 regs, ⟨0, true⟩, by decide, by decide, by unfold Readable; decide⟩,
    ⟨on0 { regs with delay := 1 }, .trap ⟨0, false⟩ 0, by decide, rfl⟩,
    ⟨on0 { regs with code := [[0, 0, 0]] }, 1, 2, by decide, by unfold Writable; decide, by decide, by decide⟩,
    ⟨branching 252, 0, _, rfl, rfl, by decide, by decide, by decide, by decide, by decide, by decide, by decide +kernel⟩,
    ⟨{ branching 252 with ecc := [(1, 252)] }, 0, _, 252, rfl, rfl, by decide, by decide, by decide, by decide, by decide, by decide, by decide +kernel⟩,
    ⟨branching 255, 0, _, rfl, rfl, by decide, by decide, by decide, by decide, by decide⟩,
    ⟨branching 254, 0, _, rfl, rfl, by decide, by decide, by decide, by decide, by decide, by decide⟩⟩

theorem wit_HardwareLoopsCountTheirPasses :
    (∃ s k n e, (me s).delay = 0 ∧ countOk s n ∧ LoopFree (me s) k e false ∧ countOf (me s) n = 0) ∧
    (∃ s k n e, (me s).delay = 0 ∧ countOk s n ∧ LoopFree (me s) k e true ∧ countOf (me s) n = 2 ^ 32 - 1) ∧
    (∃ (s : State) (t : Tile) (l : LoopSt) (r : List LoopSt), t = tileOf s s.ev.a ∧ t.loopEnd = true ∧ t.loops = l :: r ∧ t.pc = l.last + 1 ∧
      rdLc t l.k ≠ 1 ∧ l.rot = true ∧ 0 < t.rs) ∧
    ∃ (s : State) (t : Tile) (l : LoopSt) (r : List LoopSt), t = tileOf s s.ev.a ∧ t.loopEnd = true ∧ t.loops = l :: r ∧ t.pc = l.last + 1 ∧
      rdLc t l.k = 1 ∧ ∀ o ∈ r.head?, t.pc ≠ o.last + 1 := by
  refine ⟨⟨on0 regs, 2, .reg 0, 84, by decide, by unfold countOk Readable; decide, by unfold LoopFree; decide, by decide⟩,
    ⟨on0 { regs with rs := 1 }, 2, .lit 0xFFFFFFFF, 84, by decide, trivial, by unfold LoopFree; decide, by decide⟩,
    ⟨on0 (looping task), _, _, _, rfl, rfl, rfl, by decide, by decide, by decide, by decide⟩,
    ⟨on0 { looping task with lc := [(0, 1)] }, _, _, _, rfl, rfl, rfl, by decide, by decide, by decide⟩⟩

/-- A code image of one segment with its own successor 1. -/
def segImg : List Byte := imgOf 64 [(0x14, 4, 0x20), (0x20, 4, 1), (0x24, 4, 0x80000001), (0x28, 4, 0)]
theorem wit_SegmentsSwapAndFill :
    (∃ s c, (me s).delay = 0 ∧ condTrue (me s) c = true ∧ (me s).loops = [] ∧ (me s).pilot.ready = true) ∧
    (∃ s c, (me s).delay = 0 ∧ condTrue (me s) c = true ∧ (me s).loops = [] ∧ (me s).pilot.ready = false) ∧
    (∃ s c, (me s).delay = 0 ∧ condTrue (me s) c = false) ∧
    ∃ (s : State) (t : Tile), t = tileOf s s.ev.a ∧ t.pilot.busy = true ∧ tcAt s s.ev.a = t.pilot.start + 21 := by
  refine ⟨⟨inTime 0 segImg { task with pilot := ⟨0, false, false, false, true⟩ }, ⟨0, false⟩, by decide, by decide, by decide, by decide⟩,
    ⟨inTime 0 segImg task, ⟨0, false⟩, by decide, by decide, by decide, by decide⟩,
    ⟨inTime 0 segImg task, ⟨0, true⟩, by decide, by decide⟩,
    ⟨inTime 30 segImg { task with pilot := ⟨9, true, false, false, false⟩ }, _, rfl, by decide, by decide⟩⟩

/-- Joint 2 is defined at cycle 100. -/
def jointImg : List Byte := imgOf 64 [(0x1C, 4, 0x20), (0x30, 4, 100), (0x34, 4, 1)]
theorem wit_TimedWordsKeepTheirCycles :
    (∃ s c, ∃ v : Lit, (me s).elastic = false ∧ condTrue (me s) c = true ∧ cyc s % 2 ^ 32 = v.toNat) ∧
    (∃ s c, ∃ v : Lit, (me s).elastic = false ∧ condTrue (me s) c = true ∧ cyc s % 2 ^ 32 ≠ v.toNat) ∧
    (∀ c ∈ [99, 100, 101], ∃ s h g, cyc s = c ∧ (me s).delay = 0 ∧ (me s).skip ≠ some (now s, 0x17) ∧
      jointEntry (image s s.cur) 2 = (100, true, h, g)) ∧
    (∃ s h g, cyc s = 101 ∧ (me s).delay = 0 ∧ (me s).skip = some (now s, 0x17) ∧ jointEntry (image s s.cur) 2 = (100, true, h, g)) ∧
    (∀ e : Bool, ∃ s a, (me s).delay = 0 ∧ Readable s [a] ∧ cyc s < (rdReg (me s) a).toNat ∧ (me s).elastic = e) ∧
    (∃ s, ∃ l : Lit, (me s).delay = 0 ∧ l.toNat ≤ cyc s) ∧
    (∃ (s : State) (t : Tile) (j : Nat) (b : BRef), t = tileOf s s.ev.a ∧ t.wait = .joint j b ∧ tcAt s s.ev.a = j) ∧
    ∃ (s : State) (t : Tile) (v : Nat) (b : BRef), t = tileOf s s.ev.a ∧ t.wait = .waitc v b ∧ v ≤ tcAt s s.ev.a := by
  refine ⟨⟨inTime 9 [] task, ⟨0, false⟩, 9, by decide, by decide, by decide⟩, ⟨inTime 9 [] task, ⟨0, false⟩, 10, by decide, by decide, by decide⟩,
    ?_, ⟨inTime 101 jointImg { task with skip := some (101, 0x17) }, false, false, rfl, rfl, rfl,
      (by decide : jointEntry jointImg 2 = (100, true, false, false))⟩, ?_, ⟨inTime 9 [] task, 9, by decide, by decide⟩, ⟨inTime 9 [] { task with wait := .joint 9 BRef.zero }, _, _, _, rfl, rfl, rfl⟩,
    ⟨inTime 9 [] { task with wait := .waitc 9 BRef.zero }, _, _, _, rfl, rfl, by decide⟩⟩
  · intro c _
    exact ⟨inTime c jointImg task, false, false, rfl, rfl, nofun, (by decide : jointEntry jointImg 2 = (100, true, false, false))⟩
  · intro e
    exact ⟨inTime 9 [] { regs with elastic := e }, 3, rfl, by unfold Readable; cases e <;> decide, by cases e <;> decide, by cases e <;> rfl⟩

/-! ## Vector words -/

/-- Queues 0 to 5 hold two vectors each. -/
def vecs : Tile := { regs with queues := (List.range 6).map (fun q => (q, [⟨none, 5⟩, ⟨none, 3⟩])), vm := [(1, 6)] }
theorem takes_vecs : Takes (on0 vecs) [⟨false, 0⟩, ⟨true, 1⟩] [5, 5] (setQ vecs 0 [⟨none, 3⟩]) := ⟨by unfold QueueFree; decide, by decide +kernel⟩
theorem pushable_vecs : Pushable (on0 vecs) 15 := by unfold Pushable; decide

theorem wit_VectorArithmeticComputesItsLanes : ∃ i s f vs t, i.WellFormed ∧ vForm (me s) i = some f ∧ f.Ready s vs t :=
  ⟨.vmin 15 ⟨false, 0⟩ ⟨true, 1⟩ .i8 1, on0 vecs, _, _, _, by unfold Instr.WellFormed; decide, rfl, takes_vecs,
    by unfold Readable; decide, pushable_vecs⟩
theorem wit_VectorConversionsComputeTheirLanes : ∃ i s f vs t, i.WellFormed ∧ vFunForm (me s) i = some f ∧ f.Ready s vs t :=
  ⟨.vrcpf 15 ⟨false, 0⟩ ⟨true, 1⟩, on0 vecs, _, _, _, by unfold Instr.WellFormed; decide, rfl, takes_vecs,
    by unfold Readable; decide, pushable_vecs⟩
theorem wit_VectorMovesAndComparesComputeTheirLanes :
    (∃ i s f vs t, i.WellFormed ∧ vMoveForm (me s) i = some f ∧ f.Ready s vs t) ∧
    (∃ i s v c a b ty m x y t, vCmpForm i = some (v, c, a, b, ty, m) ∧ Takes s [a, b] [x, y] t) ∧
    ∃ i s v r, vmlogForm (me s) i = some (v, r) :=
  ⟨⟨.vperm 15 ⟨false, 0⟩ ⟨true, 1⟩ .i8 1, on0 vecs, _, _, _, by unfold Instr.WellFormed; decide, rfl, takes_vecs,
      by unfold Readable; decide, pushable_vecs⟩,
   ⟨.vcmpUn 7 ⟨false, 0⟩ ⟨true, 1⟩ .f32 0, on0 vecs, _, _, _, _, _, _, _, _, _, rfl, takes_vecs⟩, .vmlogAndn 7 0 1, on0 vecs, _, _, rfl⟩
theorem wit_RegroupingsAndStreamsPushTheirVectors :
    (∃ s d a dt st v t, (Instr.vwiden d a dt st).WellFormed ∧ Takes s [a] [v] t ∧
      ∀ j < widenK dt st, Pushable s (d + BitVec.ofNat 4 j)) ∧
    (∃ s d a sat dt st rm vs t, (Instr.vnarrow d a sat dt st rm).WellFormed ∧
      Takes s ((List.range (widenK st dt)).map (fun j => ⟨a.pk, a.q + BitVec.ofNat 4 j⟩)) vs t ∧ Pushable s d) ∧
    (∃ s d a rm x vs t, (Instr.vmxs d a rm x).WellFormed ∧
      Takes s ((List.range 4).map (fun j => ⟨a.pk, a.q + BitVec.ofNat 4 j⟩)) vs t ∧ Pushable s d ∧ Pushable s (d + 1)) ∧
    (∃ s d a b, ∃ p : ShufPat, ∃ vs t, Takes s (if p = 4 then [a] else [a, b]) vs t ∧ Pushable s d) ∧
    (∃ s d, qPending s d = false) ∧
    (∃ s d a ty v t n, n = 512 / tyW ty ∧ (me s).pack.length < n ∧ streamTakes (me s) 20 18 ty ∧ Takes s [a] [v] t ∧ Pushable s d) ∧
    (∃ s ty m n u, ∃ a : QSrc, ∃ h rest d, n = 512 / tyW ty ∧ u = vstatField (me s) 8 10 ∧ streamTakes (me s) 8 6 ty ∧
      qOf (me s) a.q = h :: rest ∧ h.resv = none ∧ QueueFree s a.q ∧ Pushable s d ∧ (n < u + activeBelow (rdMask (me s) m) n → rest ≠ [])) := by
  have one : Takes (on0 vecs) [⟨false, 0⟩] [5] (setQ vecs 0 [⟨none, 3⟩]) := ⟨by unfold QueueFree; decide, by decide +kernel⟩
  refine ⟨⟨on0 vecs, 12, ⟨false, 0⟩, .bf16, .e2m1, _, _, by unfold Instr.WellFormed; decide, one, ?_⟩,
    ⟨on0 vecs, 15, ⟨true, 0⟩, true, .i8, .i16, .rne, [5, 5], vecs, by unfold Instr.WellFormed; decide, ⟨by unfold QueueFree; decide, by decide +kernel⟩,
      pushable_vecs⟩,
    ⟨on0 vecs, 14, ⟨true, 0⟩, .rne, 1, [5, 5, 5, 5], vecs, by unfold Instr.WellFormed; decide, ⟨by unfold QueueFree; decide, by decide +kernel⟩,
      pushable_vecs, by unfold Pushable; decide⟩,
    ⟨on0 vecs, 15, ⟨false, 0⟩, ⟨true, 1⟩, 4, _, _, one, pushable_vecs⟩, ⟨on0 vecs, 0, by decide⟩,
    ⟨on0 vecs, 15, ⟨false, 0⟩, .i32, _, _, _, rfl, by decide, by unfold streamTakes; decide, one, pushable_vecs⟩,
    ⟨on0 vecs, .i32, 1, _, _, ⟨false, 0⟩, _, _, 15, rfl, rfl, by unfold streamTakes; decide, rfl, rfl, by unfold QueueFree; decide,
      pushable_vecs, by decide +kernel⟩⟩
  · unfold Pushable; decide
theorem wit_ReductionsFollowTheFixedTree : ∃ i s f vs t, i.WellFormed ∧ redForm (me s) i = some f ∧ Takes s f.src vs t ∧ Pushable s f.d :=
  ⟨.vdot 15 ⟨false, 0⟩ ⟨true, 1⟩ .bf16 .umber, on0 vecs, _, _, _, by unfold Instr.WellFormed; decide, rfl, takes_vecs, pushable_vecs⟩

/-! ## Memory -/

/-- Register 5 points at an address; registers 1 to 4 and queues as above. -/
def ptr (v : Word) : Tile := { vecs with a := [(1, 0x8000000000000000), (2, 3), (3, 64), (4, 0x3F800000), (5, v)] }
/-- An own-shaft address: layer 3, macro 119, half 1, its last 8 bytes; and the same in the shaft of tile 1. -/
def shA : Word := 0x1F7F7F8
def remA : Word := 0x81010077F8
theorem takes_ptr : Takes (on0 (ptr 0x1FFE00)) [⟨false, 0⟩] [5] (setQ (ptr 0x1FFE00) 0 [⟨none, 3⟩]) :=
  ⟨by unfold QueueFree; decide, by decide +kernel⟩

theorem wit_TileMemoryWordsIssueOrFault :
    (∃ s g ma, guardOn (me s) g = true ∧ M0Ok s (addrOf (me s) ma) (2 ^ 3) ∧ Readable s [ma.ba] ∧ Writable s 63 ∧ Readable s [63]) ∧
    (∃ s g ma d v t, guardOn (me s) g = true ∧ M0Ok s (addrOf (me s) ma) 512 ∧ Readable s [ma.ba] ∧ Pushable s d ∧ Takes s [⟨false, d⟩] [v] t) ∧
    (∃ s g ma f, guardOn (me s) g = true ∧ (me s).elastic = false ∧ f = m1Fields (addrOf (me s) ma) ∧ M1Ok s (addrOf (me s) ma) (2 ^ 3) ∧
      Readable s [ma.ba] ∧ f.rem = false ∧ ShaftOk s (addrOf (me s) ma) ∧ Writable s 63 ∧ Readable s [63]) ∧
    (∃ s g ma f, guardOn (me s) g = true ∧ (me s).elastic = false ∧ f = m1Fields (addrOf (me s) ma) ∧ M1Ok s (addrOf (me s) ma) (2 ^ 3) ∧
      Readable s [ma.ba] ∧ f.rem = true ∧ Writable s 63 ∧ Readable s [63]) ∧
    (∀ a ∈ [2 ^ 21, 2 ^ 64 - 8], ∃ s g ma, guardOn (me s) g = true ∧ Readable s [ma.ba] ∧ (addrOf (me s) ma).toNat = a ∧
      2 ^ 21 ≤ (addrOf (me s) ma).toNat) ∧
    (∃ s g ma, guardOn (me s) g = true ∧ Readable s [ma.ba] ∧ (addrOf (me s) ma).toNat < 2 ^ 21 ∧ (addrOf (me s) ma).toNat % 2 ^ 3 ≠ 0) ∧
    (∃ s, ∃ ma : MemA, (me s).elastic = false ∧ Readable s [ma.ba] ∧ m1Outside (addrOf (me s) ma) = true) ∧
    (∃ s, ∃ ma : MemA, (me s).elastic = false ∧ Readable s [ma.ba] ∧ m1Outside (addrOf (me s) ma) = false ∧ (addrOf (me s) ma).toNat % 2 ^ 3 ≠ 0) ∧
    (∃ s, ∃ ma : MemA, (me s).elastic = false ∧ Readable s [ma.ba] ∧ m1Outside (addrOf (me s) ma) = false ∧
      (addrOf (me s) ma).toNat % 2 ^ 3 = 0 ∧ (m1Fields (addrOf (me s) ma)).ofs = 30720) ∧
    (∃ s, ∃ ma : MemA, Readable s [ma.ba] ∧ m1Outside (addrOf (me s) ma) = false ∧ (addrOf (me s) ma).toNat % 2 ^ 3 = 0 ∧
      macroCount s (m1Tile s.cur (m1Fields (addrOf (me s) ma))) (m1Fields (addrOf (me s) ma)).layer = (m1Fields (addrOf (me s) ma)).macro_) ∧
    (∃ s, ∃ ma : MemA, Readable s [ma.ba] ∧ m1Outside (addrOf (me s) ma) = false ∧ (addrOf (me s) ma).toNat % 2 ^ 3 = 0 ∧
      (m1Fields (addrOf (me s) ma)).rem = true ∧ m1Tile s.cur (m1Fields (addrOf (me s) ma)) = s.cur) ∧
    (∃ s, ∃ ma : MemA, Readable s [ma.ba] ∧ m1Outside (addrOf (me s) ma) = false ∧ (addrOf (me s) ma).toNat % 2 ^ 3 = 0 ∧
      (m1Fields (addrOf (me s) ma)).rem = true ∧ partOf (m1Tile s.cur (m1Fields (addrOf (me s) ma))) ∉ (domAt s (domOf s s.cur)).parts) ∧
    (∃ s, ∃ ma : MemA, Readable s [ma.ba] ∧ (addrOf (me s) ma).toNat = 2 ^ 21 ∧ Pushable s 15) ∧
    ∃ s, ∃ ma : MemA, ∃ v t, Readable s [ma.ba] ∧ (addrOf (me s) ma).toNat < 2 ^ 21 ∧ (addrOf (me s) ma).toNat % 512 ≠ 0 ∧
      Takes s [⟨false, 0⟩] [v] t := by
  refine ⟨⟨on0 (ptr 0x200000), 0, ⟨5, some 0xFFFFFFF8⟩, by decide, by unfold M0Ok; decide, by unfold Readable; decide, by unfold Writable; decide,
      by unfold Readable; decide⟩,
    ⟨on0 (ptr 0x1FFE00), 0, ⟨5, none⟩, 0, 5, _, by decide, by unfold M0Ok; decide, by unfold Readable; decide, by unfold Pushable; decide,
      takes_ptr⟩,
    ⟨inTime 0 [] (ptr shA), 0, ⟨5, none⟩, _, by decide, by decide, rfl, by unfold M1Ok; decide +kernel, by unfold Readable; decide, by decide,
      by unfold ShaftOk; decide +kernel, by unfold Writable; decide, by unfold Readable; decide⟩,
    ⟨inTime 0 [] (ptr remA), 0, ⟨5, none⟩, _, by decide, by decide, rfl, by unfold M1Ok; decide +kernel, by unfold Readable; decide, by decide,
      by unfold Writable; decide, by unfold Readable; decide⟩, ?_,
    ⟨on0 (ptr 0x1FFFFF), 0, ⟨5, none⟩, by decide, by unfold Readable; decide, by decide, by decide⟩,
    ⟨on0 (ptr 0x2000000), ⟨5, none⟩, by decide, by unfold Readable; decide, by decide⟩,
    ⟨on0 (ptr 4), ⟨5, none⟩, by decide, by unfold Readable; decide, by decide, by decide⟩,
    ⟨on0 (ptr 0x7800), ⟨5, none⟩, by decide, by unfold Readable; decide, by decide, by decide, by decide⟩,
    ⟨on0 (ptr 0x780000), ⟨5, none⟩, by unfold Readable; decide, by decide, by decide, by decide +kernel⟩,
    ⟨on0 (ptr 0x8000007000), ⟨5, none⟩, by unfold Readable; decide, by decide, by decide, by decide, by decide⟩,
    ⟨on0 (ptr 0x81010077F8), ⟨5, none⟩, by unfold Readable; decide, by decide, by decide, by decide, by decide⟩,
    ⟨on0 (ptr 0x200000), ⟨5, none⟩, by unfold Readable; decide, by decide, by unfold Pushable; decide⟩,
    ⟨on0 (ptr 0x1FFE01), ⟨5, none⟩, 5, setQ (ptr 0x1FFE01) 0 [⟨none, 3⟩], by unfold Readable; decide, by decide, by decide,
      by unfold QueueFree; decide, by decide +kernel⟩⟩
  intro a h
  rcases List.mem_cons.1 h with rfl | h
  · exact ⟨on0 (ptr 0x200000), 0, ⟨5, none⟩, by decide, by unfold Readable; decide, by decide, by decide⟩
  · rcases List.mem_cons.1 h with rfl | h
    · exact ⟨on0 (ptr 0), 0, ⟨5, some 0xFFFFFFF8⟩, by decide, by unfold Readable; decide, by decide, by decide⟩
    · cases h

theorem noEcc (s : State) (h : s.ecc = []) (c o a n : Nat) : eccLines s c o a n = false := by simp [eccLines, h]
theorem due_one (s : State) (id : Nat) (k : Act → Bool) (p : Pend) (h1 : (tileOf s id).cal = [p]) (h2 : p.due ≤ tcAt s id) (h3 : k p.act = true) :
    Due s id k p [] := ⟨[], [], h1, rfl, h2, h3, by simp⟩
/-- The action of a one-entry calendar. -/
def act0 (x : Act) : Pend := ⟨0, 0, 1, BRef.zero, x⟩
/-- Tile 0 with an outstanding remote access in the shaft of tile 1. -/
def remote (op : AccOp) : State := evt 0 0 0 (inTime 30 [] { ptr 0 with out := [{ acc0 op [Claims.part 0 0x81010077F8 8 7] with m1 := true }] })
theorem wit_TileMemoryAccessesMoveTheirBytes :
    (∀ x ∈ [Act.m0Load 0x1FFFF8 8 true 3, .m0LoadV 0x1FFE00 3, .m0Store 0x1FFFFF 1 5, .m0StoreV 0 5], ∃ s p r, Due s s.ev.a isM0 p r ∧ p.act = x ∧
      eccLines s 2 s.ev.a 0x1FFFF8 8 = false ∧ eccLines s 2 s.ev.a 0x1FFE00 512 = false ∧ eccLines s 2 s.ev.a 0x1FFFFF 1 = false ∧
      eccLines s 2 s.ev.a 0 512 = false) ∧
    (∀ x ∈ [Act.shLoad 1023 30719 1 true 3, .shStore 1023 30719 1 5], ∃ s p r, Due s s.ev.a isSh p r ∧ p.act = x ∧
      lanesOk s s.ev.a (hmLayer 1023) = true ∧ Correctable s 1023 30719 1 ∧ wrongBits s 1023 30656 = 1) ∧
    ∀ op ∈ [AccOp.load 8 true 3, .store], ∃ s x p f hm, accOf (tileOf s s.ev.a) s.ev.b = some x ∧ x.op = op ∧ x.parts = [p] ∧ x.done = false ∧
      x.stuck = false ∧ x.m1 = true ∧ f = m1Fields (BitVec.ofNat 64 p.va) ∧ hm = m1Half s s.ev.a f ∧ remoteDue s s.ev.a x.issue f.layer = true ∧
      hmFree s (m1Tile s.ev.a f) hm = true ∧ (halfOf s hm).mode = false ∧ lanesOk s (m1Tile s.ev.a f) f.layer = true ∧
      Correctable s hm f.ofs 8 := by
  refine ⟨fun x h => ?_, fun x h => ?_, fun op h => ?_⟩
  · exact ⟨on0 (withAct x task), act0 x, [], due_one _ _ _ _ rfl (Nat.zero_le _) (by revert x; decide +kernel), rfl, by rfl, by rfl, by rfl, by rfl⟩
  · exact ⟨{ on0 (withAct x task) with ecc := [(3, 1023 * 2 ^ 32 + 8 * 30656 + 511)] }, act0 x, [],
      due_one _ _ _ _ rfl (Nat.zero_le _) (by revert x; decide +kernel), rfl, by rfl, by revert x; unfold Correctable; decide +kernel, by revert x; decide +kernel⟩
  · exact ⟨remote op, _, _, _, _, rfl, rfl, rfl, rfl, rfl, rfl, rfl, rfl, by rfl, by rfl, by rfl, by rfl,
      by rcases List.mem_cons.1 h with rfl | h; · unfold Correctable; decide +kernel
         · rcases List.mem_singleton.1 h with rfl; unfold Correctable; decide +kernel⟩

theorem wit_AFalseGuardHasNoEffect : (∃ i s g, guardField i = some g ∧ guardOn (me s) g = false ∧ ¬ IllegalD s i) ∧
    (∃ i s g, guardField i = some g ∧ guardOn (me s) g = false ∧ IllegalD s i) ∧
    ∃ i s g, guardField i = some g ∧ guardOn (me s) g = false ∧ IllegalD s i :=
  ⟨⟨.mshift 7 (HSet.ofLit 0), on0 task, 7, rfl, by decide, fun ⟨_, _, _, h, _⟩ => nomatch h⟩,
   ⟨.dwin 7 true 1, { on0 task with cur := 1 }, 7, rfl, by decide, true, 0, 0, rfl, .inl ⟨rfl, by decide⟩⟩,
   ⟨.dact 7 false 1 (.lit 65536), on0 task, 7, rfl, by decide, false, 0, 65537, rfl, .inr (.inr (by decide))⟩⟩

/-! ## Global memory -/

/-- The pages 0 (of the host, strongly ordered), 1 (of this device, release consistency), 2 and 3 (of the host, release consistency)
of 64 KiB. -/
def hostPage : Page := ⟨0, 0, .k64, 0, .so, true, .host⟩
def herePage : Page := ⟨0, 0x10000, .k64, 0, .rc, true, .here⟩
def rcPage (k : Nat) : Page := ⟨0, 65536 * k, .k64, 65536 * k, .rc, true, .host⟩
/-- These pages exist; those listed are resident. -/
def paged (l : List Page) (s : State) : State :=
  { s with pages := [hostPage, herePage, rcPage 2, rcPage 3], caches := [(0, ⟨l.map (fun p => (0, p)), []⟩)] }
/-- Tile 0 with two outstanding accesses, the event naming the second and its part 0. -/
def access (x : Acc) (ps : List Part) (y : Acc) : State :=
  evt 0 1 0 (paged [] (inTime 9 [] { ptr 0 with out := [{ x with parts := ps }, { y with id := 1 }] }))
/-- A part of n bytes at an address. -/
def at_ (va n : Nat) : List Part := [Claims.part 0 va n 7]
/-- An access of nothing. -/
def noAcc : Acc := { acc0 .none [] with done := true }

theorem wit_GlobalWordsIssueTheirAccess :
    (∃ i s g f vs t, gForm s i = some (g, f) ∧ guardOn (me s) g = true ∧ f.Ready s vs t false) ∧
    (∃ i s g f vs t, gForm s i = some (g, f) ∧ guardOn (me s) g = true ∧ f.Ready s vs t true) ∧ ∃ s, guardOn (me s) 0 = true := by
  refine ⟨⟨.gldSigned 0 3 ⟨.rlx, .none⟩ 63 ⟨5, none⟩, paged [herePage] (inTime 0 [] (ptr 0x1FFF8)), _, _, [], ptr 0x1FFF8, rfl, by decide,
      by unfold Readable; decide, fun d h => by cases h; unfold Writable; decide, nofun, ⟨by simp, rfl⟩, ?_, nofun⟩,
    ⟨.gst 0 3 ⟨.rlx, .none⟩ 2 ⟨5, none⟩, paged [] (inTime 0 [] { ptr 0x1FFF8 with elastic := true }), _, _, [], { ptr 0x1FFF8 with elastic := true },
      rfl, by decide, by unfold Readable; decide, nofun, nofun, ⟨by simp, rfl⟩, ?_, nofun⟩, on0 task, by decide⟩
  · intro va h
    rcases List.mem_singleton.1 h with rfl
    exact ⟨⟨by decide, by decide, _, rfl, nofun, nofun⟩, fun _ => by decide, nofun⟩
  · exact ⟨rfl, [], _, [], rfl, by simp, by decide, by decide, by decide⟩

/-- The part of the second access performs at its page. -/
theorem performs_host (op : AccOp) (va n : Nat) (h : partReady (access noAcc [] (acc0 op (at_ va n))) 0 { acc0 op (at_ va n) with id := 1 }
    (Claims.part 0 va n 7) = true) (hp : pageOf (access noAcc [] (acc0 op (at_ va n))) 0 va = some hostPage) :
    Performs (access noAcc [] (acc0 op (at_ va n))) { acc0 op (at_ va n) with id := 1 } (Claims.part 0 va n 7) hostPage (placeOf hostPage va) := by
  have h0 : partOf 0 = 0 := by decide
  refine ⟨rfl, rfl, h, ?_, rfl, ?_⟩
  · change pageOf _ (partOf 0) va = _
    rw [h0]
    exact hp
  simp [eccLines, access, evt, paged, inTime, on0, State.reset]
/-- Two lines of a vector, on either side of the boundary of pages 2 and 3. -/
def halves : List Part := [Claims.part 0 0x2FFC0 64 7, Claims.part 1 0x30000 64 9]
/-- A walk whose access, once the first missing translation is filled, has an element that is not right: its place and its case. -/
def WalkWrong (n : Nat) : Prop :=
  ∃ s id x va g s' v, s.ev.a = id ∧ accOf (tileOf s id) s.ev.b = some x ∧ x.walk = true ∧ x.done = false ∧
    FirstMiss s id (accChk x) (x.parts.map (·.va)) va ∧ pageOf s (partOf id) va = some g ∧
    s' = setCache s (dieOf id) (fillCache (cacheAt s (dieOf id)) g) ∧ FirstWrong s' id (accChk x) (x.parts.map (·.va)) v n
/-- The page of the discovery table. -/
def tablePage : Page := ⟨0, 0x00FFFF0000000000, .m2, 2 ^ 62, .so, false, .here⟩
/-- A page that is cached and no longer in the tables. -/
def stalePage : Page := ⟨0, 0x50000, .k64, 0, .so, true, .host⟩
/-- An access that walks, with its parts. -/
def walkAcc (l : List Page) (op : AccOp) (ps : List Part) : State :=
  evt 0 1 0 (paged l (inTime 9 [] { ptr 0 with out := [noAcc, { acc0 op ps with id := 1, walk := true }] }))
theorem walks_wrong : WalkWrong 1 ∧ WalkWrong 2 ∧ WalkWrong 4 ∧ WalkWrong 5 ∧ WalkWrong 7 := by
  have key : ∀ v, v ∈ [0x1FFFC] → RightElem (setCache (walkAcc [stalePage] (.gather 4 3) [Claims.part 0 0x1FFFC 4 0, Claims.part 1 (2 ^ 57) 4 0])
      0 (fillCache (cacheAt (walkAcc [stalePage] (.gather 4 3) [Claims.part 0 0x1FFFC 4 0, Claims.part 1 (2 ^ 57) 4 0]) 0) herePage)) 0
      ⟨false, false, 4⟩ v ∧ isCached (setCache (walkAcc [stalePage] (.gather 4 3) [Claims.part 0 0x1FFFC 4 0, Claims.part 1 (2 ^ 57) 4 0])
      0 (fillCache (cacheAt (walkAcc [stalePage] (.gather 4 3) [Claims.part 0 0x1FFFC 4 0, Claims.part 1 (2 ^ 57) 4 0]) 0) herePage)) 0 0 v = true := by
    intro v h
    rcases List.mem_singleton.1 h with rfl
    exact ⟨⟨by decide, by decide, herePage, by decide, nofun, nofun⟩, by decide⟩
  have key4 : ∀ v, v ∈ [0x1FFFC] → RightElem (setCache (walkAcc [stalePage] (.gather 4 3) [Claims.part 0 0x1FFFC 4 0, Claims.part 1 0x50000 4 0])
      0 (fillCache (cacheAt (walkAcc [stalePage] (.gather 4 3) [Claims.part 0 0x1FFFC 4 0, Claims.part 1 0x50000 4 0]) 0) herePage)) 0
      ⟨false, false, 4⟩ v ∧ isCached (setCache (walkAcc [stalePage] (.gather 4 3) [Claims.part 0 0x1FFFC 4 0, Claims.part 1 0x50000 4 0])
      0 (fillCache (cacheAt (walkAcc [stalePage] (.gather 4 3) [Claims.part 0 0x1FFFC 4 0, Claims.part 1 0x50000 4 0]) 0) herePage)) 0 0 v = true := by
    intro v h
    rcases List.mem_singleton.1 h with rfl
    exact ⟨⟨by decide, by decide, herePage, by decide, nofun, nofun⟩, by decide⟩
  exact ⟨⟨walkAcc [stalePage] (.gather 4 3) [Claims.part 0 0x1FFFC 4 0, Claims.part 1 (2 ^ 57) 4 0], 0, _, 0x1FFFC, herePage, _, 2 ^ 57,
      rfl, rfl, rfl, rfl, ⟨[], [2 ^ 57], rfl, nofun, by decide⟩, by decide, rfl, ⟨[0x1FFFC], [], rfl, key⟩, .inl ⟨by decide, rfl⟩⟩,
    ⟨walkAcc [] .store (at_ 0x1FFF9 8), 0, _, 0x1FFF9, herePage, _, 0x1FFF9, rfl, rfl, rfl, rfl, ⟨[], [], rfl, nofun, by decide⟩, by decide, rfl,
      ⟨[], [], rfl, nofun⟩, .inr (.inl ⟨by decide, by decide, rfl⟩)⟩,
    ⟨walkAcc [stalePage] (.gather 4 3) [Claims.part 0 0x1FFFC 4 0, Claims.part 1 0x50000 4 0], 0, _, 0x1FFFC, herePage, _, 0x50000,
      rfl, rfl, rfl, rfl, ⟨[], [0x50000], rfl, nofun, by decide⟩, by decide, rfl, ⟨[0x1FFFC], [], rfl, key4⟩,
      .inr (.inr ⟨by decide, by decide, by decide, .inl ⟨by decide, rfl⟩⟩)⟩,
    ⟨walkAcc [] .store (at_ 0x00FFFF0000000000 8), 0, _, 0x00FFFF0000000000, tablePage, _,
      0x00FFFF0000000000, rfl, rfl, rfl, rfl, ⟨[], [], rfl, nofun, by decide⟩, by decide, rfl, ⟨[], [], rfl, nofun⟩,
      .inr (.inr ⟨by decide, by decide, by decide, .inr ⟨tablePage, by decide, .inl ⟨rfl, rfl, rfl⟩⟩⟩)⟩,
    ⟨walkAcc [] (.atom fnCas 8 1 0 true 3) (at_ 0xFFF8 8), 0, _, 0xFFF8, hostPage, _, 0xFFF8, rfl, rfl, rfl, rfl, ⟨[], [], rfl, nofun, by decide⟩,
      by decide, rfl, ⟨[], [], rfl, nofun⟩, .inr (.inr ⟨by decide, by decide, by decide, .inr ⟨hostPage, by decide, .inr ⟨by decide, rfl, by decide, rfl⟩⟩⟩)⟩⟩
theorem wit_GlobalAccessesTranslateAndPerform :
    (∀ op ∈ [AccOp.load 8 true 3, .loadV 3, .gather 8 3, .store, .atom fnCas 8 1 0 true 3], ∃ s x p g a, Performs s x p g a ∧
      unitOf s s.ev.a x p = [p] ∧ x.op = op ∧ p.len = 8 ∧ Plain a p.len) ∧
    (∃ s x p g a, Performs s x p g a ∧ unitOf s s.ev.a x p = [p] ∧ x.op = .orv ∧ p.len = 64 ∧ Plain a p.len) ∧
    (∀ op ∈ [AccOp.loadV 3, .store], ∃ s x p g a k u, Performs s x p g a ∧ u = unitOf s s.ev.a x p ∧ (u.map (·.idx)).head? = some k ∧
      (x.parts.map (·.idx)).Nodup ∧ (∀ q ∈ u, pageOf s (partOf s.ev.a) q.va ≠ none ∧ Plain (placeOfPart s q) q.len) ∧ x.op = op ∧ 1 < u.length) ∧
    (WalkWrong 1 ∧ WalkWrong 2 ∧ WalkWrong 4 ∧ WalkWrong 5 ∧ WalkWrong 7) ∧
    (∃ s id x va g s', s.ev.a = id ∧ accOf (tileOf s id) s.ev.b = some x ∧ x.walk = true ∧ x.done = false ∧
      FirstMiss s id (accChk x) (x.parts.map (·.va)) va ∧ pageOf s (partOf id) va = some g ∧
      s' = setCache s (dieOf id) (fillCache (cacheAt s (dieOf id)) g) ∧
      ∀ v ∈ x.parts.map (·.va), RightElem s' id (accChk x) v ∧ isCached s' (dieOf id) (partOf id) v = true) ∧
    (∃ s id x va g s' v, s.ev.a = id ∧ accOf (tileOf s id) s.ev.b = some x ∧ x.walk = true ∧ x.done = false ∧
      FirstMiss s id (accChk x) (x.parts.map (·.va)) va ∧ pageOf s (partOf id) va = some g ∧
      s' = setCache s (dieOf id) (fillCache (cacheAt s (dieOf id)) g) ∧ FirstMiss s' id (accChk x) (x.parts.map (·.va)) v ∧
      canonical v = true ∧ v % (accChk x).align = 0) ∧
    ∃ s id x va, s.ev.a = id ∧ accOf (tileOf s id) s.ev.b = some x ∧ x.walk = true ∧ x.done = false ∧
      FirstMiss s id (accChk x) (x.parts.map (·.va)) va ∧ pageOf s (partOf id) va = none := by
  refine ⟨fun op h => ⟨_, _, _, _, _, performs_host op 0xFFF8 8 ?_ ?_, ?_, rfl, rfl, by unfold Plain; decide⟩,
    ⟨_, _, _, _, _, performs_host .orv 0xFFC0 64 ?_ ?_, ?_, rfl, rfl, by unfold Plain; decide⟩,
    fun op h => ⟨access noAcc [] (acc0 op halves), _, Claims.part 0 0x2FFC0 64 7, rcPage 2, _, 0, halves,
      ⟨rfl, rfl, ?_, by revert op; decide, rfl, by simp [eccLines, access, evt, paged, inTime, on0, State.reset]⟩, ?_, rfl, (by decide : (halves.map (·.idx)).Nodup), ?_, rfl, by decide⟩,
    walks_wrong,
    ⟨access noAcc [] { acc0 .store (at_ 0x1FFF8 8) with walk := true }, 0, _, 0x1FFF8, herePage, _, rfl, rfl, rfl, rfl,
      ⟨[], [], rfl, nofun, by decide⟩, by decide, rfl, ?_⟩,
    ⟨access noAcc [] { acc0 (.gather 4 3) [Claims.part 0 0x1FFFC 4 0, Claims.part 1 0x2FFFC 4 0] with walk := true }, 0, _, 0x1FFFC, herePage, _,
      0x2FFFC, rfl, rfl, rfl, rfl, ⟨[], [0x2FFFC], rfl, nofun, by decide⟩, by decide, rfl, ⟨[0x1FFFC], [], rfl, ?_, by decide⟩, by decide, by decide⟩,
    ⟨access noAcc [] { acc0 .store (at_ 0x40000 8) with walk := true }, 0, _, 0x40000, rfl, rfl, rfl, rfl, ⟨[], [], rfl, nofun, by decide⟩,
      by decide⟩⟩
  · revert op; decide
  · revert op; decide
  · revert op; decide
  · decide
  · decide
  · decide
  · revert op; decide
  · revert op; decide
  · unfold Plain; revert op; decide
  · intro v h
    rcases List.mem_singleton.1 h with rfl
    exact ⟨⟨by decide, by decide, herePage, by decide, fun _ => rfl, nofun⟩, by decide⟩
  · intro v h
    rcases List.mem_singleton.1 h with rfl
    exact ⟨⟨by decide, by decide, herePage, by decide, nofun, nofun⟩, by decide⟩

/-- The access and part that the event names, and an earlier access that is open. -/
def Held (s : State) (x y : Acc) (p : Part) : Prop :=
  accOf (tileOf s s.ev.a) s.ev.b = some x ∧ x.parts.find? (fun q => q.idx = s.ev.c) = some p ∧ EarlierOpen s s.ev.a x y
theorem held (x y : Acc) (p : Part) (ps : List Part) (h1 : x.id = 0) (h2 : x.m1 = false) (h3 : x.op ≠ .fence) (h4 : x.done = false)
    (h5 : y.parts = [p]) (h6 : p.idx = 0) : Held (access x ps y) { y with id := 1 } { x with parts := ps } p := by
  refine ⟨?_, by simp [h5, h6, access, evt], List.mem_cons_self, by simp [h1], h2, h3, h4⟩
  show List.find? _ [_, _] = _
  simp [h1, access, evt]
/-- A fence of an order between two accesses, on pages that order nothing between them. -/
def fenced (o : MOrd) (e l : AccOp) : State :=
  evt 0 2 0 (paged [] (inTime 9 [] { ptr 0 with out := [acc0 e (at_ 0 1), { acc0 .fence [] with id := 1, ord := o },
    { acc0 l (at_ 0x10000 8) with id := 2 }] }))
theorem wit_EarlierAccessesHoldLaterOnesBack :
    (∃ s x y p, Held s x y p ∧ isBerth y.op = false ∧
      (∃ q ∈ y.parts, q.done = false ∧ p.va < q.va + q.len ∧ q.va < p.va + p.len) ∧ ordAt s s.ev.a p.va ≠ .uo) ∧
    (∃ s x y p, Held s x y p ∧ isBerth y.op = false ∧ (∃ q ∈ y.parts, q.done = false ∧ ordAt s s.ev.a q.va = .so) ∧
      ordAt s s.ev.a p.va = .so ∧ ∀ q ∈ y.parts, ¬ (p.va < q.va + q.len ∧ q.va < p.va + p.len)) ∧
    (∀ o ∈ [MOrd.acq, .sc], ∃ s x y p, Held s x y p ∧ y.ord = o) ∧ (∀ o ∈ [MOrd.rel, .sc], ∃ s x y p, Held s x y p ∧ x.ord = o) ∧
    (∃ s x y p l r f, Held s x y p ∧ (tileOf s s.ev.a).out = l ++ f :: r ∧ y ∈ l ∧ f.id < x.id ∧ f.op = .fence ∧ f.ord = .acq ∧ LoadsOrAtomics y.op) ∧
    (∃ s x y p l r f, Held s x y p ∧ (tileOf s s.ev.a).out = l ++ f :: r ∧ y ∈ l ∧ f.id < x.id ∧ f.op = .fence ∧ f.ord = .rel ∧ StoresOrAtomics x.op) ∧
    (∃ s x y p l r f, Held s x y p ∧ (tileOf s s.ev.a).out = l ++ f :: r ∧ y ∈ l ∧ f.id < x.id ∧ f.op = .fence ∧ f.ord ≠ .acq ∧ f.ord ≠ .rel) ∧
    ∃ s x p j y, accOf (tileOf s s.ev.a) s.ev.b = some x ∧ x.parts.find? (fun q => q.idx = s.ev.c) = some p ∧ x.ord = .sc ∧
      domOf s j = domOf s s.ev.a ∧ y ∈ (tileOf s j).out ∧ y.ord = .sc ∧ y.m1 = false ∧ y.op ≠ .fence ∧ y.done = false ∧ y.issue < x.issue := by
  have fe : ∀ o e l, e ≠ .fence → Held (fenced o e l) { acc0 l (at_ 0x10000 8) with id := 2 } (acc0 e (at_ 0 1)) (Claims.part 0 0x10000 8 7) :=
    fun o e l h => ⟨rfl, rfl, List.mem_cons_self, (by decide : (0 : Nat) < 2), rfl, h, rfl⟩
  refine ⟨⟨_, _, _, _, held (acc0 .store []) (acc0 .store (at_ 0x10000 8)) _ (at_ 0x10007 1) rfl rfl nofun rfl rfl rfl, rfl, by decide, by decide⟩,
    ⟨_, _, _, _, held (acc0 .store []) (acc0 .store (at_ 8 8)) _ (at_ 0 8) rfl rfl nofun rfl rfl rfl, rfl, by decide, by decide, by decide⟩,
    fun o _ => ⟨_, _, _, _, held { acc0 .store [] with ord := o } (acc0 .store (at_ 0x10000 8)) _ (at_ 0 1) rfl rfl nofun rfl rfl rfl, rfl⟩,
    fun o _ => ⟨_, _, _, _, held (acc0 .store []) { acc0 .store (at_ 0x10000 8) with ord := o } _ (at_ 0 1) rfl rfl nofun rfl rfl rfl, rfl⟩,
    ⟨fenced .acq (.load 1 true 3) .store, _, _, _, [_], _, _, fe _ _ _ nofun, rfl, List.mem_cons_self, by decide, rfl, rfl, trivial⟩,
    ⟨fenced .rel (.load 1 true 3) .store, _, _, _, [_], _, _, fe _ _ _ nofun, rfl, List.mem_cons_self, by decide, rfl, rfl, trivial⟩,
    ⟨fenced .rlx .store .store, _, _, _, [_], _, _, fe _ _ _ nofun, rfl, List.mem_cons_self, by decide, rfl, nofun, nofun⟩,
    ⟨access noAcc [] { acc0 .store (at_ 0x10000 8) with ord := .sc, issue := 3 } |> fun s => { s with
      tiles := s.tiles ++ [(767, { task with out := [{ acc0 .store [] with ord := .sc, issue := 2 }] })] }, _, _, 767, _, rfl, rfl, rfl, by decide,
      List.mem_cons_self, rfl, rfl, nofun, rfl, by decide⟩⟩

/-! ## Waits, berths, address generators -/

/-- Tile 0 waits in a DRAIN or BARW with the accesses given. -/
def waiting (w : Wait) (l : List Acc) : State := evt 0 0 0 (inTime 9 [] { ptr 0 with out := l, hold := w, pendR := [(31, 0)] })
/-- A load that is done. -/
def loaded : Acc := { acc0 (.load 8 false 31) [] with done := true, result := 5 }
/-- A gather into queue 15 that has performed. -/
def gathered : Acc := { acc0 (.gather 4 15) [⟨0, 0, 4, 0, true, 7⟩] with done := true }
theorem wit_DrainWaitsForWhatItCovers :
    (∃ s g p, guardOn (me s) g = true ∧ ∀ x ∈ (me s).out, ¬ Covered p (now s) x) ∧
    (∃ s g p, guardOn (me s) g = true ∧ ∃ x ∈ (me s).out, Covered p (now s) x) ∧
    (∃ (s : State) (t : Tile) (p : DrainPath) (since c : Nat) (b : BRef), t = tileOf s s.ev.a ∧ t.hold = .drain p since c b ∧
      (∀ x ∈ t.out, Covered p c x → x.done = true ∧ x.back ≤ tcAt s s.ev.a) ∧ (∃ x ∈ t.out, ∃ r, Covered p c x ∧ resultReg x = some r ∧ r ≠ 0 ∧
        ∀ z ∈ t.out, Covered p c z → resultReg z = some r → z = x)) ∧
    (∃ (s : State) (t : Tile) (p : DrainPath) (since c : Nat) (b : BRef) (q : QN) (k : Nat) (e : QEnt) (x : Acc), t = tileOf s s.ev.a ∧
      t.hold = .drain p since c b ∧ (∀ x ∈ t.out, Covered p c x → x.done = true ∧ x.back ≤ tcAt s s.ev.a) ∧ (qOf t q)[k]? = some e ∧
      x ∈ t.out ∧ Covered p c x ∧ e.resv = some x.id ∧ ∀ z ∈ t.out, Covered p c z → z.id = x.id → z = x) ∧
    (∃ (s : State) (t : Tile) (p : DrainPath) (since c : Nat) (b : BRef), t = tileOf s s.ev.a ∧ t.hold = .drain p since c b ∧
      ∃ x ∈ t.out, Covered p c x ∧ x.done = false) ∧
    ∃ (s : State) (t : Tile) (p : DrainPath) (since c : Nat) (b : BRef), t = tileOf s s.ev.a ∧ t.hold = .drain p since c b ∧
      ∃ x ∈ t.out, Covered p c x ∧ x.done = true ∧ tcAt s s.ev.a < x.back := by
  refine ⟨⟨waiting .none [loaded], 0, .m1, by decide, by unfold Covered; decide⟩,
    ⟨waiting .none [acc0 (.load 8 false 31) []], 0, .all, by decide, _, List.mem_cons_self, by unfold Covered; decide⟩,
    ⟨waiting (.drain .m2 0 9 BRef.zero) [loaded], _, _, _, _, _, rfl, rfl, ?_, loaded, List.mem_cons_self, 31, by unfold Covered; decide, rfl, by decide, ?_⟩,
    ⟨evt 0 0 0 (inTime 9 [] { task with out := [gathered], queues := [(15, [⟨none, 1⟩, ⟨some 0, 2⟩])], hold := .drain .all 0 9 BRef.zero }),
      _, _, _, _, _, 15, 1, ⟨some 0, 2⟩, gathered, rfl, rfl, ?_, rfl, List.mem_cons_self, by unfold Covered; decide, rfl, ?_⟩,
    ⟨waiting (.drain .all 0 9 BRef.zero) [acc0 (.load 8 false 31) []], _, _, _, _, _, rfl, rfl, _, List.mem_cons_self, by unfold Covered; decide, rfl⟩,
    ⟨waiting (.drain .all 0 9 BRef.zero) [{ gathered with back := 10 }], _, _, _, _, _, rfl, rfl, _, List.mem_cons_self,
      by unfold Covered; decide, rfl, by decide⟩⟩
  · intro x h _
    rcases List.mem_singleton.1 h with rfl
    exact ⟨rfl, by decide⟩
  · intro z h _ _
    exact List.mem_singleton.1 h
  · intro x h _
    rcases List.mem_singleton.1 h with rfl
    exact ⟨rfl, by decide⟩
  · intro z h _ _
    exact List.mem_singleton.1 h

/-- A timetable of the two tiles 0 and 1. -/
def twoTiles : List Byte := imgOf 0x68 [(0x0C, 4, 2), (0x10, 4, 0x28), (0x20, 4, 0x14), (0x49, 1, 1)]
theorem wit_BarriersMeetAndRelease :
    (∃ s g, ∃ b : BarN, ∃ h : LevelN, ∃ code scope inst ps, guardOn (me s) g = true ∧ hierEntry (image s s.cur) h.toNat = some (code, scope) ∧
      inst = instOf code s.cur ∧ ps = (taskTiles (image s s.cur)).filter (fun i => instOf code i = inst) ∧
      otherLevel s (me s).tt h.toNat b.toNat s.cur = false ∧ ∀ i ∈ ps, (tileOf s i).ended = false ∨ now s < (tileOf s i).next) ∧
    (∃ (s : State) (e : Episode), s.eps[s.ev.a]? = some e ∧ e.dies.length = 2 ∧ (∀ i ∈ e.parts, ∃ c, (i, c) ∈ e.came) ∧
      ∀ i c, (i, c) ∈ e.came → ∀ x ∈ (tileOf s i).out, x.m1 = true ∨ x.op = .fence ∨ x.done = true ∨ c ≤ x.issue) ∧
    (∃ s since b, (∃ p c, (tileOf s s.ev.a).hold = .drain p since c b) ∧ since + 2 ^ 24 = tcAt s s.ev.a) ∧
    ∃ s since b, (∃ l i k, (tileOf s s.ev.a).hold = .barw l i k since b) ∧ tcAt s s.ev.a < since + 2 ^ 24 := by
  refine ⟨⟨inTime 9 twoTiles task, 0, 31, 0, _, _, _, _, by decide, (by decide : hierEntry twoTiles 0 = some (0, 0)), rfl, rfl, rfl,
      by decide +kernel⟩,
    ⟨{ waiting .none [acc0 .fence []] with eps := [⟨0, 0, 31, 0, [0, 1], [0, 128], [(0, 5), (128, 9)], none⟩] }, _, rfl, rfl, ?_, ?_⟩,
    ⟨evt 0 0 0 (inTime (2 ^ 24) [] { task with hold := .drain .all 0 0 BRef.zero }), 0, BRef.zero, ⟨_, _, rfl⟩, by decide +kernel⟩,
    ⟨evt 0 0 0 (inTime (2 ^ 24 - 1) [] { task with hold := .barw 0 0 0 0 BRef.zero }), 0, BRef.zero, ⟨_, _, _, rfl⟩, by decide +kernel⟩⟩
  · intro i h
    rcases List.mem_cons.1 h with rfl | h
    · exact ⟨5, by decide⟩
    · rcases List.mem_singleton.1 h with rfl
      exact ⟨9, by decide⟩
  · intro i c h x hx
    rcases List.mem_cons.1 h with h | h
    · cases h
      rcases List.mem_singleton.1 hx with rfl
      exact .inr (.inl rfl)
    · cases List.mem_singleton.1 h
      cases hx

/-- Numbers stored one after another: address, size, value. -/
def memOf : List (Nat × Nat × Nat) → Memory
  | [] => []
  | (a, n, v) :: r => storeLE (memOf r) a v n
/-- A berth table at place 0: one pool of 16 KiB berths with 64-byte slices and 128 tokens; sequence 0 with one block, the berth 1 in
HBM4, in the slot at 0x10000; sequence 1 without blocks; the entries 2 and 3 and two slots are free. -/
def berths (st ref : Nat) : Memory := memOf
  [(6, 1, 1), (8, 4, 4), (0x10, 8, 0x200), (0x18, 8, 0x300), (0x102, 2, 128), (0x108, 8, 0x10000), (0x110, 8, 0x80000),
   (0x120, 4, 8), (0x124, 4, 4), (0x12C, 4, 2), (0x130, 4, 9), (0x134, 4, 4), (0x13C, 4, 2), (0x140, 4, 10), (0x144, 4, 4), (0x14C, 4, 2),
   (0x200, 8, 0x8000000000080001), (0x208, 8, 0x400), (0x210, 8, 0x8000000000080000), (0x218, 8, 0x410), (0x400, 4, 1),
   (0x308, 8, 2 ^ 63 + st * 2 ^ 61 + ref * 2 ^ 48), (0x200, 4, 0x00080001), (0x204, 4, 0x80000000)]
/-- Tile 0 with a berth operation that its event names, and with the moves given; berth 1 in HBM4 with a count of references. -/
def berthOp (ref : Nat) (mv : Tab Move) (op : AccOp) : State :=
  evt 0 0 0 { inTime 9 [] { ptr 0 with out := [acc0 op []] } with mem := berths 1 ref, moves := mv }
/-- A move of berth 1 to the slot 9 of the anchorage tier, which copies. -/
def moving : Tab Move := [(0, { Move.none with n := 1, dst := 9, state := 1 })]
/-- No channel is compiled: everything is served. -/
theorem servedAll_open (s : State) (h : s.chans = []) (w : Who) (fz : Option Nat) (l : List Touch) : servedAll s w fz l = true := by
  simp only [servedAll, served, List.all_eq_true]
  intro t _ k _
  simp only [lineOpen, chanAt, h, tabGet]
  split <;> rfl
theorem berth_performs (r : Nat) (mv : Tab Move) (op : AccOp) (h : berthOrdered (berthOp r mv op) 0 (acc0 op []) = true) :
    BerthPerforms (berthOp r mv op) (acc0 op []) 0 (rdDir (berthOp r mv op).mem 0 (kSeq (accKey (acc0 op []).op)))
      (rdBlk (berthOp r mv op).mem 0 (rdDir (berthOp r mv op).mem 0 (kSeq (accKey (acc0 op []).op))) (kBlk (accKey (acc0 op []).op))) := by
  refine ⟨rfl, rfl, by rw [berthReady, servedAll_open _ rfl, Bool.and_true]; exact h, ?_, ?_, rfl, rfl⟩
  · simp [touchBad, eccLines, berthOp, evt, inTime, on0, State.reset]
  · simp [partAt, berthOp, evt, inTime, on0, State.reset, Partn.reset]
theorem wit_BerthOperationsFollowTheTable :
    (∃ i s g sx f vs t, kForm s i = some (g, sx, f) ∧ guardOn (me s) g = true ∧ Readable s f.need ∧ (∀ d, f.dst = some d → Writable s d) ∧
      (∀ q n, f.resv = some (q, n) → isPort (me s) q = false) ∧ Takes s f.src vs t) ∧
    (∀ op ∈ [AccOp.kvlook 0 3, .kvref 0 3, .kvgath 0 1 3, .kvapp 0 5 6, .kvshr 0x10000 1, .kvrel 0x10000, .kvrel 0], ∃ s x tb d n,
      BerthPerforms s x tb d n ∧ x.op = op ∧ berthBad s.mem tb x.op = false ∧ moveOf s (partOf s.ev.a) n = none) ∧
    (∃ s x tb d n, BerthPerforms s x tb d n ∧ x.op = .kvapp 0 5 6 ∧ berthBad s.mem tb x.op = false ∧ (rdEnt s.mem tb n).ref = 2) ∧
    (∀ op ∈ [AccOp.kvgath 0 1 3, .kvapp 0 5 6, .kvrel 0], ∃ s x tb d n, BerthPerforms s x tb d n ∧ x.op = op ∧ berthBad s.mem tb x.op = false ∧
      moveOf s (partOf s.ev.a) n = some 0) ∧
    (∃ s x, accOf (tileOf s s.ev.a) s.ev.b = some x ∧ x.src = some (0, 0) ∧ (moveAt s 0).state = 3 ∧ (moveAt s 0).hold = 1) ∧
    (∃ s x tb d n, BerthPerforms s x tb d n ∧ berthBad s.mem tb x.op = true) ∧
    ∃ s x y, accOf (tileOf s s.ev.a) s.ev.b = some x ∧ x.src = none ∧ EarlierOpen s s.ev.a x y ∧ isBerth y.op = true := by
  refine ⟨⟨.kvlook 0 ⟨.rlx, .none⟩ 31 5, on0 (ptr 0), 0, _, _, [], ptr 0, rfl, by decide, by unfold Readable; decide,
      fun d h => by cases h; unfold Writable; decide, nofun, ⟨by simp, rfl⟩⟩,
    fun op h => ⟨_, _, _, _, _, berth_performs 1 [] op ?_, rfl, ?_, rfl⟩,
    ⟨_, _, _, _, _, berth_performs 2 [] _ (by decide +kernel), rfl, by decide +kernel, by decide +kernel⟩,
    fun op h => ⟨_, _, _, _, _, berth_performs 1 moving op ?_, rfl, ?_, ?_⟩,
    ⟨evt 0 0 0 { on0 { ptr 0 with out := [{ acc0 (.kvgath 0 1 3) [] with src := some (0, 0) }] } with
      moves := [(0, { Move.none with state := 3, hold := 1 })] }, _, rfl, rfl, rfl, rfl⟩,
    ⟨_, _, _, _, _, berth_performs 1 [] (.kvlook 1 3) (by decide +kernel), by decide +kernel⟩,
    ⟨evt 0 1 0 (on0 { ptr 0 with out := [acc0 (.kvrel 0) [], { acc0 (.kvlook 0 3) [] with id := 1 }] }), _, acc0 (.kvrel 0) [], rfl, rfl,
      ⟨List.mem_cons_self, by decide, rfl, nofun, rfl⟩, rfl⟩⟩
  · revert op; decide +kernel
  · revert op; decide +kernel
  · revert op; decide +kernel
  · revert op; decide +kernel
  · revert op; decide +kernel

/-- Tile 0 with generator 7. -/
def gened (a : Agen) : State := inTime 9 [] { ptr 0 with gens := [(7, a)] }
/-- A walk over M0 up to its last vector, one over the shaft, and one of nothing. -/
def m0Walk : Agen := ⟨0x1FFC00, 512, 2, 0, 1, 0, 1, .m0, some 3, none⟩
def shWalk : Agen := ⟨0x1F77600, 0, 1, 0, 1, 0, 1, .shaft, some 3, none⟩
/-- A generator whose first vector is pushed in cycle 11. -/
def walking (a : Agen) : Agen := { a with run := some ⟨11, walkLen a, 0, BRef.zero⟩ }
theorem wit_GeneratorsWalkAndPush :
    (∃ s g k d, guardOn (me s) g = true ∧ AgHere s k ∧ (gen s k).run = none ∧ Readable s [d, d + 1, d + 2, d + 3] ∧
      ∀ p ∈ (me s).gens, p.1 ≠ k.toNat → p.2.port ≠ some 15) ∧
    (∀ w ∈ [m0Walk, shWalk, { m0Walk with n2 := 0 }], ∃ s g k, ∃ n : Lit, ∃ a, guardOn (me s) g = true ∧ (me s).elastic = false ∧ AgHere s k ∧
      (gen s k).run = none ∧ (gen s k).port ≠ none ∧ (gen s k).space ≠ .none ∧
      ((gen s k).space = .m0 → walkLen (gen s k) = 0 ∨ WalkInM0 (gen s k)) ∧ ((gen s k).space = .shaft → 6 ≤ n.toNat) ∧
      a = { gen s k with run := some ⟨now s + n.toNat, walkLen (gen s k), now s, (me s).bun⟩ } ∧ agMeets s a = false ∧ gen s k = w) ∧
    (∃ s g k, guardOn (me s) g = true ∧ AgHere s k ∧ (gen s k).run ≠ none) ∧
    (∀ w ∈ [walking m0Walk, walking shWalk], ∃ s id k i a r q, s.ev.a = id ∧ s.ev.b = k ∧ a = agOf (tileOf s id) k ∧ a = w ∧ a.run = some r ∧
      a.port = some q ∧ i < r.total ∧ tcAt s id + 2 = r.start + i ∧ agClash s id k a (tcAt s id) (walkAddr a i) = none ∧
      (a.space = .m0 → eccLines s 2 id (walkAddr a i).toNat 512 = false) ∧
      (a.space = .shaft → agShaftTrap s id (BitVec.ofInt 64 (walkAddr a i)) = none)) ∧
    ∃ s p r k q v, Due s s.ev.a (isAgPush s.ev.b) p r ∧ p.act = .agPush k q v := by
  refine ⟨⟨{ gened { m0Walk with space := .none } with pipe := 4 }, 0, 7, 60, by decide, by unfold AgHere; decide, by decide, by unfold Readable; decide,
      by decide⟩, fun w h => ?_, ⟨{ gened (walking m0Walk) with pipe := 4 }, 0, 7, by decide, by unfold AgHere; decide, by decide⟩, fun w h => ?_,
    ⟨evt 0 7 0 (on0 (withAct (.agPush 7 3 5) task)), act0 (.agPush 7 3 5), [], 7, 3, 5, due_one _ _ _ _ rfl (Nat.zero_le _) (by decide +kernel), rfl⟩⟩
  · refine ⟨{ gened w with pipe := if w.space = .m0 then 4 else 5 }, 0, 7, 6, _, ?_, rfl, ?_, ?_, ?_, ?_, ?_, ?_, rfl, ?_, rfl⟩ <;> revert w
    · decide
    · unfold AgHere; decide
    · decide
    · decide
    · decide
    · unfold WalkInM0; decide +kernel
    · decide
    · decide +kernel
  · refine ⟨evt 0 7 0 (gened w), 0, 7, 0, w, ⟨11, walkLen w, 0, BRef.zero⟩, 3, rfl, rfl, rfl, rfl, ?_, ?_, ?_, rfl, ?_, ?_, ?_⟩ <;> revert w <;> decide +kernel

/-! ## The memory command slot -/

/-- Channel 0 as given, compiled for the timetable of tile 0. -/
def chan0 (c : Chan) (s : State) : State := { s with chans := [(0, { c with comp := some 0 })] }
/-- A bank with an open row since cycle 0. -/
def rowOpen : Chan := { Chan.idle with banks := [(15, { Bank.idle with row := some 65535, act := some 0 })] }
/-- A window from cycle 990 to 2000. -/
def windowed : Chan := { Chan.idle with win := some (990, 2000) }
theorem legal_dram (c : Chan) (k : DCmd) (h1 : winCovers (dch (chan0 c (inTime 1000 [] (ptr 0))) false) 1000 = false)
    (h2 : (dRows hbmTypical 0 { c with comp := some 0 } 1000 k).all (fun r => !r.2) = true)
    (h3 : ∀ b, expiredAt { c with comp := some 0 } 1000 b = false) : DLegal (chan0 c (inTime 1000 [] (ptr 0))) false k :=
  ⟨nofun, rfl, h1, fun r h => by simpa using List.all_eq_true.1 h2 r h, fun b _ => h3 b⟩
theorem wit_DramWordsActOrBreakTheirRows :
    (∀ k ∈ [DCmd.act 15 65535, .pre 15, .prea, .ref, .refb 15, .other], ∃ s lp g, guardOn (me s) g = true ∧ DLegal s lp k) ∧
    (∃ s lp g, guardOn (me s) g = true ∧ (me s).firmware = true ∧ DLegal s lp .other ∧ Readable s [5]) ∧
    (∃ s g, guardOn (me s) g = true ∧ (me s).elastic = false ∧ winCovers (dch s false) (now s) = false) ∧
    (∃ s g, guardOn (me s) g = true ∧ (me s).elastic = false ∧ winCovers (dch s false) (now s) = true) ∧
    (∀ i ∈ [Instr.drdM0 0 false 15 15 5, .drdQ 0 false 15 15 15, .dwrM0 0 false 15 15 5], ∃ s f, colForm s i = some f ∧ guardOn (me s) f.g = true ∧
      f.o.toNat < (dtm s f.lp).cols ∧ f.ok ∧ DLegal s f.lp (if f.rd then .rd f.b.toNat f.o.toNat else .wr f.b.toNat f.o.toNat)) ∧
    (∃ s g q v t, guardOn (me s) g = true ∧ Takes s [q] [v] t ∧ DLegal s false (.wr 15 15)) ∧
    (∀ i ∈ [Instr.dact 0 false 15 (.lit 65535), .dprea 0 false, .drefb 0 false 15, .drdQ 0 false 15 15 15, .dwrQ 0 false 15 15 ⟨false, 0⟩],
      ∃ s f r, dForm s i = some f ∧ guardOn (me s) f.g = true ∧ f.lp = false ∧ (me s).elastic = false ∧ f.ok ∧
        (r, true) ∈ dRows (dtm s f.lp) (factorOf s s.cur) (dch s f.lp) (now s) f.k ∧
        ∀ p ∈ dRows (dtm s f.lp) (factorOf s s.cur) (dch s f.lp) (now s) f.k, p.2 = true → r ≤ p.1) ∧
    (∃ i s f r, dForm s i = some f ∧ guardOn (me s) f.g = true ∧ f.lp = true ∧ ownsLp s.cur = true ∧ (me s).elastic = false ∧ f.ok ∧
        (r, true) ∈ dRows (dtm s f.lp) (factorOf s s.cur) (dch s f.lp) (now s) f.k ∧
        ∀ p ∈ dRows (dtm s f.lp) (factorOf s s.cur) (dch s f.lp) (now s) f.k, p.2 = true → r ≤ p.1) ∧
    (∃ i s f, dForm s i = some f ∧ guardOn (me s) f.g = true ∧ f.lp = false ∧ (me s).elastic = false ∧ f.ok ∧ RowsHold s f.lp f.k ∧
      Reaches s f.lp f.k) ∧
    (∃ i s f, dForm s i = some f ∧ guardOn (me s) f.g = true ∧ f.lp = false ∧ (me s).elastic = false ∧ f.ok ∧ RowsHold s f.lp f.k ∧
      ¬ Reaches s f.lp f.k ∧ winCovers (dch s f.lp) (now s) = true) ∧
    ∃ s, ∃ n : WinLen, guardOn (me s) 0 = true ∧ (me s).elastic = false ∧ n ≠ 0 ∧ winCovers (dch s false) (now s) = true := by
  have e : ∀ b, expiredAt { rowOpen with comp := some 0 } 1000 b = false := fun b => by
    simp only [expiredAt, bankAt, rowOpen, tabGet]; split <;> rfl
  have e0 : ∀ b, expiredAt { Chan.idle with comp := some 0 } 1000 b = false := fun b => rfl
  refine ⟨fun k h => ⟨_, false, 0, by decide, legal_dram Chan.idle k (by decide) (by revert k; decide +kernel) e0⟩,
    ⟨chan0 Chan.idle (inTime 1000 [] { ptr 0 with firmware := true }), false, 0, by decide, rfl, ⟨nofun, rfl, by decide, by decide +kernel, fun _ _ => rfl⟩,
      by unfold Readable; decide⟩,
    ⟨chan0 Chan.idle (inTime 1000 [] (ptr 0)), 0, by decide, by decide, by decide⟩,
    ⟨chan0 windowed (inTime 1000 [] (ptr 0)), 0, by decide, by decide, by decide⟩, fun i h => ?_,
    ⟨chan0 rowOpen (inTime 1000 [] (ptr 0)), 0, ⟨false, 0⟩, 5, setQ (ptr 0) 0 [⟨none, 3⟩], by decide, ⟨by unfold QueueFree; decide, by decide +kernel⟩,
      legal_dram rowOpen _ (by decide) (by decide +kernel) e⟩,
    fun i h => ?_, ⟨.dref 0 true, { inTime 1000 [] (ptr 0) with chans := [(768, { Chan.idle with comp := some 0, ref := some 900 })] }, _, 15, rfl,
      by decide, rfl, by decide, by decide, trivial, by decide +kernel, by decide +kernel⟩,
    ⟨.dact 0 false 15 (.lit 7), chan0 { Chan.idle with banks := [(15, { Bank.idle with eph := true, expired := true })] } (inTime 1000 [] (ptr 0)), _, rfl,
      by decide, rfl, by decide, ⟨trivial, by decide⟩, by unfold RowsHold; decide +kernel, 15, .inl ⟨7, rfl⟩, by decide⟩,
    ⟨.dpre 0 false 15, chan0 windowed (inTime 1000 [] (ptr 0)), _, rfl, by decide, rfl, by decide, trivial, by unfold RowsHold; decide +kernel,
      fun ⟨_, h, _⟩ => h.elim nofun nofun, by decide⟩,
    ⟨chan0 windowed (inTime 1000 [] (ptr 0)), 1, by decide, by decide, by decide, by decide⟩⟩
  · rcases List.mem_cons.1 h with rfl | h
    · exact ⟨chan0 rowOpen (inTime 1000 [] (ptr 0)), _, rfl, by decide, by decide, ⟨by unfold Readable; decide, by unfold M0LineOk; decide +kernel⟩,
        legal_dram rowOpen (.rd 15 15) (by decide) (by decide +kernel) e⟩
    rcases List.mem_cons.1 h with rfl | h
    · exact ⟨chan0 rowOpen (inTime 1000 [] (ptr 0)), _, rfl, by decide, by decide, by unfold Pushable; decide,
        legal_dram rowOpen (.rd 15 15) (by decide) (by decide +kernel) e⟩
    · rcases List.mem_singleton.1 h with rfl
      exact ⟨chan0 rowOpen (inTime 1000 [] (ptr 0)), _, rfl, by decide, by decide, ⟨by unfold Readable; decide, by unfold M0LineOk; decide +kernel⟩,
        legal_dram rowOpen (.wr 15 15) (by decide) (by decide +kernel) e⟩
  · rcases List.mem_cons.1 h with rfl | h
    · exact ⟨chan0 { rowOpen with ref := some 900 } (inTime 1000 [] (ptr 0)), _, 1, rfl, by decide, rfl, by decide, ⟨trivial, by decide⟩,
        by decide +kernel, by decide +kernel⟩
    rcases List.mem_cons.1 h with rfl | h
    · exact ⟨chan0 { rowOpen with ref := some 900 } (inTime 1000 [] (ptr 0)), _, 15, rfl, by decide, rfl, by decide, trivial, by decide +kernel,
        by decide +kernel⟩
    rcases List.mem_cons.1 h with rfl | h
    · exact ⟨chan0 { rowOpen with ref := some 900 } (inTime 1000 [] (ptr 0)), _, 1, rfl, by decide, rfl, by decide, trivial, by decide +kernel,
        by decide +kernel⟩
    rcases List.mem_cons.1 h with rfl | h
    · exact ⟨chan0 { rowOpen with ref := some 900 } (inTime 1000 [] (ptr 0)), _, 15, rfl, by decide, rfl, by decide,
        ⟨by decide, by unfold Pushable; decide⟩, by decide +kernel, by decide +kernel⟩
    rcases List.mem_singleton.1 h with rfl
    exact ⟨chan0 { rowOpen with ref := some 900 } (inTime 1000 [] (ptr 0)), _, 15, rfl, by decide, rfl, by decide,
      ⟨by decide, 5, setQ (ptr 0) 0 [⟨none, 3⟩], by unfold QueueFree; decide, by decide +kernel⟩, by decide +kernel, by decide +kernel⟩

theorem wit_DramTransfersMoveOneLine :
    (∀ x ∈ [Act.drd 0 15 65535 15 7 true (.q 3), .drd 0 15 65535 15 7 false (.m0 0x1FFFC0), .drd 0 15 65535 15 7 false (.sh 1023 30656),
        .drd 0 15 65535 15 7 false (.q 15)], ∃ s p r, Due s s.ev.a isDrd p r ∧ p.act = x ∧ (halfOf s 1023).mode = false ∧
        lanesOk s s.ev.a (hmLayer 1023) = true) ∧
    ∀ x ∈ [Act.dwrQ 0 15 65535 15 7, .dwrRead 0 15 65535 15 (.m0 0x1FFFC0) 9, .dwrRead 0 15 65535 15 (.sh 1023 30656) 9], ∃ s p r,
      Due s s.ev.a isDwr p r ∧ p.act = x ∧ eccLines s 2 s.ev.a 0x1FFFC0 64 = false ∧ tcAt s s.ev.a < 9 ∧ (halfOf s 1023).mode = false ∧
      lanesOk s s.ev.a (hmLayer 1023) = true ∧ Correctable s 1023 30656 64 := by
  refine ⟨fun x h => ?_, fun x h => ?_⟩
  · exact ⟨on0 (withAct x task), act0 x, [], due_one _ _ _ _ rfl (Nat.zero_le _) (by revert x; decide +kernel), rfl, by rfl, by rfl⟩
  · exact ⟨on0 (withAct x task), act0 x, [], due_one _ _ _ _ rfl (Nat.zero_le _) (by revert x; decide +kernel), rfl, by rfl, Nat.zero_lt_succ 8,
      by rfl, by rfl, by revert x; unfold Correctable; decide +kernel⟩

/-- Channel 0 as given and timetable 0, in cycle x; the event names it, bank 15 and row 65535. -/
def inChan (x : Nat) (c : Chan) : State := evt 0 15 65535 (chan0 c (inTime x [] { task with ended := true, started := false }))
/-- A bank whose row lasts until cycle 100. -/
def ephBank : Chan := { Chan.idle with ephTt := some 0, banks := [(15, { Bank.idle with eph := true, limit := 100 })] }
/-- An issuer at work on a channel of a running timetable: inside a window, the requests that have arrived taken up. -/
def Windowed (s : State) (ch a e x : Nat) (u : State) (d : Chan) : Prop :=
  ∃ c k, s.ev.a = ch ∧ c = chanAt s ch ∧ c.comp = some k ∧ 0 = imgSlice (ttOf s k).img ∧ c.win = some (a, e) ∧
    x = (domAt s (ttOf s k).dom).tc ∧ a ≤ x ∧ x ≤ e ∧ (domAt s (ttOf s k).dom).frozen = false ∧ u = arriveReqs s ch ∧ d = chanAt u ch
/-- The channel of place 0, wherever that is, as given; a request from outside waits to read the line of place 0. -/
def asked (c : Chan) : State :=
  { inTime 1000 [] task with
    ev := { EvArgs.zero with a := chanOf 0 }, chans := [(chanOf 0, { c with comp := some 0 })],
    disc := { Disc.reset with chans := [(chanOf 0, hbmTypical)] }, waiting := [⟨0, .cxlMemAccess, EvArgs.zero, [⟨0, 8, false⟩], none⟩] }
/-- The request for that line. -/
def theReq : Req := lineReq (.input 0) 0 false
theorem wants_only (s : State) (h1 : wants s = [(.input 0, ⟨0, 8, false⟩)]) (h2 : s.grants = []) : chanWants s (chanOf 0) = [theReq] := by
  simp [chanWants, h1, h2, linesOf, joinReq, theReq, List.range, List.range.loop]
theorem asked_chan (c : Chan) : chanAt (asked c) (chanOf 0) = { c with comp := some 0 } := by simp [chanAt, asked, tabGet]
theorem asked_timing (c : Chan) (u : State) (h : u.disc = (asked c).disc) : timingOf u (chanOf 0) = hbmTypical := by
  simp [timingOf, h, asked, tabGet]
theorem rotate_one (n : Nat) (r : Req) : rotate n [r] = [r] := by simp [rotate, Nat.mod_one]
/-- What the issuer finds: the channel with the request in its queue, unless it serves it. -/
theorem arrived (c : Chan) : ∃ q, chanAt (arriveReqs (asked c) (chanOf 0)) (chanOf 0) = { c with comp := some 0, queue := q } ∧
    (c.queue = [] → c.serve = none → q = [theReq]) := by
  refine ⟨_, by rw [arriveReqs, chanAt, setChan, tabGet_set_same, asked_chan], fun h1 h2 => ?_⟩
  simp only [wants_only (asked c) rfl rfl, h1, h2, List.filter_nil, List.contains_nil, Bool.not_false, Bool.and_self, List.nil_append]
  exact (congrArg (rotate _) (by rfl)).trans (rotate_one _ _)
theorem reached (c : Chan) (h : c.win = some (990, 2000)) :
    Windowed (asked c) (chanOf 0) 990 2000 1000 (arriveReqs (asked c) (chanOf 0)) (chanAt (arriveReqs (asked c) (chanOf 0)) (chanOf 0)) :=
  ⟨_, 0, rfl, rfl, by rw [asked_chan], rfl, by rw [asked_chan]; exact h, rfl, by decide, by decide, rfl, rfl, rfl⟩
/-- The commands of a request for one line. -/
theorem reqCmds_one (w : Who) (b r c : Nat) (wr : Bool) : reqCmds ⟨w, [⟨b, r, c, [wr]⟩]⟩ = [.act b r, colCmd ⟨b, r, c, [wr]⟩ wr, .pre b] := by
  simp [reqCmds, reqRows, List.eraseDups_cons]
theorem starts_at : ∀ b < 16, (windowed.closed.isNone && (bankAt windowed b).row.isNone &&
    (dViol hbmTypical 0 { windowed with comp := some 0 } 1000 (.act b (rowOfPlace 0))).isNone &&
    decide (cmdsEnd hbmTypical 0 [.act b (rowOfPlace 0), .rd b (colOfPlace 0), .pre b] 1000 { windowed with comp := some 0 } ≤ 2001)) = true := by
  decide +kernel
/-- The window with row 0 of a bank open and a request served. -/
def serving (b : Nat) (v : Serve) : Chan := { windowed with banks := [(b, { Bank.idle with row := some 0, act := some 0 })], serve := some v }
theorem columns (b : Nat) (h : b < 16) (q : List Req) (v : Serve) (col : Nat) (k : DCmd) (hk : k = .rd b col ∨ k = .wr b col ∨ k = .pre b) :
    dViol hbmTypical 0 { serving b v with comp := some 0, queue := q } 1000 k = none := by
  have : b = 0 ∨ b = 1 ∨ b = 2 ∨ b = 3 ∨ b = 4 ∨ b = 5 ∨ b = 6 ∨ b = 7 ∨ b = 8 ∨ b = 9 ∨ b = 10 ∨ b = 11 ∨ b = 12 ∨ b = 13 ∨
      b = 14 ∨ b = 15 := by omega
  rcases this with rfl | rfl | rfl | rfl | rfl | rfl | rfl | rfl | rfl | rfl | rfl | rfl | rfl | rfl | rfl | rfl <;>
    rcases hk with rfl | rfl | rfl <;> rfl
theorem wit_ChannelsFollowTheirRegimes :
    (∃ s : State, (ttOf s s.ev.a).st = .armed) ∧
    (∃ s c k, c = chanAt s s.ev.a ∧ c.comp = some k ∧
      c.t0 + field (timingOf s s.ev.a) (imgSlice (ttOf s k).img) 14 * (c.credit + 1) + field (timingOf s s.ev.a) (imgSlice (ttOf s k).img) 17
        = (domAt s (ttOf s k).dom).tc) ∧
    (∃ s c e, c = chanAt s s.ev.a ∧ c.ephTt = some e ∧ (bankAt c s.ev.b).eph = true ∧ (bankAt c s.ev.b).limit = (domAt s (ttOf s e).dom).tc) ∧
    (∃ s c k, c = chanAt s s.ev.a ∧ c.comp = some k ∧ backToOpen s s.ev.a c (domAt s (ttOf s k).dom).tc = true) ∧
    (∃ s c k a b, c = chanAt s s.ev.a ∧ c.comp = some k ∧ c.win = some (a, b) ∧ b < (domAt s (ttOf s k).dom).tc) ∧
    (∃ s c k b q r, c = chanAt s s.ev.a ∧ c.comp = some k ∧ (domAt s (ttOf s k).dom).frozen = true ∧
      c.banks.find? (fun p => p.2.row.isSome) = some (b, q) ∧ q.row = some r) ∧
    (∃ s c k p, c = chanAt s s.ev.a ∧ c.comp = some k ∧ (domAt s (ttOf s k).dom).frozen = true ∧ (∀ p ∈ c.banks, p.2.row = none) ∧
      c.seq.find? (fun p => p.2 == .ref) = some p) ∧
    (∃ s ch a e x u d r q l ls, Windowed s ch a e x u d ∧ d.serve = none ∧ d.queue = r :: q ∧ r.lines = l :: ls ∧
      mayStart (timingOf s ch) 0 x e r d = true ∧ lineHeld u ch r = false) ∧
    (∃ s ch a e x u d r b k rest, Windowed s ch a e x u d ∧ d.serve = some ⟨r, k :: rest⟩ ∧ IsColumn k b ∧ dViol (timingOf s ch) 0 d x k = none ∧
      (∀ j ∈ rest, ∀ a, ¬ IsColumn j a) ∧ ∀ c', r ∈ chanWants (setChan u ch c') ch) ∧
    (∃ s ch a e x u d r b k rest, Windowed s ch a e x u d ∧ d.serve = some ⟨r, k :: rest⟩ ∧ IsColumn k b ∧ dViol (timingOf s ch) 0 d x k = none ∧
      ∃ j ∈ rest, ∃ a, IsColumn j a) ∧
    ∃ s ch a e x u d r b rest, Windowed s ch a e x u d ∧ d.serve = some ⟨r, .pre b :: rest⟩ ∧ dViol (timingOf s ch) 0 d x (.pre b) = none := by
  have b16 : bankOf 0 < 16 := Nat.mod_lt _ (by decide)
  refine ⟨⟨{ State.reset with tts := [(0, { TT.none with st := .armed })] }, rfl⟩, ⟨inChan 24570 Chan.idle, _, _, rfl, rfl, by decide⟩,
    ⟨inChan 100 ephBank, _, _, rfl, rfl, by decide, by decide⟩, ⟨inChan 100 ephBank, _, _, rfl, rfl, by decide⟩,
    ⟨inChan 2001 windowed, _, _, _, _, rfl, rfl, rfl, by decide⟩,
    ⟨{ inChan 100 rowOpen with doms := [(0, { Dom.none with tc := 100, frozen := true })] }, _, _, _, _, _, rfl, rfl, rfl, rfl, rfl⟩,
    ⟨{ inChan 100 { ephBank with seq := [(90, .ref)] } with doms := [(0, { Dom.none with tc := 100, frozen := true })] }, _, _, _, rfl, rfl, rfl,
      by decide, rfl⟩,
    ⟨asked windowed, chanOf 0, 990, 2000, 1000, _, _, theReq, [], ⟨bankOf 0, rowOfPlace 0, colOfPlace 0, [false]⟩, [], reached windowed rfl, ?_⟩,
    ⟨asked (serving (bankOf 0) ⟨theReq, [.rd (bankOf 0) 7, .pre (bankOf 0)]⟩), chanOf 0, 990, 2000, 1000, _, _, theReq, bankOf 0, .rd (bankOf 0) 7, [.pre (bankOf 0)], reached _ rfl, ?_⟩,
    ⟨asked (serving (bankOf 0) ⟨theReq, [.wr (bankOf 0) 7, .rd (bankOf 0) 7, .pre (bankOf 0)]⟩), chanOf 0, 990, 2000, 1000, _, _, theReq, bankOf 0, .wr (bankOf 0) 7,
      [.rd (bankOf 0) 7, .pre (bankOf 0)], reached _ rfl, ?_⟩,
    ⟨asked (serving (bankOf 0) ⟨theReq, [.pre (bankOf 0)]⟩), chanOf 0, 990, 2000, 1000, _, _, theReq, bankOf 0, [], reached _ rfl, ?_⟩⟩
  · obtain ⟨q, h, hq⟩ := arrived windowed
    rw [h, hq rfl rfl, asked_timing _ _ rfl]
    refine ⟨rfl, rfl, rfl, ?_, rfl⟩
    have := starts_at _ b16
    unfold mayStart
    rw [show theReq = ⟨.input 0, [⟨bankOf 0, rowOfPlace 0, colOfPlace 0, [false]⟩]⟩ from rfl, reqCmds_one]
    simp only [Bool.and_eq_true, decide_eq_true_eq] at this ⊢
    exact ⟨⟨⟨this.1.1.1, by simp only [List.all_cons, List.all_nil, Bool.and_true]; exact this.1.1.2⟩, this.1.2⟩, this.2⟩
  · obtain ⟨q, h, -⟩ := arrived (serving (bankOf 0) ⟨theReq, [.rd (bankOf 0) 7, .pre (bankOf 0)]⟩)
    rw [h, asked_timing _ _ rfl]
    refine ⟨rfl, .inl ⟨7, rfl⟩, columns _ b16 _ _ 7 _ (.inl rfl), ?_, fun c' => ?_⟩
    · intro j hj a
      cases List.mem_singleton.1 hj
      rintro (⟨o, h⟩ | ⟨o, h⟩) <;> cases h
    · rw [wants_only _ rfl rfl]
      exact List.mem_singleton.2 rfl
  · obtain ⟨q, h, -⟩ := arrived (serving (bankOf 0) ⟨theReq, [.wr (bankOf 0) 7, .rd (bankOf 0) 7, .pre (bankOf 0)]⟩)
    rw [h, asked_timing _ _ rfl]
    exact ⟨rfl, .inr ⟨7, rfl⟩, columns _ b16 _ _ 7 _ (.inr (.inl rfl)), _, List.mem_cons_self, _, .inl ⟨7, rfl⟩⟩
  · obtain ⟨q, h, -⟩ := arrived (serving (bankOf 0) ⟨theReq, [.pre (bankOf 0)]⟩)
    rw [h, asked_timing _ _ rfl]
    exact ⟨rfl, columns _ b16 _ _ 0 _ (.inr (.inr rfl))⟩

/-! ## Beats and mass trees -/

/-- The two half-macros of macro 119 on every layer. -/
def lastSet : HSet := ⟨15, 119, 0, 3, 0, 0⟩
/-- Tile 0 with the eight half-macros in a mode; af7 names format 8 and queue 1. -/
def beatsT (m : Bool) (l : List Pend) : State :=
  { inTime 9 [] { ptr 767 with af := [(7, 0x8100)], cal := l } with
    halves := (List.range 4).flatMap (fun l => [(256 * l + 238, { Half.reset with mode := m, fmt := 8 }), (256 * l + 239, { Half.reset with mode := m, fmt := 8 })]) }
def beats (m : Bool) : State := beatsT m []
/-- An ASWR lands in cycle 16. -/
def aswrAt : List Pend := [⟨16, 0, 3, BRef.zero, .aswr 0 0 0⟩]
theorem asFree_nil (s : State) (c : Nat) (h : (me s).cal = []) : AsFree s c := fun p hp => by rw [h] at hp; cases hp
theorem setOk_of (s : State) (h : HSet) (q : Bool) (mode : Bool × FmtN → Prop) (x : Bool × FmtN) (hx : mode x) (h1 : (me s).elastic = false)
    (h2 : overQuota s (members s h) = false)
    (h3 : ∀ m ∈ members s h, m.macro_ < macroCount s s.cur m.layer ∧ modeAt s (me s) m.hm (now s + 1 + m.layer) = x ∧
      lanesOk s s.cur m.layer = true ∧ hmBusy s s.cur (now s + 1 + m.layer) m.hm = false) : SetOk s h q mode :=
  ⟨h1, fun _ => h2, fun m hm => ⟨(h3 m hm).1, (h3 m hm).2.1 ▸ hx, (h3 m hm).2.2⟩⟩
theorem beats_ok (m : Bool) (l : List Pend) (hl : l = [] ∨ l = aswrAt) : ∀ x ∈ members (beatsT m l) lastSet, x.macro_ < macroCount (beatsT m l) (beatsT m l).cur x.layer ∧
    modeAt (beatsT m l) (me (beatsT m l)) x.hm (now (beatsT m l) + 1 + x.layer) = (m, 8) ∧ lanesOk (beatsT m l) (beatsT m l).cur x.layer = true ∧
    hmBusy (beatsT m l) (beatsT m l).cur (now (beatsT m l) + 1 + x.layer) x.hm = false := by
  rcases hl with rfl | rfl <;> revert m <;> decide +kernel
theorem wit_BeatWordsActOnTheirMembers :
    (∀ i ∈ [Instr.mclr 0 lastSet, .mmodeS 0 lastSet, .mpmask 0 2 lastSet, .mshift 0 lastSet], ∃ s f, xForm s i = some f ∧ guardOn (me s) f.g = true ∧
      Readable s f.need ∧ SetOk s f.h f.quota f.mode) ∧
    (∃ s f, xForm s (.mmodeC 0 8 5 lastSet) = some f ∧ guardOn (me s) f.g = true ∧ Readable s f.need ∧ SetOk s f.h f.quota f.mode) ∧
    (∃ s g q, ∃ k : AfN, ∃ p : PlaneN, ∃ u : SegN, ∃ h fmt sq v sc t, guardOn (me s) g = true ∧ fmt = (rdAf (me s) k.toNat).extractLsb' 12 4 ∧
      sq = (rdAf (me s) k.toNat).extractLsb' 8 4 ∧ sq ≠ q.q ∧ p.toNat < fmtWidth fmt ∧ u.toNat < fmtSegs fmt ∧
      Takes s [q, ⟨q.pk, sq⟩] [v, sc] t ∧ SetOk s h true computing) ∧
    (∃ s a, ∃ h : HSet, ∃ row lat, Readable s [a] ∧ row = (rdReg (me s) a).toNat + h.row.toNat ∧ row = 767 ∧
      (∀ m ∈ members s h, m.layer + 4 ≤ lat) ∧ (∃ m ∈ members s h, m.layer + 4 = lat) ∧ SetOk s h true computing ∧ AsFree s (now s + lat)) ∧
    (∃ s a, ∃ h : HSet, ∃ row lat, Readable s [a] ∧ row = (rdReg (me s) a).toNat + h.row.toNat ∧ row ≤ 767 ∧
      (∀ m ∈ members s h, m.layer + 4 ≤ lat) ∧ (∃ m ∈ members s h, m.layer + 4 = lat) ∧ SetOk s h true computing ∧ ¬ AsFree s (now s + lat)) ∧
    (∃ s a q, ∃ ty : OutTy, (me s).elastic = false ∧ Readable s [a] ∧ Pushable s q ∧ (rdReg (me s) a).toNat + moreRows ty = 767 ∧ ty.toNat ≤ 4) ∧
    ∃ s a q v t, (me s).elastic = false ∧ Readable s [a] ∧ Takes s [q] [v] t ∧ (rdReg (me s) a).toNat = 767 ∧ AsFree s (now s + 1) := by
  have c8 : ∀ f : Bool × FmtN → Prop, f (true, 8) → SetOk (beats true) lastSet true f := fun f h =>
    setOk_of _ _ _ f _ h (by decide) (by decide +kernel) (beats_ok true [] (.inl rfl))
  refine ⟨fun i h => ?_, ⟨beats false, _, rfl, by decide, by unfold Readable; decide,
      setOk_of _ _ _ _ _ (show (fun x : Bool × FmtN => x.1 = false) (false, 8) from rfl) (by decide) (by decide +kernel) (beats_ok false [] (.inl rfl))⟩,
    ⟨beats true, 0, ⟨false, 0⟩, 7, 1, 7, lastSet, _, _, 5, 5, setQ (setQ (me (beats true)) 0 [⟨none, 3⟩]) 1 [⟨none, 3⟩], by decide, rfl, rfl, by decide, by decide,
      by decide, ?_, ?_⟩,
    ⟨beats true, 5, lastSet, _, 7, by unfold Readable; decide, rfl, by decide, by decide +kernel, by decide +kernel, c8 _ rfl, asFree_nil _ _ rfl⟩,
    ?_, ⟨beats true, 5, 15, 0, by decide, by unfold Readable; decide, by unfold Pushable; decide, by decide, by decide⟩,
    ⟨beats true, 5, ⟨false, 0⟩, 5, _, by decide, by unfold Readable; decide, ⟨by unfold QueueFree; decide, rfl⟩, by decide, asFree_nil _ _ rfl⟩⟩
  · simp only [List.mem_cons, List.not_mem_nil, or_false] at h
    rcases h with rfl | rfl | rfl | rfl
    · exact ⟨beats true, _, rfl, by decide, by unfold Readable; decide, setOk_of _ _ _ _ _ (show computing (true, 8) from rfl) (by decide) (by decide +kernel)
        (beats_ok true [] (.inl rfl))⟩
    · exact ⟨beats true, _, rfl, by decide, by unfold Readable; decide, setOk_of _ _ _ (fun _ => True) (true, 8) trivial (by decide) (by decide +kernel)
        (beats_ok true [] (.inl rfl))⟩
    · exact ⟨beats true, _, rfl, by decide, by unfold Readable; decide, setOk_of _ _ _ _ (true, 8)
        (show (fun x : Bool × FmtN => x.1 = true ∧ 8 ≤ x.2.toNat ∧ (2 : BitVec 4).toNat ≤ x.2.toNat - 6) (true, 8) by decide) (by decide)
        (by decide +kernel) (beats_ok true [] (.inl rfl))⟩
    · exact ⟨beats true, _, rfl, by decide, by unfold Readable; decide, c8 _ rfl⟩
  · exact ⟨by unfold QueueFree; decide +kernel, by decide +kernel⟩
  · exact c8 _ rfl
  · refine ⟨beatsT true aswrAt, 5, lastSet, _, 7, by unfold Readable; decide, rfl, by decide, by decide +kernel, by decide +kernel,
      setOk_of _ _ _ computing (true, 8) rfl (by decide) (by decide +kernel) (beats_ok true _ (.inr rfl)), fun h => ?_⟩
    exact (h _ List.mem_cons_self rfl).2 0 0 0 rfl

/-- The eighteen half-macros of macros 0 to 8 of layer 0, in compute mode. -/
def many : State :=
  { inTime 9 [] (ptr 767) with halves := (List.range 18).map (fun k => (k, { Half.reset with mode := true, fmt := 8 })) }
def manySet : HSet := ⟨1, 0, 8, 3, 0, 0⟩
theorem wit_BeatWordsActOnTheirMembers_faults :
    (∃ i s f, setWord s i = some f ∧ guardOn (me s) f.g = true ∧ f.ok ∧ (me s).elastic = true) ∧
    (∃ i s f, setWord s i = some f ∧ guardOn (me s) f.g = true ∧ f.ok ∧ (me s).elastic = false ∧ ∃ m ∈ members s f.h, ¬ FreeThen s m) ∧
    (∃ i s f m, setWord s i = some f ∧ guardOn (me s) f.g = true ∧ f.ok ∧ (me s).elastic = false ∧ (∀ m ∈ members s f.h, FreeThen s m) ∧
      FirstBad s f.h (fun m => Present s m ∧ ¬ InMode s f.mode m) m) ∧
    (∃ i s f, setWord s i = some f ∧ guardOn (me s) f.g = true ∧ f.ok ∧ (me s).elastic = false ∧ (∀ m ∈ members s f.h, FreeThen s m) ∧
      (∀ m ∈ members s f.h, Present s m → InMode s f.mode m) ∧ f.quota = true ∧ overQuota s (members s f.h) = true) ∧
    (∃ i s f m, setWord s i = some f ∧ guardOn (me s) f.g = true ∧ f.ok ∧ (me s).elastic = false ∧ (∀ m ∈ members s f.h, FreeThen s m) ∧
      (∀ m ∈ members s f.h, Present s m → InMode s f.mode m) ∧ f.quota = false ∧ FirstBad s f.h (fun m => ¬ Present s m) m) ∧
    ∃ i s f m, setWord s i = some f ∧ guardOn (me s) f.g = true ∧ f.ok ∧ (me s).elastic = false ∧ (∀ m ∈ members s f.h, FreeThen s m) ∧
      (∀ m ∈ members s f.h, Present s m → InMode s f.mode m) ∧ overQuota s (members s f.h) = false ∧ (∀ m ∈ members s f.h, Present s m) ∧
      FirstBad s f.h (fun m => ¬ Linked s m) m := by
  have r5 : ∀ s, (∀ r, r ∈ ([] : List Reg) → regPending s r = false ∧ eccBad s 6 s.cur (physReg (me s) r.toNat) = false) := fun _ _ h => nomatch h
  refine ⟨⟨.mshift 0 lastSet, on0 { ptr 767 with elastic := true }, _, rfl, by decide, r5 _, rfl⟩,
    ⟨.mshift 0 lastSet, { beats true with tiles := [(0, { ptr 767 with cal := [⟨13, 0, 5, BRef.zero, .mclr 1006⟩] })] }, _, rfl, by decide, r5 _, by decide,
      ⟨3, 119, 1006⟩, by decide +kernel, by unfold FreeThen; decide +kernel⟩,
    ⟨.mclr 0 lastSet, beats false, _, ⟨3, 119, 1006⟩, rfl, by decide, r5 _, by decide, by unfold FreeThen; decide +kernel,
      [], (members (beats false) lastSet).tail, by decide +kernel, by unfold Present InMode; exact ⟨by decide +kernel, by unfold computing; decide +kernel⟩, nofun⟩,
    ⟨.mshift 0 manySet, many, _, rfl, by decide, r5 _, by decide, by unfold FreeThen; decide +kernel, ?_, rfl, by decide +kernel⟩,
    ⟨.mmodeS 0 ⟨1, 119, 1, 1, 0, 0⟩, many, _, ⟨0, 120, 240⟩, rfl, by decide, r5 _, by decide, by unfold FreeThen; decide +kernel,
      fun _ _ _ => trivial, rfl, [⟨0, 119, 238⟩], [], by decide +kernel, by unfold Present; decide +kernel, by unfold Present; decide +kernel⟩,
    ⟨.mmodeS 0 lastSet, { beats true with hc := Harbour.reset }, _, ⟨3, 119, 1006⟩, rfl, by decide, r5 _, by decide, by unfold FreeThen; decide +kernel,
      fun _ _ _ => trivial, by decide +kernel, by unfold Present; decide +kernel, [], (members (beats false) lastSet).tail, by decide +kernel,
      by unfold Linked; decide +kernel, nofun⟩⟩
  show ∀ m ∈ members many manySet, Present many m → (modeAt many (me many) m.hm (now many + 1 + m.layer)).1 = true
  have h : ∀ m ∈ members many manySet, (modeAt many (me many) m.hm (now many + 1 + m.layer)).1 = true := by decide +kernel
  exact fun m hm _ => h m hm

theorem wit_PushesSumTheirPlanes : ∃ h : Half, ∃ col j, 1 ≤ h.pm ∧ h.pm ≤ fmtWidth h.fmt ∧ 1 ≤ fmtWidth h.fmt ∧ col + 1 = fmtCols h.fmt ∧ j < 8 ∧ j = 7 :=
  ⟨{ Half.reset with fmt := 8, pm := 2 }, 479, 7, by decide, by decide, by decide, by decide, by decide, rfl⟩
theorem wit_HalfMacrosAndTheStoreFollowTheBeats :
    (∀ x ∈ [Act.mmode 1023 true 15 7, .mclr 1023, .mpmask 1023 2, .mpush 1023 8 0 0 5 5, .mpush 1023 8 1 7 5 5, .mshift 1023, .macc 1023 3], ∃ s p r,
      Due s s.ev.a (isBeat s.ev.flag) p r ∧ p.act = x ∧ lanesOk s s.ev.a (hmLayer 1023) = true ∧ ArrayClean s 1023 ∧
      ∀ i < 32, eccBad s 4 (768 + 1023) (32 * 3 + i) = false) ∧
    (∃ s p r, Due s s.ev.a (isBeat s.ev.flag) p r ∧ p.act = .mpush 1023 8 0 0 5 5 ∧ lanesOk s s.ev.a (hmLayer 1023) = true ∧ rowBad s 1023 = true) ∧
    (∀ x ∈ [Act.bsumIn 1023 [] 1 none, .bsumIn 1023 [] 1 (some (8, [0, 1, 2, 3, 4, 5, 6, 7])), .pxIn 1023 []], ∃ s p r, Due s s.ev.a isInForce p r ∧ p.act = x) ∧
    (∃ s p r row cb ms got, Due s s.ev.a isMaccLand p r ∧ p.act = .maccLand row cb ms got ∧
      (∀ i < 32, eccBad s 4 s.ev.a (128 * row + 32 * cb + i) = false) ∧ ∃ v : Nat → XA × Bool, ∀ i, v i = folded (sent got i) ms (xaEmpty, false)) ∧
    ∀ x ∈ [Act.mdrain 767 0 true 3, .asrd 767 3 3], ∃ s p r, Due s s.ev.a isAsRead p r ∧ p.act = x ∧
      ∀ i < 128, eccBad s 4 s.ev.a (128 * 767 + i) = false := by
  refine ⟨fun x h => ?_, ⟨{ on0 (withAct (.mpush 1023 8 0 0 5 5) task) with ecc := [(3, 1023 * 2 ^ 32 + 8 * 30719)] },
      act0 (.mpush 1023 8 0 0 5 5), [], due_one _ _ _ _ rfl (Nat.zero_le _) (by decide +kernel), rfl, by rfl, by decide +kernel⟩,
    fun x h => ?_, ⟨on0 (withAct (.maccLand 767 3 [1023] []) task), act0 (.maccLand 767 3 [1023] []), [], 767, 3, [1023], [],
    due_one _ _ _ _ rfl (Nat.zero_le _) rfl, rfl, fun _ _ => rfl, _, fun _ => rfl⟩, fun x h => ?_⟩
  · by_cases h0 : x = .mmode 1023 true 15 7 ∨ x = .mclr 1023 ∨ x = .mpmask 1023 2
    all_goals
      first
      | exact ⟨on0 (withAct x task), act0 x, [], due_one _ _ _ _ rfl (Nat.zero_le _) (by revert x; decide +kernel), rfl, by rfl, nofun, fun _ _ => rfl⟩
      | exact ⟨{ on0 (withAct x task) with ev := { EvArgs.zero with flag := true } }, act0 x, [],
          due_one _ _ _ _ rfl (Nat.zero_le _) (by revert x; decide +kernel), rfl, by rfl, nofun, fun _ _ => rfl⟩
  · exact ⟨on0 (withAct x task), act0 x, [], due_one _ _ _ _ rfl (Nat.zero_le _) (by revert x; decide +kernel), rfl⟩
  · exact ⟨on0 (withAct x task), act0 x, [], due_one _ _ _ _ rfl (Nat.zero_le _) (by revert x; decide +kernel), rfl, fun _ _ => rfl⟩

theorem wit_MassTreeWordsStartTheirWork :
    (∃ s g, guardOn (me s) g = true) ∧ (∃ s x q v u, countOk s x ∧ Takes s [q] [v] u) ∧
    (∃ s a y k, Readable s [a] ∧ countOk s y ∧ k = (rdReg (me s) a).toNat % 2 ^ 15 ∧ (∀ j, eccBad s 5 s.cur j = false) ∧
      (node (treeOf (me s) true) 0 k : Int) + rlSigned (me s) y < 0) ∧
    (∃ s a y k, Readable s [a] ∧ countOk s y ∧ k = (rdReg (me s) a).toNat % 2 ^ 15 ∧ (∀ j, eccBad s 5 s.cur j = false) ∧
      2 ^ 24 ≤ (node (treeOf (me s) true) 0 k : Int) + rlSigned (me s) y) ∧
    (∀ i ∈ [Instr.mtst 0 true 15 (.lit 255), .mtsum 0 true 31 (.lit 32768), .mtfind 0 true 31 15 (.reg 5), .mtcut 0 true 15 (.lit 0), .mtroot 0 true 31 true,
        .mtleaf 0 true 31 (.lit 32767), .mthor 0 true 31], ∃ s f, tForm s i = some f ∧ guardOn (me s) f.g = true ∧ (∀ x ∈ f.need, countOk s x) ∧
      (∀ d, f.d = some d → Writable s d) ∧ ∀ q, f.q = some q → Pushable s q) := by
  refine ⟨⟨on0 task, 0, by decide⟩, ⟨on0 (ptr 0x1FFE00), .lit 255, ⟨false, 0⟩, _, _, trivial, takes_ptr⟩,
    ⟨on0 (ptr 32767), 5, .lit 0xFFFFFFFF, _, by unfold Readable; decide, trivial, rfl, fun _ => rfl, by decide⟩,
    ⟨on0 (ptr 32767), 5, .lit 0x7FFFFFFF, _, by unfold Readable; decide, trivial, rfl, fun _ => rfl, by decide⟩, fun i h => ?_⟩
  have w : ∀ d, (31 : Reg) = d → Writable (on0 (ptr 0)) d := fun d h => by subst h; unfold Writable; decide
  have p : ∀ q, (15 : QN) = q → Pushable (on0 (ptr 0)) q := fun q h => by subst h; unfold Pushable; decide
  simp only [List.mem_cons, List.not_mem_nil, or_false] at h
  rcases h with rfl | rfl | rfl | rfl | rfl | rfl | rfl
  all_goals refine ⟨on0 (ptr 0), _, rfl, by decide, ?_, fun d h => ?_, fun q h => ?_⟩
  all_goals first
    | exact w _ (Option.some.inj h)
    | exact p _ (Option.some.inj h)
    | cases h
    | (intro x hx; first | (rcases List.mem_singleton.1 hx with rfl; first | trivial | (unfold countOk Readable; decide)) | cases hx)

theorem wit_QueriesReadWhatTheirRulesSay :
    (∀ k ∈ [MtKind.sum, .root, .full, .leaf, .hor, .find, .cut], ∃ m rd x y, rd = (fun l k => node ((m : Nat → MTree) l) l k) ∧ x.level = 15 ∧ x.acc = 0 ∧ x.k = 0 ∧
      y = readDown m 15 x ∧ x.kind = k ∧ x.arg = 32768) ∧
    ∃ rd : Nat → Nat → Nat, Settled rd ∧ (32768 : Nat) ≤ 32768 ∧ 0 < rd 15 0 := by
  refine ⟨fun k _ => ⟨fun _ => MTree.clear, _, ⟨k, 32768, 0, 15, 0, 0, false, 0, 0, 0, true, 0, []⟩, _, rfl, rfl, rfl, rfl, rfl, rfl, rfl⟩,
    fun l _ => 2 ^ l, fun l _ k _ => ?_, Nat.le_refl _, by decide⟩
  simp only [Nat.pow_succ]
  omega
theorem wit_MassTreesSettleLevelByLevel :
    (∀ x ∈ [Act.mtClr true, .mtLeaf true [(0, 1), (32767, 2 ^ 24 - 1)], .mtLevel true 1 [(0, 1), (32767, 1)] [0, 16383], .mtLevel true 15 [(0, 1)] [0]], ∃ s p r,
      Due s s.ev.a (isMtWrite s.ev.flag) p r ∧ p.act = x ∧ ∀ j, eccBad s 5 s.ev.a j = false) ∧
    (∃ s p r, Due s s.ev.a isMtHor p r ∧ p.act = .mtHor true 32768) ∧
    (∀ k ∈ [MtKind.sum, .root, .full, .leaf, .hor, .find, .cut, .store], ∀ l ∈ [0, 15], ∃ s p r x, Due s s.ev.a isMtQ p r ∧ p.act = .mtQ true x ∧
      x.kind = k ∧ x.level = l ∧ ∀ j, eccBad s 5 s.ev.a j = false) := by
  refine ⟨fun x h => ?_, ⟨on0 (withAct (.mtHor true 32768) task), act0 _, [], due_one _ _ _ _ rfl (Nat.zero_le _) rfl, rfl⟩, fun k _ l _ =>
    ⟨on0 (withAct (.mtQ true ⟨k, 0, 0, l, 0, 0, false, 0, 0, 0, true, 0, []⟩) task), act0 _, [], _, due_one _ _ _ _ rfl (Nat.zero_le _) rfl, rfl, rfl, rfl, fun _ => rfl⟩⟩
  by_cases h0 : x = .mtClr true
  all_goals
    first
    | exact ⟨on0 (withAct x task), act0 x, [], due_one _ _ _ _ rfl (Nat.zero_le _) (by revert x; decide +kernel), rfl, fun _ => rfl⟩
    | exact ⟨{ on0 (withAct x task) with ev := { EvArgs.zero with flag := true } }, act0 x, [],
        due_one _ _ _ _ rfl (Nat.zero_le _) (by revert x; decide +kernel), rfl, fun _ => rfl⟩

/-! ## Faults, the freeze, domains -/

/-- A page of a device that no port leads to. -/
def farPage : Page := ⟨0, 0, .k64, 0, .rc, true, .peer 1⟩
theorem wit_TakingAFaultFillsTheFaultRegisters :
    (∃ (x : Trap) (pipe : Nat) (b : BRef) (tb : Option BRef) (id : Nat) (s : State), Fits x pipe b ∧ causeOf (tileOf s id) = 0 ∧ tb = none) ∧
    (∃ (x : Trap) (pipe : Nat) (b r : BRef) (tb : Option BRef) (id : Nat) (s : State), Fits x pipe b ∧ x.cause < causeOf (tileOf s id) ∧ tb = some r ∧
      r.seg < 2 ^ 20 ∧ r.half < 2 ∧ r.word < 256) ∧
    (∃ (x : Trap) (pipe : Nat) (b : BRef) (id : Nat) (s : State), Fits x pipe b ∧ causeOf (tileOf s id) ≠ 0 ∧ causeOf (tileOf s id) ≤ x.cause) ∧
    (∃ s c, (me s).delay = 0 ∧ condTrue (me s) c = true ∧ (me s).skip ≠ some (now s, 0x18)) ∧
    (∃ s c, (me s).delay = 0 ∧ (condTrue (me s) c = false ∨ (me s).skip = some (now s, 0x18))) ∧
    ∃ s x p, accOf (tileOf s s.ev.a) s.ev.b = some x ∧ p ∈ x.parts ∧ Undelivered s s.ev.a x p ∧ (∀ q ∈ x.parts, Undelivered s s.ev.a x q → q = p) ∧
      causeOf (tileOf s s.ev.a) = 0 := by
  refine ⟨⟨⟨0xFF, 255, 65535, 0⟩, 15, ⟨2 ^ 20 - 1, 1, 255⟩, none, 0, on0 task, by unfold Fits; decide, by decide, rfl⟩,
    ⟨⟨1, 0, 0, 0⟩, 0, BRef.zero, ⟨2 ^ 20 - 1, 1, 255⟩, _, 0, on0 { task with tcause := 2 }, by unfold Fits; decide, by decide, rfl, by decide, by decide, by decide⟩,
    ⟨⟨2, 0, 0, 0⟩, 0, BRef.zero, 0, on0 { task with tcause := 2 }, by unfold Fits; decide, by decide, by decide⟩,
    ⟨on0 task, ⟨0, false⟩, by decide, by decide, nofun⟩, ⟨inTime 9 [] { task with skip := some (9, 0x18) }, ⟨0, false⟩, by decide, .inr (by decide)⟩,
    ⟨{ evt 0 0 0 (inTime 9 [] { ptr 0 with out := [acc0 .store (at_ 0 8)] }) with pages := [farPage] }, _, Claims.part 0 0 8 7, rfl, List.mem_cons_self,
      ⟨by decide, farPage, by decide, by decide⟩, fun q h _ => List.mem_singleton.1 h, by decide⟩⟩

/-- Domain 0 as given, its timetable 1 in a state, with tile 0, at the end of a cycle. -/
def ending (st : TtSt) (x : Dom) (t : Tile) : State :=
  { on0 { t with tt := 1 } with
    tts := [(1, { TT.none with parts := [0], st := st })], doms := [(0, { x with parts := [0], live := true })], agenda := [.close 0] }
/-- Queue 3 has five entries, of which the access of this cycle has reserved the last. -/
def fifth : Tile :=
  { task with tt := 1, queues := [(3, [⟨none, 0⟩, ⟨none, 0⟩, ⟨none, 0⟩, ⟨none, 0⟩, ⟨some 0, 0⟩])], out := [acc0 (.loadV 3) (at_ 0 512)] }
theorem wit_AFaultFreezesItsDomainPrecisely :
    (∃ s d r c k, s.agenda = .close d :: r ∧ (domAt s d).frozen = false ∧ (domAt s d).doomed = false ∧ (s.chans.map (·.1)).Nodup ∧
      (c.chans.map (·.1)).Nodup ∧ (domAt s d).faulted = true ∧ CkptOf s d c ∧ (ttOf s k).st = .running ∧ (ttOf s k).dom = d ∧
      ∃ id, id ∈ domTiles { s with tiles := c.tiles } d ∧ ¬ FifthEntry s d id) ∧
    (∃ s d r c id, s.agenda = .close d :: r ∧ (domAt s d).frozen = false ∧ (domAt s d).doomed = false ∧ (s.chans.map (·.1)).Nodup ∧
      (c.chans.map (·.1)).Nodup ∧ CkptOf s d c ∧ id ∈ domTiles s d ∧ FifthEntry s d id ∧ causeOf (tileOf s id) = 0) ∧
    ∃ s d r, s.agenda = .close d :: r ∧ (domAt s d).frozen = false ∧ (domAt s d).faulted = true ∧ (domAt s d).doomed = false ∧
      (∀ c, ¬ CkptOf s d c) ∧ ∃ id, id ∈ domTiles s d := by
  refine ⟨⟨{ ending .running { Dom.none with faulted := true } { task with tcause := 1 } with ckpt := some ⟨0, [(0, { task with tt := 1 })], [], []⟩ }, 0, [],
      ⟨0, [(0, { task with tt := 1 })], [], []⟩, 1, rfl, rfl, rfl, by decide, by decide, rfl, ⟨rfl, rfl⟩, rfl, rfl, 0, by decide, ?_⟩,
    ⟨{ ending .running Dom.none fifth with ckpt := some ⟨0, [(0, { task with tt := 1 })], [], []⟩ }, 0, [], ⟨0, [(0, { task with tt := 1 })], [], []⟩, 0,
      rfl, rfl, rfl, by decide, by decide, ⟨rfl, rfl⟩, by decide, by unfold FifthEntry; decide, by decide⟩,
    ⟨ending .running { Dom.none with faulted := true } { task with tcause := 1 }, 0, [], rfl, rfl, rfl, rfl, (by intro c h; exact nomatch h.1), 0, by decide⟩⟩
  exact fun ⟨_, h, _⟩ => nomatch h

/-- Joint 0 is a hold point at cycle 9. -/
def holdImg : List Byte := imgOf 48 [(0x1C, 4, 0x20), (0x20, 4, 9), (0x24, 4, 3)]
/-- A snapshot of timetable 1 in domain 0, with tile 0, a half-macro of its shaft by its logical name, and the digest that it needs. -/
def snap1 : Snap :=
  let n : Snap := ⟨0, 1, 0x4B534E50, 1, 9, 0, 1, 0, 1, 0, 0, [], 0, 0, 0, true, false, [0], [⟨0, 0, 0, 1, [0], [0], [(0, 9)], none⟩],
    [(0, { task with tt := 1 })], [], [(1, Half.reset)], []⟩
  { n with digest := digestOf n }
/-- Domain 0 is frozen with that snapshot. -/
def frozen0 (l : List Snap) (x : Dom) : State := evt 0 0 0 { ending .frozen { x with frozen := true } task with snaps := l }
theorem wit_FrozenDomainsAreResumedOrAborted :
    (∃ s d k, s.ev.a = d ∧ (domAt s d).frozen = true ∧ AccessesOver s d ∧ (∀ n ∈ s.snaps, n.dom ≠ d) ∧ (ttOf s k).st = .frozen ∧ (ttOf s k).dom = d) ∧
    (∃ s d, s.ev.a = d ∧ (domAt s d).frozen = false ∧ HoldKnown s d ∧ AtHoldPoint s d) ∧
    (∃ s d, s.ev.a = d ∧ (domAt s d).frozen = false ∧ HoldKnown s d ∧ ¬ AtHoldPoint s d) ∧
    (∃ s d, s.ev.a = d ∧ (domAt s d).frozen = false ∧ (domAt s d).holds ≠ [] ∧ ¬ HoldKnown s d) ∧
    (∃ s d n, s.ev.a = d ∧ s.ev.snap = none ∧ (domAt s d).frozen = true ∧ (domAt s d).live = true ∧ waitsFor s d = false ∧
      s.snaps.filter (fun n => n.dom = d) = [n] ∧ s.hc.dying = true) ∧
    (∃ s d n k, s.ev.a = d ∧ s.ev.snap = none ∧ (domAt s d).frozen = true ∧ (domAt s d).live = true ∧ waitsFor s d = false ∧
      s.snaps.filter (fun n => n.dom = d) = [n] ∧ s.hc.dying = false ∧ s.hc.halted = false ∧ snapOk s n = true ∧ snapTt s n = some k ∧
      (n.tiles.map (·.1)).Nodup ∧ (n.chans.map (·.1)).Nodup ∧ (n.shafts.map (fun h => hmOfName s h.1)).Nodup ∧ (s.halves.map (·.1)).Nodup ∧
      ∃ p ∈ n.tiles, ∃ hm, hm / 1024 = shaftKey s p.1 ∧ hm ∉ n.shafts.map (fun h => hmOfName s h.1)) ∧
    (∃ s d n, s.ev.a = d ∧ s.ev.snap = none ∧ (domAt s d).frozen = true ∧ (domAt s d).live = true ∧ waitsFor s d = false ∧
      s.snaps.filter (fun n => n.dom = d) = [n] ∧ s.hc.dying = false ∧ s.hc.halted = false ∧ snapOk s n = false) ∧
    (∃ s d k, s.ev.a = d ∧ (domAt s d).frozen = true ∧ (domAt s d).live = true ∧ (∃ n ∈ s.snaps, n.dom = d) ∧ (domAt s d).doomed = true ∧
      (ttOf s k).st = .frozen ∧ (ttOf s k).dom = d) ∧
    (∃ s d k, s.ev.a = d ∧ (domAt s d).frozen = true ∧ (domAt s d).live = true ∧ (∃ n ∈ s.snaps, n.dom = d) ∧ MayNotGoOn s d ∧
      (ttOf s k).st = .frozen ∧ (ttOf s k).dom = d) ∧
    ∃ s d, s.ev.a = d ∧ (domAt s d).frozen = true ∧ (domAt s d).live = true ∧ (∀ k, (ttOf s k).st = .frozen → (ttOf s k).dom ≠ d) ∧
      (domAt s d).doomed = true := by
  refine ⟨⟨frozen0 [] Dom.none, 0, 1, rfl, rfl, ?_, nofun, rfl, rfl⟩,
    ⟨{ evt 0 0 0 (inTime 9 holdImg task) with doms := [(0, { Dom.none with parts := [0], tc := 9, holds := [(0, 9)] })] }, 0, rfl, rfl,
      ⟨(0, 9), by decide, .inl (by decide)⟩, 0, 0, false, rfl, rfl, by decide, by decide, (by decide : jointEntry holdImg 0 = (9, true, true, false))⟩,
    ⟨{ State.reset with doms := [(0, { Dom.none with parts := [0, 4], tc := 12, holds := [(0, 0)] })] }, 0, rfl, rfl,
      ⟨(0, 0), by decide, .inr (by decide)⟩, fun ⟨k, n, g, h, _⟩ => nomatch h⟩,
    ⟨{ State.reset with tts := [(1, { TT.none with st := .running, img := imgOf 0x68 [(0x0C, 4, 2), (0x10, 4, 0x28), (0x48, 1, 1)] })],
                           doms := [(0, { Dom.none with parts := [0, 4], tc := 11, holds := [(0, 0)] })] }, 0, rfl, rfl, nofun,
      by unfold HoldKnown; decide +kernel⟩,
    ⟨{ frozen0 [snap1] Dom.none with hc := { Harbour.reset with dying := true } }, 0, snap1, rfl, rfl, rfl, rfl, by decide, rfl, rfl⟩,
    ⟨frozen0 [snap1] Dom.none, 0, snap1, 1, rfl, rfl, rfl, rfl, by decide, rfl, rfl, rfl, ?_, by decide, by decide, by decide, by decide,
      by decide, (0, { task with tt := 1 }), List.mem_cons_self, 1023, by decide, by decide⟩,
    ⟨frozen0 [{ snap1 with layout := 2 }] Dom.none, 0, { snap1 with layout := 2 }, rfl, rfl, rfl, rfl, by decide, rfl, rfl, rfl, ?_⟩,
    ⟨frozen0 [snap1] { Dom.none with doomed := true }, 0, 1, rfl, rfl, rfl, ⟨snap1, List.mem_cons_self, rfl⟩, rfl, rfl, rfl⟩,
    ⟨{ frozen0 [snap1] Dom.none with tiles := [(0, { task with tt := 1, tcause := 0x11 })] }, 0, 1, rfl, rfl, rfl, ⟨snap1, List.mem_cons_self, rfl⟩,
      .inl ⟨0, by decide, by decide⟩, rfl, rfl⟩,
    ⟨{ frozen0 [] { Dom.none with doomed := true } with tts := [] }, 0, rfl, rfl, rfl, fun k h => absurd h (by simp [ttOf, tabGet, TT.none]), rfl⟩⟩
  · intro id h x hx
    rcases List.mem_singleton.1 h with rfl
    cases hx
  · have h : snapTt (frozen0 [snap1] Dom.none) snap1 = some 1 := by decide
    simp only [snapOk, h, Bool.and_eq_true]
    refine ⟨⟨⟨⟨⟨⟨⟨⟨⟨⟨⟨⟨⟨by decide, by decide⟩, decide_eq_true rfl⟩, by decide⟩, by decide⟩, by decide⟩, by decide⟩, by decide⟩, by decide⟩, by decide⟩,
      by decide⟩, by decide⟩, by decide⟩, by decide⟩
  · have h : snapTt (frozen0 [{ snap1 with layout := 2 }] Dom.none) { snap1 with layout := 2 } = some 1 := by decide
    have h2 : decide (({ snap1 with layout := 2 } : Snap).layout = 1) = false := rfl
    simp only [snapOk, h, h2, Bool.and_false, Bool.false_and]

/-- An exchange of domain 0 for joint 0. -/
def exch0 (mine : Option (List Byte)) (done equal : Bool) : Exch := ⟨0, 1, 0, 5, mine, done, equal, []⟩
/-- An image whose task record 1 is tile 1's, from cycle 7 on; joint 0 at cycle 9. -/
def taskImg : List Byte := imgOf 0x78 [(6, 1, 1), (0x0C, 4, 2), (0x10, 4, 0x28), (0x1C, 4, 0x70), (0x49, 1, 1), (0x4C, 4, 7), (0x70, 4, 9), (0x74, 4, 1)]
/-- Timetable 1 of that image in a state, domain 0 as given, in cycle 9, with exchanges. -/
def timed (st : TtSt) (t0 : Nat) (x : Dom) (l : List Exch) : State :=
  evt 1 0 0 { on0 { task with tt := 1, started := false, ended := true } with
    tts := [(1, { TT.none with parts := [0], st := st, img := taskImg, t0 := t0 })]
    doms := [(0, { x with parts := [0], tc := 9, live := true })], exchs := l }
/-- Both tiles have ended. -/
def allEnded (l : List Exch) : State :=
  let t := { Tile.reset with tt := 1, ended := true }
  { timed .running 0 Dom.none l with tiles := [(0, t), (1, t)] }
theorem wit_DomainsTickAndTimetablesRunAndEnd :
    (∃ s d, s.ev.a = d ∧ (domAt s d).live = false) ∧ (∃ s d, s.ev.a = d ∧ (domAt s d).live = true ∧ (domAt s d).frozen = true) ∧
    (∃ s d, s.ev.a = d ∧ (domAt s d).live = true ∧ (domAt s d).frozen = false ∧ (domAt s d).faulted = false) ∧
    (∃ s k x, s.ev.a = k ∧ x = ttOf s k ∧ x.st = .armed ∧ (domAt s x.dom).tc = x.t0 ∧ ((compiledChans x.img).map (·.1)).Nodup ∧ (taskTiles x.img).Nodup ∧
      nTask x.img = 2) ∧
    (∃ s id k i x, TaskDue s id k i x ∧ i = 1) ∧
    (∃ s k x, s.ev.a = k ∧ x = ttOf s k ∧ x.st = .running ∧ (domAt s x.dom).frozen = false ∧ (domAt s x.dom).faulted = false ∧ ttDone s k = false) ∧
    (∃ s k x, s.ev.a = k ∧ x = ttOf s k ∧ x.st = .running ∧ (domAt s x.dom).frozen = false ∧ (domAt s x.dom).faulted = false ∧ ttDone s k = true ∧
      ∃ e ∈ s.exchs, e.tt = k ∧ e.done = false) ∧
    (∃ s k x, s.ev.a = k ∧ x = ttOf s k ∧ x.st = .running ∧ (domAt s x.dom).frozen = false ∧ (domAt s x.dom).faulted = false ∧ ttDone s k = true ∧
      (∀ e ∈ s.exchs, e.tt = k → e.done = true) ∧ ∃ e ∈ s.exchs, e.tt = k ∧ e.equal = false) ∧
    ∃ s k x, s.ev.a = k ∧ x = ttOf s k ∧ x.st = .running ∧ (domAt s x.dom).frozen = false ∧ (domAt s x.dom).faulted = false ∧ ttDone s k = true ∧
      (∀ e ∈ s.exchs, e.tt = k → e.done = true ∧ e.equal = true) ∧ (∀ id ∈ domTiles s x.dom, causeOf (tileOf s id) = 0) ∧
      (∀ ch, ∀ b ∈ (chanAt s ch).banks, b.2.expired = false) ∧ x.record = none ∧
      ∀ y ∈ s.tts, y.1 ≠ k → y.2.dom = x.dom → isActive y.2 = false := by
  refine ⟨⟨on0 task, 0, rfl, rfl⟩, ⟨evt 0 0 0 (timed .frozen 0 { Dom.none with frozen := true } []), 0, rfl, rfl, rfl⟩,
    ⟨evt 0 0 0 (timed .running 0 Dom.none []), 0, rfl, rfl, rfl, rfl⟩,
    ⟨timed .armed 9 Dom.none [], 1, _, rfl, rfl, rfl, rfl, by decide +kernel, by decide +kernel, by decide +kernel⟩,
    ⟨evt 1 1 1 (timed .running 2 Dom.none []), 1, 1, 1, _, ⟨rfl, rfl, rfl, rfl, rfl, by decide +kernel, by decide +kernel⟩, rfl⟩,
    ⟨timed .running 0 Dom.none [], 1, _, rfl, rfl, rfl, rfl, rfl, by decide +kernel⟩,
    ⟨allEnded [exch0 (some []) false false], 1, _, rfl, rfl, rfl, rfl, rfl, by decide +kernel, _, List.mem_cons_self, rfl, rfl⟩,
    ⟨allEnded [exch0 (some []) true false], 1, _, rfl, rfl, rfl, rfl, rfl, by decide +kernel, ?_, _, List.mem_cons_self, rfl, rfl⟩,
    ⟨allEnded [exch0 (some []) true true], 1, _, rfl, rfl, rfl, rfl, rfl, by decide +kernel, ?_, by decide +kernel, nofun, rfl, ?_⟩⟩
  · intro e h _
    rw [List.mem_singleton.1 h]
    rfl
  · intro e h _
    rw [List.mem_singleton.1 h]
    exact ⟨rfl, rfl⟩
  · intro y h h0
    rw [List.mem_singleton.1 h] at h0
    exact absurd rfl h0

/-- An image that holds only joint 0, at cycle 9. -/
def joint0 : List Byte := [0, 0, 0, 0, 0, 0, 0, 0, 0, 0, 0, 0, 0, 0, 0, 0, 0, 0, 0, 0, 0, 0, 0, 0, 0, 0, 0, 0, 32, 0, 0, 0, 9, 0, 0, 0, 1, 0, 0, 0]
/-- Domain 0, as given, in cycle 9 under that image, with an exchange. -/
def exchanging (x : Dom) (e : Exch) : State :=
  evt 0 0 1 { timed .running 0 x [e] with tts := [(1, { TT.none with parts := [0], st := .running, img := joint0 })] }
theorem exch_due (x : Dom) (m : Option (List Byte)) (a b : Bool) : DueExch (exchanging x (exch0 m a b)) 0 (exch0 m a b) :=
  ⟨List.mem_cons_self, rfl, 9, (by decide +kernel : nextJoint joint0 5 = some 9), rfl⟩
theorem exch_only (x : Dom) (m : Option (List Byte)) (a b : Bool) (e : Exch) (h : DueExch (exchanging x (exch0 m a b)) 0 e) : e = exch0 m a b :=
  List.mem_singleton.1 h.1
/-- The digest engines of timetable 1 read regions of partition 0; the channel that holds place 0 is compiled. -/
def digesting (l : List (Nat × Nat × Nat)) : State :=
  { evt 0 0 1 (paged [] (timed .running 0 Dom.none [exch0 none false false])) with
    parts := [(0, { Partn.reset with rep := some (1, 2, l) })], chans := [(chanOf 0, { Chan.idle with comp := some 1 })] }
theorem near_line (l : List (Nat × Nat × Nat)) : LineServed (digesting l) (exch0 none false false) ⟨0, 0, 0⟩ := by
  have hp : pageOf (digesting l) 0 0 = some hostPage := rfl
  have h0 : placeOf hostPage 0 = 2 ^ 64 := by norm_num [placeOf, hostPage, homeBase]
  have h : lineTouch (digesting l) ⟨0, 0, 0⟩ = [⟨2 ^ 64, 64, false⟩] := by simp only [lineTouch, hp, h0]
  have h2 : linesOf (2 ^ 64) 64 = [2 ^ 58] := by simp [linesOf, List.range, List.range.loop]
  have h3 (s : State) : lineOpen s none (64 * 2 ^ 58) = true := by rw [lineOpen, if_pos (by norm_num)]
  unfold LineServed
  rw [h]
  simp only [servedAll, served, h2, h3, List.all_cons, List.all_nil, Bool.true_or, Bool.and_true]
theorem far_line (l : List (Nat × Nat × Nat)) : ¬ LineServed (digesting l) (exch0 none false false) ⟨0, 0, 0x10000⟩ := by
  have h : lineTouch (digesting l) ⟨0, 0, 0x10000⟩ = [⟨0, 64, false⟩] := rfl
  unfold LineServed
  rw [h]
  simp [servedAll, served, linesOf, lineOpen, List.range, List.range.loop, digesting, chanAt, tabGet, evt, paged, timed, on0, State.reset]
/-- Domain 0 waits for its one exchange, which has not been answered. -/
def awaited : State := exchanging { Dom.none with frozen := true, digest := true } (exch0 (some []) false false)
theorem wit_HeatAndReplicasActOnDomains :
    (∃ s d, OnDie s d 0) ∧ (∃ s d, OnDie s d 0 ∧ (∀ d, OnDie s d 0 → (domAt s d).frozen = false ∨ (domAt s d).thermal = false ∨
      isHot (heated s 0 94) (domDies s d) = true)) ∧
    (∃ s d x, s.doms = [(d, x)] ∧ OnDie s d 0 ∧ isHot (heated s 0 94) (domDies s d) = false ∧ x.frozen = true ∧ x.thermal = true) ∧
    (∃ s d r, s.agenda = .close d :: r ∧ (domAt s d).frozen = false ∧ (domAt s d).faulted = true ∧ (domAt s d).doomed = true ∧ s.ckpt = none ∧
      (∃ id ∈ domTiles s d, causeOf (tileOf s id) = 0) ∧ ∃ id ∈ domTiles s d, 0x15 < causeOf (tileOf s id)) ∧
    (∃ s d e, s.ev.a = d ∧ s.exchs.find? (fun e => e.dom = d && e.joint = s.ev.b && e.tt = s.ev.c && e.mine.isNone) = some e ∧
      doneBefore s d e.upTo = false) ∧
    (∃ s d e l x r, s.ev.a = d ∧ s.exchs.find? (fun e => e.dom = d && e.joint = s.ev.b && e.tt = s.ev.c && e.mine.isNone) = some e ∧
      doneBefore s d e.upTo = true ∧ e.read.length = 64 * ((digestLines s e.tt).length - (unread s e).length) ∧ unread s e = l ++ x :: r ∧
      l ≠ [] ∧ (∀ y ∈ l, LineServed s e y) ∧ ¬ LineServed s e x) ∧
    (∃ s d e, s.ev.a = d ∧ s.exchs.find? (fun e => e.dom = d && e.joint = s.ev.b && e.tt = s.ev.c && e.mine.isNone) = some e ∧
      doneBefore s d e.upTo = true ∧ e.read.length = 64 * ((digestLines s e.tt).length - (unread s e).length) ∧
      (∀ y ∈ unread s e, LineServed s e y) ∧ unread s e ≠ []) ∧
    (∃ s d e, s.ev.a = d ∧ s.exchs.find? (fun e => e.dom = d && e.joint = s.ev.b && e.tt = s.ev.c && (e.mine.isSome && !e.done)) = some e ∧
      (domAt s d).frozen = false) ∧
    (∀ b : Bool, ∃ s d e l, s.ev.a = d ∧ s.exchs.find? (fun e => e.dom = d && e.joint = s.ev.b && e.tt = s.ev.c && (e.mine.isSome && !e.done)) = some e ∧
      l = exchWith s e { e with done := true, equal := decide (e.mine = some s.ev.bytes) } ∧ (domAt s d).frozen = true ∧ (domAt s d).digest = true ∧
      (∀ y, OverExch { s with exchs := l } d y → y.done = true ∧ y.equal = b) ∧ ∃ y, OverExch { s with exchs := l } d y) ∧
    (∃ s d e l, s.ev.a = d ∧ s.exchs.find? (fun e => e.dom = d && e.joint = s.ev.b && e.tt = s.ev.c && (e.mine.isSome && !e.done)) = some e ∧
      l = exchWith s e { e with done := true, equal := decide (e.mine = some s.ev.bytes) } ∧ (domAt s d).frozen = true ∧ (domAt s d).digest = true ∧
      (∃ y, OverExch { s with exchs := l } d y ∧ y.done = false) ∧ ∀ y, OverExch { s with exchs := l } d y → y.done = false ∨ y.equal = true) ∧
    (∃ s d, s.ev.a = d ∧ (domAt s d).frozen = false ∧ ∀ e, ¬ DueExch s d e) ∧
    (∃ s d, s.ev.a = d ∧ (domAt s d).frozen = false ∧ ∃ e, DueExch s d e ∧ e.done = true ∧ e.equal = false) ∧
    (∃ s d, s.ev.a = d ∧ (domAt s d).frozen = false ∧ (∃ e, DueExch s d e ∧ e.done = false) ∧ ∀ e, DueExch s d e → e.done = false ∨ e.equal = true) ∧
    (∃ s d, s.ev.a = d ∧ (domAt s d).frozen = false ∧ (∃ e, DueExch s d e) ∧ ∀ e, DueExch s d e → e.done = true ∧ e.equal = true) ∧
    (∃ s d, s.ev.a = d ∧ (domAt s d).frozen = true ∧ ∀ id ∈ domTiles s d, causeOf (tileOf s id) ≠ 0x17) ∧
    (∃ s d, s.ev.a = d ∧ (domAt s d).frozen = true ∧ ∃ id ∈ domTiles s d, causeOf (tileOf s id) = 0x17) ∧
    (∃ (s : State) (p : Nat), s.ev.a = p ∧ p < 24 ∧ s.hc.locked = true) ∧
    (∃ s p, s.ev.a = p ∧ p < 24 ∧ s.hc.locked = false ∧ s.ev.list.length ≤ 16 ∧ (∀ r ∈ s.ev.list, r.1 < 6 ∧ r.2.1 % 64 = 0 ∧ r.2.2 % 64 = 0) ∧ slotTt s p 0 = none ∧
      slotTt s p 1 = none) ∧
    ∃ s p, s.ev.a = p ∧ p < 24 ∧ slotTt s p 0 ≠ none := by
  have hot : OnDie (timed .running 0 Dom.none []) 0 0 := ⟨by decide, by decide +kernel⟩
  refine ⟨⟨_, 0, hot⟩, ⟨_, 0, hot, fun d h => .inl ?_⟩,
    ⟨timed .frozen 0 { Dom.none with frozen := true, thermal := true } [], 0, _, rfl, ⟨by decide, by decide +kernel⟩, by decide +kernel, rfl, rfl⟩,
    ⟨{ ending .running { Dom.none with faulted := true, doomed := true } task with
        tiles := [(0, { task with tt := 1 }), (1, { task with tt := 1, tcause := 0x17 })] }, 0, [], rfl, rfl, rfl, rfl, rfl, ⟨0, by decide, by decide⟩, 1, by decide, by decide⟩,
    ⟨{ evt 0 0 1 (timed .running 0 Dom.none [exch0 none false false]) with
        tiles := [(0, { task with tt := 1, out := [acc0 .store (at_ 0 8)] })] }, 0, _, rfl, rfl, by decide +kernel⟩,
    ⟨digesting [(0, 0, 64), (0, 0x10000, 64)], 0, _, [⟨0, 0, 0⟩], ⟨0, 0, 0x10000⟩, [], rfl, rfl, by decide +kernel, by decide +kernel, by decide +kernel, nofun,
      fun y h => ?_, far_line _⟩,
    ⟨digesting [(0, 0, 64)], 0, _, rfl, rfl, by decide +kernel, by decide +kernel, fun y h => ?_, by decide +kernel⟩,
    ⟨evt 0 0 1 (timed .running 0 Dom.none [exch0 (some []) false false]), 0, _, rfl, rfl, rfl⟩, fun b =>
    ⟨{ awaited with ev := { EvArgs.zero with c := 1, bytes := if b then [] else [1] } }, 0, _, _, rfl, rfl, rfl, rfl, rfl, ?_, exch0 (some []) true b, .inl ⟨?_, rfl, 9, (by decide +kernel : nextJoint joint0 5 = some 9), rfl⟩⟩,
    ⟨{ awaited with exchs := [exch0 (some []) false false, exch0 (some [7]) false false] }, 0, _, _, rfl, rfl, rfl, rfl, rfl,
      ⟨exch0 (some [7]) false false, .inl ⟨by decide, rfl, 9, (by decide +kernel : nextJoint joint0 5 = some 9), rfl⟩, rfl⟩, ?_⟩,
    ⟨evt 0 0 0 (on0 task), 0, rfl, rfl, fun e h => nomatch h.1⟩,
    ⟨_, 0, rfl, rfl, _, exch_due Dom.none (some []) true false, rfl, rfl⟩,
    ⟨_, 0, rfl, rfl, ⟨_, exch_due Dom.none (some []) false false, rfl⟩, fun e h => .inl (by rw [exch_only _ _ _ _ e h]; rfl)⟩,
    ⟨_, 0, rfl, rfl, ⟨_, exch_due Dom.none (some []) true true⟩, fun e h => by rw [exch_only _ _ _ _ e h]; exact ⟨rfl, rfl⟩⟩,
    ⟨evt 0 0 0 (ending .frozen { Dom.none with frozen := true } task), 0, rfl, rfl, by decide⟩,
    ⟨evt 0 0 0 (ending .frozen { Dom.none with frozen := true } { task with tcause := 0x17 }), 0, rfl, rfl, 0, by decide, by decide⟩,
    ⟨evt 23 0 0 { State.reset with hc := { Harbour.reset with locked := true } }, 23, rfl, by decide, rfl⟩,
    ⟨evt 23 0 0 State.reset, 23, rfl, by decide, rfl, by decide, nofun, rfl, rfl⟩,
    ⟨evt 0 0 0 (timed .running 0 Dom.none []), 0, rfl, by decide, nofun⟩⟩
  · rw [List.mem_singleton.1 h.1]
    rfl
  · rw [List.mem_singleton.1 h]
    exact near_line _
  · rw [show unread (digesting [(0, 0, 64)]) (exch0 none false false) = [⟨0, 0, 0⟩] by decide +kernel] at h
    rw [List.mem_singleton.1 h]
    exact near_line _
  · intro y h
    have hy : y ∈ [exch0 (some []) true b] := by
      have := h.elim (fun h => h.1) (fun h => h.1)
      cases b <;> exact this
    rw [List.mem_singleton.1 hy]
    exact ⟨rfl, rfl⟩
  · cases b <;> exact List.mem_cons_self
  · intro y h
    have hy : y ∈ [exch0 (some []) true true, exch0 (some [7]) false false] := h.elim (fun h => h.1) (fun h => h.1)
    rcases List.mem_cons.1 hy with rfl | hy
    · exact .inr rfl
    · rw [List.mem_singleton.1 hy]
      exact .inl rfl

/-! ## Quay queues -/

/-- A running queue with a slot of three words, registers 1 to 3, and a command word: op, registers d, a, b, the field X, the immediate. -/
def queue1 (ir : Word) (v1 v2 v3 : Word) : Queue :=
  { Queue.off with en := true, st := 1, line := some [0x30000, 0, 0, 0, 0, 0, 0, 0], c := [(1, v1), (2, v2), (3, v3)], ir := ir }
/-- Queue 0 as given; addresses 0 to 0xFFFF are a page of the host. -/
def inQueue (x : Queue) : State := evt 0 0 0 { State.reset with queues := [(0, x)], pages := [hostPage] }
theorem qBytes_of (s : State) (a n v : Nat) (g : Page) (h : v < 256 ^ n) (h1 : ∀ k < n, qPage s s.ev.a (a + k) = some g)
    (h2 : ∀ k < n, physByte s (placeOf g (a + k)) = BitVec.ofNat 8 (v / 256 ^ k)) : QBytes s a n v := ⟨h, fun k hk => ⟨g, h1 k hk, h2 k hk⟩⟩
/-- A state whose page table is that page, for a process of every partition. -/
theorem host_page (s : State) (q k : Nat) (h : procParts s q = List.range 24) (hr : (partAt s 0).ptroot = 0) (hp : s.pages = [hostPage]) (hk : k < 65536) :
    qPage s q k = some hostPage := by
  have hc : canonical k = true := by simp [canonical]; omega
  have h1 : ¬ (0x00FFFF0000000000 ≤ k ∧ k < 0x00FFFF0000000000 + 2 ^ 21) := by omega
  have h2 : (pageHas 0 k hostPage && !inDump hostPage.pa (pgBytes hostPage.size)) = true := by
    rw [Bool.and_eq_true]
    exact ⟨by simp [pageHas, hostPage, pgBytes]; omega, by decide⟩
  have h3 : pageOf s 0 k = some hostPage := by
    rw [pageOf, if_neg h1, hp, rootOf, hr, List.find?_cons, h2]
    rfl
  rw [qPage, if_pos hc, h, List.range_succ_eq_map, List.findSome?_cons, h3]
/-- The same, beside a page of the device of whose first two lines the channels are compiled; the lines given were moved for queue 0. -/
def shut (x : Queue) (l : List Nat := []) : State :=
  { inQueue x with pages := [herePage, hostPage], chans := [(chanOf 0, { Chan.idle with comp := some 0 }), (chanOf 64, { Chan.idle with comp := some 0 })], grants := l.map (fun k => (.queue 0, k)) }
theorem shut_page (x : Queue) (l : List Nat) (k : Nat) (h0 : 65536 ≤ k) (hk : k < 131072) : qPage (shut x l) 0 k = some herePage := by
  have hc : canonical k = true := by simp [canonical]; omega
  have h1 : ¬ (0x00FFFF0000000000 ≤ k ∧ k < 0x00FFFF0000000000 + 2 ^ 21) := by omega
  have h2 : (pageHas 0 k herePage && !inDump herePage.pa (pgBytes herePage.size)) = true := by
    rw [Bool.and_eq_true]
    exact ⟨by simp only [pageHas, Bool.and_eq_true, decide_eq_true_eq]; exact ⟨⟨rfl, h0⟩, hk⟩, by decide⟩
  have h3 : pageOf (shut x l) 0 k = some herePage := by
    rw [pageOf, if_neg h1, show (shut x l).pages = [herePage, hostPage] from rfl, show rootOf (shut x l) 0 = 0 from rfl, List.find?_cons, h2]
    rfl
  have h : procParts (shut x l) 0 = List.range 24 := (by decide : procParts State.reset 0 = List.range 24) ▸ rfl
  rw [qPage, if_pos hc, h, List.range_succ_eq_map, List.findSome?_cons, h3]
theorem shut_bytes (x : Queue) (l : List Nat) (n : Nat) (hn : n = 8 ∨ n = 64) : QBytes (shut x l) 0x10000 n 0 := by
  refine qBytes_of _ _ _ _ herePage ?_ (fun k hk => shut_page x l _ (by omega) (by omega)) ?_
  · positivity
  · rcases hn with rfl | rfl <;> (intro k hk; interval_cases k <;> rfl)
theorem shut_touch (x : Queue) (l : List Nat) (a n : Nat) (ha : 65536 ≤ a) (hn : 0 < n) (h : a + n ≤ 131072) :
    qTouch (shut x l) 0 a n false = [⟨a - 65536, n, false⟩] := by
  rw [qTouch, shut_page x l _ (by omega) (by omega), shut_page x l _ (by omega) (by omega)]
  exact (if_pos rfl).trans (by simp [placeOf, herePage, homeBase])
theorem shut_unserved (x : Queue) (n : Nat) (hn : n = 8 ∨ n = 64) : qServed (shut x) 0 0x10000 n = false := by
  rw [qServed, shut_touch _ _ _ _ (by omega) (by omega) (by omega)]
  rcases hn with rfl | rfl <;> simp [servedAll, served, linesOf, lineOpen, List.range, List.range.loop, shut, inQueue, chanAt, tabGet, evt, State.reset]
theorem shut_half (x : Queue) : qServed (shut x [0]) 0 0x10000 64 = true ∧ qServed (shut x [0]) 0 0x10040 64 = false := by
  rw [qServed, shut_touch _ _ _ _ (by omega) (by omega) (by omega), qServed, shut_touch _ _ _ _ (by omega) (by omega) (by omega)]
  by_cases h : chanOf 0 = chanOf 64 <;> simp [h, servedAll, served, linesOf, lineOpen, List.range, List.range.loop, shut, inQueue, chanAt, tabGet, evt, State.reset]
/-- A write for queue 0 waits. -/
def unwritten (x : Queue) : State := { inQueue x with waiting := [⟨0, .cxlMemAccess, EvArgs.zero, [], some (2 ^ 17)⟩] }
theorem performed (x : Queue) : WritesPerformed (inQueue x) := fun _ h => absurd h List.not_mem_nil
theorem unwritten_waits (x : Queue) : ¬ WritesPerformed (unwritten x) := fun h => h _ List.mem_cons_self rfl
theorem inQueue_page (x : Queue) (k : Nat) (hk : k < 65536) : qPage (inQueue x) 0 k = some hostPage :=
  host_page _ 0 k ((by decide : procParts State.reset 0 = List.range 24) ▸ rfl) rfl rfl hk
/-- Eight bytes at the end of the page. -/
theorem qBytes_last (x : Queue) : QBytes (inQueue x) 0xFFF8 8 0 :=
  qBytes_of _ _ _ _ hostPage (by decide) (fun k hk => inQueue_page x _ (by omega)) (by intro k hk; interval_cases k <;> rfl)
/-- The first line of the page. -/
theorem first_line (x : Queue) : QBytes (inQueue x) 0 64 0 :=
  qBytes_of _ _ _ _ hostPage (by decide) (fun k hk => inQueue_page x _ (by omega)) (by intro k hk; interval_cases k <;> rfl)
/-- A word of an opcode that no row has. -/
theorem no_row : ∀ r ∈ cmdRows, ¬ RowHas r 0xFF00000000000000 := by
  have h : ∀ r ∈ cmdRows, r.op < 0x2A ∧ ∀ x ∈ r.xs, x < 16 := by decide
  rintro r hr ⟨d, a, b, x, imm, hd, ha, hb, hx, hi, -, -, -, -, e⟩
  obtain ⟨h1, h2⟩ := h r hr
  have h3 := h2 x hx
  have e := congrArg BitVec.toNat e
  rw [wordOf, BitVec.toNat_ofNat, Nat.mod_eq_of_lt (by omega)] at e
  have e : (0xFF00000000000000 : Nat) = r.op * 2 ^ 56 + d * 2 ^ 52 + a * 2 ^ 48 + b * 2 ^ 44 + x * 2 ^ 40 + imm := e
  omega
/-- Host memory lies on no channel. -/
theorem host_served (s : State) (q k n : Nat) (hp : ∀ k < 65536, qPage s q k = some hostPage) (hk : k + n ≤ 65536) (hn : 0 < n) : qServed s q k n = true := by
  have h : qTouch s q k n false = [⟨2 ^ 64 + k, n, false⟩] := by
    rw [qTouch, hp k (by omega), hp (k + n - 1) (by omega)]
    exact (if_pos rfl).trans (by rw [placeOf]; rfl)
  rw [qServed, h, servedAll, List.all_cons, List.all_nil, Bool.and_true, served]
  refine List.all_eq_true.2 (fun l hl => ?_)
  have : 2 ^ 58 ≤ l := by simp [linesOf] at hl; omega
  rw [lineOpen, if_pos (by omega), Bool.true_or]

theorem wit_QueueCommandsComputeLoadStoreAndBranch :
    (∃ w, ∃ r ∈ cmdRows, RowHas r w) ∧
    (∃ s q w r, s.agenda = .cmd q :: r ∧ (queueAt s q).wait = .none ∧ wordAt s q (queueAt s q).at_ = some w ∧
      wordServed s q (queueAt s q).at_ = true ∧ ∀ r ∈ cmdRows, ¬ RowHas r w) ∧
    (∃ s i v, cResult (qr s) i = some v) ∧ (∃ s, WritesPerformed s) ∧ (∃ s, ¬ WritesPerformed s) ∧
    (∃ s k, (qr s).at_ = .slot k ∧ k + 1 < lineNw (qr s)) ∧ (∃ s k, (qr s).at_ = .slot k ∧ lineNw (qr s) = k + 1) ∧
    (∀ b : Bool, ∃ s a v, (qr s).at_ = .buf a ∧ QBytes s ((a + 8) % 2 ^ 64) 8 v ∧ qServed s s.ev.a ((a + 8) % 2 ^ 64) 8 = b) ∧
    (∃ s x, x = qr s ∧ qAddr x % qWidth x ≠ 0) ∧
    (∀ b : Bool, ∃ s x a n v, x = qr s ∧ a = qAddr x ∧ n = qWidth x ∧ a % n = 0 ∧ QBytes s a n v ∧ qServed s s.ev.a a n = b) ∧
    (∃ s x, x = qr s ∧ qAddr x % qWidth x = 0 ∧ qPage s s.ev.a (qAddr x) = none) ∧
    (∃ s x g, x = qr s ∧ qAddr x % qWidth x = 0 ∧ QWrites s (qAddr x) (qWidth x) g ∧ qWidth x = 4) ∧
    (∃ s x g, x = qr s ∧ qAddr x % qWidth x = 0 ∧ qPage s s.ev.a (qAddr x) = some g ∧ g.wr = true ∧ qServed s s.ev.a (qAddr x) (qWidth x) = false) ∧
    (∃ s x g, x = qr s ∧ qAddr x % qWidth x = 0 ∧ qPage s s.ev.a (qAddr x) = some g ∧ g.wr = false) ∧
    (∃ s x, x = qr s ∧ ccTrue (irX x.ir) (va x) (vb x) = false) ∧
    (∃ s x p, x = qr s ∧ ccTrue (irX x.ir) (va x) (vb x) = true ∧ BranchTo x p ∧ p = .slot (lineNw x)) ∧
    (∃ s x p, x = qr s ∧ ccTrue (irX x.ir) (va x) (vb x) = true ∧ BranchTo x p ∧ p = .buf 0) ∧
    (∃ s x, x = qr s ∧ ccTrue (irX x.ir) (va x) (vb x) = true ∧ BranchOut x) ∧
    (∀ r ∈ [0, 1], ∃ s x y, x = qr s ∧ x.st = 1 ∧ y = cput x (irA x.ir) (va x - 1) ∧ irA x.ir = r ∧ cval y (irA x.ir) = 0) ∧
    (∃ s x y p, x = qr s ∧ x.st = 1 ∧ y = cput x (irA x.ir) (va x - 1) ∧ cval y (irA x.ir) ≠ 0 ∧ BranchTo x p) ∧
    (∃ s x y, x = qr s ∧ x.st = 1 ∧ y = cput x (irA x.ir) (va x - 1) ∧ cval y (irA x.ir) ≠ 0 ∧ BranchOut x) ∧
    (∃ s x, x = qr s ∧ 4 ≤ x.stack.length) ∧ (∃ s x, x = qr s ∧ x.stack.length < 4 ∧ qAddr x % 8 ≠ 0) ∧
    (∃ s x, x = qr s ∧ x.stack.length < 4 ∧ qAddr x % 8 = 0 ∧ qPage s s.ev.a (qAddr x) = none) ∧
    (∃ s x g, x = qr s ∧ x.stack.length < 4 ∧ qAddr x % 8 = 0 ∧ qPage s s.ev.a (qAddr x) = some g) ∧
    (∃ s x, x = qr s ∧ x.stack = []) ∧
    (∃ s x p r i, x = qr s ∧ x.stack = p :: r ∧ i = lineNw x ∧ p = wordVa x (.slot i)) ∧
    ∃ s x p r, x = qr s ∧ x.stack = p :: r ∧ ∀ i ≤ lineNw x, p ≠ wordVa x (.slot i) := by
  refine ⟨⟨wordOf 0x24 15 15 15 0 31, ⟨0x24, [0], true, true, true, (· < 32), .cpromote⟩, ?_, 15, 15, 15, 0, 31, ?_⟩,
    ⟨{ inQueue { queue1 0 0 0 0 with line := some [0x30000, 0xFF00000000000000] } with agenda := [.cmd 0] }, 0, 0xFF00000000000000, [], rfl, rfl, rfl, rfl, no_row⟩,
    ⟨inQueue (queue1 0x0812_0100_0000_003F 1 0 0), .cshr, _, rfl⟩, ⟨_, performed (queue1 0 0 0 0)⟩, ⟨unwritten (queue1 0 0 0 0), unwritten_waits _⟩, ⟨inQueue (queue1 0 0 0 0), 0, rfl, by decide⟩,
    ⟨inQueue { queue1 0 0 0 0 with at_ := .slot 2 }, 2, rfl, by decide⟩,
    fun b => ?_,
    ⟨inQueue (queue1 0x1031_0000_0000_0004 0 0 0), _, rfl, by decide⟩,
    fun b => ?_,
    ⟨inQueue (queue1 0x1031_0000_0000_0000 0x10000 0 0), _, rfl, by decide, by decide⟩,
    ⟨inQueue (queue1 0x1101_2100_0000_0000 0xFFFC 0 0), _, hostPage, rfl, by decide, by unfold QWrites; decide, by decide⟩,
    ⟨shut (queue1 0x1101_2000_0000_0000 0x10000 0 0), _, herePage, rfl, by decide, by decide, rfl, shut_unserved _ 8 (.inl rfl)⟩,
    ⟨{ inQueue (queue1 0x1101_2100_0000_0000 0xFFFC 0 0) with pages := [{ hostPage with wr := false }] }, _, { hostPage with wr := false }, rfl, by decide, by decide, rfl⟩,
    ⟨inQueue (queue1 0x1801_2300_0000_0000 0 0 0), _, rfl, by decide⟩,
    ⟨inQueue (queue1 0x1801_2000_0000_0003 2 0 0), _, .slot 3, rfl, by decide, ⟨by decide, by decide⟩, by decide⟩,
    ⟨inQueue { queue1 0x1801_2000_FFFF_FFFF 2 0 0 with at_ := .buf 8 }, _, .buf 0, rfl, by decide, (by rfl : (0 : Int) = _), rfl⟩,
    ⟨inQueue (queue1 0x1801_2000_0000_0004 2 0 0), _, rfl, by decide, 0, rfl, by decide⟩, fun r hr =>
    ⟨inQueue (queue1 (if r = 0 then 0x1900_0000_0000_0000 else 0x1901_0000_0000_0000) 1 0 0), _, _, rfl, rfl, rfl, ?_, ?_⟩,
    ⟨inQueue (queue1 0x1901_0000_0000_0003 0 0 0), _, _, .slot 3, rfl, rfl, rfl, by decide, ⟨by decide, by decide⟩⟩,
    ⟨inQueue (queue1 0x1901_0000_FFFF_FFFF 0 0 0), _, _, rfl, rfl, rfl, by decide, 0, rfl, by decide⟩,
    ⟨inQueue { queue1 0 0 0 0 with stack := [0, 0, 0, 0] }, _, rfl, by decide⟩,
    ⟨inQueue (queue1 0x1A01_0000_0000_0004 0 0 0), _, rfl, by decide, by decide⟩,
    ⟨inQueue (queue1 0x1A01_0000_0000_0000 0x10000 0 0), _, rfl, by decide, by decide, by decide⟩,
    ⟨inQueue (queue1 0x1A01_0000_0000_0000 0xFFF8 0 0), _, _, rfl, by decide, by decide, rfl⟩,
    ⟨inQueue (queue1 0 0 0 0), _, rfl, rfl⟩, ⟨inQueue { queue1 0 0 0 0 with stack := [32] }, _, _, _, 3, rfl, rfl, by decide, by decide⟩,
    ⟨inQueue { queue1 0 0 0 0 with stack := [40] }, _, _, _, rfl, rfl, by decide⟩⟩
  · simp [cmdRows]
  · exact ⟨by decide, by decide, by decide, by decide, by decide, by decide, nofun, nofun, nofun, rfl⟩
  · cases b
    · exact ⟨shut { queue1 0 0 0 0 with at_ := .buf 0xFFF8 }, _, _, rfl, shut_bytes _ _ 8 (.inl rfl), shut_unserved _ 8 (.inl rfl)⟩
    · exact ⟨inQueue { queue1 0 0 0 0 with at_ := .buf 0xFFF0 }, _, _, rfl, qBytes_last _, by decide⟩
  · cases b
    · exact ⟨shut (queue1 0x1031_0000_0000_0008 0xFFF8 0 0), _, _, _, _, rfl, rfl, rfl, by decide, shut_bytes _ _ 8 (.inl rfl), shut_unserved _ 8 (.inl rfl)⟩
    · exact ⟨inQueue (queue1 0x1031_0000_0000_0008 0xFFF0 0 0), _, _, _, _, rfl, rfl, rfl, by decide, qBytes_last _, by decide⟩
  · revert r; decide
  · revert r; decide

theorem wit_QueueWaitsSignalsAndCopies :
    (∃ s x a, x = qr s ∧ a = (va x).toNat ∧ a % 8 ≠ 0) ∧ (∃ s x a, x = qr s ∧ a = (va x).toNat ∧ a % 8 = 0 ∧ qPage s s.ev.a a = none) ∧
    (∃ s x a v, x = qr s ∧ a = (va x).toNat ∧ a % 8 = 0 ∧ QBytes s a 8 v ∧ qServed s s.ev.a a 8 = false) ∧
    (∃ s x a v, x = qr s ∧ a = (va x).toNat ∧ a % 8 = 0 ∧ QBytes s a 8 v ∧ qServed s s.ev.a a 8 = true ∧
      (ccTrue (irX x.ir) (BitVec.ofNat 64 v) (vb x) = true ∨ irImm x.ir = 0)) ∧
    (∃ s x a v, x = qr s ∧ a = (va x).toNat ∧ a % 8 = 0 ∧ QBytes s a 8 v ∧ qServed s s.ev.a a 8 = true ∧
      ccTrue (irX x.ir) (BitVec.ofNat 64 v) (vb x) = false ∧ irImm x.ir ≠ 0) ∧
    (∀ b : Bool, ∃ s x cc d a w t last v, x = qr s ∧ x.wait = .poll cc d a w t last ∧ QBytes s a 8 v ∧ ccTrue cc (BitVec.ofNat 64 v) w = b ∧
      qServed s s.ev.a a 8 = true ∧ t ≠ none) ∧
    (∃ s x cc d a w t last v, x = qr s ∧ x.wait = .poll cc d a w t last ∧ QBytes s a 8 v ∧ qServed s s.ev.a a 8 = false) ∧
    (∃ s x cc d a w t last, x = qr s ∧ x.wait = .poll cc d a w t last ∧ qPage s s.ev.a a = none) ∧
    (∃ s x m, x = qr s ∧ m = (irImm x.ir).toNat % 4096 ∧ m = 2048) ∧
    (∃ s x a m, x = qr s ∧ a = (va x).toNat ∧ m = (irImm x.ir).toNat % 4096 ∧ m = 2047 ∧ a % 8 ≠ 0) ∧
    (∃ s x a m, x = qr s ∧ a = (va x).toNat ∧ m = (irImm x.ir).toNat % 4096 ∧ m = 2047 ∧ a % 8 = 0 ∧ ∀ g, qPage s s.ev.a a = some g → g.wr = false) ∧
    (∃ s x a m g, x = qr s ∧ a = (va x).toNat ∧ m = (irImm x.ir).toNat % 4096 ∧ m = 2047 ∧ a % 8 = 0 ∧ qPage s s.ev.a a = some g ∧ g.wr = true ∧ qServed s s.ev.a a 8 = false) ∧
    (∃ s x a m g, x = qr s ∧ a = (va x).toNat ∧ m = (irImm x.ir).toNat % 4096 ∧ m = 2047 ∧ a % 8 = 0 ∧ qPage s s.ev.a a = some g ∧ g.wr = true ∧ ¬ WritesPerformed s) ∧
    (∃ s x a m g, x = qr s ∧ a = (va x).toNat ∧ m = (irImm x.ir).toNat % 4096 ∧ m = 2047 ∧ a % 8 = 0 ∧ QWrites s a 8 g ∧ WritesPerformed s) ∧
    (∃ s x, x = qr s ∧ x.wait = .none ∧ (vb x).toNat = 2 ^ 32) ∧ (∃ s x, x = qr s ∧ x.wait = .none ∧ (vb x).toNat % 64 ≠ 0) ∧
    (∃ s x, x = qr s ∧ x.wait = .none ∧ vb x = 0) ∧
    (∃ s x, x = qr s ∧ x.wait = .none ∧ (vb x).toNat % 64 = 0 ∧ (vb x).toNat < 2 ^ 32 ∧ vb x ≠ 0 ∧ (vd x).toNat % 64 ≠ 0) ∧
    (∀ n ∈ [64, 0xFFFFFFC0], ∃ s x, x = qr s ∧ x.wait = .none ∧ (vb x).toNat = n ∧ (vb x).toNat % 64 = 0 ∧ (vb x).toNat < 2 ^ 32 ∧ vb x ≠ 0 ∧
      (vd x).toNat % 64 = 0 ∧ (va x).toNat % 64 = 0 ∧ (CopyPages s (vd x).toNat (va x).toNat (vb x).toNat ↔ n = 64)) ∧
    (∃ s x dst src n, x = qr s ∧ x.wait = .copy dst src n none ∧ qPage s s.ev.a src = none) ∧
    (∃ s x dst src n v, x = qr s ∧ x.wait = .copy dst src n none ∧ QBytes s src 64 v ∧ qServed s s.ev.a src 64 = false) ∧
    (∀ n ∈ [64, 65], ∃ s x dst src v g, x = qr s ∧ x.wait = .copy dst src n none ∧ LineOf s none src v ∧ QWrites s dst 64 g) ∧
    (∃ s x dst src n v, x = qr s ∧ x.wait = .copy dst src n (some v) ∧ LineOf s (some v) src v ∧ ∀ g, qPage s s.ev.a dst = some g → g.wr = false) ∧
    ∀ b : Bool, ∃ s x dst src n v g buf, x = qr s ∧ x.wait = .copy dst src n buf ∧ LineOf s buf src v ∧ qPage s s.ev.a dst = some g ∧ g.wr = true ∧
      qServed s s.ev.a dst 64 = false ∧ (buf = none ↔ b = true) := by
  refine ⟨⟨inQueue (queue1 0x1C31_2100_0000_0000 4 0 0), _, _, rfl, rfl, by decide⟩,
    ⟨inQueue (queue1 0x1C31_2100_0000_0000 0x10000 0 0), _, _, rfl, rfl, by decide, by decide⟩,
    ⟨shut (queue1 0x1C31_2200_0000_0000 0x10000 0 0), _, _, _, rfl, rfl, by decide, shut_bytes _ _ 8 (.inl rfl), shut_unserved _ 8 (.inl rfl)⟩,
    ⟨inQueue (queue1 0x1C31_2200_0000_0000 0xFFF8 0 0), _, _, _, rfl, rfl, by decide, qBytes_last _, by decide, .inr (by decide)⟩,
    ⟨inQueue (queue1 0x1C31_2100_FFFF_FFFF 0xFFF8 1 0), _, _, _, rfl, rfl, by decide, qBytes_last _, by decide, by decide, by decide⟩, fun b =>
    ⟨inQueue { queue1 0 0 0 0 with wait := .poll (if b then 1 else 2) 3 0xFFF8 0 (some 7) 5 }, _, _, _, _, _, _, _, _, rfl, rfl, qBytes_last _, ?_, ?_, nofun⟩,
    ⟨shut { queue1 0 0 0 0 with wait := .poll 1 3 0x10000 0 (some 7) 5 }, _, _, _, _, _, _, _, _, rfl, rfl, shut_bytes _ _ 8 (.inl rfl), shut_unserved _ 8 (.inl rfl)⟩,
    ⟨inQueue { queue1 0 0 0 0 with wait := .poll 1 3 0x10000 0 (some 7) 5 }, _, _, _, _, _, _, _, rfl, rfl, by decide⟩,
    ⟨inQueue (queue1 0x1D01_2000_0000_0800 0 0 0), _, _, rfl, rfl, by decide⟩,
    ⟨inQueue (queue1 0x1D01_2000_0000_07FF 4 0 0), _, _, _, rfl, rfl, rfl, by decide, by decide⟩,
    ⟨inQueue (queue1 0x1D01_2000_0000_07FF 0x10000 0 0), _, _, _, rfl, rfl, rfl, by decide, by decide, ?_⟩,
    ⟨shut (queue1 0x1D01_2000_8000_07FF 0x10000 0 0), _, _, _, herePage, rfl, rfl, rfl, by decide, by decide, by decide, rfl, shut_unserved _ 8 (.inl rfl)⟩,
    ⟨unwritten (queue1 0x1D01_2000_8000_07FF 0xFFF8 0 0), _, _, _, hostPage, rfl, rfl, rfl, by decide, by decide, by decide, rfl, unwritten_waits _⟩,
    ⟨inQueue (queue1 0x1D01_2000_8000_07FF 0xFFF8 0 0), _, _, _, hostPage, rfl, rfl, rfl, by decide, by decide, by unfold QWrites; decide, performed _⟩,
    ⟨inQueue (queue1 0x2231_2000_0000_0000 0 0x100000000 0), _, rfl, rfl, by decide⟩,
    ⟨inQueue (queue1 0x2231_2000_0000_0000 0 63 0), _, rfl, rfl, by decide⟩,
    ⟨inQueue (queue1 0x2231_2000_0000_0000 0 0 0), _, rfl, rfl, by decide⟩,
    ⟨inQueue (queue1 0x2231_2000_0000_0000 0 64 1), _, rfl, rfl, by decide, by decide, by decide, by decide⟩, fun n hn =>
    ⟨inQueue (queue1 0x2231_2000_0000_0000 0 (BitVec.ofNat 64 n) 0xFFC0), _, rfl, rfl, ?_, ?_, ?_, ?_, ?_, ?_, ?_⟩,
    ⟨inQueue { queue1 0 0 0 0 with wait := .copy 0 0x10000 64 none }, _, _, _, _, rfl, rfl, by decide⟩,
    ⟨shut { queue1 0 0 0 0 with wait := .copy 0 0x10000 64 none }, _, _, _, _, _, rfl, rfl, shut_bytes _ _ 64 (.inr rfl), shut_unserved _ 64 (.inr rfl)⟩, fun n _ =>
    ⟨inQueue { queue1 0 0 0 0 with wait := .copy 0xFFC0 0 n none }, _, _, _, 0, hostPage, rfl, rfl, .inr ⟨rfl, first_line _, ?_⟩, ?_, rfl, ?_⟩,
    ⟨inQueue { queue1 0 0 0 0 with wait := .copy 0x10000 0 64 (some 7) }, _, _, _, _, 7, rfl, rfl, .inl rfl, ?_⟩, fun b => ?_⟩
  · cases b <;> decide
  · cases b <;> decide
  · intro g h
    have h : qPage (inQueue (queue1 0x1D012000000007FF 0x10000 0 0)) 0 0x10000 = some g := h
    exact absurd h (by rw [show qPage (inQueue (queue1 0x1D012000000007FF 0x10000 0 0)) 0 0x10000 = none by decide]; nofun)
  · revert n; decide
  · revert n; decide
  · revert n; decide
  · revert n; decide
  · revert n; decide
  · revert n; decide
  · rcases List.mem_pair.1 hn with rfl | rfl
    · refine ⟨fun _ => rfl, fun _ i hi => ?_⟩
      have hi : i < 1 := hi
      interval_cases i
      exact ⟨by decide, hostPage, by decide, rfl⟩
    · refine ⟨fun h => absurd (h 1 (by decide)).2 ?_, nofun⟩
      rintro ⟨g, h, -⟩
      have h : qPage (inQueue (queue1 0x2231200000000000 0 (BitVec.ofNat 64 0xFFFFFFC0) 0xFFC0)) 0 0x10000 = some g := h
      exact absurd h (by rw [show qPage (inQueue (queue1 0x2231200000000000 0 (BitVec.ofNat 64 0xFFFFFFC0) 0xFFC0)) 0 0x10000 = none by decide]; nofun)
  · exact host_served _ _ _ _ (inQueue_page _) (by decide) (by decide)
  · exact inQueue_page _ _ (by decide)
  · exact host_served _ _ _ _ (inQueue_page _) (by decide) (by decide)
  · intro g h
    have h : qPage (inQueue { queue1 0 0 0 0 with wait := .copy 0x10000 0 64 (some 7) }) 0 0x10000 = some g := h
    exact absurd h (by rw [show qPage (inQueue { queue1 0 0 0 0 with wait := .copy 0x10000 0 64 (some 7) }) 0 0x10000 = none by decide]; nofun)
  · cases b
    · exact ⟨shut { queue1 0 0 0 0 with wait := .copy 0x10000 0 64 (some 7) }, _, _, _, _, 7, herePage, _, rfl, rfl, .inl rfl, by decide, rfl,
        shut_unserved _ 64 (.inr rfl), by simp⟩
    · exact ⟨shut { queue1 0 0 0 0 with wait := .copy 0x10040 0x10000 64 none } [0], _, _, _, _, 0, herePage, _, rfl, rfl,
        .inr ⟨rfl, shut_bytes _ _ 64 (.inr rfl), (shut_half _).1⟩, shut_page _ _ _ (by decide) (by decide), rfl, (shut_half _).2, by simp⟩

theorem wit_TailWritesFollowTheMonotonicMaximum :
    (∃ s x v, Reached s ∧ x = qr s ∧ v = s.ev.v.toNat ∧ v = x.tail) ∧
    (∃ s x v, Reached s ∧ x = qr s ∧ v = s.ev.v.toNat ∧ x.tail < v ∧ v = x.head + x.nslot.toNat) ∧
    (∃ s x v, Reached s ∧ x = qr s ∧ v = s.ev.v.toNat ∧ x.tail < v ∧ x.head + x.nslot.toNat + 1 = v) ∧
    (∃ s x, x = qr s ∧ x.en = true ∧ x.st = 1 ∧ x.mapped = true ∧ x.line = none ∧ x.wait = .none ∧ x.bad08 = true) ∧
    ∃ (s : State) (x : EvArgs) (r : List (Instr × EvArgs)), s.agenda = [] ∧ s.inputs = (.qtailWrite, x) :: r := by
  let q : Queue := { Queue.off with en := true, st := 1, nslot := 4, head := 2, tail := 3, bad08 := true }
  have hr : ∀ v : Word, Reached { inQueue q with ev := { EvArgs.zero with a := 0, v := v } } := fun v => ⟨rfl, Nat.zero_lt_succ 255⟩
  exact ⟨⟨_, _, _, hr 3, rfl, rfl, by decide⟩, ⟨_, _, _, hr 6, rfl, rfl, by decide, by decide⟩, ⟨_, _, _, hr 7, rfl, rfl, by decide, by decide⟩,
    ⟨inQueue q, _, rfl, rfl, rfl, rfl, rfl, rfl, rfl⟩, { State.reset with inputs := [(.qtailWrite, EvArgs.zero)] }, _, _, rfl, rfl⟩

/-- A slot of head 0 whose header holds a stamp and NW. -/
def slot0 (h : Nat) : State :=
  { inQueue { Queue.off with en := true, st := 1, nslot := 4, tail := 1 } with mem := storeLE [] (2 ^ 64) h 8 }
theorem slot0_page (h : Nat) : ∀ k < 65536, qPage (slot0 h) 0 k = some hostPage := fun _ hk =>
  host_page _ _ _ ((by decide : procParts State.reset 0 = List.range 24) ▸ rfl) rfl rfl hk
theorem slot0_bytes (h : Nat) (hh : h ∈ [1, 0, 0x70000, 0xF0000]) : QBytes (slot0 h) 0 64 h := by
  refine qBytes_of _ _ _ _ hostPage ?_ ?_ ?_
  · revert h; decide
  · exact fun k hk => slot0_page h _ (by omega)
  · revert h; decide +kernel
theorem wit_QueuesStartAndBeginTheirSlots :
    (∃ s x, x = qr s ∧ x.en = true ∧ x.st = 1 ∧ x.mapped = true ∧ x.line = none ∧ x.wait = .none ∧ x.bad08 = false ∧ x.tail = x.head) ∧
    (∃ s x, x = qr s ∧ x.en = true ∧ x.st = 1 ∧ x.mapped = true ∧ x.line = none ∧ x.wait = .none ∧ x.bad08 = false ∧ x.head < x.tail ∧
      qPage s s.ev.a (headVa x) = none) ∧
    (∃ s x v, x = qr s ∧ x.en = true ∧ x.st = 1 ∧ x.mapped = true ∧ x.line = none ∧ x.wait = .none ∧ x.bad08 = false ∧ x.head < x.tail ∧
      QBytes s (headVa x) 64 v ∧ qServed s s.ev.a (headVa x) 64 = false) ∧
    (∀ h ∈ [1, 0, 0x70000, 0xF0000], ∃ s x v, x = qr s ∧ x.en = true ∧ x.st = 1 ∧ x.mapped = true ∧ x.line = none ∧ x.wait = .none ∧ x.bad08 = false ∧
      x.head < x.tail ∧ QBytes s (headVa x) 64 v ∧ qServed s s.ev.a (headVa x) 64 = true ∧ v = h) ∧
    (∃ s x, Reached s ∧ x = qr s ∧ s.ev.flag = true ∧ x.en = false ∧ s.hc.halted = false) ∧
    (∃ s x, Reached s ∧ x = qr s ∧ s.ev.flag = false ∧ x.st = 2 ∧ x.mapped = true) ∧ (∃ s x, Reached s ∧ x = qr s ∧ x.st ≠ 2) ∧
    (∃ s x, Reached s ∧ x = qr s ∧ x.st = 2 ∧ x.mapped = false) ∧
    (∀ a ∈ [0, 1, 2], ∃ s : State, s.ev.a = a ∧ (queueAt s s.ev.b).en = true) ∧ (∃ s : State, s.hc.locked = true ∧ s.ev.a ≠ 9) ∧
    (∃ s : State, s.ev.a = 14) ∧ (∀ a ∈ [3, 4], ∃ s : State, s.ev.a = a ∧ slotTt s s.ev.b 1 ≠ none) ∧
    (∀ a ∈ [0, 1, 2], ∃ s : State, s.hc.locked = false ∧ s.ev.b = 255 ∧ s.ev.a = a ∧ (queueAt s s.ev.b).en = false) ∧
    (∀ a ∈ [3, 4, 6], ∃ s : State, s.hc.locked = false ∧ s.ev.a = a ∧ s.ev.b = 23 ∧ slotTt s s.ev.b 0 = none ∧ slotTt s s.ev.b 1 = none ∧
      ∀ y ∈ s.tts, s.ev.b ∈ y.2.parts → y.2.st ≠ .running ∧ y.2.st ≠ .frozen) ∧
    (∀ a ∈ [5, 12], ∃ s : State, s.hc.locked = false ∧ s.ev.a = a ∧ s.ev.b = 63) ∧
    ∃ s : State, s.ev.a = 6 ∧ ∃ y ∈ s.tts, s.ev.b ∈ y.2.parts ∧ (y.2.st = .running ∨ y.2.st = .frozen) := by
  refine ⟨⟨inQueue { Queue.off with en := true, st := 1 }, _, rfl, rfl, rfl, rfl, rfl, rfl, rfl, rfl⟩,
    ⟨inQueue { Queue.off with en := true, st := 1, base := 0x10000, tail := 1 }, _, rfl, rfl, rfl, rfl, rfl, rfl, rfl, (by decide : (0 : Nat) < 1), by decide⟩,
    ⟨shut { Queue.off with en := true, st := 1, base := 0x10000, tail := 1 }, _, _, rfl, rfl, rfl, rfl, rfl, rfl, rfl, (by decide : (0 : Nat) < 1),
      shut_bytes _ _ 64 (.inr rfl), shut_unserved _ 64 (.inr rfl)⟩, fun h hh =>
    ⟨slot0 h, _, h, rfl, rfl, rfl, rfl, rfl, rfl, rfl, (by decide : (0 : Nat) < 1), slot0_bytes h hh, host_served _ _ _ _ (slot0_page h) (by decide : 0 + 64 ≤ 65536) (by decide), rfl⟩,
    ⟨{ inQueue Queue.off with ev := { EvArgs.zero with flag := true } }, _, ⟨rfl, by decide⟩, rfl, rfl, rfl, rfl⟩,
    ⟨inQueue { Queue.off with st := 2 }, _, ⟨rfl, by decide⟩, rfl, rfl, rfl, rfl⟩, ⟨inQueue Queue.off, _, ⟨rfl, by decide⟩, rfl, by decide⟩,
    ⟨inQueue { Queue.off with st := 2, mapped := false }, _, ⟨rfl, by decide⟩, rfl, rfl, rfl⟩, fun a _ =>
    ⟨evt a 0 0 (inQueue { Queue.off with en := true }), rfl, rfl⟩, ⟨evt 0 0 0 { State.reset with hc := { Harbour.reset with locked := true } }, rfl, by decide⟩,
    ⟨evt 14 0 0 State.reset, rfl⟩, fun a _ =>
    ⟨evt a 0 0 { State.reset with tts := [(1, { TT.none with slot := 1, parts := [0] })] }, rfl, nofun⟩, fun a _ => ⟨evt a 255 0 (inQueue Queue.off), rfl, rfl, rfl, rfl⟩,
    fun a _ => ⟨evt a 23 0 State.reset, rfl, rfl, rfl, rfl, rfl, nofun⟩, fun a _ => ⟨evt a 63 0 State.reset, rfl, rfl, rfl⟩,
    evt 6 0 0 { State.reset with tts := [(1, { TT.none with parts := [0], st := .frozen })] }, rfl, _, List.mem_cons_self, by decide, .inr rfl⟩

/-! ## Loads, launches, moves -/

/-- The first 256 bytes of a small image: one task record, for tile 0, with one segment of a NOP and fill words; empty joint table,
wheel map and DRAM table; every hierarchy entry declared alike; no resident region. The magic word and the number of packets, which are 2,
are as given. -/
def smallHead (magic n : Nat) : List Byte := imgOf 256 [(0, 4, magic), (4, 2, 1), (6, 1, 1), (0x0C, 4, 1), (0x10, 4, 0x100), (0x14, 4, 0x80), (0x18, 4, n),
  (0x1C, 4, 0x100), (0x20, 4, 0xC0), (0x24, 4, 0x100), (0x28, 4, 0x100), (0x30, 4, 0x100), (0x44, 4, 0x2100), (0x80, 4, 0xA5100001),
  (0x90, 4, 0xFFFFFFFF), (0x94, 4, 0xFFFFFFFF)] |>.zipIdx.map (fun b => if 0xC0 ≤ b.2 && b.2 % 4 = 1 && b.2 < 0xE0 then 4 else b.1)
@[irreducible] def smallImg (magic n : Nat) : List Byte := smallHead magic n ++ List.replicate 8192 0
theorem smallHead_length (g n : Nat) : (smallHead g n).length = 256 := by simp [smallHead, imgOf]
theorem smallImg_length (g n : Nat) : (smallImg g n).length = 8448 := by
  rw [smallImg, List.length_append, smallHead_length, List.length_replicate]
theorem smallImg_getD (g n k : Nat) : (smallImg g n).getD k 0 = (smallHead g n).getD k 0 := by
  unfold smallImg
  rw [List.getD_eq_getElem?_getD, List.getD_eq_getElem?_getD, List.getElem?_append]
  split
  · rfl
  · rw [List.getElem?_replicate, List.getElem?_eq_none (by omega)]
    split <;> rfl
theorem smallImg_far (g m n : Nat) : ∀ k, 256 ≤ n → imgLE (smallImg g m) n k = 0 := by
  intro k hk
  induction k with
  | zero => rfl
  | succ k ih =>
    have hl := smallHead_length g m
    rw [imgLE, ih, smallImg_getD, List.getD_eq_getElem?_getD, List.getElem?_eq_none (by omega)]
    simp

/-- Its bytes in the host's memory. -/
def headMem (g n : Nat) : Memory := (smallHead g n).zipIdx.foldl (fun m b => storeLE m (2 ^ 64 + b.2) b.1.toNat 1) []
/-- The queue's process has the image at address 0, and the partition holds a key. -/
def withImg (g n : Nat) (x : Queue) (l : Tab TT := []) : State :=
  { inQueue x with
    mem := headMem g n
    hc := { Harbour.reset with restored := true }
    tts := l
    parts := [(0, { Partn.reset with pcfg := 0x8000000000000000, keys := [(0, [])] })] }
theorem mapM_some {α β : Type} (f : α → Option β) (g : α → β) (l : List α) (h : ∀ a ∈ l, f a = some (g a)) : l.mapM f = some (l.map g) := by
  induction l with
  | nil => rfl
  | cons a r ih => simp [List.mapM_cons, h a (by simp), ih (fun b hb => h b (by simp [hb]))]
theorem storeAll_out (c : Nat) (l : List (Byte × Nat)) (h : ∀ b ∈ l, b.2 < 256) (hc : 256 ≤ c) :
    ∀ m, byteAt (l.foldl (fun m b => storeLE m (2 ^ 64 + b.2) b.1.toNat 1) m) (2 ^ 64 + c) = byteAt m (2 ^ 64 + c) := by
  induction l with
  | nil => exact fun _ => rfl
  | cons b r ih =>
    intro m
    have := h b (by simp)
    rw [List.foldl_cons, ih (fun x hx => h x (by simp [hx])), byteAt_storeLE_out _ _ _ _ _ (by omega)]
/-- The images of the tests: the good one, one whose magic word is none, one whose code image is cut short. -/
def images : List (Nat × Nat) := [(0x4C545442, 2), (0, 2), (0x4C545442, 1)]
theorem smallHead_stored : ∀ i ∈ images, ∀ k < 256, byteAt (headMem i.1 i.2) (2 ^ 64 + k) = (smallHead i.1 i.2).getD k 0 := by decide +kernel
theorem withImg_byte (i : Nat × Nat) (x : Queue) (l : Tab TT) (hg : i ∈ images) (k : Nat) (hk : k < 8448) :
    physByte (withImg i.1 i.2 x l) (2 ^ 64 + k) = (smallHead i.1 i.2).getD k 0 := by
  have hd : inDisc (2 ^ 64 + k) = false := by simp [inDisc]; omega
  have hl := smallHead_length i.1 i.2
  have hm : physByte (withImg i.1 i.2 x l) (2 ^ 64 + k) = byteAt (headMem i.1 i.2) (2 ^ 64 + k) := by
    simp only [physByte, hd, Bool.false_eq_true, if_false, withImg]
  rw [hm]
  rcases Nat.lt_or_ge k 256 with h | h
  · exact smallHead_stored i hg k h
  · rw [headMem, storeAll_out k _ (fun b hb => by have := List.mem_zipIdx hb; omega) h, List.getD_eq_getElem?_getD, List.getElem?_eq_none (by omega)]
    rfl
theorem withImg_page (i : Nat × Nat) (x : Queue) (l : Tab TT) : ∀ k < 65536, qPage (withImg i.1 i.2 x l) 0 k = some hostPage := fun _ hk =>
  host_page _ _ _ ((by decide : procParts { State.reset with parts := [(0, { Partn.reset with pcfg := 0x8000000000000000, keys := [(0, [])] })] } 0 =
    List.range 24) ▸ rfl) rfl rfl hk
theorem smallHead_size : ∀ i ∈ images, imageLen ((List.range 0x80).map (fun k => (smallHead i.1 i.2).getD k 0)) = 8448 := by decide +kernel
theorem imageAt_withImg (i : Nat × Nat) (x : Queue) (l : Tab TT) (hg : i ∈ images) : imageAt (withImg i.1 i.2 x l) 0 0 = some (smallImg i.1 i.2) := by
  have hq : ∀ n, n ≤ 8448 → qBytes (withImg i.1 i.2 x l) 0 0 n = some ((List.range n).map (fun k => (smallHead i.1 i.2).getD k 0)) := fun n hn =>
    mapM_some _ _ _ (fun k hk => by
      have hk := List.mem_range.1 hk
      rw [Nat.zero_add, withImg_page i x l k (by omega), Option.map_some, ← withImg_byte i x l hg k (by omega)]
      congr 2)
  rw [imageAt, hq _ (by omega)]
  have := smallHead_size i hg
  simp only []
  rw [this, hq _ (by omega)]
  refine congrArg some (List.ext_getElem (by rw [smallImg_length, List.length_map, List.length_range]) (fun i h _ => ?_))
  rw [List.getElem_map, List.getElem_range, ← smallImg_getD, List.getD_eq_getElem?_getD, List.getElem?_eq_getElem, Option.getD_some]

/-- A queue that loads the image at address 0 into slot k of the partitions m. -/
def loading (m k : Nat) : Queue := { queue1 0 0 0 0 with wait := .load 3 0 m k [] }
theorem load_ready (i : Nat × Nat) (x : Queue) (l : Tab TT) : LoadReady (withImg i.1 i.2 x l) 0 (smallImg i.1 i.2) 0 := by
  refine ⟨rfl, fun j _ hj => ?_⟩
  rw [smallImg_length] at hj
  rw [LineThere, smallImg_length]
  exact host_served _ _ _ _ (withImg_page i x l) (by omega) (by omega)
theorem load_mask (i : Nat × Nat) (k : Nat) (l : Tab TT) (h : taskTiles (smallImg i.1 i.2) = [0]) :
    ¬ BadMask (withImg i.1 i.2 (loading 1 k) l) 1 (smallImg i.1 i.2) := by
  have one : ∀ p < 24, 1 / 2 ^ p % 2 = 1 → p = 0 := by decide
  have hp : procParts (withImg i.1 i.2 (loading 1 k) l) 0 = List.range 24 :=
    (by decide : procParts { State.reset with parts := [(0, { Partn.reset with pcfg := 0x8000000000000000, keys := [(0, [])] })] } 0 = List.range 24) ▸ rfl
  rintro (h1 | h1 | h1 | ⟨p, hp, h1, h2⟩ | ⟨id, hi, h1⟩)
  · cases h1
  · exact absurd h1 (by decide)
  · exact h1 (fun p hq _ => by rw [show procParts (withImg i.1 i.2 (loading 1 k) l) (withImg i.1 i.2 (loading 1 k) l).ev.a = _ from hp]; exact List.mem_range.2 hq)
  · obtain rfl := one p hp h1
    exact absurd h2 (show ¬ ((0x8000000000000000#64).getLsbD 63 = false) by decide)
  · rw [h, List.mem_singleton] at hi
    subst hi
    exact h1 ⟨by decide, by decide⟩
theorem load_empty (i : Nat × Nat) (k : Nat) : ¬ Occupied (withImg i.1 i.2 (loading 1 k)) 1 k := fun ⟨_, _, _, h⟩ => h rfl
/-- When the signature verifies, the good image passes every check, and the one that is cut short those but 10. -/
theorem load_most (n : Nat) (hn : n = 2 ∨ n = 1) (hs : ∀ m, Config.falconVerify [] m [] = true) (u : Nat) (hu : n = 2 ∨ u ≠ 10) :
    loadCheck (withImg 0x4C545442 n (loading 1 0)) (smallImg 0x4C545442 n) 1 u = true := by
  have z := smallImg_far 0x4C545442 n
  unfold loadCheck
  split
  · rcases hn with rfl | rfl <;> decide +kernel
  · have : ∀ p ∈ maskParts 1, p = 0 := by decide
    refine List.all_eq_true.2 (fun p hp => ?_)
    rw [this p hp]
    have h2 : (slice (smallImg 0x4C545442 n) (ofsSig (smallImg 0x4C545442 n)) (sigLen (smallImg 0x4C545442 n))) = [] := by rcases hn with rfl | rfl <;> decide +kernel
    show ([(0, ([] : List Byte))].any _) = true
    rw [List.any_cons, h2, hs]
    rfl
  · rcases hn with rfl | rfl <;> decide +kernel
  · rcases hn with rfl | rfl <;> decide +kernel
  · rcases hn with rfl | rfl <;> decide +kernel
  · rcases hn with rfl | rfl <;> decide +kernel
  · rcases hn with rfl | rfl <;> decide +kernel
  · obtain rfl := hu.resolve_right (fun h => h rfl)
    decide +kernel
  · rcases hn with rfl | rfl <;> decide +kernel
  · have h1 : wheelBad (smallImg 0x4C545442 n) = none := by
      have h2 : nTask (smallImg 0x4C545442 n) = 1 := by rcases hn with rfl | rfl <;> decide +kernel
      have h3 : imgLE (smallImg 0x4C545442 n) 0x24 4 = 256 := by rcases hn with rfl | rfl <;> decide +kernel
      refine Option.map_eq_none_iff.2 (List.find?_eq_none.2 (fun p _ => ?_))
      rw [wheelOwner, h3, z _ _ (by omega), h2]
      decide
    have h4 : jointBad (smallImg 0x4C545442 n) = none := by
      have h3 : imgLE (smallImg 0x4C545442 n) 0x1C 4 = 256 := by rcases hn with rfl | rfl <;> decide +kernel
      refine Option.map_eq_none_iff.2 (List.find?_eq_none.2 (fun p _ => ?_))
      rw [h3, z _ _ (by omega)]
      decide
    show tablesOk (smallImg 0x4C545442 n) = true
    rw [tablesOk, tablesBad, h1, h4]
    rcases hn with rfl | rfl <;> decide +kernel
  · rcases hn with rfl | rfl <;> decide +kernel
  · rfl
/-- An image of zeros in a page of the device whose channel is compiled. -/
theorem zeros_at (x : Queue) : imageAt (shut x) 0 0x10000 = some (List.replicate 128 0) := by
  have hb : ∀ k < 128, physByte (shut x) (placeOf herePage (0x10000 + k)) = 0 := by intro k hk; interval_cases k <;> rfl
  have hq : qBytes (shut x) 0 0x10000 128 = some (List.replicate 128 0) := by
    refine (mapM_some _ (fun _ => (0 : Byte)) _ (fun k hk => ?_)).trans (congrArg some (by decide))
    have hk := List.mem_range.1 hk
    rw [shut_page x [] _ (by omega) (by omega), Option.map_some, hb k hk]
  have hl : imageLen (List.replicate 128 0) = 128 := by decide +kernel
  rw [imageAt, hq]
  simp only [hl, hq]

theorem wit_LoadsFillAndEmptySlots (hs : ∀ m, Config.falconVerify [] m [] = true) :
    (∃ s x d a m k img, x = qr s ∧ x.wait = .load d a m k (img.take 0) ∧ imageAt s s.ev.a a = some img ∧ LoadReady s a img 0 ∧
      ¬ BadMask s m img ∧ ¬ Occupied s m k ∧ ∀ u, loadCheck s img m u = true) ∧
    ∃ s x d a m k img v, x = qr s ∧ x.wait = .load d a m k (img.take 0) ∧ imageAt s s.ev.a a = some img ∧ LoadReady s a img 0 ∧
      ¬ BadMask s m img ∧ ¬ Occupied s m k ∧ loadCheck s img m v = false ∧ (∀ u < v, loadCheck s img m u = true) ∧ v = 10 := by
  have g : (0x4C545442, 2) ∈ images := by decide
  have c : (0x4C545442, 1) ∈ images := by decide
  exact ⟨⟨withImg 0x4C545442 2 (loading 1 0), loading 1 0, 3, 0, 1, 0, smallImg 0x4C545442 2, rfl, rfl, imageAt_withImg (0x4C545442, 2) (loading 1 0) [] g, load_ready (0x4C545442, 2) (loading 1 0) [],
      load_mask (0x4C545442, 2) 0 [] (by decide +kernel), load_empty (0x4C545442, 2) 0, fun u => load_most 2 (.inl rfl) hs u (.inl rfl)⟩,
    ⟨withImg 0x4C545442 1 (loading 1 0), loading 1 0, 3, 0, 1, 0, smallImg 0x4C545442 1, 10, rfl, rfl, imageAt_withImg (0x4C545442, 1) (loading 1 0) [] c, load_ready (0x4C545442, 1) (loading 1 0) [],
      load_mask (0x4C545442, 1) 0 [] (by decide +kernel), load_empty (0x4C545442, 1) 0, by show codeOk _ _ = false; decide +kernel,
      fun u hu => load_most 1 (.inr rfl) hs u (.inr (by omega)), rfl⟩⟩
/-- Partition 0's slot 0 holds a Loaded timetable, as do the other partitions given. -/
def slotted (x : TT) (q : Queue) : State := { inQueue q with tts := [(1, x)] }
def tt0 (ps un : List Nat) : TT := { TT.none with parts := ps, st := .loaded, un := un }
theorem slotted_group (x : TT) (q : Queue) (m : Nat) : InGroup (slotted x q) m := fun p hp _ => by
  rw [show procParts (slotted x q) (slotted x q).ev.a = List.range 24 from (by decide : procParts State.reset 0 = List.range 24) ▸ rfl]
  exact List.mem_range.2 hp
theorem wit_LoadsAreRefusedAndEmptied :
    (∃ s x d a m k j img, x = qr s ∧ x.wait = .load d a m k (img.take (64 * j)) ∧ imageAt s s.ev.a a = some img ∧ 64 * j < img.length ∧ ¬ LineThere s a img j) ∧
    (∃ s x d a m k, x = qr s ∧ x.wait = .load d a m k [] ∧ qPage s s.ev.a a = none) ∧
    (∀ n ∈ [0, 2 ^ 24], ∃ s x d a m k img, x = qr s ∧ x.wait = .load d a m k (img.take 0) ∧ imageAt s s.ev.a a = some img ∧ LoadReady s a img 0 ∧ BadMask s m img ∧ m = n) ∧
    (∃ s x d a m k img, x = qr s ∧ x.wait = .load d a m k (img.take 0) ∧ imageAt s s.ev.a a = some img ∧ LoadReady s a img 0 ∧ ¬ BadMask s m img ∧ Occupied s m k) ∧
    (∃ s x d a m k img v, x = qr s ∧ x.wait = .load d a m k (img.take 0) ∧ imageAt s s.ev.a a = some img ∧ LoadReady s a img 0 ∧ ¬ BadMask s m img ∧ ¬ Occupied s m k ∧
      loadCheck s img m v = false ∧ (∀ u < v, loadCheck s img m u = true) ∧ v ≤ 9) ∧
    (∀ n ∈ [0, 2 ^ 24], ∃ s : State, ∃ m, m = (vb (qr s)).toNat ∧ m = n) ∧
    (∃ s m k, m = (vb (qr s)).toNat ∧ k = irX (qr s).ir % 2 ∧ m ≠ 0 ∧ m < 2 ^ 24 ∧ InGroup s m ∧
      ∃ p < 24, m / 2 ^ p % 2 = 1 ∧ ∀ n y, slotTt s p k = some (n, y) → y.st ≠ .loaded) ∧
    (∃ s m k p n y, m = (vb (qr s)).toNat ∧ k = irX (qr s).ir % 2 ∧ m ≠ 0 ∧ m < 2 ^ 24 ∧ InGroup s m ∧ p < 24 ∧ m = 2 ^ p ∧
      slotTt s p k = some (n, y) ∧ y.st = .loaded ∧ ∀ r ∈ y.parts, r = p ∨ r ∈ y.un) ∧
    (∃ s m k p n y, m = (vb (qr s)).toNat ∧ k = irX (qr s).ir % 2 ∧ m ≠ 0 ∧ m < 2 ^ 24 ∧ InGroup s m ∧ p < 24 ∧ m = 2 ^ p ∧
      slotTt s p k = some (n, y) ∧ y.st = .loaded ∧ ∃ r ∈ y.parts, r ≠ p ∧ r ∉ y.un) ∧
    ∀ b : Bool, ∃ s m k n y, m = (vb (qr s)).toNat ∧ k = irX (qr s).ir % 2 ∧ m ≠ 0 ∧ m < 2 ^ 24 ∧ InGroup s m ∧ (s.tts.map (·.1)).Pairwise (· < ·) ∧
      (∀ p < 24, m / 2 ^ p % 2 = 1 → ∃ n y, slotTt s p k = some (n, y) ∧ y.st = .loaded) ∧ (n, y) ∈ s.tts ∧ (∃ p < 24, m / 2 ^ p % 2 = 1 ∧ Holds s p k n) ∧
      if b then ∀ r ∈ y.parts, r ∈ y.un ∨ (r < 24 ∧ m / 2 ^ r % 2 = 1 ∧ Holds s r k n)
      else ∃ r ∈ y.parts, r ∉ y.un ∧ ¬ (r < 24 ∧ m / 2 ^ r % 2 = 1 ∧ Holds s r k n) := by
  have b : (0, 2) ∈ images := by decide
  have bits : ∀ p < 24, 3 / 2 ^ p % 2 = 1 → p = 0 ∨ p = 1 := by decide
  refine ⟨⟨shut { queue1 0 0 0 0 with wait := .load 3 0x10000 1 0 [] }, _, 3, 0x10000, 1, 0, 0, List.replicate 128 0, rfl, rfl, zeros_at _, by simp, ?_⟩,
    ⟨inQueue { queue1 0 0 0 0 with wait := .load 3 0x10000 1 0 [] }, _, _, _, _, _, rfl, rfl, by decide⟩, fun n hn => ⟨withImg 0 2 (loading n 0), loading n 0, 3, 0, n, 0, smallImg 0 2, rfl, rfl, imageAt_withImg (0, 2) (loading n 0) [] b, load_ready (0, 2) (loading n 0) [], ?_, rfl⟩,
    ⟨withImg 0 2 (loading 1 0) [(1, tt0 [0] [])], loading 1 0, 3, 0, 1, 0, smallImg 0 2, rfl, rfl, ?_, load_ready (0, 2) (loading 1 0) [(1, tt0 [0] [])], ?_, ⟨0, by decide, by decide, nofun⟩⟩,
    ⟨withImg 0 2 (loading 1 0), loading 1 0, 3, 0, 1, 0, smallImg 0 2, 3, rfl, rfl, imageAt_withImg (0, 2) (loading 1 0) [] b, load_ready (0, 2) (loading 1 0) [], load_mask (0, 2) 0 [] (by decide +kernel), load_empty (0, 2) 0,
      by decide +kernel, fun u hu => ?_, by decide⟩, fun n hn =>
    ⟨inQueue (queue1 0x2032_2200_0000_0000 0 (BitVec.ofNat 64 n) 0), _, rfl, ?_⟩,
    ⟨slotted { tt0 [0] [] with st := .armed } (queue1 0x2032_2200_0000_0000 0 1 0), _, _, rfl, rfl, by decide, by decide, slotted_group _ _ _, 0, by decide, by decide, ?_⟩,
    ⟨slotted (tt0 [0, 1] [1]) (queue1 0x2032_2200_0000_0000 0 1 0), _, _, 0, 1, _, rfl, rfl, by decide, by decide, slotted_group _ _ _, by decide, by decide, rfl, rfl, by decide⟩,
    ⟨slotted (tt0 [0, 1] []) (queue1 0x2032_2200_0000_0000 0 1 0), _, _, 0, 1, _, rfl, rfl, by decide, by decide, slotted_group _ _ _, by decide, by decide, rfl, rfl, by decide⟩, fun b => ?_⟩
  · intro h
    rw [LineThere, List.length_replicate] at h
    have h : qServed (shut { queue1 0 0 0 0 with wait := .load 3 0x10000 1 0 [] }) 0 0x10000 64 = true := h
    rw [shut_unserved _ 64 (.inr rfl)] at h
    cases h
  · rcases List.mem_pair.1 hn with rfl | rfl
    · exact .inl rfl
    · exact .inr (.inl (by decide))
  · exact imageAt_withImg (0, 2) (loading 1 0) [(1, tt0 [0] [])] b
  · exact load_mask (0, 2) 0 [(1, tt0 [0] [])] (by decide +kernel)
  · interval_cases u <;> rfl
  · revert n; decide
  · intro n y h
    have h : some (1, { tt0 [0] [] with st := .armed }) = some (n, y) := h
    cases h
    decide
  · have e : (vb (queue1 0x2032_2200_0000_0000 0 3 0)).toNat = 3 := by decide
    have h (l : List Nat) (hl : l = [0, 1] ∨ l = [0, 1, 2]) (p : Nat) (hp : p < 24) (h : 3 / 2 ^ p % 2 = 1) :
        slotTt (slotted (tt0 l []) (queue1 0x2032_2200_0000_0000 0 3 0)) p 0 = some (1, tt0 l []) := by
      rcases bits p hp h with rfl | rfl <;> rcases hl with rfl | rfl <;> rfl
    cases b
    · exact ⟨slotted (tt0 [0, 1, 2] []) (queue1 0x2032_2200_0000_0000 0 3 0), 3, 0, 1, _, e.symm, rfl, by decide, by decide, slotted_group _ _ _,
        List.pairwise_singleton _ _, fun p hp g => ⟨_, _, h _ (.inr rfl) p hp g, rfl⟩, List.mem_cons_self, ⟨0, by decide, by decide, _, rfl⟩,
        2, by decide, nofun, fun h => absurd h.2.1 (by decide)⟩
    · refine ⟨slotted (tt0 [0, 1] []) (queue1 0x2032_2200_0000_0000 0 3 0), 3, 0, 1, _, e.symm, rfl, by decide, by decide, slotted_group _ _ _,
        List.pairwise_singleton _ _, fun p hp g => ⟨_, _, h _ (.inl rfl) p hp g, rfl⟩, List.mem_cons_self, ⟨0, by decide, by decide, _, rfl⟩, fun r hr => ?_⟩
      have hr : r ∈ [0, 1] := hr
      rcases List.mem_pair.1 hr with rfl | rfl <;> exact .inr ⟨by decide, by decide, _, rfl⟩

/-- Slot 0 of partition 0 holds the timetable given, and slot 1 those of the list; the launch's record is at address 0. -/
def launching (cb : Word) (x : TT) (l : List TT) : State :=
  evt 0 0 0 { State.reset with
    queues := [(0, queue1 0x2133_2000_0000_0000 0 cb 0)], pages := [hostPage]
    tts := (1, x) :: l.zipIdx.map (fun y => (y.2 + 2, { y.1 with slot := 1, parts := [0], dom := 7 }))
    doms := [(7, { Dom.none with parts := [0], tc := 100, live := true })] }
theorem launching_a (cb : Word) (x : TT) (l : List TT) : va (qr (launching cb x l)) = 0 := by
  show cval _ (irA 0x2133200000000000) = 0
  rw [show irA 0x2133200000000000 = 3 by decide]
  rfl
theorem launching_b (cb : Word) (x : TT) (l : List TT) : vb (qr (launching cb x l)) = cb := by
  show cval _ (irB 0x2133200000000000) = cb
  rw [show irB 0x2133200000000000 = 2 by decide]
  rfl
theorem launching_page (cb : Word) (x : TT) (l : List TT) : ∀ k < 65536, qPage (launching cb x l) 0 k = some hostPage := fun _ hk =>
  host_page _ _ _ ((by decide : procParts State.reset 0 = List.range 24) ▸ rfl) rfl rfl hk
theorem launching_writes (cb : Word) (x : TT) (l : List TT) : QWrites (launching cb x l) 0 32 hostPage :=
  ⟨launching_page _ _ _ 0 (by decide), rfl, host_served _ _ _ _ (launching_page _ _ _) (by decide) (by decide)⟩
theorem launching_named (cb : Word) (x : TT) (l : List TT) : Withdraws (launching cb x l) hostPage :=
  ⟨by rw [launching_a]; rfl, by rw [launching_a]; exact launching_page _ _ _ 0 (by decide)⟩
/-- The same, where the record's page is one of the device, whose channel is compiled. -/
def launchingShut : State :=
  { launching 4096 (tt0 [0] []) [] with
    pages := [{ herePage with va := 0 }], chans := [(chanOf 0, { Chan.idle with comp := some 5 })] }
theorem launch_tt (cb : Word) (l : List TT) : launchTt (launching cb (tt0 [0] []) l) 0 0 = some (1, tt0 [0] []) := by
  show (match (List.filter _ ((1, tt0 [0] []) :: _)).find? _ with | some x => some x | none => _) = _
  rw [List.filter_cons_of_pos]
  · rfl
  · exact (by decide : (decide (0 = 0) && ([0].filter (fun p => !([] : List Nat).contains p)).any (procParts State.reset 0).contains) = true)
theorem launches (cb : Word) (l : List TT) : Launches (launching cb (tt0 [0] []) l) 1 (tt0 [0] []) hostPage := by
  have h := launching_writes cb (tt0 [0] []) l
  refine ⟨⟨?_, rfl, rfl, rfl, by rw [launching_a]; rfl, by rw [launching_a]; exact h.1, rfl⟩, by rw [launching_a]; exact h.2.2⟩
  show launchTt _ 0 (irX 0x2133200000000000 % 2) = _
  rw [show irX 0x2133200000000000 % 2 = 0 by decide]
  exact launch_tt cb l
theorem launches_shut : LaunchNames launchingShut 1 (tt0 [0] []) { herePage with va := 0 } ∧ qServed launchingShut launchingShut.ev.a (va (qr launchingShut)).toNat 32 = false := by
  have a : va (qr launchingShut) = 0 := launching_a 4096 (tt0 [0] []) []
  refine ⟨⟨?_, rfl, rfl, rfl, by rw [a]; rfl, by rw [a]; decide +kernel, rfl⟩, ?_⟩
  · show launchTt launchingShut 0 (irX 0x2133200000000000 % 2) = _
    rw [show irX 0x2133200000000000 % 2 = 0 by decide]
    exact launch_tt 4096 []
  · rw [a]
    have h : qTouch launchingShut 0 0 32 false = [⟨0, 32, false⟩] := by decide +kernel
    show qServed launchingShut 0 0 32 = false
    rw [qServed, h]
    simp [servedAll, served, linesOf, lineOpen, List.range, List.range.loop, launchingShut, launching, chanAt, tabGet, evt, State.reset]
/-- An image whose wheel map owns no position; its joint 0 is at cycle 9. -/
def noWheelHead : List Byte := imgOf 64 [(0x1C, 4, 0x28), (0x24, 4, 0x40), (0x28, 4, 9), (0x2C, 4, 1)]
@[irreducible] def noWheel : List Byte := noWheelHead ++ List.replicate 8192 0xFF
theorem noWheel_free (p : Nat) (h : p < 4096) : wheelOwner noWheel p = none := by
  have h3 : imgLE noWheel 0x24 4 = 0x40 := by decide +kernel
  have hl : noWheelHead.length = 64 := by simp [noWheelHead, imgOf]
  have hg : ∀ k, 64 ≤ k → k < 8256 → noWheel.getD k 0 = 0xFF := by
    intro k h1 h2
    unfold noWheel
    rw [List.getD_eq_getElem?_getD, List.getElem?_append_right (by omega), List.getElem?_replicate, if_pos (by omega), Option.getD_some]
  rw [wheelOwner, h3]
  have h2 : imgLE noWheel (0x40 + 2 * p) 2 = 0xFFFF := by
    rw [imgLE, imgLE, imgLE, Nat.add_zero, hg _ (by omega) (by omega), hg _ (by omega) (by omega)]
    rfl
  rw [h2]
  rfl
def running : TT := { TT.none with st := .running, img := noWheel }
theorem no_conflict (cb : Word) (n : Nat) : ¬ Conflicts (launching cb (tt0 [0] []) (List.replicate n running)) 1 (tt0 [0] []) := by
  rintro ⟨y, hy, h0, -, -, h⟩
  have hw : wheelOf noWheel = [] := List.filter_eq_nil_iff.2 (fun p hp => by rw [noWheel_free p (List.mem_range.1 hp)]; decide)
  rcases List.mem_cons.1 hy with h1 | h1
  · rw [h1] at h0
    exact h0 rfl
  · obtain ⟨z, hz, rfl⟩ := List.mem_map.1 h1
    have := List.eq_of_mem_replicate (List.mem_zipIdx_iff_getElem?.1 hz |> List.mem_of_getElem?)
    rw [this] at h
    simp only [conflict, running, hw] at h
    revert h
    decide +kernel
/-- The launch's slot holds an Armed timetable that is to start at a cycle, with its record at address 0. -/
def armed (t0 : Nat) : TT := { tt0 [0] [] with st := .armed, t0 := t0, dom := 7, record := some (0, 2 ^ 64) }
theorem armed_named (t0 : Nat) : named (launching 0 (armed t0) []) hostPage = some (1, armed t0) := by
  rw [named, launching_a]
  show List.find? _ (List.filter _ ((1, armed t0) :: [])) = _
  rw [List.filter_cons_of_pos]
  · rfl
  · exact (by decide : (decide (0 = irX 0x2133200000000000 % 2) && ([0].filter (fun p => !([] : List Nat).contains p)).any (procParts State.reset 0).contains) = true)
theorem wit_LaunchesArmAndWithdraw :
    (∀ b ∈ [2047, 2048, 4096], ∃ s x, Launches s 1 x hostPage ∧ LaunchAt s x .claunchTc b none ∧ joinDom s x.parts = none ∧
      (TooEarly s x b ↔ b = 2047) ∧ (OffWheel x b ↔ b ≠ 4096) ∧ ¬ Conflicts s 1 x) ∧
    (∃ s x t, Launches s 1 x hostPage ∧ LaunchAt s x .claunchRel t none ∧ joinDom s x.parts = some 7 ∧ ¬ TooEarly s x t ∧ ¬ OffWheel x t ∧
      ¬ Conflicts s 1 x) ∧
    (∃ s x t k, Launches s 1 x hostPage ∧ LaunchAt s x .claunchJt t (some k) ∧ ¬ TooEarly s x t ∧ ¬ OffWheel x t ∧ ¬ Conflicts s 1 x) ∧
    (∃ s x t, Launches s 1 x hostPage ∧ LaunchAt s x .claunchTc t none ∧ ¬ TooEarly s x t ∧ ¬ OffWheel x t ∧ Conflicts s 1 x) ∧
    (∃ s x g, LaunchNames s 1 x g ∧ qServed s s.ev.a (va (qr s)).toNat 32 = false) ∧ (∃ s x, Launches s 1 x hostPage ∧ otherTt s x = none) ∧
    (∃ s x n y, Launches s 1 x hostPage ∧ otherTt s x = some (n, y) ∧ (jointEntry y.img (irImm (qr s).ir).toNat).2.1 = false) ∧
    (∃ s, launchTt s s.ev.a (irX (qr s).ir % 2) = none) ∧
    (∃ s k x, launchTt s s.ev.a (irX (qr s).ir % 2) = some (k, x) ∧ x.st ≠ .loaded) ∧
    (∃ s k x, launchTt s s.ev.a (irX (qr s).ir % 2) = some (k, x) ∧ x.un ≠ []) ∧
    (∃ s k x, Withdraws s hostPage ∧ named s hostPage = some (k, x) ∧ ttOf s k = x ∧ (domAt s x.dom).tc + 1 = x.t0 ∧ x.record ≠ none) ∧
    (∃ s k x, Withdraws s hostPage ∧ named s hostPage = some (k, x) ∧ x.t0 = (domAt s x.dom).tc) ∧ (∃ s, Withdraws s hostPage ∧ named s hostPage = none) ∧
    (∃ s, (va (qr s)).toNat % 32 ≠ 0) ∧ ∃ s, (va (qr s)).toNat % 32 = 0 ∧ qPage s s.ev.a (va (qr s)).toNat = none := by
  have hoff : ∀ b : Nat, OffWheel (tt0 [0] []) b ↔ b % 4096 ≠ 0 := fun b =>
    ⟨fun h => h.2, fun h => ⟨⟨0, by decide, by decide⟩, h⟩⟩
  refine ⟨fun b hb => ⟨_, _, launches (BitVec.ofNat 64 b) [], .inl ⟨rfl, rfl, ?_⟩, rfl, ?_, ?_, no_conflict _ 0⟩,
    ⟨_, _, 4096, launches 3996 [running], .inr (.inl ⟨rfl, rfl, by decide +kernel⟩), by decide +kernel, ?_, by rw [hoff]; decide, no_conflict _ 1⟩,
    ⟨_, _, 4096, _, launches 4086 [running], .inr (.inr ⟨rfl, 2, { running with slot := 1, parts := [0], dom := 7 }, 9, false, false, ?_, by decide +kernel, rfl, by decide⟩), ?_, by rw [hoff]; decide,
      no_conflict _ 1⟩,
    ⟨_, _, 4096, launches 4096 [{ running with img := [] }], .inl ⟨rfl, rfl, rfl⟩, ?_, by rw [hoff]; decide, ⟨(2, { running with img := [], slot := 1, parts := [0], dom := 7 }), by decide +kernel, by decide, rfl, rfl, by decide +kernel⟩⟩,
    ⟨_, _, _, launches_shut⟩, ⟨_, _, launches 4096 [], rfl⟩, ⟨_, _, _, _, launches 4096 [{ running with img := [] }], rfl, by decide⟩, ⟨inQueue (queue1 0 0 0 0), rfl⟩,
    ⟨launching 0 (armed 101) [], _, _, rfl, by decide⟩, ⟨launching 0 (tt0 [0, 1] [1]) [], _, _, rfl, by decide⟩,
    ⟨launching 0 (armed 101) [], _, _, launching_named _ _ _, armed_named _, rfl, rfl, nofun⟩,
    ⟨launching 0 (armed 100) [], _, _, launching_named _ _ _, armed_named _, rfl⟩, ⟨launching 0 (tt0 [0] []) [], launching_named _ _ _, ?_⟩,
    ⟨inQueue (queue1 0x2131_2600_0000_0000 31 0 0), by decide⟩, ⟨inQueue (queue1 0x2131_2600_0000_0000 0x10000 0 0), by decide, by decide⟩⟩
  · rw [launching_b]
    revert b; decide
  · revert b; unfold TooEarly; decide
  · rw [hoff]; revert b; decide
  · unfold TooEarly; decide +kernel
  · rfl
  · unfold TooEarly; decide +kernel
  · unfold TooEarly; decide +kernel
  · rw [named, launching_a]
    rfl

/-- Queue 0 names a move of partition imm's berth of sequence seq, with its report at address 0x1000. -/
def moveCmd (m : Memory) (imm seq : Nat) (mv : Tab Move) : State :=
  { inQueue (queue1 (0x2333_2000_0000_0000 + BitVec.ofNat 64 imm) 0 (BitVec.ofNat 64 (seq * 2 ^ 32)) 0x1000) with mem := m, moves := mv }
/-- Every place of the engine of die 0 is taken. -/
def busy : Tab Move := (List.range 16).map (fun k => (6 * k, ⟨0, 1, 0, false, 0, 0, 0, mvCopy, 0, 0, 0, none⟩))
/-- The move of berth 1 in slot 0 of its tier, whose report is at 0x1000. -/
def move1 (up : Bool) (st : Nat) : Move := ⟨0, 1, 0, up, 0, 1, 0, st, 0x1000, 0, 0, none⟩
/-- The channel of line 0 is compiled for a timetable. -/
def compiled0 (s : State) : State := { s with chans := [(chanOf 0, { Chan.idle with comp := some 5 })] }
theorem mayMove_open (s : State) (h : s.chans = []) (w : Who) (l : List Touch) : mayMove s w l = true := by
  rw [mayMove, servedAll_open s h, Bool.true_and, standsStill]
  simp only [chanAt, h, tabGet]
  simp [Chan.idle]
/-- A touch of a line that is neither open nor moved is not served. -/
theorem mayMove_line (s : State) (w : Who) (k n : Nat) (ho : lineOpen s none (64 * k) = false) (hg : s.grants.contains (w, k) = false)
    (hn : 64 * k < n) (b : Bool) (l : List Touch) (hl : ⟨0, n, b⟩ ∈ l) : mayMove s w l = false := by
  have hm : k ∈ linesOf 0 n := by
    rw [linesOf, if_neg (by omega)]
    exact List.mem_map.2 ⟨k, List.mem_range.2 (by omega), by omega⟩
  have hs : served s w none 0 n = false := by
    rw [served, List.all_eq_false]
    refine ⟨k, hm, ?_⟩
    rw [ho, hg]
    nofun
  rw [mayMove, show servedAll s w none l = false from List.all_eq_false.2 ⟨_, hl, by rw [hs]; nofun⟩]
  rfl
theorem mayMove_shut (s : State) (h : s.grants = []) (w : Who) (n : Nat) (hn : 0 < n) (b : Bool) (l : List Touch) (hl : ⟨0, n, b⟩ ∈ l) :
    mayMove (compiled0 s) w l = false :=
  mayMove_line _ w 0 n (by simp [lineOpen, compiled0, chanAt, tabGet]) (by rw [show (compiled0 s).grants = [] from h]; rfl) (by omega) b l hl
/-- The channels of the first two lines are compiled, and the first was moved for move 0. -/
def compiled1 (s : State) : State :=
  { s with
    chans := [(chanOf 0, { Chan.idle with comp := some 5 }), (chanOf 64, { Chan.idle with comp := some 5 })], grants := [(.move 0, 0)] }
/-- Move 0 copies, of which some bytes are done and a line may have been read; no memory is written. -/
def copying (pos : Nat) (buf : Option Nat) : State := moveCmd [] 0 0 [(0, { move1 false mvCopy with pos := pos, buf := buf })]
theorem copying_line : mayMove (compiled1 (copying 0 none)) (.move 0) (lineTouchOf (compiled1 (copying 0 none)) (moveAt (compiled1 (copying 0 none)) 0)) = true := by
  have h : lineTouchOf (compiled1 (copying 0 none)) (moveAt (compiled1 (copying 0 none)) 0) = [⟨0, 64, false⟩] := by decide +kernel
  rw [h]
  simp [mayMove, servedAll, served, standsStill, linesOf, List.range, List.range.loop, compiled1, chanAt, domAt, ttOf, tabGet, copying, moveCmd,
    inQueue, evt, State.reset, Dom.none]
theorem copying_shut : mayMove (compiled1 (copying 0 none)) (.move 0) (commitTouch (compiled1 (copying 0 none)) (moveAt (compiled1 (copying 0 none)) 0)) = false := by
  refine mayMove_line _ _ 1 16384 ?_ (by decide) (by decide) false _ List.mem_cons_self
  by_cases h : chanOf 0 = chanOf 64 <;> simp [h, lineOpen, compiled1, chanAt, tabGet]
/-- The names of a commit's statement. -/
def Copies (s : State) (k : Nat) (v : Move) (tb left : Nat) : Prop :=
  k = s.ev.a ∧ v = moveAt s k ∧ v.state = mvCopy ∧ tb = (partAt s v.part).tbase ∧ left = bSize s.mem tb v.pool - v.pos
theorem wit_BerthMovesChangeTiers :
    (∀ n ∈ [24, 31], ∃ s p tb d k, MoveNames s p tb d k ∧ p ∉ procParts s s.ev.a ∧ p = n) ∧
    (∃ s p tb d n, MoveNames s p tb d n ∧ p ∈ procParts s s.ev.a ∧ (va (qr s)).toNat % 8 ≠ 0) ∧
    (∃ s p tb d n, MoveNames s p tb d n ∧ p ∈ procParts s s.ev.a ∧ (va (qr s)).toNat % 8 = 0 ∧ qCanWrite s s.ev.a (va (qr s)).toNat = false) ∧
    (∃ s p tb d n, MoveNames s p tb d n ∧ p ∈ procParts s s.ev.a ∧ (va (qr s)).toNat % 8 = 0 ∧
      qCanWrite s s.ev.a (va (qr s)).toNat = true ∧ freeMove s (p / 4) = none) ∧
    (∃ s p tb d n, MoveNames s p tb d n ∧ p ∈ procParts s s.ev.a ∧ (va (qr s)).toNat % 8 = 0 ∧
      qCanWrite s s.ev.a (va (qr s)).toNat = true ∧ ∀ up b, mayMove s (.queue s.ev.a) (moveTouch s p up b (vb (qr s))) = false) ∧
    (∀ up : Bool, ∃ s p tb d n key, MoveNames s p tb d n ∧ MoveOk s p key up false ∧ noBerth s.mem tb (vb (qr s)) = true) ∧
    (∀ up : Bool, ∃ s p tb d n key, MoveNames s p tb d n ∧ MoveOk s p key up false ∧ noBerth s.mem tb (vb (qr s)) = false ∧
      (rdEnt s.mem tb n).st ≠ (if up then bAnch else bHbm)) ∧
    (∀ up : Bool, ∃ s p tb d n key, MoveNames s p tb d n ∧ MoveOk s p key up false ∧ noBerth s.mem tb (vb (qr s)) = false ∧
      (rdEnt s.mem tb n).st = (if up then bAnch else bHbm) ∧ fifoCount s.mem (if up then hslQ tb d.pool else aslQ tb d.pool) = 0) ∧
    (∀ up : Bool, ∃ s p tb d n key, MoveNames s p tb d n ∧ MoveOk s p key up true ∧ noBerth s.mem tb (vb (qr s)) = false ∧
      (rdEnt s.mem tb n).st = (if up then bAnch else bHbm) ∧ fifoCount s.mem (if up then hslQ tb d.pool else aslQ tb d.pool) ≠ 0) ∧
    (∃ s k v tb left, Copies s k v tb left ∧ mayMove s (.move k) (commitTouch s v) = false ∧ mayMove s (.move k) (lineTouchOf s v) = false) ∧
    (∃ s k v tb left, Copies s k v tb left ∧ v.buf ≠ none ∧ left = 0) ∧
    (∃ s k v tb left, Copies s k v tb left ∧ mayMove s (.move k) (commitTouch s v) = false ∧ left ≠ 0 ∧
      mayMove s (.move k) (lineTouchOf s v) = true ∧ v.buf = none) ∧
    (∃ s k v tb left x, Copies s k v tb left ∧ left ≠ 0 ∧ mayMove s (.move k) (lineTouchOf s v) = true ∧ v.buf = some x) ∧
    (∃ s k v tb left, Copies s k v tb left ∧ v.buf = none ∧ mayMove s (.move k) (commitTouch s v) = true) ∧
    ∀ b : Bool, ∃ s k v tb, k = s.ev.a ∧ v = moveAt s k ∧ v.state = mvHeld ∧ v.hold = 0 ∧ tb = (partAt s v.part).tbase ∧
      mayMove s (.move k) (returnTouch s v) = b := by
  have hp : ∀ m i q v, procParts (moveCmd m i q v) (moveCmd m i q v).ev.a = List.range 24 := fun m i q v =>
    (by decide : procParts State.reset 0 = List.range 24) ▸ rfl
  have pg : ∀ m i q v, qPage (moveCmd m i q v) 0 0x1000 = some hostPage := fun m i q v => host_page _ _ _ (hp m i q v) rfl rfl (by decide)
  have in0 : ∀ m q v, 0 ∈ procParts (moveCmd m 0 q v) (moveCmd m 0 q v).ev.a := fun m q v => by rw [hp]; decide
  have a8 : ∀ m q v, va (qr (moveCmd m 0 q v)) = 0x1000 := fun m q v => by
    show cval _ (irA (0x2333200000000000 + BitVec.ofNat 64 0)) = 0x1000
    rw [show irA (0x2333200000000000 + BitVec.ofNat 64 0) = 3 by decide]
    rfl
  have wr : ∀ m q v, qCanWrite (moveCmd m 0 q v) (moveCmd m 0 q v).ev.a (va (qr (moveCmd m 0 q v))).toNat = true := fun m q v => by
    rw [a8]
    show qCanWrite (moveCmd m 0 q v) 0 0x1000 = true
    rw [qCanWrite, pg]
    rfl
  have nm : 0 = (irImm (0x2333200000000000 + BitVec.ofNat 64 0)).toNat % 32 := by decide
  have ok : ∀ m q up st, MoveOk (moveCmd m 0 q []) 0 0 up st := fun m q up st =>
    ⟨in0 _ _ _, by rw [a8]; rfl, wr _ _ _, rfl, mayMove_open _ rfl _ _⟩
  refine ⟨fun n hn => ⟨moveCmd [] n 0 [], n, _, _, _, ⟨?_, rfl, rfl, rfl⟩, ?_, rfl⟩,
    ⟨inQueue (queue1 0x2331_2000_0000_0000 4 0 0), 0, _, _, _, ⟨by decide, rfl, rfl, rfl⟩, by decide, by decide⟩,
    ⟨inQueue (queue1 0x2331_2000_0000_0000 0x10000 0 0), 0, _, _, _, ⟨by decide, rfl, rfl, rfl⟩, by decide, by decide, by decide⟩,
    ⟨moveCmd [] 0 0 busy, 0, _, _, _, ⟨by decide, rfl, rfl, rfl⟩, in0 _ _ _, by rw [a8]; rfl, wr _ _ _, by decide +kernel⟩,
    ⟨compiled0 (moveCmd [] 0 0 []), 0, _, _, _, ⟨by decide, rfl, rfl, rfl⟩, in0 [] 0 [], ?_, wr [] 0 [], fun up b => mayMove_shut _ rfl _ 32 (by decide) false _ List.mem_cons_self⟩,
    fun up => ⟨moveCmd (berths 1 1) 0 1 [], 0, _, _, _, 0, ⟨by decide, rfl, rfl, rfl⟩, ok _ _ _ _, by decide +kernel⟩,
    fun up => ⟨moveCmd (berths (if up then 1 else 3) 1) 0 0 [], 0, _, _, _, 0, ⟨nm, rfl, rfl, rfl⟩, ok _ _ _ _, ?_, ?_⟩,
    fun up => ⟨moveCmd (storeLE (berths (if up then 3 else 1) 1) (if up then 0x13C else 0x14C) 0 4) 0 0 [], 0, _, _, _, 0, ⟨nm, rfl, rfl, rfl⟩, ok _ _ _ _, ?_, ?_, ?_⟩,
    fun up => ⟨moveCmd (berths (if up then 3 else 1) 1) 0 0 [], 0, _, _, _, 0, ⟨nm, rfl, rfl, rfl⟩, ok _ _ _ _, ?_, ?_, ?_⟩,
    ⟨compiled0 (copying 0 none), _, _, _, _, ⟨rfl, rfl, rfl, rfl, rfl⟩, mayMove_shut _ rfl _ 16384 (by decide) false _ List.mem_cons_self,
      mayMove_shut _ rfl _ 64 (by decide) false _ List.mem_cons_self⟩,
    ⟨copying 16384 (some 0), _, _, _, _, ⟨rfl, rfl, rfl, rfl, rfl⟩, nofun, by decide +kernel⟩,
    ⟨compiled1 (copying 0 none), _, _, _, _, ⟨rfl, rfl, rfl, rfl, rfl⟩, copying_shut, by decide +kernel, copying_line, rfl⟩,
    ⟨copying 16320 (some 7), _, _, _, _, 7, ⟨rfl, rfl, rfl, rfl, rfl⟩, by decide +kernel, mayMove_open _ rfl _ _, rfl⟩,
    ⟨moveCmd (berths 2 1) 0 0 [(0, move1 false mvCopy)], _, _, _, _, ⟨rfl, rfl, rfl, rfl, rfl⟩, rfl, mayMove_open _ rfl _ _⟩,
    fun b => ⟨if b then moveCmd (berths 3 1) 0 0 [(0, move1 false mvHeld)] else compiled0 (moveCmd [] 0 0 [(0, move1 false mvHeld)]), _, _, _, rfl, rfl, ?_, ?_, rfl, ?_⟩⟩
  · revert n; decide
  · rw [hp]
    revert n; decide
  · show (va (qr (moveCmd [] 0 0 []))).toNat % 8 = 0
    rw [a8]
    rfl
  · cases up <;> decide +kernel
  · cases up <;> decide +kernel
  · cases up <;> decide +kernel
  · cases up <;> decide +kernel
  · cases up <;> decide +kernel
  · cases up <;> decide +kernel
  · cases up <;> decide +kernel
  · cases up <;> decide +kernel
  · cases b <;> rfl
  · cases b <;> rfl
  · cases b
    · exact mayMove_shut _ rfl _ 4 (by decide) true _ (by decide +kernel)
    · exact mayMove_open _ rfl _ _


/-! ## The Harbour complex and the outside -/

/-- The Harbour complex as given, and the operands of an event. -/
def harbour (h : Harbour) (x : EvArgs) : State := { State.reset with hc := h, ev := x }
/-- A run list of share group 1 with two processes; the first has the queues given, and region 1 for its table. -/
def list1 (qs : List Nat) (b : Bool) : RunList := ⟨1, [⟨5, qs, BitVec.ofNat 128 (2 ^ 112), [1]⟩, ⟨7, [3], 0, []⟩], 0, b⟩
def lists (qs : List Nat) (b : Bool) : Harbour := { Harbour.reset with runs := [list1 qs b], regions := [(1, ⟨true, 64, 64, 15, 0⟩)] }
/-- Domain 0 as given runs a timetable that queue 1 launched; the event may say that the process is to be idle. -/
def turning (b flag : Bool) (x : Dom) : State :=
  { harbour (lists [1, 2] b) { EvArgs.zero with flag := flag } with
    doms := [(0, { x with parts := [0], live := true })]
    tts := [(1, { TT.none with parts := [0], st := .running, record := some (1, 2 ^ 64) })] }
/-- The process's queue waits in a CCOPY. -/
def inCopy (s : State) : State := { s with queues := [(1, { Queue.off with st := 1, wait := .copy 0 0 64 none })] }
/-- A register of the run lists is written: a process of a group joins, or one leaves. -/
def joins (rs : List RunList) (g c : Nat) (flag : Bool) : State :=
  harbour { lists [1] false with runs := rs }
    { EvArgs.zero with a := 7, b := g, c := c, flag := flag, list := [(255, 0, 0)] }
/-- Firmware memory is region 0, and region 1 is 64 bytes at 64. -/
def regioned : Harbour := { Harbour.reset with regions := [(0, ⟨true, 0, 2 ^ 20, 15, 0⟩), (1, ⟨true, 64, 64, 15, 0⟩)] }
/-- A capability: kind 1, rights, region, generation, base, length. -/
def capOf (rights region gen base len : Nat) : BitVec 128 :=
  BitVec.ofNat 128 (2 ^ 124 + rights * 2 ^ 120 + region * 2 ^ 112 + gen * 2 ^ 104 + base * 2 ^ 48 + len)
/-- Core 2 holds a capability in register 5, an offset in register 6, and a capability to store in register 7. -/
def holding (c : BitVec 128) (tag : Bool) (o : Nat) : HcCore := ⟨[(6, BitVec.ofNat 64 o)], [], 0, 0, [(5, c, tag), (7, c, tag)]⟩
/-- An access of core 2 through it: op, bytes, kind, offset. -/
def capEv (c : BitVec 128) (tag : Bool) (op n kind o : Nat) : State :=
  harbour { regioned with cores := [(2, holding c tag o)] } { EvArgs.zero with a := op, b := n, c := kind, list := [(2, 5, 7), (6, 0, 0)] }
/-- Requests of core 2 wait. -/
def awaiting (s : State) : State := { s with waiting := [⟨0, .capAccess, EvArgs.zero, [⟨64, 8, true⟩], some 65538⟩] }
theorem live15 (region : Nat) (s : State) (hr : region < 2)
    (hs : tabGet Region.none s.hc.regions region = if region = 0 then ⟨true, 0, 2 ^ 20, 15, 0⟩ else ⟨true, 64, 64, 15, 0⟩) :
    Live s (capOf 15 region 0 1 64) true := by
  have h1 : ((capOf 15 region 0 1 64).extractLsb' 112 8).toNat = region := by clear hs; revert region; decide
  rw [Live, h1, hs]
  refine ⟨_, rfl, rfl, ?_⟩
  clear hs h1
  revert region
  decide
theorem free_open (s : State) (h : s.chans = []) (hw : s.waiting = []) (l : List Touch) (src : Option Nat) : Free s l src := by
  refine .inr ⟨fun k _ => ⟨?_, fun w h => ?_⟩, fun _ w h => ?_⟩
  all_goals first | (rw [hw] at h; exact absurd h List.not_mem_nil) | skip
  simp only [lineOpen, chanAt, h, tabGet]
  split <;> rfl
/-- The accesses of R339 and R340, by their code and the bytes that they name. -/
def capOps : List (Nat × Nat) := [(0, 8), (1, 8), (2, 8), (3, 16), (4, 16)]
theorem capEv_ok : ∀ c ∈ capOps, ∀ region < 2, ∀ kind ∈ [1, 15],
    CapOk (capEv (capOf 15 region 0 1 64) true c.1 c.2 kind (64 - c.2)) (capOf 15 region 0 1 64) true c.1 kind (64 - c.2) c.2 := by
  intro c hc region hr kind hk
  refine ⟨live15 region _ hr (by show tabGet Region.none regioned.regions region = _; clear hk; revert region; decide), ?_, ?_, ?_⟩
  · revert region c; decide
  · revert kind region; decide
  · revert region c; decide
theorem wit_FirmwareRunsByTurnsAndCapabilities :
    (∀ b : Bool, ∃ s r p, s.hc.runs[s.ev.a]? = some r ∧ r.procs[r.turn]? = some p ∧ r.ending = b ∧
      ∀ d, InProc s p.queues d → (domAt s d).preempted = false) ∧
    (∃ s r p d, s.hc.runs[s.ev.a]? = some r ∧ r.procs[r.turn]? = some p ∧ r.ending = false ∧ procDoms s p.queues = [d] ∧ (domAt s d).preempted = true) ∧
    (∃ s r p, s.hc.runs[s.ev.a]? = some r ∧ r.procs[r.turn]? = some p ∧ s.ev.flag = true ∧ r.ending = false ∧ ¬ Idle s p.queues) ∧
    (∃ s r p, s.hc.runs[s.ev.a]? = some r ∧ r.procs[r.turn]? = some p ∧ s.ev.flag = true ∧ r.ending = false ∧ Idle s p.queues) ∧
    (∃ s r p d, s.hc.runs[s.ev.a]? = some r ∧ r.procs[r.turn]? = some p ∧ s.ev.flag = false ∧ r.ending = false ∧ InProc s p.queues d ∧ Busy s p.queues) ∧
    (∃ s r p d, s.hc.runs[s.ev.a]? = some r ∧ r.procs[r.turn]? = some p ∧ r.ending = true ∧ InProc s p.queues d ∧ ¬ Busy s p.queues) ∧
    (∃ s : State, s.hc.runs[s.ev.a]? = none) ∧
    (∀ rs ∈ [[], [⟨1, [⟨5, [1], 0, []⟩], 0, false⟩]], ∃ (s : State) (g : Nat) (p : Proc), s.hc.locked = false ∧ s.ev.a = 7 ∧ s.ev.b = g ∧ g < 24 ∧ p = ⟨s.ev.c, s.ev.list.map (·.1), s.ev.cap, s.ev.bytes.map (·.toNat)⟩ ∧
      s.ev.flag = true ∧ 1 ≤ p.quantum ∧ p.quantum = 1000000 ∧ (∀ q ∈ p.queues, q < 256 ∧ ∀ r ∈ s.hc.runs, ∀ y ∈ r.procs, q ∉ y.queues) ∧
      s.hc.runs = rs ∧ ∀ r ∈ rs, r.group = g) ∧
    (∃ (s : State) (g : Nat) (r : RunList) (y : Proc), s.hc.locked = false ∧ s.ev.a = 7 ∧ s.ev.b = g ∧ g < 24 ∧ s.ev.flag = false ∧ s.hc.runs = [r] ∧ r.group = g ∧
      r.procs[s.ev.c]? = some y ∧ r.turn = s.ev.c ∧ Idle s y.queues ∧ ∃ c tag, c.extractLsb' 112 8 = y.table.extractLsb' 112 8 ∧
      (c.extractLsb' 112 8).toNat ∈ y.regions ∧ Live s c tag) ∧
    (∃ (s : State) (k n b l : Nat) (e : BitVec 4), s.hc.locked = false ∧ s.ev.a = 8 ∧ s.ev.b = k ∧ k = 255 ∧ s.ev.c = n ∧ n = 3 ∧ s.ev.flag = true ∧
      s.ev.list = [(b, l, e.toNat)] ∧ b % 64 = 0 ∧ b = 2 ^ 57 - 64 ∧ l = 2 ^ 48 - 1) ∧
    (∀ file ∈ [0, 1, 2], ∀ r ∈ [0, 31], ∃ (s : State) (k v : Nat), s.hc.locked = false ∧ s.ev.a = 13 ∧ s.ev.b = k ∧ k = 3 ∧ s.ev.list = [(file, r, v)]) ∧
    (∃ s : State, s.hc.locked = true) ∧
    (∀ c ∈ capOps, ∀ region < 2, ∃ s y l src, y = capAcc s ∧ l = capTouch y ∧ src = some (65536 + y.k) ∧ s.hc.dying = false ∧ s.hc.locked = false ∧ y.op = c.1 ∧ (Firm y ↔ region = 0) ∧
      CapOk s y.cap.1 y.cap.2 y.op s.ev.c y.o y.n ∧ Free s l src ∧ y.o + y.n = (y.cap.1.extractLsb' 0 48).toNat) ∧
    (∃ s y l src, y = capAcc s ∧ l = capTouch y ∧ src = some (65536 + y.k) ∧ s.hc.dying = false ∧ s.hc.locked = false ∧ CapOk s y.cap.1 y.cap.2 y.op s.ev.c y.o y.n ∧ ¬ Free s l src) ∧
    (∃ s y, y = capAcc s ∧ s.hc.dying = false ∧ s.hc.locked = false ∧ ¬ CapOk s y.cap.1 y.cap.2 y.op s.ev.c y.o y.n ∧ y.o + y.n = (y.cap.1.extractLsb' 0 48).toNat + 1) ∧
    (∃ s y, y = capAcc s ∧ s.hc.dying = false ∧ s.hc.locked = false ∧ Live s y.cap.1 y.cap.2 ∧ Narrows y.cap.1 s.ev.cap) ∧
    (∃ s y, y = capAcc s ∧ s.hc.dying = false ∧ s.hc.locked = false ∧ ¬ Live s y.cap.1 y.cap.2) ∧
    (∃ s y, y = capAcc s ∧ s.hc.dying = false ∧ s.hc.locked = false ∧ Live s y.cap.1 y.cap.2 ∧ ¬ Narrows y.cap.1 s.ev.cap) ∧
    ∃ (s : State) (c : BitVec 128) (tag : Bool), (c.extractLsb' 112 8).toNat = s.ev.a % 256 ∧ Live s c tag := by
  have mine : ∀ b flag x, InProc (turning b flag x) [1, 2] 0 := fun b flag x => ⟨_, List.mem_cons_self, rfl, rfl, 1, 2 ^ 64, rfl, by decide⟩
  have live := fun s => live15 1 s (by decide)
  have off : ∀ c tag o, capAcc (capEv c tag 0 8 1 o) = ⟨0, 2, 7, (c, tag), (BitVec.ofNat 64 o).toNat, 8, winBase c + (BitVec.ofNat 64 o).toNat⟩ := fun _ _ _ => rfl
  refine ⟨fun b => ⟨harbour (lists [1, 2] b) EvArgs.zero, list1 [1, 2] b, _, rfl, rfl, rfl, fun d ⟨_, h, _⟩ => nomatch h⟩,
    ⟨turning false false { Dom.none with preempted := true }, list1 [1, 2] false, _, 0, rfl, rfl, rfl, by decide, rfl⟩,
    ⟨turning false true Dom.none, list1 [1, 2] false, _, rfl, rfl, rfl, rfl, fun h => (h.2 _ List.mem_cons_self ⟨1, 2 ^ 64, rfl, by decide⟩).2 rfl⟩,
    ⟨harbour (lists [1, 2] false) { EvArgs.zero with flag := true }, list1 [1, 2] false, _, rfl, rfl, rfl, rfl, ⟨fun q _ => .inl nofun, nofun⟩⟩,
    ⟨inCopy (turning false false Dom.none), list1 [1, 2] false, _, 0, rfl, rfl, rfl, rfl, mine false false Dom.none, 1, by decide, .inr (.inl ⟨_, _, _, _, rfl⟩)⟩,
    ⟨turning true false Dom.none, list1 [1, 2] true, _, 0, rfl, rfl, rfl, mine true false Dom.none, fun ⟨q, _, h⟩ => by
      rcases h with ⟨_, _, _, _, _, h⟩ | ⟨_, _, _, _, h⟩ | h | ⟨h, _⟩ <;> exact nomatch h⟩,
    ⟨State.reset, rfl⟩, fun rs hr => ⟨joins rs 1 1000000 true, 1, _, rfl, rfl, rfl, by decide, rfl, rfl, (by decide : 1 ≤ 1000000), rfl, ?_, rfl, ?_⟩,
    ⟨joins [list1 [1] false] 1 0 false, 1, list1 [1] false, _, rfl, rfl, rfl, by decide, rfl, rfl, rfl, rfl, rfl, ⟨fun q _ => .inl nofun, nofun⟩,
      capOf 15 1 0 1 64, true, by decide, by decide, live _ rfl⟩,
    ⟨harbour Harbour.reset { EvArgs.zero with a := 8, b := 255, c := 3, flag := true, list := [(2 ^ 57 - 64, 2 ^ 48 - 1, 15)] }, _, _, _, _, 15#4, rfl, rfl, rfl, rfl,
      rfl, rfl, rfl, rfl, by decide, rfl, rfl⟩, fun file _ r _ => ⟨harbour Harbour.reset { EvArgs.zero with a := 13, b := 3, list := [(file, r, 5)] }, _, _, rfl, rfl, rfl, rfl, rfl⟩,
    ⟨harbour { Harbour.reset with locked := true } EvArgs.zero, rfl⟩, fun c hc region hr =>
    ⟨capEv (capOf 15 region 0 1 64) true c.1 c.2 1 (64 - c.2), _, _, _, rfl, rfl, rfl, rfl, rfl, rfl, ?_, ?_, free_open _ rfl rfl _ _, ?_⟩,
    ⟨awaiting (capEv (capOf 15 1 0 1 64) true 0 8 1 56), _, _, _, rfl, rfl, rfl, rfl, rfl, capEv_ok (0, 8) (by decide) 1 (by decide) 1 (by decide), fun h => ?_⟩,
    ⟨capEv (capOf 15 1 0 1 64) true 0 8 1 57, _, rfl, rfl, rfl, fun h => absurd h.2.2.2 (by decide), by decide⟩,
    ⟨{ capEv (capOf 15 1 0 1 64) true 0 8 1 0 with ev := { EvArgs.zero with list := [(2, 5, 7), (6, 0, 0)], cap := capOf 1 1 0 1 63 } }, _, rfl, rfl, rfl, live _ rfl,
      by unfold Narrows; decide⟩,
    ⟨capEv (capOf 15 1 0 1 64) false 0 8 1 0, _, rfl, rfl, rfl, fun ⟨_, _, h, _⟩ => nomatch h⟩,
    ⟨{ capEv (capOf 15 1 0 1 64) true 0 8 1 0 with ev := { EvArgs.zero with list := [(2, 5, 7), (6, 0, 0)], cap := capOf 15 1 0 1 65 } }, _, rfl, rfl, rfl, live _ rfl,
      by unfold Narrows; decide⟩,
    ⟨harbour regioned { EvArgs.zero with a := 1 }, capOf 15 1 0 1 64, true, by decide, live _ rfl⟩⟩
  · revert rs; decide
  · revert rs; decide
  · revert c region; unfold Firm; decide
  · have h := capEv_ok c hc region hr 1 (by decide)
    simp only [capOps, List.mem_cons, List.not_mem_nil, or_false] at hc
    rcases hc with rfl | rfl | rfl | rfl | rfl <;> exact h
  · revert c region; decide
  · rcases h with h | h
    · exact h rfl
    · exact h.2 nofun _ List.mem_cons_self rfl

/-- A fatal error has begun in a machine whose one timetable runs under a record. -/
def dying (x : Dom) : State :=
  { inTime 9 [] task with
    hc := { Harbour.reset with dying := true, halted := true, dump := some ⟨2, 0, 0x16, 0, 0, false, 0, 0, 0⟩ }
    tts := [(1, { TT.none with parts := [0], st := .running, record := some (0, 2 ^ 64) })], doms := [(0, { x with parts := [0], live := true })] }
theorem wit_FatalErrorsHaltAndResetsRestoreTheDevice :
    (∀ b : Bool, ∃ (s : State) (x : EvArgs), s.ev = x ∧ s.hc.dying = false ∧ s.hc.locked = b) ∧
    (∃ (s : State) (d : Dump), s.hc.dying = true ∧ s.hc.dump = some d ∧ ¬ AllFrozen s) ∧
    (∃ (s : State) (d : Dump), s.hc.dying = true ∧ s.hc.dump = some d ∧ AllFrozen s ∧ s.tts = []) ∧
    (∃ (s : State) (d : Dump) (k : Nat) (x : TT) (q place : Nat), s.hc.dying = true ∧ s.hc.dump = some d ∧ AllFrozen s ∧ s.tts = [(k, x)] ∧ x.after ≠ some k ∧
      x.record = some (q, place) ∧ (∀ id, causeOf (tileOf s id) = 0) ∧ ∀ ch, ∀ b ∈ (chanAt s ch).banks, b.2.expired = false) ∧
    (∃ s : State, (s.halves.map (·.1)).Nodup ∧ (s.tiles.map (·.1)).Nodup ∧ (s.parts.map (·.1)).Nodup ∧ (s.chans.map (·.1)).Nodup ∧ s.halves ≠ [] ∧
      s.tiles ≠ [] ∧ s.parts ≠ [] ∧ s.chans ≠ [] ∧ s.ev.list = []) ∧
    ∃ (s : State) (k : Nat) (img : List Byte), k < 4 ∧ s.hc.stages[k]? = some img ∧
      ∀ j y, 0 < j → j ≤ k → s.hc.stages[j]? = some y → Verifies s j y := by
  refine ⟨fun b => ⟨harbour { Harbour.reset with locked := b } EvArgs.zero, _, rfl, rfl, rfl⟩,
    ⟨dying Dom.none, _, rfl, rfl, fun h => nomatch (h 0 (by decide)).1⟩, ⟨{ dying { Dom.none with frozen := true } with tts := [] }, _, rfl, rfl, fun d h => ?_, rfl⟩,
    ⟨dying { Dom.none with frozen := true }, _, _, _, _, _, rfl, rfl, fun d h => ?_, rfl, nofun, rfl, fun id => ?_, nofun⟩,
    ⟨{ on0 task with halves := [(0, Half.reset)], parts := [(0, Partn.reset)], chans := [(0, Chan.idle)] }, by decide, by decide, by decide, by decide, nofun, nofun, nofun,
      nofun, rfl⟩,
    ⟨harbour { Harbour.reset with stages := [[1]] } EvArgs.zero, 0, _, by decide, rfl, fun j _ h h0 => by omega⟩⟩
  · rw [List.mem_singleton.1 h]
    exact ⟨rfl, .inl nofun⟩
  · rw [List.mem_singleton.1 h]
    exact ⟨rfl, .inl (fun y hy _ => by rw [List.mem_singleton.1 hy]; decide)⟩
  · simp only [tileOf, dying, inTime, on0, tabGet]
    split <;> rfl

theorem wit_TheSideBandAnswersAndKeysAreGuarded :
    (∃ p k, p < 24 ∧ k < 2 ∧ p = 23 ∧ k = 1) ∧ (∃ s : State, s.hc.locked = false ∧ s.hc.dump = none) ∧
    (∃ (s : State) (d : Dump), s.hc.locked = false ∧ s.hc.dump = some d ∧ d.len = 0) ∧
    (∀ n ∈ [0, 1, 1024, 1025], ∃ (s : State) (d : Dump), s.hc.locked = false ∧ s.hc.dump = some d ∧ d.len ≠ 0 ∧ s.ev.b = n) ∧
    (∀ b : Bool, ∃ (s : State) (d : Dump) (l : List Touch), s.hc.locked = false ∧ s.hc.dump = some d ∧ d.len ≠ 0 ∧ s.ev.b = 1 ∧
      l = [⟨dumpAt + s.ev.a, min s.ev.b (d.len - s.ev.a), false⟩] ∧ (Free s l none ↔ b = true)) ∧
    (∃ s : State, s.hc.locked = false ∧ s.ev.bytes.length = 32) ∧ (∃ s : State, s.hc.locked = true) ∧
    (∀ b c, Config.chainOk b c = true → ∃ (s : State) (p k : Nat), s.hc.locked = false ∧ s.ev.a = p ∧ s.ev.b = k ∧ p = 23 ∧ k = 7 ∧
      Config.chainOk s.ev.bytes s.ev.bytes2 = true) ∧
    (∀ b c, Config.falconVerify [] b c = true → ∃ (s : State) (p k : Nat), s.hc.locked = false ∧ s.ev.a = p ∧ s.ev.b = k ∧ p = 23 ∧ k = 7 ∧
      ∃ x ∈ (partAt s p).keys, Config.falconVerify x.2 s.ev.bytes s.ev.bytes2 = true) ∧
    (∀ b c, Config.chainOk b c = false → ∃ (s : State) (p k : Nat), s.hc.locked = false ∧ s.ev.a = p ∧ s.ev.b = k ∧ p = 23 ∧ k = 7 ∧
      Config.chainOk s.ev.bytes s.ev.bytes2 = false ∧ ∀ x ∈ (partAt s p).keys, Config.falconVerify x.2 s.ev.bytes s.ev.bytes2 = false) ∧
    (∃ s : State, s.hc.locked = false ∧ s.ev.a = 24) ∧ ∃ s : State, s.hc.locked = false ∧ s.ev.b = 8 := by
  have h := fun n len => (⟨harbour { Harbour.reset with dump := some ⟨2, 0, 0x16, 0, 0, false, 0, 0, len⟩ } { EvArgs.zero with b := n }, _, rfl, rfl, rfl, rfl⟩ :
    ∃ (s : State) (d : Dump), s.hc.locked = false ∧ s.hc.dump = some d ∧ d.len = len ∧ s.ev.b = n)
  have hd : ∃ s : State, ∃ d l, s.hc.locked = false ∧ s.hc.dump = some d ∧ d.len ≠ 0 ∧ s.ev.b = 1 ∧
      l = [⟨dumpAt + s.ev.a, min s.ev.b (d.len - s.ev.a), false⟩] ∧ ¬ Free s l none := by
    refine ⟨{ harbour { Harbour.reset with dump := some ⟨2, 0, 0x16, 0, 0, false, 0, 0, 5⟩ } { EvArgs.zero with b := 1 } with
      chans := [(chanOf dumpAt, { Chan.idle with comp := some 5 })] }, _, _, rfl, rfl, by decide, rfl, rfl, ?_⟩
    rintro (h | h)
    · exact h rfl
    · have e : 64 * (dumpAt / 64) = dumpAt := by norm_num [dumpAt]
      have h2 := (h.1 (dumpAt / 64) (by decide +kernel)).1
      simp [e, lineOpen, chanAt, tabGet] at h2
      exact absurd h2 (by norm_num [dumpAt])
  let key (b c : List Byte) : State := { State.reset with ev := { EvArgs.zero with a := 23, b := 7, bytes := b, bytes2 := c } }
  exact ⟨⟨23, 1, by decide, by decide, rfl, rfl⟩, ⟨State.reset, rfl, rfl⟩, let ⟨s, d, a, b, c, _⟩ := h 0 0; ⟨s, d, a, b, c⟩,
    fun n _ => let ⟨s, d, a, b, c, e⟩ := h n 5; ⟨s, d, a, b, by rw [c]; decide, e⟩, fun b => match b with
      | true => let ⟨s, d, a, b, c, e⟩ : ∃ (s : State) (d : Dump), s.hc.locked = false ∧ s.hc.dump = some d ∧ d.len = 5 ∧ s.ev.b = 1 ∧ s.chans = [] ∧ s.waiting = [] :=
          ⟨harbour { Harbour.reset with dump := some ⟨2, 0, 0x16, 0, 0, false, 0, 0, 5⟩ } { EvArgs.zero with b := 1 }, _, rfl, rfl, rfl, rfl, rfl, rfl⟩
        ⟨s, d, _, a, b, by rw [c]; decide, e.1, rfl, by simp [free_open s e.2.1 e.2.2]⟩
      | false => let ⟨s, d, l, a, b, c, e, f, g⟩ := hd
        ⟨s, d, l, a, b, c, e, f, by simp [g]⟩, ⟨harbour Harbour.reset { EvArgs.zero with bytes := List.replicate 32 7 }, rfl, rfl⟩,
    ⟨harbour { Harbour.reset with locked := true } EvArgs.zero, rfl⟩, fun b c h => ⟨key b c, _, _, rfl, rfl, rfl, rfl, rfl, h⟩, fun b c h =>
    ⟨{ key b c with parts := [(23, { Partn.reset with keys := [(0, [])] })] }, _, _, rfl, rfl, rfl, rfl, rfl, (0, []), List.mem_cons_self, h⟩, fun b c h =>
    ⟨key b c, _, _, rfl, rfl, rfl, rfl, rfl, h, nofun⟩, ⟨evt 24 0 0 State.reset, rfl, rfl⟩, ⟨evt 0 8 0 State.reset, rfl, rfl⟩⟩

/-- An interface of shaft 0 with those lanes; tile 0 of timetable 1 has the cause given. -/
def laned (l : List Nat) (lane : Nat) (cause : Word) : State :=
  evt 0 0 lane { inTime 9 [] { task with tt := 1, tcause := cause } with
    tts := [(1, { TT.none with parts := [0], st := .running })], vreps := [(0, ⟨false, l⟩)] }
/-- The CXL window maps 128 bytes of anchorage memory from offset 64 on; an access of n bytes at an offset. -/
def cxlEv (o n : Nat) (wr : Bool) : State :=
  harbour { Harbour.reset with window := [(64, 0, 128)] } { EvArgs.zero with a := o, b := n, flag := wr, bytes := if wr then List.replicate n 7 else [] }
/-- A flit of source 1 whose writes or loads are those. -/
def flit (c : Nat) (l : List (Nat × Nat × Nat)) : State := harbour Harbour.reset { EvArgs.zero with b := 1, c := c, flag := true, list := l }
/-- A read of a register of BAR0 by its offset. -/
def barRead (o : Nat) : State := harbour Harbour.reset { EvArgs.zero with a := o, c := 2 }
theorem shut0 (s : State) (l : List Touch) (src : Option Nat) (n : Nat) (wr : Bool) (hg : s.ev.go = none) (hn : 0 < n) (h : ⟨0, n, wr⟩ ∈ l) : ¬ Free (compiled0 s) l src := by
  rintro (h1 | h1)
  · exact h1 hg
  · have hm : 0 ∈ linesOf 0 n := by
      rw [linesOf, if_neg (by omega)]
      exact List.mem_map.2 ⟨0, List.mem_range.2 (by omega), rfl⟩
    have h2 := (h1.1 0 (List.mem_flatMap.2 ⟨_, h, hm⟩)).1
    simp [lineOpen, compiled0, chanAt, tabGet] at h2
theorem wit_LanesAndLinksFailAndRecover :
    (∃ (s : State) (p : Nat × List Nat), s.ev.flag = true ∧ p ∈ s.fused ∧ 9856 ∈ p.2) ∧
    (∀ n ∈ [9856, 16382], ∃ (s : State) (sh i lane : Nat) (v : Vrep), s.ev.a = sh ∧ s.ev.b = i ∧ i < 4 ∧ s.ev.c = lane ∧ v = vrepAt s (4 * sh + i) ∧ s.ev.flag = false ∧ lane = n) ∧
    (∃ (s : State) (sh i lane : Nat) (v : Vrep) (n : Nat), s.ev.a = sh ∧ s.ev.b = i ∧ i < 4 ∧ s.ev.c = lane ∧ v = vrepAt s (4 * sh + i) ∧ s.ev.flag = false ∧ lane = 9855 ∧
      n < v.lanes.length ∧ v.lanes.getD n 0 = 0x3FFF ∧ (∀ m < n, v.lanes.getD m 0 ≠ 0x3FFF) ∧ (∀ x ∈ v.lanes, ¬ NoLane x) ∧
      ∀ d ∈ s.doms.map (·.1), ∀ id ∈ domTiles s d, causeOf (tileOf s id) ≠ 0x14) ∧
    (∃ (s : State) (sh i lane : Nat) (v : Vrep) (n d : Nat) (x : Dom), s.ev.a = sh ∧ s.ev.b = i ∧ i < 4 ∧ s.ev.c = lane ∧ v = vrepAt s (4 * sh + i) ∧ s.ev.flag = false ∧
      lane < 9856 ∧ n < v.lanes.length ∧ v.lanes.getD n 0 = 0x3FFF ∧ (∀ m < n, v.lanes.getD m 0 ≠ 0x3FFF) ∧ (∀ x ∈ v.lanes, ¬ NoLane x) ∧ s.doms = [(d, x)] ∧
      ∃ id ∈ domTiles s d, ∃ j ∈ metShafts id (tileOf s id), shaftKey s j.1 = sh) ∧
    (∃ (s : State) (sh i lane : Nat) (v : Vrep) (n : Nat), s.ev.a = sh ∧ s.ev.b = i ∧ i < 4 ∧ s.ev.c = lane ∧ v = vrepAt s (4 * sh + i) ∧ s.ev.flag = false ∧ lane = 9855 ∧
      n < v.lanes.length ∧ v.lanes.getD n 0 = 0x3FFF ∧ (∀ m < n, v.lanes.getD m 0 ≠ 0x3FFF) ∧ ∃ x ∈ v.lanes, NoLane x) ∧
    (∃ (s : State) (sh i lane : Nat) (v : Vrep), s.ev.a = sh ∧ s.ev.b = i ∧ i < 4 ∧ s.ev.c = lane ∧ v = vrepAt s (4 * sh + i) ∧ s.ev.flag = false ∧ lane = 9855 ∧
      ∀ x ∈ v.lanes, x ≠ 0x3FFF) ∧
    (∀ p, 768 ≤ chanOf p → chanOf p < 816 → p % 64 = 0 → inDump p 64 = false → ∃ (s : State) (l : List (Nat × Nat × Nat)), s.hc.locked = false ∧ s.ev.a = 11 ∧ l = s.ev.list ∧
      (l.map (·.2.2)).sum ≤ 1528 * 2 ^ 30 ∧ l ≠ [] ∧ ∀ e ∈ l, inDump e.2.1 e.2.2 = false ∧ ∀ k ∈ linesOf e.2.1 e.2.2, 768 ≤ chanOf (64 * k) ∧ chanOf (64 * k) < 816) ∧
    (∃ (s : State) (l : List (Nat × Nat × Nat)), s.hc.locked = false ∧ s.ev.a = 11 ∧ l = s.ev.list ∧ 1528 * 2 ^ 30 < (l.map (·.2.2)).sum) ∧
    (∃ (s : State) (l : List (Nat × Nat × Nat)), s.hc.locked = false ∧ s.ev.a = 11 ∧ l = s.ev.list ∧ ∃ e ∈ l, inDump e.2.1 e.2.2 = true) ∧
    (∃ s a n, s.ev.a = a ∧ s.ev.c = 0 ∧ s.hc.locked = false ∧ n = (if s.ev.flag then s.ev.bytes.length else s.ev.b) ∧ windowRun s a n = none) ∧
    (∀ wr : Bool, ∃ s a n p l, s.ev.a = a ∧ s.ev.c = 0 ∧ s.hc.locked = false ∧ n = (if s.ev.flag then s.ev.bytes.length else s.ev.b) ∧ windowRun s a n = some p ∧
      l = [⟨p, n, s.ev.flag⟩] ∧ s.ev.flag = wr ∧ Free s l none) ∧
    (∃ s a n p l, s.ev.a = a ∧ s.ev.c = 0 ∧ s.hc.locked = false ∧ n = (if s.ev.flag then s.ev.bytes.length else s.ev.b) ∧ windowRun s a n = some p ∧
      l = [⟨p, n, s.ev.flag⟩] ∧ ¬ Free s l none) ∧
    (∃ (s : State) (e : Nat × Nat × Nat) (o n : Nat), s.hc.window = [e] ∧ 1 ≤ n ∧ e.1 = o ∧ o + n = e.1 + e.2.2) ∧
    (∃ (s : State) (e : Nat × Nat × Nat) (o n : Nat), s.hc.window = [e] ∧ 1 ≤ n ∧ e.1 = o + 1) ∧
    (∃ (s : State) (e : Nat × Nat × Nat) (o n : Nat), s.hc.window = [e] ∧ 1 ≤ n ∧ e.1 + e.2.2 + 1 = o + n) ∧
    (∀ k ∈ [0x20, 0x28, 0x30], ∃ (s : State) (q : Nat), s.ev.c = 2 ∧ s.hc.locked = false ∧ q = 255 ∧ s.ev.a = 0x10000 + k + 0x1000 * q) ∧
    (∀ k ∈ [0, 8], ∃ (s : State) (p : Nat), s.ev.c = 2 ∧ s.hc.locked = false ∧ p = 23 ∧ s.ev.a = 0x4000 + k + 16 * p) ∧
    (8 ≤ (evt 8 0 0 State.reset).ev.a) ∧ ((evt 7 0 0 State.reset).ev.a < 8) ∧ (∃ s : State, s.hc.locked = true) ∧ (∃ s : State, s.hc.locked = false ∧ s.ev.flag = false) ∧
    (∀ c ∈ [0, 1], ∃ s l, s.hc.locked = false ∧ s.ev.flag = true ∧ (∀ w ∈ s.ev.list, inDump w.1 w.2.2 = false) ∧ l = s.ev.list.map (fun w => ⟨w.1, w.2.2, decide (s.ev.c = 0)⟩) ∧ s.ev.c = c ∧
      Free s l (some s.ev.b) ∧ ∃ r a v n, s.ev.list = r ++ [(a, v, n)] ∧ 0 < n) ∧
    ∃ s l, s.hc.locked = false ∧ s.ev.flag = true ∧ (∀ w ∈ s.ev.list, inDump w.1 w.2.2 = false) ∧ l = s.ev.list.map (fun w => ⟨w.1, w.2.2, decide (s.ev.c = 0)⟩) ∧ ¬ Free s l (some s.ev.b) := by
  refine ⟨⟨{ State.reset with fused := [(0, [9856, 0, 0, 0])], ev := { EvArgs.zero with flag := true } }, _, rfl, List.mem_cons_self, by decide⟩, fun n _ =>
    ⟨laned [] n 0, _, 0, _, _, rfl, rfl, by decide, rfl, rfl, rfl, rfl⟩,
    ⟨laned [5, 0x3FFF] 9855 0, _, _, _, _, 1, rfl, rfl, by decide, rfl, rfl, rfl, rfl, by decide, by decide, by decide, by unfold NoLane; decide, by decide⟩,
    ⟨laned [5, 0x3FFF] 9855 0x14, _, _, _, _, 1, 0, _, rfl, rfl, by decide, rfl, rfl, rfl, by decide, by decide, by decide, by decide, by unfold NoLane; decide, rfl, 0, by decide, (0, 0), by decide, by decide⟩,
    ⟨laned [9856, 0x3FFF] 9855 0, _, _, _, _, 1, rfl, rfl, by decide, rfl, rfl, rfl, rfl, by decide, by decide, by decide, 9856, by decide, by unfold NoLane; decide⟩,
    ⟨laned [5, 6] 9855 0, _, _, _, _, rfl, rfl, by decide, rfl, rfl, rfl, rfl, by decide⟩, fun p h1 h2 h3 h4 =>
    ⟨harbour Harbour.reset { EvArgs.zero with a := 11, list := [(0, p, 64)] }, _, rfl, rfl, rfl, (by decide : 64 ≤ 1528 * 2 ^ 30), nofun, fun e he => ?_⟩,
    ⟨harbour Harbour.reset { EvArgs.zero with a := 11, list := [(0, 0, 1528 * 2 ^ 30 + 1)] }, _, rfl, rfl, rfl, by decide⟩,
    ⟨harbour Harbour.reset { EvArgs.zero with a := 11, list := [(0, dumpAt, 64)] }, _, rfl, rfl, rfl, _, List.mem_cons_self, by decide⟩,
    ⟨cxlEv 63 8 false, _, _, rfl, rfl, rfl, rfl, by decide⟩, fun wr =>
    ⟨cxlEv 64 128 wr, 64, 128, 0, _, rfl, rfl, rfl, ?_, ?_, rfl, rfl, free_open _ rfl rfl _ _⟩,
    ⟨compiled0 (cxlEv 64 8 false), 64, 8, 0, _, rfl, rfl, rfl, rfl, by decide, rfl, shut0 _ _ _ 8 false rfl (by decide) List.mem_cons_self⟩,
    ⟨cxlEv 0 0 false, _, 64, 128, rfl, by decide, rfl, rfl⟩, ⟨cxlEv 0 0 false, _, 63, 1, rfl, by decide, rfl⟩,
    ⟨cxlEv 0 0 false, _, 64, 129, rfl, by decide, rfl⟩, fun k _ =>
    ⟨barRead (0x10000 + k + 0x1000 * 255), 255, rfl, rfl, rfl, rfl⟩, fun k _ => ⟨barRead (0x4000 + k + 16 * 23), 23, rfl, rfl, rfl, rfl⟩, by decide, by decide,
    ⟨harbour { Harbour.reset with locked := true } EvArgs.zero, rfl⟩, ⟨State.reset, rfl, rfl⟩, fun c _ => ⟨flit c [(0, 5, 1)], _, rfl, rfl, ?_, rfl, rfl, free_open _ rfl rfl _ _, [], 0, 5, 1, rfl, by decide⟩,
    ⟨compiled0 (flit 0 [(0, 5, 1)]), _, rfl, rfl, ?_, rfl, shut0 _ _ _ 1 true rfl (by decide) List.mem_cons_self⟩⟩
  · rw [List.mem_singleton.1 he]
    refine ⟨h4, fun k hk => ?_⟩
    have : 64 * k = p := by
      have hk : k ∈ linesOf p 64 := hk
      simp only [linesOf, OfNat.ofNat_ne_zero, if_false, List.mem_map, List.mem_range] at hk
      obtain ⟨j, hj, rfl⟩ := hk
      omega
    rw [this]
    exact ⟨h1, h2⟩
  · cases wr <;> rfl
  · cases wr <;> decide
  · intro w h
    rw [List.mem_singleton.1 h]
    decide
  · intro w h
    rw [List.mem_singleton.1 h]
    decide

/-! ## Ill-formed terms: one for each kind of check -/

def set0 : HSet := ⟨1, 0, 0, 1, 0, 0⟩
def qs0 : QSrc := ⟨false, 0⟩
def sfx0 : Sfx := ⟨.rlx, .none⟩
/-- The words whose term is ADD a0, a0, a0, whose rounding, register number, condition, packet, counter, joint, trap code is none. -/
theorem test_ill_formed_scalar : ([.add 0 0 0, .fcvt 1 2 .reserved .i32f32, .rdsr 1 .reserved, .wrsr .reserved 1, .br ⟨0, true⟩ 0, .br ⟨0, false⟩ 85,
    .bri ⟨0, true⟩ 1, .loop 3 (.lit 1) 0, .loop 0 (.lit 1) 85, .segsel ⟨0, false⟩ 2, .joint 256, .trap ⟨0, false⟩ 65536] : List Instr).all (fun i => !i.wf) = true := by
  decide
/-- Types, pairs, register numbers, patterns and profiles that a vector word does not take. -/
theorem test_ill_formed_vector : ([.vadd 0 qs0 qs0 .um24 0, .vmin 0 qs0 qs0 .e2m1 0, .vabs 0 qs0 .n8 0, .vaddSat 0 qs0 qs0 .f32 0, .viota 0 .f32 0,
    .vand 0 qs0 qs0 .e2m1 0, .vcmpUn 0 qs0 qs0 .i8 0, .vcvt 0 qs0 false .f32 .i16 .rne, .vcvt 0 qs0 false .f32 .i32 .reserved, .vcvt 0 qs0 true .f32 .i32 .rne,
    .vwiden 0 qs0 .i16 .i64, .vwiden 1 qs0 .i16 .i8, .vnarrow 0 ⟨false, 1⟩ false .i8 .i16 .rne, .vmxs 1 qs0 .rne 0, .vmxs 0 ⟨false, 2⟩ .rne 0,
    .vshuf 0 qs0 qs0 .i8 5, .vshuf 0 qs0 ⟨true, 0⟩ .i8 4, .vpackp 0 ⟨true, 0⟩ .i8 0, .vdot 0 qs0 qs0 .f32 .umber, .vdotW 0 qs0 qs0 .f32 .sienna,
    .vdotW 0 ⟨false, 1⟩ qs0 .bf16 .umber] : List Instr).all (fun i => !i.wf) = true := by decide
/-- Suffixes, destinations, counts and sets that a memory or beat word does not take. -/
theorem test_ill_formed_memory_and_beat : ([.gldSigned 0 0 ⟨.rel, .grp⟩ 1 ⟨1, none⟩, .gldSigned 0 0 ⟨.rlx, .reserved⟩ 1 ⟨1, none⟩, .gst 0 0 ⟨.acq, .grp⟩ 1 ⟨1, none⟩,
    .gst 0 0 ⟨.sc, .grp⟩ 1 ⟨1, none⟩, .ggath 0 false sfx0 15 1, .gaadd 0 false ⟨.acq, .none⟩ 1 2 none, .gacas 0 true sfx0 0 2, .gacas 0 true sfx0 63 2,
    .kvlook 0 ⟨.rel, .grp⟩ 1 2, .kvgath 0 sfx0 0 2 (some 5), .kvapp 0 ⟨.acq, .net⟩ 1 2, .kvapp 0 sfx0 15 2, .drain 0 .none, .fence 0 ⟨.sc, .die⟩, .agset 0 61 0,
    .agbind 0 8 0, .agrun 0 0 2, .agrun 0 0 4096, .mpush 0 qs0 0 10 0 set0, .mclr 0 { set0 with lmask := 0 }, .mclr 0 { set0 with hmask := 0 },
    .mclr 0 { set0 with rsv := 1 }, .mclr 0 { set0 with mbase := 127, mcnt := 1 }, .mclr 0 { set0 with row := 1 }, .mmodeC 0 15 1 set0, .mpmask 0 9 set0,
    .macc 0 1 0 15 set0, .macc 0 1 0 0 { set0 with row := 768 }, .mdrain 0 0 5 false 1] : List Instr).all (fun i => !i.wf) = true := by decide
/-- The same terms with a value that the entry takes. -/
theorem test_well_formed : ([.add 0 0 1, .fcvt 1 2 .rna .i32f32, .br ⟨0, false⟩ 84, .loop 2 (.lit 1) 84, .joint 255, .trap ⟨0, false⟩ 65535, .vadd 0 qs0 qs0 .e5m2 0,
    .vmin 0 qs0 qs0 .um24 0, .vcvt 0 qs0 true .e4m3 .i8 .rne, .vwiden 2 qs0 .i16 .i8, .vdotW 0 qs0 ⟨false, 2⟩ .bf16 .umber, .gst 0 0 ⟨.rel, .grp⟩ 1 ⟨1, none⟩,
    .gacas 0 true sfx0 1 2, .kvgath 0 sfx0 0 2 (some 4), .agset 0 60 0, .agrun 0 0 3, .mclr 0 { set0 with mbase := 126, mcnt := 1 },
    .macc 0 1 0 14 { set0 with row := 767 }] : List Instr).all Instr.wf = true := by decide

/-! ## Command words -/

/-- A word for every command row, op in bits 63..56, then d, a, b, X, and the immediate in the low half; the example words of the chapter among
them (R328 to R337). -/
theorem test_command_words : cmdAs
    [(0x0000000000000000, .cnop), (0x0120000000004000, .cli), (0x0120010000000000, .cliLiteral), (0x0221000000000000, .cmov), (0x0333010000000001, .cadd),
     (0x0432100000000000, .csub), (0x0532100000000000, .cand), (0x0632100000000000, .cor), (0x0732100000000000, .cshl), (0x083201000000003F, .cshr),
     (0x1032010000000008, .cld), (0x1102300000000008, .cst), (0x18079200FFFFFFFD, .cb), (0x19010000FFFFFFFF, .cloop), (0x1A01000000000040, .ccall),
     (0x1B00000000000000, .cret), (0x1C748100FFFFFFFF, .cwait), (0x1D01200080000003, .csig), (0x2052300000000000, .cttld), (0x2050320000000000, .cttldUn),
     (0x2154600000000000, .claunchTc), (0x2154640000000000, .claunchRel), (0x21546200000000FF, .claunchJt), (0x2154060000000000, .claunchWd),
     (0x2212300000000000, .ccopy), (0x2312300000000017, .cdemote), (0x2412300000000017, .cpromote), (0x2800000000000000, .cfence), (0x2900000000000000, .chalt)] = true := by
  decide
/-- Words that no entry defines: an unknown op, an unassigned X, a field that must be 0, an immediate out of range. -/
theorem test_command_words_refused : ([0x0900000000000000, 0x2A00000000000000, 0x0333020000000000, 0x0010000000000000, 0x1C74800000000000, 0x18079700FFFFFFFD,
    0x2312300000000020, 0x2154620000000100, 0x0000000100000000, 0x1D01200000001000] : List Word).all (fun w => decodeCmd w = none) = true := by decide

/-! ## Single steps -/

/-- The answer is a next state of which f holds. -/
def answers (o : Host.Outcome State Fault Refusal) (f : State → Bool) : Bool := match o with | .next t => f t | _ => false
/-- What tile 0 has still to land. -/
def landing (s : State) : List (Nat × Act) := (tileOf s 0).cal.map (fun p => (p.due, p.act))
/-- Tile 0 with two registers, in cycle 40 of a timetable launched at 0x10000. -/
def two (x y : Word) : State := inTime 0x10028 [] { task with a := [(4, x), (5, y)] }
/-- 2^64 − 1 plus 2 is 1, one cycle on (R119, R120). -/
theorem test_add_wraps : answers (exec (.add 6 4 5) (two 0xFFFFFFFFFFFFFFFF 2)) (fun t => landing t == [(0x10029, .reg 6 1)]) = true := by decide
/-- The upper half of −1 × 2 is −1 signed, 1 unsigned, three cycles on (R119, R120). -/
theorem test_mulh_is_signed : answers (exec (.mulh 6 4 5) (two 0xFFFFFFFFFFFFFFFF 2)) (fun t => landing t == [(0x1002B, .reg 6 0xFFFFFFFFFFFFFFFF)]) = true := by decide
theorem test_mulhn_is_unsigned : answers (exec (.mulhn 6 4 5) (two 0xFFFFFFFFFFFFFFFF 2)) (fun t => landing t == [(0x1002B, .reg 6 1)]) = true := by decide
/-- A shift takes the low six bits of its count (R120). -/
theorem test_sra_masks_its_count : answers (exec (.sra 6 4 5) (two 0x8000000000000000 65)) (fun t => landing t == [(0x10029, .reg 6 0xC000000000000000)]) = true := by
  decide
/-- a0 takes no write (R94). -/
theorem test_a0_takes_nothing : answers (exec (.add 0 4 5) (two 1 2)) (fun t => rdReg (tileOf t 0) 0 == 0) = true := by decide
/-- The chapter's example: FCVT.i32.f32.rdn of −2.75 is −3 (R125). -/
theorem test_fcvt_rounds_down : answers (exec (.fcvt 4 5 .rdn .i32f32) (two 0 0xC0300000))
    (fun t => (landing t).any (fun p => p.2 == .reg 4 0xFFFFFFFFFFFFFFFD)) = true := by decide +kernel
/-- The chapter's example: T0 = 0x10000 and TC = 0x10028 give CYC 40 (R129). -/
theorem test_cyc_counts_from_t0 : answers (exec (.cyc 4) { two 0 0 with tts := [(0, { TT.none with parts := [0], st := .running, t0 := 0x10000 })] })
    (fun t => (landing t).any (fun p => p.2 == .reg 4 40)) = true := by decide
/-- PTID is privileged: the tile records cause 2 and lands nothing (R48, R203). -/
theorem test_ptid_traps : answers (exec (.ptid 4) (two 0 0)) (fun t => causeOf (tileOf t 0) == 2 && landing t == []) = true := by decide
/-- Bytes lie in little-endian order, and a byte that reads 0 is not listed (R3). -/
theorem test_memory_is_little_endian : storeLE (storeLE [] 8 0x1234 2) 9 0 1 = [(8, 0x34)] := by decide
/-- CSHR shifts by the low six bits of its immediate, and the slot goes on (R327, R329). -/
theorem test_cshr : answers (exec .cshr (inQueue { queue1 0x083201000000003F 0 0x8000000000000000 0 with line := some [0x30000, 0, 0, 0, 0, 0, 0, 0] }))
    (fun t => tabGet 0 (queueAt t 0).c 3 == 1 && (queueAt t 0).at_ == .slot 1) = true := by decide +kernel
/-- A tail past HEAD + N is ignored and remembered as an error (R326). -/
theorem test_qtail_past_its_ring : answers (exec .qtailWrite { inQueue { Queue.off with nslot := 4, head := 2, tail := 3 } with ev := { EvArgs.zero with v := 7 } })
    (fun t => (queueAt t 0).tail == 3 && (queueAt t 0).bad08) = true := by decide
/-- A tick that no timetable needs raises TC by one (R16). -/
theorem test_tc_ticks : answers (exec .tcTick { State.reset with doms := [(0, { Dom.none with tc := 41, live := true })] }) (fun t => (domAt t 0).tc == 42) = true := by
  decide

/-! ## Words of every tile instruction -/

theorem test_words_major_00a : readAs
    [((1, 0x00000000, 0), .nop),
     ((1, 0x00B41500, 0), .add 11 16 21),
     ((1, 0x0125DC01, 0), .sub 18 23 28),
     ((1, 0x0197A302, 0), .mul 25 30 35),
     ((1, 0x02096A03, 0), .mulh 32 37 42),
     ((1, 0x027B3104, 0), .mulhn 39 44 49),
     ((1, 0x02ECF805, 0), .and 46 51 56),
     ((1, 0x035EBF06, 0), .or 53 58 63),
     ((1, 0x03C08707, 0), .xor 60 2 7),
     ((1, 0x00424E08, 0), .andn 4 9 14),
     ((1, 0x00B41509, 0), .shl 11 16 21),
     ((1, 0x0125DC0A, 0), .shr 18 23 28)] = true := by decide

theorem test_words_major_00b : readAs
    [((1, 0x0197A30B, 0), .sra 25 30 35),
     ((1, 0x02096A0C, 0), .rotl 32 37 42),
     ((1, 0x027B310D, 0), .min 39 44 49),
     ((1, 0x02ECF80E, 0), .max 46 51 56),
     ((1, 0x035EBF0F, 0), .minn 53 58 63),
     ((1, 0x03C08710, 0), .maxn 60 2 7),
     ((1, 0x00424E11, 0), .sel 4 9 14),
     ((1, 0x00B41512, 0), .adda 11 16 21),
     ((1, 0x0125C013, 0), .clz 18 23),
     ((1, 0x01978014, 0), .popc 25 30),
     ((1, 0x00D96A15, 0), .pcmpEq 13 37 42),
     ((1, 0x004B3116, 0), .pcmpNe 4 44 49)] = true := by decide

theorem test_words_major_00c : readAs
    [((1, 0x00BCF817, 0), .pcmpLt 11 51 56),
     ((1, 0x002EBF18, 0), .pcmpGe 2 58 63),
     ((1, 0x00908719, 0), .pcmpLtn 9 2 7),
     ((1, 0x00024E1A, 0), .pcmpGen 0 9 14)] = true := by decide

theorem test_words_major_03a : readAs
    [((1, 0x0CB40000, 0x80c0ffee), .addSl 11 16 (.lit 0x80c0ffee)),
     ((1, 0x0D25E1D8, 0), .subSl 18 23 (.kb 216)),
     ((1, 0x0D978200, 0x80c0ffee), .mulSl 25 30 (.lit 0x80c0ffee)),
     ((1, 0x0E0963E6, 0), .mulhSl 32 37 (.kb 230)),
     ((1, 0x0E7B0400, 0x80c0ffee), .mulhnSl 39 44 (.lit 0x80c0ffee)),
     ((1, 0x0EECE5F4, 0), .andSl 46 51 (.kb 244)),
     ((1, 0x0F5E8600, 0x80c0ffee), .orSl 53 58 (.lit 0x80c0ffee)),
     ((1, 0x0FC0A702, 0), .xorSl 60 2 (.kb 2)),
     ((1, 0x0C424800, 0x80c0ffee), .andnSl 4 9 (.lit 0x80c0ffee)),
     ((1, 0x0CB42910, 0), .shlSl 11 16 (.kb 16)),
     ((1, 0x0D25CA00, 0x80c0ffee), .shrSl 18 23 (.lit 0x80c0ffee)),
     ((1, 0x0D97AB1E, 0), .sraSl 25 30 (.kb 30))] = true := by decide

theorem test_words_major_03b : readAs
    [((1, 0x0E094C00, 0x80c0ffee), .rotlSl 32 37 (.lit 0x80c0ffee)),
     ((1, 0x0E7B2D2C, 0), .minSl 39 44 (.kb 44)),
     ((1, 0x0EECCE00, 0x80c0ffee), .maxSl 46 51 (.lit 0x80c0ffee)),
     ((1, 0x0F5EAF3A, 0), .minnSl 53 58 (.kb 58)),
     ((1, 0x0FC09000, 0x80c0ffee), .maxnSl 60 2 (.lit 0x80c0ffee)),
     ((1, 0x0C427148, 0), .selSl 4 9 (.kb 72)),
     ((1, 0x0CB41200, 0x80c0ffee), .addaSl 11 16 (.lit 0x80c0ffee)),
     ((1, 0x0CC5F556, 0), .pcmpEqSl 12 23 (.kb 86)),
     ((1, 0x0C379600, 0x80c0ffee), .pcmpNeSl 3 30 (.lit 0x80c0ffee)),
     ((1, 0x0CA97764, 0), .pcmpLtSl 10 37 (.kb 100)),
     ((1, 0x0C1B1800, 0x80c0ffee), .pcmpGeSl 1 44 (.lit 0x80c0ffee)),
     ((1, 0x0C8CF972, 0), .pcmpLtnSl 8 51 (.kb 114))] = true := by decide

theorem test_words_major_03c : readAs
    [((1, 0x0CFE9A00, 0x80c0ffee), .pcmpGenSl 15 58 (.lit 0x80c0ffee)),
     ((1, 0x0FC01F00, 0x80c0ffee), .movl 60 0x80c0ffee),
     ((1, 0x0C403F82, 0), .movk 4 130)] = true := by decide

theorem test_words_major_01 : readAs
    [((1, 0x04B03EB9, 0), .addi 11 16057),
     ((1, 0x0521246A, 0), .shli 18 9322),
     ((1, 0x05920A1B, 0), .shri 25 2587),
     ((1, 0x06032FCC, 0), .srai 32 12236),
     ((1, 0x0674157D, 0), .movi 39 5501)] = true := by decide

theorem test_words_major_02 : readAs
    [((1, 0x0AE17B2E, 0), .movf 46 97070)] = true := by decide

theorem test_words_major_04a : readAs
    [((1, 0x135EBF00, 0), .fadd 53 58 63),
     ((1, 0x13C08701, 0), .fsub 60 2 7),
     ((1, 0x10424E02, 0), .fmul 4 9 14),
     ((1, 0x10B41503, 0), .ffma 11 16 21),
     ((1, 0x10A5DC04, 0), .fcmpEq 10 23 28),
     ((1, 0x1017A305, 0), .fcmpLt 1 30 35),
     ((1, 0x10896A06, 0), .fcmpLe 8 37 42),
     ((1, 0x10FB3107, 0), .fcmpUn 15 44 49),
     ((1, 0x12ECCF08, 0), .fcvt 46 51 .rtz .f32bf16),
     ((1, 0x10D08710, 0), .plogAnd 13 2 7),
     ((1, 0x10424E11, 0), .plogOr 4 9 14),
     ((1, 0x10B00512, 0), .plogXor 11 0 5)] = true := by decide

theorem test_words_major_04b : readAs
    [((1, 0x1021CC13, 0), .plogAndn 2 7 12),
     ((1, 0x1095C014, 0), .pset 9 23),
     ((1, 0x11478A18, 0), .tidx 20 30 10),
     ((1, 0x12094119, 0), .tdim 32 37 1),
     ((1, 0x1009EC1A, 0), .kst 39 44),
     ((1, 0x12E00020, 0), .tid 46),
     ((1, 0x13500021, 0), .cyc 53),
     ((1, 0x13C00322, 0), .rdsr 60 .pred),
     ((1, 0x10424023, 0), .wrsr .lc0 9)] = true := by decide

theorem test_words_major_1E : readAs
    [((1, 0x78B00000, 0), .ptid 11),
     ((1, 0x79200100, 0), .rdwc 18),
     ((1, 0x79900200, 0), .rdtc 25)] = true := by decide

theorem test_words_major_08 : readAs
    [((1, 0x203A0008, 0), .br ⟨14, true⟩ 8),
     ((1, 0x2058000F, 0), .brl ⟨6, false⟩ 15),
     ((1, 0x20B6CC00, 0), .bri ⟨13, true⟩ 51),
     ((1, 0x20D40000, 0), .ret ⟨5, false⟩)] = true := by decide

theorem test_words_major_09 : readAs
    [((1, 0x24090029, 0x4d), .loop 2 (.lit 77) 41),
     ((1, 0x25083835, 0), .loopr 3 2 (.reg 14) 53)] = true := by decide

theorem test_words_major_0A : readAs
    [((1, 0x282E0000, 0), .segj ⟨11, true⟩),
     ((1, 0x284C0001, 0), .segsel ⟨3, false⟩ 1)] = true := by decide

theorem test_words_major_0B : readAs
    [((1, 0x2C2B0000, 0x80c0ffee), .tchk ⟨10, true⟩ 0x80c0ffee),
     ((1, 0x2C410000, 0x9), .joint 0x9),
     ((1, 0x2C810000, 0x80c0ffee), .waitcLit 0x80c0ffee),
     ((1, 0x2C80B800, 0), .waitcReg 46),
     ((1, 0x2CE20000, 0), .tend ⟨8, true⟩),
     ((1, 0x2D3D0000, 0x80c0ffee), .trap ⟨15, false⟩ 0x80c0ffee)] = true := by decide

theorem test_words_major_0Ca : readAs
    [((1, 0x321B2880, 0), .vadd 8 ⟨false, 13⟩ ⟨true, 2⟩ .f32 4),
     ((1, 0x33E89861, 0), .vsub 15 ⟨true, 4⟩ ⟨false, 9⟩ .f32 3),
     ((1, 0x31970842, 0), .vmul 6 ⟨false, 11⟩ ⟨true, 0⟩ .f32 2),
     ((1, 0x33647823, 0), .vfma 13 ⟨true, 2⟩ ⟨false, 7⟩ .f32 1),
     ((1, 0x3113E804, 0), .vfms 4 ⟨false, 9⟩ ⟨true, 14⟩ .f32 0),
     ((1, 0x32E050E5, 0), .vmin 11 ⟨true, 0⟩ ⟨false, 5⟩ .i8 7),
     ((1, 0x308FCEC6, 0), .vmax 2 ⟨false, 7⟩ ⟨true, 12⟩ .um24 6),
     ((1, 0x327C0807, 0), .vabs 9 ⟨true, 14⟩ .f32 0),
     ((1, 0x300A08E8, 0), .vneg 0 ⟨false, 5⟩ .f32 7),
     ((1, 0x31F81169, 0), .vaddSat 7 ⟨true, 12⟩ ⟨false, 1⟩ .i16 3),
     ((1, 0x3387814A, 0), .vsubSat 14 ⟨false, 3⟩ ⟨true, 8⟩ .i16 2),
     ((1, 0x3174F12B, 0), .vmulSat 5 ⟨true, 10⟩ ⟨false, 15⟩ .i16 1)] = true := by decide

theorem test_words_major_0Cb : readAs
    [((1, 0x3303610C, 0), .vfmaSat 12 ⟨false, 1⟩ ⟨true, 6⟩ .i16 0),
     ((1, 0x30F0D1ED, 0), .vfmsSat 3 ⟨true, 8⟩ ⟨false, 13⟩ .i16 7)] = true := by decide

theorem test_words_major_0D : readAs
    [((1, 0x368908D5, 0), .vaddVi 10 .n8 4 2261),
     ((1, 0x3462EE86, 0), .vbcastVi 1 .i16 3 11910)] = true := by decide

theorem test_words_major_0E : readAs
    [((1, 0x3A031436, 0), .vaddVf 8 false 201782),
     ((1, 0x3BF5B9E7, 0), .vbcastVf 15 true 375271)] = true := by decide

theorem test_words_major_0F : readAs
    [((1, 0x3D974084, 0), .vfmaVl 6 ⟨false, 11⟩ (.kb 64) .f32 2),
     ((1, 0x3F640083, 0x80c0ffee), .vaddVl 13 ⟨true, 2⟩ (.lit 0x80c0ffee) .f32 1)] = true := by decide

theorem test_words_major_10a : readAs
    [((1, 0x4113E100, 0), .vand 4 ⟨false, 9⟩ ⟨true, 14⟩ .i16 0),
     ((1, 0x42E055E1, 0), .vor 11 ⟨true, 0⟩ ⟨false, 5⟩ .n16 7),
     ((1, 0x408FC2C2, 0), .vxor 2 ⟨false, 7⟩ ⟨true, 12⟩ .i32 6),
     ((1, 0x427C0303, 0), .vnot 9 ⟨true, 14⟩ .i64 0),
     ((1, 0x400BA484, 0), .vshl 0 ⟨false, 5⟩ ⟨true, 10⟩ .n8 4),
     ((1, 0x41F81165, 0), .vshr 7 ⟨true, 12⟩ ⟨false, 1⟩ .i16 3),
     ((1, 0x43878546, 0), .vsra 14 ⟨false, 3⟩ ⟨true, 8⟩ .n16 2),
     ((1, 0x41740287, 0), .vpopc 5 ⟨true, 10⟩ .i32 4),
     ((1, 0x41036808, 0), .vcmpEq 4 ⟨false, 1⟩ ⟨true, 6⟩ .f32 0),
     ((1, 0x40F0D8E9, 0), .vcmpNe 3 ⟨true, 8⟩ ⟨false, 13⟩ .f32 7),
     ((1, 0x409F48CA, 0), .vcmpLt 2 ⟨false, 15⟩ ⟨true, 4⟩ .f32 6),
     ((1, 0x406CB8AB, 0), .vcmpLe 1 ⟨true, 6⟩ ⟨false, 11⟩ .f32 5)] = true := by decide

theorem test_words_major_10b : readAs
    [((1, 0x401B298C, 0), .vcmpUn 0 ⟨false, 13⟩ ⟨true, 2⟩ .bf16 4),
     ((1, 0x41C81010, 0), .vmlogAnd 7 4 1),
     ((1, 0x41860011, 0), .vmlogOr 6 3 0),
     ((1, 0x41447012, 0), .vmlogXor 5 2 7),
     ((1, 0x41026013, 0), .vmlogAndn 4 1 6),
     ((1, 0x42E052F4, 0), .vsel 11 ⟨true, 0⟩ ⟨false, 5⟩ .i32 7)] = true := by decide

theorem test_words_major_12a : readAs
    [((1, 0x488F9840, 0), .vcvt 2 ⟨false, 7⟩ true .bf16 .f32 .rdn),
     ((1, 0x4A7C2001, 0), .vwiden 9 ⟨true, 14⟩ .i32 .i8),
     ((1, 0x480BA882, 0), .vnarrow 0 ⟨false, 5⟩ true .f16 .f32 .rna),
     ((1, 0x49F8A803, 0), .vmxs 7 ⟨true, 12⟩ .rdn 2),
     ((1, 0x4B878544, 0), .vperm 14 ⟨false, 3⟩ ⟨true, 8⟩ .n16 2),
     ((1, 0x4974F265, 0), .vshuf 5 ⟨true, 10⟩ ⟨false, 15⟩ .i32 3),
     ((1, 0x4B026706, 0), .vslideUp 12 ⟨false, 1⟩ 6 .n64 0),
     ((1, 0x48F0D5E7, 0), .vslideDn 3 ⟨true, 8⟩ 13 .n16 7),
     ((1, 0x4A800288, 0), .viota 10 .i32 4),
     ((1, 0x484C0709, 0), .vbcast 1 6 .n64 0),
     ((1, 0x4A1A05EA, 0), .vpackp 8 ⟨false, 13⟩ .n16 7),
     ((1, 0x4BC0020B, 0), .vpackpFl 15 .i32)] = true := by decide

theorem test_words_major_12b : readAs
    [((1, 0x499607AC, 0), .vunpk 6 ⟨false, 11⟩ .n64 5),
     ((1, 0x4B64000D, 0), .vmovq 13 ⟨true, 2⟩),
     ((1, 0x4900000E, 0), .vclr 4),
     ((1, 0x4800000F, 0), .vclrStrm)] = true := by decide

theorem test_words_major_11 : readAs
    [((1, 0x448FC830, 0), .vdot 2 ⟨false, 7⟩ ⟨true, 12⟩ .f32 .sienna),
     ((1, 0x467C3921, 0), .vdotAcc 9 ⟨true, 14⟩ ⟨false, 3⟩ .bf16 .umber),
     ((1, 0x440A2832, 0), .vred 0 ⟨false, 5⟩ 2 .f32 .sienna),
     ((1, 0x45F81923, 0), .vredAcc 7 ⟨true, 12⟩ 1 .bf16 .umber),
     ((1, 0x47860844, 0), .vrcp 14 ⟨false, 3⟩),
     ((1, 0x45740845, 0), .vrsq 5 ⟨true, 10⟩),
     ((1, 0x47020846, 0), .vexp2 12 ⟨false, 1⟩),
     ((1, 0x44F00847, 0), .vlog2 3 ⟨true, 8⟩),
     ((1, 0x469F4848, 0), .vrcpf 10 ⟨false, 15⟩ ⟨true, 4⟩),
     ((1, 0x446CB849, 0), .vrsqf 1 ⟨true, 6⟩ ⟨false, 11⟩),
     ((1, 0x461B292A, 0), .vdotW 8 ⟨false, 13⟩ ⟨true, 2⟩ .bf16 .umber),
     ((1, 0x47E8992B, 0), .vdotWAcc 15 ⟨true, 4⟩ ⟨false, 9⟩ .bf16 .umber)] = true := by decide

theorem test_words_major_14a : readAs
    [((1, 0x530C11D1, 0x80c0ffee), .ldsSigned 6 3 35 ⟨40, some 0x80c0ffee⟩),
     ((1, 0x5298155E, 0), .ldsUnsigned 5 2 42 ⟨47, none⟩),
     ((1, 0x522418ED, 0x80c0ffee), .sts 4 1 49 ⟨54, some 0x80c0ffee⟩),
     ((2, 0x51801C7A, 0), .sldSigned 3 0 56 ⟨61, none⟩),
     ((2, 0x511C1F8B, 0x80c0ffee), .sldUnsigned 2 3 63 ⟨5, some 0x80c0ffee⟩),
     ((2, 0x50A80398, 0), .sst 1 2 7 ⟨12, none⟩),
     ((3, 0x500589B1, 0x80c0ffee), .gldSigned 0 1 ⟨.acq, .pkg⟩ 19 ⟨24, some 0x80c0ffee⟩),
     ((3, 0x53930D3E, 0), .gldUnsigned 7 0 ⟨.sc, .none⟩ 26 ⟨31, none⟩),
     ((3, 0x532E70CD, 0x80c0ffee), .gst 6 3 ⟨.rel, .die⟩ 33 ⟨38, some 0x80c0ffee⟩),
     ((1, 0x52B00546, 0), .ldv 5 10 ⟨35, none⟩),
     ((1, 0x523400D5, 0x80c0ffee), .stv 4 1 ⟨42, some 0x80c0ffee⟩),
     ((3, 0x51B186EC, 0), .gldv 3 ⟨.acq, .pkg⟩ 13 ⟨54, none⟩)] = true := by decide

theorem test_words_major_14b : readAs
    [((3, 0x5136627B, 0x80c0ffee), .gstv 2 ⟨.rel, .die⟩ 4 ⟨61, some 0x80c0ffee⟩)] = true := by decide

theorem test_words_major_15 : readAs
    [((3, 0x54858314, 0), .ggath 1 true ⟨.acq, .pkg⟩ 6 10),
     ((3, 0x54086322, 0), .gscat 0 false ⟨.rlx, .die⟩ 6 17),
     ((3, 0x579709B0, 0), .gaadd 7 true ⟨.sc, .none⟩ 19 24 none),
     ((3, 0x57184D3F, 0x5), .gaor 6 false ⟨.rlx, .grp⟩ 26 31 (some 5)),
     ((3, 0x56A450CC, 0), .gaand 5 true ⟨.rlx, .grp⟩ 33 38 none),
     ((3, 0x5628545B, 0x5), .gamaxI 4 false ⟨.rlx, .grp⟩ 40 45 (some 5)),
     ((3, 0x55B457E8, 0), .gamaxN 3 true ⟨.rlx, .grp⟩ 47 52 none),
     ((3, 0x55385B77, 0x5), .gaminI 2 false ⟨.rlx, .grp⟩ 54 59 (some 5)),
     ((3, 0x54C45E86, 0), .gaminN 1 true ⟨.rlx, .grp⟩ 61 3 none),
     ((3, 0x54484295, 0x5), .gaxch 0 false ⟨.rlx, .grp⟩ 5 10 (some 5)),
     ((3, 0x57D44922, 0), .gacas 7 true ⟨.rlx, .grp⟩ 18 17),
     ((3, 0x57584427, 0x80c0ffee), .gaorv 6 ⟨.rlx, .grp⟩ 8 ⟨19, some 0x80c0ffee⟩)] = true := by decide

theorem test_words_major_16 : readAs
    [((3, 0x5A818AB4, 0), .kvlook 5 ⟨.acq, .pkg⟩ 21 26),
     ((3, 0x5A058343, 0x5), .kvgath 4 ⟨.acq, .pkg⟩ 6 33 (some 5)),
     ((3, 0x598A66D0, 0), .kvapp 3 ⟨.rel, .die⟩ 13 40),
     ((3, 0x590C755E, 0), .kvshr 2 ⟨.rlx, .die⟩ 42 47),
     ((3, 0x58926062, 0), .kvrel 1 ⟨.rel, .die⟩ 49),
     ((3, 0x58159C7A, 0), .kvref 0 ⟨.acq, .pkg⟩ 56 61),
     ((3, 0x5BA00100, 0), .drain 7 .m2),
     ((3, 0x5B26A000, 0), .fence 6 ⟨.rel, .net⟩),
     ((3, 0x5AA8010E, 0), .barw 5 2 7)] = true := by decide

theorem test_words_major_17 : readAs
    [((1, 0x5E00088C, 0), .agset 4 17 6),
     ((1, 0x5D84000A, 0), .agbind 3 0 5),
     ((1, 0x5D08000F, 0x9), .agrun 2 7 0x9),
     ((1, 0x5C8C000C, 0), .agstop 1 6),
     ((1, 0x5C7C0000, 0), .mhole)] = true := by decide

theorem test_words_major_18 : readAs
    [((1, 0x63870B31, 0x20a34000), .mpush 7 ⟨true, 12⟩ 1 6 3 ⟨2, 5, 3, 1, 0, 0⟩),
     ((1, 0x63080001, 0x20a34000), .mclr 6 ⟨2, 5, 3, 1, 0, 0⟩),
     ((1, 0x62948701, 0x20a34000), .mmodeC 5 2 7 ⟨2, 5, 3, 1, 0, 0⟩),
     ((1, 0x62100001, 0x20a34000), .mmodeS 4 ⟨2, 5, 3, 1, 0, 0⟩),
     ((1, 0x619C8001, 0x20a34000), .mpmask 3 9 ⟨2, 5, 3, 1, 0, 0⟩),
     ((1, 0x6127B900, 0), .asrd 2 15 28 2),
     ((1, 0x60ADA340, 0), .aswr 1 ⟨true, 6⟩ 35 1)] = true := by decide

theorem test_words_major_19 : readAs
    [((1, 0x64008001, 0x20a34000), .mshift 0 ⟨2, 5, 3, 1, 0, 0⟩),
     ((1, 0x6788D881, 0x20a36580), .macc 7 44 1 0 ⟨2, 5, 3, 1, 600, 0⟩),
     ((1, 0x6710DC06, 0), .mdrain 6 11 4 false 3)] = true := by decide

theorem test_words_major_1A : readAs
    [((1, 0x6A85C500, 0), .dact 5 true 7 (.reg 5)),
     ((1, 0x6A0B8000, 0), .dpre 4 false 14),
     ((1, 0x69940000, 0), .dprea 3 true),
     ((1, 0x691B023E, 0), .drdM0 2 false 12 1 31),
     ((1, 0x689CD0CC, 0), .drdSh 1 true 3 8 38),
     ((1, 0x681A9F08, 0), .drdQ 0 false 10 15 4),
     ((1, 0x6BA46C68, 0), .dwrM0 7 true 1 22 52),
     ((1, 0x6B223AF6, 0), .dwrSh 6 false 8 29 59),
     ((1, 0x6AA7C912, 0), .dwrQ 5 true 15 4 ⟨false, 9⟩),
     ((1, 0x6A280000, 0), .dref 4 false),
     ((1, 0x69B74000, 0), .drefb 3 true 13),
     ((1, 0x69391910, 0), .dwin 2 false 17988)] = true := by decide

theorem test_words_major_1B : readAs
    [((1, 0x6C84EDA0, 0), .dmrw 1 true 59 26),
     ((1, 0x6C080000, 0), .dzq 0 false)] = true := by decide

theorem test_words_major_1C : readAs
    [((1, 0x73840000, 0), .mtclr 7 true),
     ((1, 0x73090001, 0x4d), .mtld 6 false ⟨true, 0⟩ (.lit 77)),
     ((1, 0x72947D80, 0), .mtst 5 true 7 (.reg 54)),
     ((1, 0x72180E01, 0x4d), .mtupd 4 false 56 (.lit 77)),
     ((1, 0x71A45FC0, 0), .mtadd 3 true 63 (.reg 5)),
     ((1, 0x71287001, 0x4d), .mtsum 2 false 7 (.lit 77)),
     ((1, 0x70B4E620, 0), .mtfind 1 true 14 8 (.reg 24)),
     ((1, 0x70380029, 0x4d), .mtcut 0 false 10 (.lit 77)),
     ((1, 0x73C5C002, 0), .mtroot 7 true 28 true),
     ((1, 0x734A3001, 0x4d), .mtleaf 6 false 35 (.lit 77)),
     ((1, 0x72D6A000, 0), .mthor 5 true 42)] = true := by decide

end Sys2Proof.Tests
end

section
/-! PROOFS. The accesses of a tile at their cycle (O26): the due action that an access event takes, the bytes that a load reads and a
store writes, and the lines of an array that a read corrects. -/

open Sys2Proof Sys2Proof.Machine Sys2Proof.Claims

namespace Sys2Proof.Machine

/-! ## A second write at the same key -/

theorem tabDel_del {α : Type} (t : Tab α) (x : Nat) : tabDel (tabDel t x) x = tabDel t x := by
  simp [tabDel, List.filter_filter]

theorem tabDel_put {α : Type} (t : Tab α) (x : Nat) (v : α) : tabDel (tabPut t x v) x = tabDel t x := by
  induction t with
  | nil => simp [tabPut, tabDel]
  | cons p r ih =>
    obtain ⟨k, w⟩ := p
    simp only [tabDel] at ih
    simp only [tabPut]
    split <;> simp [tabDel, List.filter_cons, ih]

/-- The second of two writes at a key stays. -/
theorem tabSet_set {α : Type} [DecidableEq α] (d : α) (t : Tab α) (x : Nat) (v w : α) :
    tabSet d (tabSet d t x v) x w = tabSet d t x w := by
  have h : tabDel (tabSet d t x v) x = tabDel t x := by
    unfold tabSet
    split
    · exact tabDel_del t x
    · rw [tabDel_put, tabDel_del]
  unfold tabSet at h ⊢
  rw [h]

@[simp] theorem setTile_setTile (s : State) (k : Nat) (x y : Tile) : setTile (setTile s k x) k y = setTile s k y := by
  simp only [setTile, tabSet_set]

/-- A change of a tile that has just been written is a write of the changed tile. -/
@[simp] theorem updTile_setTile (s : State) (k : Nat) (x : Tile) (f : Tile → Tile) : updTile (setTile s k x) k f = setTile s k (f x) := by
  simp [updTile]

/-! ## The action that an access event takes (R69, R70) -/

theorem takeDueFrom_append (c : Nat) (sel : Act → Bool) (l m : List Pend) (p : Pend)
    (hl : ∀ x ∈ l, ¬ (x.due ≤ c ∧ sel x.act = true)) (hp : p.due ≤ c ∧ sel p.act = true) :
    takeDueFrom c sel (l ++ p :: m) = some (p, l ++ m) := by
  induction l with
  | nil => simp [takeDueFrom, hp]
  | cons x l ih =>
    have hx := hl x (by simp)
    simp [takeDueFrom, hx, ih (fun y hy => hl y (by simp [hy]))]

theorem takeDue_of_due {s : State} {id : Nat} {k : Act → Bool} {p : Pend} {r : List Pend} (h : Due s id k p r) :
    takeDue s id k = some (p, without s id r) := by
  obtain ⟨l, m, hc, rfl, hd, hk, hl⟩ := h
  simp only [takeDue, hc, takeDueFrom_append _ _ _ _ _ hl ⟨hd, hk⟩]
  rfl

@[simp] theorem tileOf_without (s : State) (id : Nat) (r : List Pend) :
    tileOf (without s id r) id = { tileOf s id with cal := r } := tileOf_setTile_same s id _

@[simp] theorem halfOf_without (s : State) (id hm : Nat) (r : List Pend) : halfOf (without s id r) hm = halfOf s hm := rfl

@[simp] theorem lanesOk_without (s : State) (id owner layer : Nat) (r : List Pend) :
    lanesOk (without s id r) owner layer = lanesOk s owner layer := rfl

@[simp] theorem eccLines_without (s : State) (id c o a n : Nat) (r : List Pend) :
    eccLines (without s id r) c o a n = eccLines s c o a n := rfl

@[simp] theorem tcAt_without (s : State) (id : Nat) (r : List Pend) : tcAt (without s id r) id = tcAt s id := by
  unfold tcAt domOf
  rw [tileOf_without]
  rfl

/-- What follows from a taken action stands in its tile's calendar. -/
theorem follow_without (s : State) (id due : Nat) (p : Pend) (x : Act) (r : List Pend) :
    follow id p due x (without s id r) = setTile s id { tileOf s id with cal := insertPend { p with due := due, act := x } r } := by
  simp [follow, without, addPend]

theorem followReg_without (s : State) (id due n : Nat) (p : Pend) (v : Word) (r : List Pend) :
    followReg id p due n v (without s id r) =
      if n = 0 then without s id r
      else setTile s id { tileOf s id with cal := insertPend { p with due := due, act := .reg n v } r } := by
  unfold followReg
  rw [follow_without]

/-! ## The bytes of a load (R3, R167) -/

theorem loadLE_eq_bytesAt (m : Memory) (a n : Nat) : loadLE m a n = bytesAt m a n := by
  induction n with
  | zero => rfl
  | succ n ih => simp [loadLE, ih, bytesAt, List.range_succ]

theorem loadLE_lt (m : Memory) (a n : Nat) : loadLE m a n < 256 ^ n := by
  induction n with
  | zero => simp [loadLE]
  | succ n ih =>
    have hb : (byteAt m (a + n)).toNat ≤ 255 := Nat.le_of_lt_succ (byteAt m (a + n)).isLt
    have hm := Nat.mul_le_mul_right (256 ^ n) hb
    rw [loadLE, Nat.pow_succ]
    omega

theorem extend_eq_extended (sg : Bool) (w x : Nat) (hx : x < 256 ^ w) : extend sg w x = extended sg w x := by
  have hp : (256 : Nat) ^ w = 2 ^ (8 * w) := by rw [Nat.pow_mul]
  have hm : x % 2 ^ (8 * w) = x := Nat.mod_eq_of_lt (hp ▸ hx)
  cases sg with
  | false => simp [extend, extended, hm]
  | true =>
    simp only [extend, extended, sgn, hm, true_and, if_true]
    by_cases hs : x < 2 ^ (8 * w - 1)
    · rw [if_pos hs, if_neg (Nat.not_le.2 hs), BitVec.ofInt_natCast]
    · rw [if_neg hs, if_pos (Nat.not_lt.1 hs)]
      push_cast
      rfl

theorem extend_loadLE (sg : Bool) (m : Memory) (a w : Nat) : extend sg w (loadLE m a w) = extended sg w (bytesAt m a w) := by
  rw [extend_eq_extended _ _ _ (loadLE_lt m a w), loadLE_eq_bytesAt]

theorem joinBits_append (k : Nat) (l : List Nat) (x : Nat) :
    joinBits k (l ++ [x]) = joinBits k l + x % 2 ^ k * (2 ^ k) ^ l.length := by
  induction l with
  | nil => simp [joinBits]
  | cons y l ih => simp [joinBits, ih, Nat.pow_succ]; ring

theorem joinBits_loadBytes (m : Memory) (a n : Nat) : joinBits 8 ((loadBytes m a n).map (·.toNat)) = loadLE m a n := by
  induction n with
  | zero => rfl
  | succ n ih =>
    have hb : (byteAt m (a + n)).toNat % 2 ^ 8 = (byteAt m (a + n)).toNat := Nat.mod_eq_of_lt (byteAt m (a + n)).isLt
    have hl : loadBytes m a (n + 1) = loadBytes m a n ++ [byteAt m (a + n)] := by simp [loadBytes, List.range_succ]
    rw [hl, List.map_append, List.map_singleton, joinBits_append, ih, hb, loadLE]
    simp [loadBytes]

theorem ofBytes_loadBytes (m : Memory) (a : Nat) : ofBytes (loadBytes m a 512) = vecAt m a := by
  rw [ofBytes, joinBits_loadBytes, loadLE_eq_bytesAt, vecAt]

/-! ## The bytes of a store (R3, R168) -/

theorem stored_storeLE (m : Memory) (a v n : Nat) : Stored m (storeLE m a v n) a n v := by
  intro b
  by_cases hb : a ≤ b ∧ b < a + n
  · have h := byteAt_storeLE_in m a v n (b - a) (by omega)
    rw [if_pos hb, ← h, Nat.add_sub_cancel' hb.1]
  · rw [if_neg hb, byteAt_storeLE_out _ _ _ _ _ (by omega)]

@[simp] theorem length_vecBytes (v : QVec) : (vecBytes v).length = 512 := by simp [vecBytes]

theorem getElem_vecBytes (v : QVec) (i : Nat) (h : i < (vecBytes v).length) : (vecBytes v)[i] = BitVec.ofNat 8 (v.toNat / 256 ^ i) := by
  have hp : (256 : Nat) ^ i = 2 ^ (8 * i) := by rw [Nat.pow_mul]
  apply BitVec.eq_of_toNat_eq
  simp [vecBytes, BitVec.extractLsb'_toNat, Nat.shiftRight_eq_div_pow, hp]

theorem stored_vecBytes (m : Memory) (a : Nat) (v : QVec) : Stored m (storeBytes m a (vecBytes v)) a 512 v.toNat := by
  intro b
  by_cases hb : a ≤ b ∧ b < a + 512
  · have h := byteAt_storeBytes_in m a (vecBytes v) (b - a) (by simp; omega)
    rw [if_pos hb, ← getElem_vecBytes v (b - a) (by simp; omega), ← h, Nat.add_sub_cancel' hb.1]
  · rw [if_neg hb, byteAt_storeBytes_out _ _ _ _ (by simp; omega)]

/-! ## The codes of an array's lines (R243) -/

theorem bitMarks_eq_wrongBits (s : State) (hm l : Nat) : bitMarks s hm (8 * l) 512 = wrongBits s hm l := rfl

theorem hmBad_of_correctable {s : State} {hm a n : Nat} (h : Correctable s hm a n) : hmBad s hm a n = false := by
  simp only [hmBad, List.any_eq_false, decide_eq_true_eq]
  exact fun l hl => Nat.not_le.2 (h l hl)

/-- A read logs the lines of one wrong bit, as the codes stand in any state with the same errors. -/
theorem hmFix_eq_correctsLines (s s' : State) (hm a n : Nat) (h : s'.ecc = s.ecc) : hmFix hm a n s' = correctsLines s hm a n s' := by
  have hl : (hmLines a n).filter (fun l => decide (bitMarks s' hm (8 * l) 512 = 1)) =
      (touchedLines a n).filter (fun l => decide (wrongBits s hm l = 1)) := by
    simp only [bitMarks_eq_wrongBits, wrongBits, h]
    rfl
  unfold hmFix correctsLines
  rw [hl]
  split
  · next h0 => simp [h0]
  · next l _ => rfl

/-- A write of the array ends exactly the errors that it covers. -/
theorem uncovered_hmHeal (s s' : State) (hm a n : Nat) (h : s'.ecc = s.ecc) : Uncovered s (hmHeal hm a n s') 3 hm (8 * a) (8 * n) := by
  intro x
  simp only [hmHeal, healed, h, List.mem_filter, Bool.not_eq_true', Bool.and_eq_false_iff, decide_eq_false_iff_not, not_and_or, or_assoc]

/-! ## The accesses at their cycle -/

theorem m0Access_moves {s : State} {id : Nat} {p : Pend} {r : List Pend} (hid : s.ev.a = id) (hd : Due s id isM0 p r) :
    (∀ a w sg n, p.act = .m0Load a w sg n → eccLines s 2 id a w = false → exec .m0Access s = .next (
      if n = 0 then without s id r else setTile s id { tileOf s id with
        cal := insertPend { p with due := tcAt s id + 2, act := .reg n (extended sg w (bytesAt (tileOf s id).m0 a w)) } r })) ∧
    (∀ a q, p.act = .m0LoadV a q → eccLines s 2 id a 512 = false → exec .m0Access s = .next (setTile s id { tileOf s id with
        cal := insertPend { p with due := tcAt s id + 2, act := .push q (vecAt (tileOf s id).m0 a) } r })) ∧
    (∀ a w v, p.act = .m0Store a w v → eccLines s 2 id a w = false →
      ∃ m, exec .m0Access s = .next (setTile s id { tileOf s id with cal := r, m0 := m }) ∧ Stored (tileOf s id).m0 m a w v.toNat) ∧
    (∀ a v, p.act = .m0StoreV a v → eccLines s 2 id a 512 = false →
      ∃ m, exec .m0Access s = .next (setTile s id { tileOf s id with cal := r, m0 := m }) ∧ Stored (tileOf s id).m0 m a 512 v.toNat) := by
  subst hid
  have ht := takeDue_of_due hd
  refine ⟨fun a w sg n hp he => ?_, fun a q hp he => ?_, fun a w v hp he => ⟨_, ?_, stored_storeLE _ a v.toNat w⟩,
    fun a v hp he => ⟨_, ?_, stored_vecBytes _ a v⟩⟩
  all_goals
    show execM0Access s = _
    simp only [execM0Access, ht, hp, eccLines_without, he]
  · simp [followReg_without, extend_loadLE]
  · simp [follow_without, ofBytes_loadBytes]
  · simp [without]
  · simp [without]

theorem shaftAccess_moves {s : State} {id : Nat} {p : Pend} {r : List Pend} (hid : s.ev.a = id) (hd : Due s id isSh p r) :
    (∀ hm o w sg n, p.act = .shLoad hm o w sg n → lanesOk s id (hmLayer hm) = true → Correctable s hm o w →
      exec .shaftAccess s = .next (correctsLines s hm o w (if n = 0 then without s id r else setTile s id { tileOf s id with
        cal := insertPend { p with due := tcAt s id + 2, act := .reg n (extended sg w (bytesAt (halfOf s hm).bytes o w)) } r }))) ∧
    (∀ hm o w v, p.act = .shStore hm o w v → lanesOk s id (hmLayer hm) = true → ∃ t m, exec .shaftAccess s = .next t ∧
      t = { setHalf (without s id r) hm { halfOf s hm with bytes := m } with ecc := t.ecc } ∧ Uncovered s t 3 hm (8 * o) (8 * w) ∧
      Stored (halfOf s hm).bytes m o w v.toNat) := by
  subst hid
  have ht := takeDue_of_due hd
  refine ⟨fun hm o w sg n hp hl hc => ?_, fun hm o w v hp hl =>
    ⟨hmHeal hm o w (setHalf (without s s.ev.a r) hm { halfOf s hm with bytes := storeLE (halfOf s hm).bytes o v.toNat w }), _, ?_, rfl,
      uncovered_hmHeal s (setHalf (without s _ r) hm _) hm o w rfl, stored_storeLE _ o v.toNat w⟩⟩
  · have hb : hmBad (without s s.ev.a r) hm o w = false := hmBad_of_correctable (s := s) hc
    show execShaftAccess s = _
    simp only [execShaftAccess, ht, hp, lanesOk_without, hl, hb]
    rw [hmFix_eq_correctsLines s]
    · simp [followReg_without, extend_loadLE]
    · rw [followReg_without]
      split <;> rfl
  · show execShaftAccess s = _
    simp only [execShaftAccess, ht, hp, lanesOk_without, hl]
    rfl

theorem remoteShaftPerform_moves {s : State} {id : Nat} {x : Acc} {p : Part} {f : M1Addr} {hm : Nat} (hid : s.ev.a = id)
    (hx : accOf (tileOf s id) s.ev.b = some x) (hp : x.parts = [p]) (hdone : x.done = false) (hstuck : x.stuck = false)
    (hm1 : x.m1 = true) (hf : f = m1Fields (BitVec.ofNat 64 p.va)) (hhm : hm = m1Half s id f)
    (hdue : remoteDue s id x.issue f.layer = true) (hfree : hmFree s (m1Tile id f) hm = true) (hmode : (halfOf s hm).mode = false)
    (hlanes : lanesOk s (m1Tile id f) f.layer = true) :
    (∀ w sg n, x.op = .load w sg n → Correctable s hm f.ofs w → exec .remoteShaftPerform s = .next (correctsLines s hm f.ofs w
      (setAcc id { x with done := true, result := extended sg w (bytesAt (halfOf s hm).bytes f.ofs w) } s))) ∧
    (x.op = .store → ∃ t m, Stored (halfOf s hm).bytes m f.ofs p.len p.data ∧ exec .remoteShaftPerform s = .next t ∧
      Uncovered s t 3 hm (8 * f.ofs) (8 * p.len) ∧
      t = { setAcc id { x with done := true, result := 0 } (setHalf s hm { halfOf s hm with bytes := m }) with ecc := t.ecc }) := by
  subst hid
  refine ⟨fun w sg n hop hc => ?_, fun hop =>
    ⟨setAcc s.ev.a { x with done := true, result := 0 }
        (hmHeal hm f.ofs p.len (setHalf s hm { halfOf s hm with bytes := storeLE (halfOf s hm).bytes f.ofs p.data p.len })),
      _, stored_storeLE _ f.ofs p.data p.len, ?_, uncovered_hmHeal s (setHalf s hm _) hm f.ofs p.len rfl, rfl⟩⟩
  · show execRemoteShaftPerform s = _
    simp only [execRemoteShaftPerform, hx, hp, hdone, hstuck, hm1, hdue, hfree, hmode, hlanes, hop, ← hf, ← hhm, hmBad_of_correctable hc,
      Bool.or_self, Bool.not_true, Bool.false_eq_true, if_false]
    rw [hmFix_eq_correctsLines s (setAcc _ _ s) _ _ _ rfl, extend_loadLE]
  · show execRemoteShaftPerform s = _
    simp only [execRemoteShaftPerform, hx, hp, hdone, hstuck, hm1, hdue, hfree, hmode, hlanes, hop, ← hf, ← hhm]
    rfl

end Sys2Proof.Machine

/-- Settles O26: the event takes the action that is due (`takeDue_of_due`), and the access moves the bytes of R3. -/
theorem tileMemoryAccessesMoveTheirBytes : Obligations.TileMemoryAccessesMoveTheirBytes := by
  unfold Obligations.TileMemoryAccessesMoveTheirBytes
  exact ⟨fun _ _ _ _ hid hd => m0Access_moves hid hd, fun _ _ _ _ hid hd => shaftAccess_moves hid hd,
    fun _ _ _ _ _ _ hid hx hp hdone hstuck hm1 hf hhm hdue hfree hmode hlanes =>
      remoteShaftPerform_moves hid hx hp hdone hstuck hm1 hf hhm hdue hfree hmode hlanes⟩

theorem Sys2Proof.tilesOk_nil : TilesOk [] := fun _ h => absurd h List.not_mem_nil
theorem Sys2Proof.halvesOk_nil : HalvesOk [] := fun _ h => absurd h List.not_mem_nil

/-- Settles O7: every memory at reset is empty. -/
theorem resetMemoryIsCanonical : Obligations.ResetMemoryIsCanonical := by
  unfold Obligations.ResetMemoryIsCanonical
  exact ⟨rfl, rfl, tilesOk_nil, halvesOk_nil, nofun, fun _ h => absurd h List.not_mem_nil⟩
end

section
/-! PROOFS. The canonical form of every memory, kept by every step (O8): the invariant under the named operations of the state, then
file by file what an instruction, an engine step or an outside event does to the memories. -/

open Sys2Proof Sys2Proof.Machine

namespace Sys2Proof

/-! ## Tables and memories -/

/-- What holds of every entry of a table and of a written value holds of every entry after the write. -/
theorem forall_mem_tabSet {α : Type} [DecidableEq α] {d : α} {t : Tab α} {x : Nat} {v : α} {P : α → Prop}
    (h : ∀ p ∈ t, P p.2) (hv : P v) : ∀ p ∈ tabSet d t x v, P p.2 := by
  intro p hp
  unfold tabSet at hp
  split at hp
  · exact h p (List.mem_of_mem_filter hp)
  · rcases (mem_tabPut _ _ _ _).1 hp with rfl | hp
    · exact hv
    · exact h p (List.mem_of_mem_filter hp)

/-- What holds of every entry of a table and of its default holds of every read. -/
theorem tabGet_of_forall {α : Type} {d : α} {t : Tab α} {P : α → Prop} (h : ∀ p ∈ t, P p.2) (hd : P d) (x : Nat) : P (tabGet d t x) := by
  induction t with
  | nil => exact hd
  | cons p r ih =>
    simp only [tabGet]
    split
    · exact h p (by simp)
    · exact ih (fun q hq => h q (by simp [hq]))

theorem wf_filter {m : Memory} (f : Host.Cell → Bool) (h : m.wf = true) : Memory.wf (m.filter f) = true := by
  induction m with
  | nil => rfl
  | cons p r ih =>
    obtain ⟨h1, h2, h3⟩ := (tabWf_cons emptyByte p.1 p.2 r).1 h
    simp only [List.filter_cons]
    split
    · exact (tabWf_cons emptyByte p.1 p.2 _).2 ⟨h1, fun q hq => h2 q (List.mem_of_mem_filter hq), ih h3⟩
    · exact ih h3

theorem wf_foldl {β : Type} {f : Memory → β → Memory} (l : List β) {m : Memory} (h : m.wf = true)
    (hf : ∀ m x, Memory.wf m = true → Memory.wf (f m x) = true) : Memory.wf (l.foldl f m) = true :=
  List.foldlRecOn l f h fun m hm x _ => hf m x hm

theorem TilesOk.map {l : Tab Tile} (h : TilesOk l) {f : Nat × Tile → Nat × Tile} (hf : ∀ p, (f p).2.m0 = p.2.m0) : TilesOk (l.map f) := by
  intro p hp
  obtain ⟨q, hq, rfl⟩ := List.mem_map.1 hp
  rw [hf]
  exact h q hq
theorem TilesOk.filter {l : Tab Tile} (h : TilesOk l) (f : Nat × Tile → Bool) : TilesOk (l.filter f) :=
  fun p hp => h p (List.mem_of_mem_filter hp)
theorem HalvesOk.filter {l : Tab Half} (h : HalvesOk l) (f : Nat × Half → Bool) : HalvesOk (l.filter f) :=
  fun p hp => h p (List.mem_of_mem_filter hp)

/-! ## The outcome of a step -/

/-- When the outcome is a next state, its memories have their canonical form. -/
def MemOkAfter : Host.Outcome State Fault Refusal → Prop
  | .next t => MemOk t
  | _ => True

theorem MemOkAfter.memOk {o : Host.Outcome State Fault Refusal} {t : State} (h : MemOkAfter o) (ho : o = .next t) : MemOk t := by
  subst ho
  exact h

theorem MemOkAfter.ite {c : Prop} {_ : Decidable c} {a b : Host.Outcome State Fault Refusal} (ha : MemOkAfter a) (hb : MemOkAfter b) :
    MemOkAfter (if c then a else b) := by
  split <;> assumption

theorem recordTrap_m0 (x : Trap) (p : Nat) (b : BRef) (tb : Option BRef) (t : Tile) : (recordTrap x p b tb t).m0 = t.m0 := by
  unfold recordTrap
  split <;> rfl

/-! ## The invariant under the operations of the state -/

namespace MemOk

variable {s : State}

theorem ite {c : Prop} {_ : Decidable c} {a b : State} (ha : MemOk a) (hb : MemOk b) : MemOk (if c then a else b) := by
  split <;> assumption

theorem foldl {α : Type} {f : State → α → State} (h : MemOk s) (l : List α) (hf : ∀ s, MemOk s → ∀ x ∈ l, MemOk (f s x)) :
    MemOk (l.foldl f s) := List.foldlRecOn l f h hf

theorem mem (h : MemOk s) : s.mem.wf = true := h.1
theorem fw (h : MemOk s) : s.hc.fw.wf = true := h.2.1
theorem tiles (h : MemOk s) : TilesOk s.tiles := h.2.2.1
theorem halves (h : MemOk s) : HalvesOk s.halves := h.2.2.2.1
theorem snaps (h : MemOk s) : ∀ n ∈ s.snaps, TilesOk n.tiles ∧ HalvesOk n.shafts := h.2.2.2.2.2

theorem tileOf (h : MemOk s) (id : Nat) : (tileOf s id).m0.wf = true :=
  tabGet_of_forall (P := fun t : Tile => t.m0.wf = true) h.tiles rfl id
theorem halfOf (h : MemOk s) (k : Nat) : (halfOf s k).bytes.wf = true :=
  tabGet_of_forall (P := fun x : Half => x.bytes.wf = true) h.halves rfl k

theorem withMem (h : MemOk s) {m : Memory} (hm : m.wf = true) : MemOk { s with mem := m } := by
  obtain ⟨_, hf, ht, hh, hc, hs⟩ := h
  exact ⟨hm, hf, ht, hh, hc, hs⟩
theorem storeLE (h : MemOk s) {a v n : Nat} : MemOk { s with mem := storeLE s.mem a v n } := h.withMem (wf_storeLE _ _ _ _ h.mem)
theorem storeBytes (h : MemOk s) {a : Nat} {l : List Byte} : MemOk { s with mem := storeBytes s.mem a l } :=
  h.withMem (wf_storeBytes _ _ _ h.mem)
theorem noCkpt (h : MemOk s) : MemOk { s with ckpt := none } := by
  obtain ⟨hm, hf, ht, hh, _, hs⟩ := h
  exact ⟨hm, hf, ht, hh, nofun, hs⟩
theorem withTiles (h : MemOk s) {l : Tab Tile} (hl : TilesOk l) : MemOk { s with tiles := l } := by
  obtain ⟨hm, hf, _, hh, hc, hs⟩ := h
  exact ⟨hm, hf, hl, hh, hc, hs⟩
theorem withHalves (h : MemOk s) {l : Tab Half} (hl : HalvesOk l) : MemOk { s with halves := l } := by
  obtain ⟨hm, hf, ht, _, hc, hs⟩ := h
  exact ⟨hm, hf, ht, hl, hc, hs⟩
theorem withSnaps (h : MemOk s) {l : List Snap} (hl : ∀ n ∈ l, TilesOk n.tiles ∧ HalvesOk n.shafts) : MemOk { s with snaps := l } := by
  obtain ⟨hm, hf, ht, hh, hc, _⟩ := h
  exact ⟨hm, hf, ht, hh, hc, hl⟩
theorem withEps (h : MemOk s) {l : List Episode} : MemOk { s with eps := l } := h
theorem filterSnaps (h : MemOk s) {f : Snap → Bool} : MemOk { s with snaps := s.snaps.filter f } :=
  h.withSnaps fun n hn => h.snaps n (List.mem_of_mem_filter hn)

theorem setTile (h : MemOk s) {id : Nat} {t : Tile} (ht : t.m0.wf = true) : MemOk (setTile s id t) :=
  h.withTiles (forall_mem_tabSet (P := fun t : Tile => t.m0.wf = true) h.tiles ht)
theorem setHalf (h : MemOk s) {k : Nat} {x : Half} (hx : x.bytes.wf = true) : MemOk (setHalf s k x) :=
  h.withHalves (forall_mem_tabSet (P := fun x : Half => x.bytes.wf = true) h.halves hx)
/-- A tile whose scratchpad stays. -/
theorem setTile_same (h : MemOk s) {id : Nat} {t : Tile} (ht : t.m0 = (Machine.tileOf s id).m0 := by rfl) :
    MemOk (Machine.setTile s id t) :=
  h.setTile (ht ▸ h.tileOf id)
theorem updTile (h : MemOk s) {id : Nat} {f : Tile → Tile} (hf : ∀ t, (f t).m0 = t.m0 := by intro; rfl) : MemOk (updTile s id f) :=
  h.setTile_same (hf _)
theorem onMe (h : MemOk s) {f : Tile → Tile} (hf : ∀ t, (f t).m0 = t.m0 := by intro; rfl) : MemOk (onMe s f) := h.updTile hf

theorem storeLEM0 (h : MemOk s) {id a v n : Nat} :
    MemOk (Machine.updTile s id fun t => { t with m0 := Machine.storeLE t.m0 a v n }) := h.setTile (wf_storeLE _ _ _ _ (h.tileOf id))
theorem storeBytesM0 (h : MemOk s) {id a : Nat} {l : List Byte} :
    MemOk (Machine.updTile s id fun t => { t with m0 := Machine.storeBytes t.m0 a l }) := h.setTile (wf_storeBytes _ _ _ (h.tileOf id))

/-! ### Delayed actions -/

theorem later (h : MemOk s) {n : Nat} {a : Act} : MemOk (later s n a) := h.onMe
theorem landReg (h : MemOk s) {d : Reg} {n : Nat} {v : Word} : MemOk (landReg s d n v) := h.ite h.later
theorem landPred (h : MemOk s) {d : PredN} {n : Nat} {b : Bool} : MemOk (landPred s d n b) := h.ite h.later
theorem landMask (h : MemOk s) {d : MaskN} {n : Nat} {v : BitVec 512} : MemOk (landMask s d n v) := h.ite h.later
theorem landPush (h : MemOk s) {q : QN} {n : Nat} {v : QVec} : MemOk (landPush s q n v) := h.later
theorem landFlags (h : MemOk s) {r : SpecReg} {n : Nat} {v : Word} : MemOk (landFlags s r n v) := h.ite h.later
theorem follow (h : MemOk s) {id : Nat} {p : Pend} {due : Nat} {x : Act} : MemOk (follow id p due x s) := h.updTile
theorem followReg (h : MemOk s) {id : Nat} {p : Pend} {due r : Nat} {v : Word} : MemOk (followReg id p due r v s) := h.ite h.follow
theorem takeDue (h : MemOk s) {id : Nat} {sel : Act → Bool} {x : Pend × State} (hx : takeDue s id sel = some x) : MemOk x.2 := by
  simp only [Machine.takeDue] at hx
  split at hx
  · cases hx
  · cases hx
    exact h.setTile_same

/-! ### Faults -/

theorem markFault (h : MemOk s) {d : Nat} : MemOk (markFault s d) := h
theorem takeTrap (h : MemOk s) {x : Trap} {p : Nat} {b : BRef} {tb : Option BRef} {id : Nat} : MemOk (takeTrap x p b tb id s) :=
  (h.updTile (recordTrap_m0 x p b tb) : MemOk (Machine.updTile s id _))
theorem trapHere (h : MemOk s) {x : Trap} : MemOk (trapHere x s) := h.takeTrap
theorem engineTrap (h : MemOk s) {x : Trap} {p : Pend} {id : Nat} : MemOk (engineTrap x p id s) := h.takeTrap.noCkpt

/-! ### Words -/

theorem doWord (h : MemOk s) {c : List (Option Trap)} {f : State → State} (hf : MemOk (f s)) : MemOkAfter (doWord s c f) := by
  unfold Machine.doWord
  split
  · exact h.trapHere
  · exact hf
theorem guarded (h : MemOk s) {g : Guard} {k : Host.Outcome State Fault Refusal} (hk : MemOkAfter k) : MemOkAfter (guarded s g k) :=
  hk.ite h
theorem sWord (h : MemOk s) {src : List Reg} {d : Reg} {lat : Nat} {v : Word} : MemOkAfter (sWord s src d lat v) := h.doWord h.landReg
theorem sCmp (h : MemOk s) {src : List Reg} {d : PredN} {lat : Nat} {b : Bool} : MemOkAfter (sCmp s src d lat b) := h.doWord h.landPred
end MemOk
end Sys2Proof
end

section
open Sys2Proof Sys2Proof.Machine

namespace Sys2Proof

variable {s : State}

/-! ## What leaves a scratchpad as it is -/

theorem foldl_m0 {α : Type} {f : Tile → α → Tile} (l : List α) (t : Tile) (hf : ∀ t x, (f t x).m0 = t.m0) : (l.foldl f t).m0 = t.m0 :=
  List.foldlRecOn (motive := fun y => y.m0 = t.m0) l f rfl fun y hy x _ => (hf y x).trans hy

theorem takeQs_m0 {l : List QSrc} {t t' : Tile} {vs : List QVec} (h : takeQs t l = some (vs, t')) : t'.m0 = t.m0 := by
  induction l generalizing t vs with
  | nil => cases h; rfl
  | cons x l ih =>
    simp only [takeQs] at h
    split at h
    · cases h
    split at h
    · cases h
    split at h
    · cases h
    next hr =>
      cases h
      rw [ih hr]
      split <;> rfl

theorem landQ_m0 (t : Tile) (q : QN) (v : QVec) (pipe : Nat) (b : BRef) : (landQ t q v pipe b).m0 = t.m0 := by
  simp only [landQ]
  split <;> rfl
theorem wrPhys_m0 (t : Tile) (r : Nat) (v : Word) : (wrPhys t r v).m0 = t.m0 := by
  unfold wrPhys
  split <;> rfl
theorem wrPred_m0 (t : Tile) (p : PredN) (b : Bool) : (wrPred t p b).m0 = t.m0 := by
  unfold wrPred
  split <;> rfl
theorem wrMask_m0 (t : Tile) (m : MaskN) (v : BitVec 512) : (wrMask t m v).m0 = t.m0 := by
  unfold wrMask
  split <;> rfl
theorem setFlags_m0 (t : Tile) (n : SpecReg) (v : Word) : (setFlags t n v).m0 = t.m0 := by cases n <;> rfl
theorem specWrite_m0 (t : Tile) (n : SpecReg) (v : Word) : (specWrite t n v).m0 = t.m0 := by cases n <;> rfl
theorem setTree_m0 (t : Tile) (b : TreeN) (m : MTree) : (setTree t b m).m0 = t.m0 := by
  unfold setTree
  split <;> rfl
theorem putAcc_m0 (t : Tile) (row g : Nat) (v : QVec) : (putAcc t row g v).m0 = t.m0 := foldl_m0 _ _ fun _ _ => rfl
theorem clearRow_m0 (row n : Nat) (t : Tile) : (clearRow row n t).m0 = t.m0 := foldl_m0 _ _ fun _ _ => rfl
theorem landCols_m0 (row cb : Nat) (ms : List Nat) (got : List (Nat × List XA)) (t : Tile) : (landCols row cb ms got t).1.m0 = t.m0 :=
  List.foldlRecOn (motive := fun y : Tile × Bool => y.1.m0 = t.m0) _ _ rfl fun _ hy _ _ => hy

/-- A landing writes registers, queues, trees' bounds and generators, never the scratchpad (R69 to R71). -/
theorem landTile_m0 (p : Pend) (t : Tile) : (landTile p t).m0 = t.m0 := by
  unfold landTile
  split
  case h_1 => exact wrPhys_m0 _ _ _
  case h_2 => exact wrPred_m0 _ _ _
  case h_3 => exact wrMask_m0 _ _ _
  case h_6 => exact setFlags_m0 _ _ _
  case h_7 => exact specWrite_m0 _ _ _
  case h_9 => exact landQ_m0 _ _ _ _ _
  case h_13 => exact putAcc_m0 _ _ _ _
  all_goals rfl

/-! ## Words of a tile (Machine/Operands.lean to Machine/Flags.lean) -/

namespace MemOk

theorem takeQs (h : MemOk s) {l : List QSrc} {vs : List QVec} {t : Tile} (ht : takeQs (me s) l = some (vs, t)) :
    MemOk (Machine.setTile s s.cur t) := h.setTile_same (takeQs_m0 ht)

theorem addAcc (h : MemOk s) {m1 : Bool} {op : AccOp} {ord : MOrd} {scp : MScp} {parts : List Part} {walk done : Bool} :
    MemOk (addAcc m1 op ord scp parts walk done s) := h.onMe
theorem pendReg (h : MemOk s) {d : Reg} : MemOk (pendReg d s) := h.ite h.onMe
theorem reserve (h : MemOk s) {q : QN} {n : Nat} : MemOk (reserve q n s) := h.onMe
theorem popped (h : MemOk s) {l : List QSrc} : MemOk (popped l s) := by
  unfold Machine.popped
  split
  next hq => exact h.takeQs hq
  · exact h

theorem shWord {c : List (Option Trap)} {f : State → State} (hf : MemOk (f s)) : MemOkAfter (shWord s c f) := by
  unfold Machine.shWord
  split
  · exact hf.trapHere
  · exact hf
theorem guardedM1 (h : MemOk s) {g : Guard} {a : Word} {k : Host.Outcome State Fault Refusal} (hk : MemOkAfter k) :
    MemOkAfter (guardedM1 s g a k) := hk.ite (h.addAcc.ite h)
theorem guardedM2 (h : MemOk s) {g : Guard} {k : Host.Outcome State Fault Refusal} (hk : MemOkAfter k) :
    MemOkAfter (guardedM2 s g k) := hk.ite h.addAcc
theorem m2Word (h : MemOk s) {pre : List (Option Trap)} {op : AccOp} {sx : Sfx} {k : M2Chk} {parts : List Part} {eff : State → State}
    (he : MemOk (eff s)) : MemOkAfter (m2Word s pre op sx k parts eff) := by
  unfold Machine.m2Word
  exact h.doWord he.addAcc
theorem atomWord (h : MemOk s) {g : Guard} {fn : Nat} {w : Wide} {sx : Sfx} {d b : Reg} {y cmp : Word} {src : List Reg} :
    MemOkAfter (atomWord s g fn w sx d b y cmp src) := h.guardedM2 (h.m2Word h.pendReg)
theorem berthWord (h : MemOk s) {g : Guard} {sx : Sfx} {pre : List (Option Trap)} {op : AccOp} {n : Nat} {eff : State → State}
    (he : MemOk (eff s)) : MemOkAfter (berthWord s g sx pre op n eff) := h.guardedM2 (h.doWord he.addAcc)
theorem atMembers (h : MemOk s) {x : Nat → Act} {ms : List Member} : MemOk (atMembers x ms s) := h.foldl _ fun _ h' _ _ => h'.later
theorem dWord (h : MemOk s) {g : Guard} {illegal checks : List (Option Trap)} {f : State → State} (hf : MemOk (f s)) :
    MemOkAfter (dWord s g illegal checks f) := by
  unfold Machine.dWord
  split
  · exact h.trapHere
  · exact h.guarded (h.doWord hf)
theorem vWord (h : MemOk s) {checks : List (Option Trap)} {src : List QSrc} {dst : List QN} {eff : List QVec → State → State}
    (he : ∀ vs s', MemOk s' → MemOk (eff vs s')) : MemOkAfter (vWord s checks src dst eff) := by
  refine h.doWord ?_
  split
  next hq => exact he _ _ (h.takeQs hq)
  · exact h
theorem landLanes (h : MemOk s) {d : QN} {lat w : Nat} {l : List FRes} : MemOk (landLanes d lat w l s) := h.landPush.landFlags
theorem vLanes (h : MemOk s) {src : List QSrc} {d : QN} {w lat : Nat} {m : MaskN} {f : List Nat → FRes} :
    MemOkAfter (vLanes s src d w lat m f) := h.vWord fun _ _ h' => h'.landLanes
theorem landRoot (h : MemOk s) {d : QN} {acc : Option QVec} {nodes : List RNode} : MemOk (landRoot d acc nodes s) := h.landPush.landFlags
theorem landList (h : MemOk s) {lat : Nat} {l : List Int} {d : Nat} : MemOk (landList lat l d s) := by
  induction l generalizing s d with
  | nil => exact h
  | cons c l ih => exact ih h.landReg
theorem sFloat (h : MemOk s) {src : List Reg} {d : Reg} {r : FRes} : MemOkAfter (sFloat s src d r) := h.doWord h.landReg.landFlags
theorem sPriv (h : MemOk s) {d : Reg} {v : Word} : MemOkAfter (sPriv s d v) := h.doWord h.landReg

/-! ### Accesses and codes -/

theorem hmFix (h : MemOk s) {hm a n : Nat} : MemOk (hmFix hm a n s) := by
  unfold Machine.hmFix
  split <;> exact h
theorem setAcc (h : MemOk s) {id : Nat} {x : Acc} : MemOk (setAcc id x s) := h.updTile

end MemOk

/-! ## The scratchpad, the shaft and the generators (Machine/MemTile.lean, Machine/AddrGen.lean) -/

theorem execStv_memOk (h : MemOk s) (g : Guard) (d : QN) (ma : MemA) : MemOkAfter (execStv g d ma s) := by
  refine h.guarded (h.doWord ?_)
  split
  next hq => exact (h.takeQs hq).later
  · exact h

theorem ldM1_memOk (h : MemOk s) (w : Width) (signed : Bool) (d : Reg) (ma : MemA) : MemOkAfter (ldM1 s w signed d ma) :=
  .ite (h.doWord h.pendReg.addAcc) (.ite (h.doWord h) (MemOk.shWord h.later))

theorem execSst_memOk (h : MemOk s) (g : Guard) (w : Width) (d : Reg) (ma : MemA) : MemOkAfter (execSst g w d ma s) :=
  h.guardedM1 (.ite (h.doWord h.addAcc) (.ite (h.doWord h) (MemOk.shWord h.later)))

theorem execM0Access_memOk (h : MemOk s) : MemOkAfter (execM0Access s) := by
  simp only [execM0Access]
  split
  · exact h
  next p s' hd =>
    have h' : MemOk s' := h.takeDue hd
    split
    · exact .ite h'.engineTrap h'.followReg
    · exact .ite h'.engineTrap h'.follow
    · exact .ite h'.engineTrap h'.storeLEM0
    · exact .ite h'.engineTrap h'.storeBytesM0
    · exact h'

theorem execShaftAccess_memOk (h : MemOk s) : MemOkAfter (execShaftAccess s) := by
  simp only [execShaftAccess]
  split
  · exact h
  next p s' hd =>
    have h' : MemOk s' := h.takeDue hd
    split
    · exact .ite h.engineTrap (.ite h'.engineTrap h'.followReg.hmFix)
    · exact .ite h.engineTrap (h'.setHalf (wf_storeLE _ _ _ _ (h'.halfOf _)))
    · exact h'

theorem execRemoteShaftPerform_memOk (h : MemOk s) : MemOkAfter (execRemoteShaftPerform s) := by
  simp only [execRemoteShaftPerform]
  split
  · exact h
  split
  · refine .ite h (.ite h.setAcc.engineTrap (.ite (MemOk.ite (h.setAcc.updTile (recordTrap_m0 _ _ _ _)) h.setAcc.engineTrap) ?_))
    split
    · exact .ite h.setAcc.engineTrap h.setAcc.hmFix
    · exact MemOk.setAcc (h.setHalf (wf_storeLE _ _ _ _ (h.halfOf _)))
    · exact h
  · exact h

theorem execAgstop_memOk (h : MemOk s) (g : Guard) (k : AgN) : MemOkAfter (execAgstop g k s) :=
  h.guarded (h.doWord (h.ite h.onMe.later))

theorem execAgSourceRead_memOk (h : MemOk s) : MemOkAfter (execAgSourceRead s) := by
  simp only [execAgSourceRead]
  split
  · exact h
  split
  · exact h.engineTrap
  have hpush : ∀ (a : Agen) (due k : Nat) (v : QVec), MemOk (match a.port with
      | some q => follow s.ev.a (agPend a) due (.agPush k (BitVec.ofNat 4 q) v) s
      | none => s) := fun a _ _ _ => by split; exacts [h.follow, h]
  refine .ite (.ite h.engineTrap (hpush _ _ _ _)) ?_
  split
  · exact h.engineTrap
  · exact MemOk.hmFix (hpush _ _ _ _)

theorem execAgPush_memOk (h : MemOk s) : MemOkAfter (execAgPush s) := by
  simp only [execAgPush]
  split
  · exact h
  next p s' hd =>
    have h' : MemOk s' := h.takeDue hd
    split
    · exact h'.updTile fun _ => landQ_m0 _ _ _ _ _
    · exact h'

theorem execWriteLands_memOk (h : MemOk s) : MemOkAfter (execWriteLands s) := by
  simp only [execWriteLands]
  split
  · exact h
  next p s' hd =>
    have h' : MemOk s' := h.takeDue hd
    split
    · exact h'.engineTrap
    · exact h'.updTile (landTile_m0 p)

/-! ## Beats (Machine/Beat.lean) -/

theorem execMpush_memOk (h : MemOk s) (g : Guard) (q : QSrc) (f : AfN) (p : PlaneN) (u : SegN) (x : HSet) :
    MemOkAfter (execMpush g q f p u x s) := by
  refine h.guarded (h.doWord ?_)
  split
  next hq => exact (h.takeQs hq).atMembers
  · exact h

theorem execAswr_memOk (h : MemOk s) (g : Guard) (q : QSrc) (a : Reg) (x : ColG) : MemOkAfter (execAswr g q a x s) := by
  refine h.guarded (h.doWord ?_)
  split
  next hq => exact (h.takeQs hq).later
  · exact h

theorem MemOk.dropForce (h : MemOk s) {id hm : Nat} : MemOk (dropForce id hm s) := h.updTile

theorem execBeatAccess_memOk (h : MemOk s) : MemOkAfter (execBeatAccess s) := by
  simp only [execBeatAccess]
  split
  · exact h
  next p s' hd =>
    have h' : MemOk s' := h.takeDue hd
    refine .ite h.engineTrap ?_
    split
    · exact (h'.setHalf (x := modeHalf _ _ _ _) (h'.halfOf _)).dropForce
    · exact (h'.setHalf (x := clearBeat _) (h'.halfOf _)).dropForce
    · exact h'.setHalf (h'.halfOf _)
    · exact .ite h'.engineTrap h'.follow
    · exact h'.follow
    · split
      · exact h'.engineTrap
      · exact h'.updTile
    · exact h'

end Sys2Proof
end

section
open Sys2Proof Sys2Proof.Machine

namespace Sys2Proof

variable {s : State}

theorem execBeatWriteInForce_memOk (h : MemOk s) : MemOkAfter (execBeatWriteInForce s) := by
  simp only [execBeatWriteInForce]
  split
  · exact h
  next p s' hd =>
    have h' : MemOk s' := h.takeDue hd
    split
    · split
      · exact h'.setHalf (h'.halfOf _)
      · exact h'.setHalf (h'.halfOf _)
    · exact h'.setHalf (h'.halfOf _)
    · exact h'

theorem execMaccLands_memOk (h : MemOk s) : MemOkAfter (execMaccLands s) := by
  simp only [execMaccLands]
  split
  · exact h
  next p s' hd =>
    have h' : MemOk s' := h.takeDue hd
    split
    · split
      · exact h'.engineTrap
      · refine h'.setTile_same ?_
        split
        · rw [setFlags_m0, landCols_m0]
        · rw [landCols_m0]
    · exact h'

theorem execAsRead_memOk (h : MemOk s) : MemOkAfter (execAsRead s) := by
  simp only [execAsRead]
  split
  · exact h
  next p s' hd =>
    have h' : MemOk s' := h.takeDue hd
    split
    · split
      · exact h'.engineTrap
      · exact MemOk.ite ((h'.follow.ite h'.follow.follow).updTile (clearRow_m0 _ _)) (h'.follow.ite h'.follow.follow)
    · split
      · exact h'.engineTrap
      · exact h'.follow
    · exact h'

/-! ## The memory command slot (Machine/Dram.lean) -/

theorem MemOk.drdGo (h : MemOk s) {ch : Bool} {b : BankN} {o : ColN} {dst : DPlace} : MemOk (drdGo ch b o dst s) := MemOk.later h
theorem MemOk.dwrGo (h : MemOk s) {ch : Bool} {b : BankN} {o : ColN} {src : DPlace} : MemOk (dwrGo ch b o src s) := MemOk.later h

theorem execDwrQ_memOk (h : MemOk s) (g : Guard) (ch : Bool) (b : BankN) (o : ColN) (q : QSrc) : MemOkAfter (execDwrQ g ch b o q s) := by
  refine h.dWord ?_
  split
  next hq => exact MemOk.later (h.takeQs hq)
  · exact h

theorem execDwin_memOk (h : MemOk s) (g : Guard) (ch : Bool) (n : WinLen) : MemOkAfter (execDwin g ch n s) := by
  refine h.dWord (MemOk.ite h ?_)
  split
  · exact MemOk.ite h h
  · exact h

theorem execDrdLands_memOk (h : MemOk s) : MemOkAfter (execDrdLands s) := by
  simp only [execDrdLands]
  split
  · exact h
  next p s' hd =>
    have h' : MemOk s' := h.takeDue hd
    split
    · refine .ite h'.engineTrap ?_
      split
      · exact h'.storeLEM0
      · exact .ite h'.engineTrap (.ite h.engineTrap (h'.setHalf (wf_storeLE _ _ _ _ (h'.halfOf _))))
      · exact h'.updTile fun _ => landQ_m0 _ _ _ _ _
    · exact h'

theorem MemOk.toRow (h : MemOk s) {id : Nat} {p : Pend} {due ch b row col v : Nat} : MemOk (toRow id p due ch b row col v s) :=
  MemOk.ite h.storeLE h.follow

theorem execDwrSourceRead_memOk (h : MemOk s) : MemOkAfter (execDwrSourceRead s) := by
  simp only [execDwrSourceRead]
  split
  · exact h
  next p s' hd =>
    have h' : MemOk s' := h.takeDue hd
    split
    · exact h'.storeLE
    · split
      · exact .ite h'.engineTrap h'.toRow
      · exact .ite h'.engineTrap (.ite h.engineTrap (.ite h'.engineTrap h'.toRow.hmFix))
      · exact h'
    · exact h'

/-! ## Mass trees (Machine/MassTree.lean) -/

theorem execMtld_memOk (h : MemOk s) (g : Guard) (t : TreeN) (q : QSrc) (x : RegLit) : MemOkAfter (execMtld g t q x s) := by
  refine h.guarded (h.doWord ?_)
  split
  next hq => exact (h.takeQs hq).later
  · exact h

theorem execMtLevelWrite_memOk (h : MemOk s) : MemOkAfter (execMtLevelWrite s) := by
  simp only [execMtLevelWrite]
  split
  · exact h
  next p s' hd =>
    have h' : MemOk s' := h.takeDue hd
    split
    · exact h'.updTile fun _ => setTree_m0 _ _ _
    · exact (h'.updTile fun _ => setTree_m0 _ _ _).follow
    · split
      · exact h'.engineTrap
      · refine MemOk.ite (MemOk.follow ?_) ?_ <;> exact h'.updTile fun _ => setTree_m0 _ _ _
    · exact h'

theorem execMtHorizonWrite_memOk (h : MemOk s) : MemOkAfter (execMtHorizonWrite s) := by
  simp only [execMtHorizonWrite]
  split
  · exact h
  next p s' hd =>
    have h' : MemOk s' := h.takeDue hd
    split
    · exact h'.updTile fun _ => setTree_m0 _ _ _
    · exact h'

theorem MemOk.qFinish (h : MemOk s) {id : Nat} {p : Pend} {b : TreeN} {x : MtQuery} {c : Nat} : MemOk (qFinish id p b x c s) := by
  unfold Machine.qFinish
  dsimp only
  split
  · exact h.follow
  · exact h.followReg.ite h.followReg.follow
  · exact MemOk.ite (MemOk.ite h.follow h) (MemOk.ite h.follow h).follow
  · exact h.followReg

theorem execMtQueryLevelRead_memOk (h : MemOk s) : MemOkAfter (execMtQueryLevelRead s) := by
  simp only [execMtQueryLevelRead]
  split
  · exact h
  next p s' hd =>
    have h' : MemOk s' := h.takeDue hd
    split
    · split
      · exact h'.engineTrap
      · exact h'.qFinish.ite h'.follow
    · exact h'

/-! ## DRAIN and BARW (Machine/Sync.lean) -/

theorem releaseAcc_m0 (x : Acc) (t : Tile) : (releaseAcc x t).m0 = t.m0 := by
  simp only [releaseAcc]
  split
  · exact wrPhys_m0 _ _ _
  · rfl

theorem execDrain_memOk (h : MemOk s) (g : Guard) (p : DrainPath) : MemOkAfter (execDrain g p s) := h.guarded (MemOk.ite h.onMe h)

theorem execDrainComplete_memOk (h : MemOk s) : MemOkAfter (execDrainComplete s) := by
  simp only [execDrainComplete]
  split
  · exact .ite (h.setTile_same (foldl_m0 _ _ fun _ _ => releaseAcc_m0 _ _)) h
  · exact h

theorem execBarw_memOk (h : MemOk s) (g : Guard) (b : BarN) (l : LevelN) : MemOkAfter (execBarw g b l s) := by
  refine h.guarded ?_
  split
  · exact h.trapHere
  · exact h.doWord h.onMe.withEps

theorem execBarwComplete_memOk (h : MemOk s) : MemOkAfter (execBarwComplete s) := by
  simp only [execBarwComplete]
  split
  · exact h
  · refine .ite h ?_
    exact MemOk.foldl h.withEps _ fun _ h' _ _ => h'.updTile

theorem execWaitLimitExpiry_memOk (h : MemOk s) : MemOkAfter (execWaitLimitExpiry s) := by
  simp only [execWaitLimitExpiry]
  split
  · exact .ite h.engineTrap h
  · exact .ite h.engineTrap h
  · exact h

/-! ## Branches, loops, segments and waits (Machine/Control.lean) -/

theorem MemOk.linkAfter (h : MemOk s) : MemOk (linkAfter s).2 := by
  unfold Machine.linkAfter
  split
  · exact h
  · split <;> exact h

theorem execBrl_memOk (h : MemOk s) (c : Cond) (k : PackN) : MemOkAfter (execBrl c k s) := h.doWord h.linkAfter.landReg.onMe

theorem execBranchTargetFetch_memOk (h : MemOk s) : MemOkAfter (execBranchTargetFetch s) := by
  simp only [execBranchTargetFetch]
  split
  · exact h
  · refine .ite h (.ite h.takeTrap ?_)
    split
    · exact h.takeTrap
    · exact h.setTile_same

theorem MemOk.startLoop (h : MemOk s) {k e n : Nat} {rot : Bool} {epi : Nat} : MemOk (startLoop k e n rot epi s) :=
  MemOk.ite h.onMe (MemOk.ite h.later.later h.later).onMe

theorem loopBack_m0 (t : Tile) (l : List LoopSt) : (loopBack t l).m0 = t.m0 := by
  induction l generalizing t with
  | nil => rfl
  | cons l r ih =>
    simp only [loopBack]
    split
    · rfl
    split
    · exact ih _
    split <;> rfl

theorem execLoopBack_memOk (h : MemOk s) : MemOkAfter (execLoopBack s) := .ite (h.setTile_same (loopBack_m0 _ _)) h

theorem startFill_m0 (img : List Byte) (f : Nat) (n1 : Bool) (t : Tile) : (startFill img f n1 t).m0 = t.m0 := by
  unfold startFill
  generalize segNext _ _ _ = succ
  rfl

theorem execSegj_memOk (h : MemOk s) (c : Cond) : MemOkAfter (execSegj c s) := by
  unfold execSegj
  exact h.doWord (MemOk.ite (h.onMe fun _ => startFill_m0 _ _ _ _) h)
theorem execSegsel_memOk (h : MemOk s) (c : Cond) (k : PackN) : MemOkAfter (execSegsel c k s) :=
  MemOk.ite (h.onMe fun _ => startFill_m0 _ _ _ _) h
theorem execPilotFillDone_memOk (h : MemOk s) : MemOkAfter (execPilotFillDone s) := by
  unfold execPilotFillDone
  exact .ite h.setTile_same h

theorem execJoint_memOk (h : MemOk s) (v : Lit) : MemOkAfter (execJoint v s) := by
  unfold execJoint
  exact h.doWord (h.onMe fun _ => by split <;> rfl)
theorem execJointRelease_memOk (h : MemOk s) : MemOkAfter (execJointRelease s) := by
  simp only [execJointRelease]
  split
  · exact .ite h.setTile_same h
  · exact h
theorem waitUntil_memOk (h : MemOk s) (src : Option Trap) (v : Nat) : MemOkAfter (waitUntil s src v) :=
  h.doWord (h.onMe fun _ => by split <;> rfl)
theorem execWaitcRelease_memOk (h : MemOk s) : MemOkAfter (execWaitcRelease s) := by
  simp only [execWaitcRelease]
  split
  · exact .ite h.setTile_same h
  · exact h
theorem execTend_memOk (h : MemOk s) (c : Cond) : MemOkAfter (execTend c s) := h.doWord (h.onMe fun _ => by split <;> rfl)

end Sys2Proof
end

section
open Sys2Proof Sys2Proof.Machine

namespace Sys2Proof

variable {s : State}

/-! ## Global memory at its home (Machine/GlobalPerform.lean) -/

theorem recordLate_m0 (x : Trap) (pipe : Nat) (b : BRef) (t : Tile) : (recordLate x pipe b t).m0 = t.m0 := by
  unfold recordLate
  split <;> rfl

theorem MemOk.accFail (h : MemOk s) {x : Acc} {f : Trap} {id : Nat} : MemOk (accFail x f id s) :=
  MemOk.ite (h.setAcc.updTile (recordLate_m0 _ _ _)).markFault h.setAcc.engineTrap

theorem partEffect_wf (h : MemOk s) (x : Acc) (p : Part) (a : Nat) : (partEffect s x p a).2.wf = true := by
  unfold partEffect
  split
  case h_4 => exact wf_storeLE _ _ _ _ h.mem
  case h_5 => exact wf_storeLE _ _ _ _ h.mem
  case h_6 => exact wf_storeLE _ _ _ _ h.mem
  all_goals exact h.mem

theorem MemOk.performPart (h : MemOk s) {id : Nat} {w : Who} {p : Part} {x : Acc} : MemOk (performPart id w p s x).1 := by
  unfold Machine.performPart
  split
  · exact h
  · exact h.withMem (partEffect_wf h _ _ _)

theorem MemOk.performParts {r : State × Acc} (h : MemOk r.1) {id : Nat} {w : Who} {l : List Part} : MemOk (performParts id w l r).1 := by
  induction l generalizing r with
  | nil => exact h
  | cons p l ih => exact ih h.performPart

theorem execM2AccessPerform_memOk (h : MemOk s) : MemOkAfter (execM2AccessPerform s) := by
  simp only [execM2AccessPerform]
  split
  · exact h
  split
  · exact h
  refine .ite h ?_
  split
  · exact h.accFail
  split
  · exact h.accFail
  · exact (MemOk.performParts (r := (s, _)) h).setAcc

theorem MemOk.walkOn (h : MemOk s) {id : Nat} {x : Acc} : MemOk (walkOn s id x) := by
  simp only [Machine.walkOn]
  split
  · exact h.accFail
  · exact h.setAcc

theorem MemOk.setCache (h : MemOk s) {die : Nat} {c : Tcache} : MemOk (setCache s die c) := h

theorem execPageWalkEnd_memOk (h : MemOk s) : MemOkAfter (execPageWalkEnd s) := by
  simp only [execPageWalkEnd]
  split
  · exact h
  refine .ite h ?_
  split
  · exact h.walkOn
  split
  · exact h.accFail
  split
  · exact h.accFail
  · exact h.setCache.walkOn

/-! ## Requests that wait (Machine/Process.lean) -/

theorem MemOk.touchHeal (h : MemOk s) {l : List Touch} : MemOk (touchHeal l s) :=
  h.foldl _ fun _ h' _ _ => MemOk.ite h' h'
theorem MemOk.orWait (h : MemOk s) {i : Instr} {l : List Touch} {src : Option Nat} {k : State → State} (hk : MemOk (k s)) :
    MemOk (orWait i l src k s) := hk.ite h
theorem MemOk.postBytes (h : MemOk s) {src : Option Nat} {p : Nat} {bs : List Byte} : MemOk (postBytes src p bs s) :=
  h.storeBytes.ite h

/-! ## Berths (Machine/Berth.lean) -/

/- The kernel unfolds the two recursions below at their constants: compared by their arguments, it would run a store. -/
theorem shareFrom_cons (tb : Nat) (d e : BDir) (i : Nat) (l : List Nat) (m : Memory) :
    shareFrom tb d e (i :: l) m = shareFrom tb d e l (wrEnt (storeLE m (blkAt tb e i) (rdBlk m tb d i) 4) tb (rdBlk m tb d i)
      { rdEnt m tb (rdBlk m tb d i) with ref := (rdEnt m tb (rdBlk m tb d i)).ref + 1 }) := by
  delta shareFrom
  rfl
theorem relFrom_cons (part tb : Nat) (d : BDir) (b : Nat) (l : List Nat) (s : State) :
    relFrom part tb d (b :: l) s = relFrom part tb d l (relOne part tb d b s) := by
  delta relFrom
  rfl

theorem wf_setNblk {m : Memory} (h : m.wf = true) (tb sq n : Nat) : (setNblk m tb sq n).wf = true := by
  unfold setNblk
  exact wf_storeLE _ _ _ _ h
theorem wf_wrEnt {m : Memory} (h : m.wf = true) (tb n : Nat) (e : BEnt) : (wrEnt m tb n e).wf = true := wf_storeLE _ _ _ _ h
theorem wf_fifoTake {m : Memory} (h : m.wf = true) (tb q : Nat) : (fifoTake m tb q).2.wf = true := wf_storeLE _ _ _ _ h
theorem wf_fifoAdd {m : Memory} (h : m.wf = true) (tb q v : Nat) : (fifoAdd m tb q v).wf = true :=
  wf_storeLE _ _ _ _ (wf_storeLE _ _ _ _ h)
theorem wf_bAlloc {m : Memory} (h : m.wf = true) (tb p : Nat) : (bAlloc m tb p).2.wf = true :=
  wf_wrEnt (wf_fifoTake (wf_fifoTake h _ _) _ _) _ _ _
theorem wf_bRelease {m : Memory} (h : m.wf = true) (tb p n : Nat) : (bRelease m tb p n).wf = true :=
  wf_fifoAdd (wf_wrEnt (wf_fifoAdd h _ _ _) _ _ _) _ _ _
theorem wf_copyMem {m : Memory} (h : m.wf = true) (src dst n : Nat) : (copyMem m src dst n).wf = true := wf_storeBytes _ _ _ h
theorem wf_shareFrom {m : Memory} (h : m.wf = true) (tb : Nat) (d e : BDir) (l : List Nat) : (shareFrom tb d e l m).wf = true := by
  induction l generalizing m with
  | nil => exact h
  | cons i l ih =>
    rw [shareFrom_cons]
    exact ih (wf_wrEnt (wf_storeLE _ _ _ _ h) _ _ _)

namespace MemOk

theorem reportMove (h : MemOk s) {code : Nat} {v : Move} : MemOk (reportMove code v s) := by
  unfold Machine.reportMove
  split
  · exact h.postBytes
  · exact h
theorem setMove (h : MemOk s) {k : Nat} {v : Move} : MemOk (setMove s k v) := h
theorem spend (h : MemOk s) {w : Who} : MemOk (spend w s) := h
theorem cancelMove (h : MemOk s) {part n : Nat} : MemOk (cancelMove part n s) := by
  unfold Machine.cancelMove
  split
  · exact h
  · exact (h.withMem (wf_wrEnt (wf_fifoAdd h.mem _ _ _) _ _ _)).spend.setMove.reportMove
theorem appPlace (h : MemOk s) {part : Nat} {k : Word} : MemOk (appPlace part k s) := by
  simp only [Machine.appPlace]
  have h1 : ∀ b d tb, MemOk (if b = d.nblk then
      { s with mem := setNblk (Machine.storeLE (bAlloc s.mem tb d.pool).2 (blkAt tb d b) (bAlloc s.mem tb d.pool).1 4) tb (kSeq k) (b + 1) }
    else s) := fun b d tb => (h.withMem (wf_setNblk (wf_storeLE _ _ _ _ (wf_bAlloc h.mem _ _)) _ _ _)).ite h
  have h2 := fun b d tb n => (h1 b d tb).cancelMove (part := part) (n := n)
  exact MemOk.ite ((h2 _ _ _ _).withMem (wf_storeLE _ _ _ _ (wf_wrEnt (wf_copyMem (wf_bAlloc (h2 _ _ _ _).mem _ _) _ _ _) _ _ _)))
    (h2 _ _ _ _)
theorem opKvapp (h : MemOk s) {part : Nat} {k : Word} {kv vv : QVec} : MemOk (opKvapp part k kv vv s) :=
  h.appPlace.withMem (wf_storeLE _ _ _ _ (wf_storeLE _ _ _ _ h.appPlace.mem))
theorem opKvshr (h : MemOk s) {part : Nat} {k dst : Word} : MemOk (opKvshr part k dst s) :=
  h.withMem (wf_setNblk (wf_shareFrom h.mem _ _ _ _) _ _ _)
theorem relOne (h : MemOk s) {part tb : Nat} {d : BDir} {b : Nat} : MemOk (relOne part tb d b s) := by
  simp only [Machine.relOne]
  have h1 := fun n e => h.withMem (wf_wrEnt h.mem tb n e)
  exact MemOk.ite ((h1 _ _).cancelMove.withMem (wf_bRelease (h1 _ _).cancelMove.mem _ _ _)) (h1 _ _)
theorem relFrom (h : MemOk s) {part tb : Nat} {d : BDir} {l : List Nat} : MemOk (relFrom part tb d l s) := by
  induction l generalizing s with
  | nil => exact h
  | cons b l ih =>
    rw [relFrom_cons]
    exact ih h.relOne
theorem opKvrel (h : MemOk s) {part : Nat} {k : Word} : MemOk (opKvrel part k s) := h.relFrom.withMem (wf_setNblk h.relFrom.mem _ _ _)
theorem berthEffect (h : MemOk s) {id : Nat} {x : Acc} : MemOk (berthEffect id x s) := by
  simp only [Machine.berthEffect]
  split
  · exact h.setAcc
  · exact h.setAcc
  · split
    · exact h.setMove.setAcc
    · exact h.setAcc
  · exact h.opKvapp.setAcc
  · exact h.opKvshr.setAcc
  · exact h.opKvrel.setAcc
  · exact h
theorem gathEnd (h : MemOk s) {id : Nat} {x : Acc} {mv : Nat} : MemOk (gathEnd id x mv s) := h.setMove.setAcc

end MemOk

theorem execBerthOpPerform_memOk (h : MemOk s) : MemOkAfter (execBerthOpPerform s) := by
  simp only [execBerthOpPerform]
  split
  · exact h
  split
  · exact h.gathEnd
  · exact .ite h (.ite h.spend.accFail (.ite h.spend.accFail (.ite h.spend.accFail h.spend.berthEffect.touchHeal)))

/-! ## Channels (Machine/Channels.lean) -/

theorem MemOk.setChan (h : MemOk s) {k : Nat} {c : Chan} : MemOk (setChan s k c) := h
theorem MemOk.compileChan (h : MemOk s) {tt : Nat} {p : Nat × Nat} : MemOk (compileChan s tt p) := h
theorem MemOk.toOpen (h : MemOk s) {ch : Nat} : MemOk (toOpen s ch) := h
theorem MemOk.loseBank (h : MemOk s) {tm : Timing} {ch b : Nat} : MemOk (loseBank tm ch b s) :=
  h.withMem (wf_foldl _ h.mem fun _ _ hm => wf_storeBytes _ _ _ hm)
theorem MemOk.endEphemeral (h : MemOk s) {ch : Nat} : MemOk (endEphemeral s ch) :=
  (h.foldl _ fun _ h' _ _ => h'.loseBank).setChan

theorem execChannelHandover_memOk (h : MemOk s) : MemOkAfter (execChannelHandover s) := .ite (h.foldl _ fun _ h' _ _ => h'.setChan) h
theorem execRefreshDeadline_memOk (h : MemOk s) : MemOkAfter (execRefreshDeadline s) := .ite h.engineTrap h
theorem execRetentionExpiry_memOk (h : MemOk s) : MemOkAfter (execRetentionExpiry s) := .ite h.setChan h
theorem execWindowExpiry_memOk (h : MemOk s) : MemOkAfter (execWindowExpiry s) := by
  simp only [execWindowExpiry]
  split
  · exact .ite h h
  · exact h
theorem execChannelToOpen_memOk (h : MemOk s) : MemOkAfter (execChannelToOpen s) := .ite h.toOpen h
theorem execKeepAliveRefresh_memOk (h : MemOk s) : MemOkAfter (execKeepAliveRefresh s) := by
  simp only [execKeepAliveRefresh]
  split
  · exact .ite h.setChan h
  · exact h

/-! ## Queues (Machine/QuayBase.lean, Machine/Commands.lean) -/

namespace MemOk

theorem setQueue (h : MemOk s) {q : Nat} {x : Queue} : MemOk (setQueue s q x) := h
theorem updQueue (h : MemOk s) {q : Nat} {f : Queue → Queue} : MemOk (updQueue s q f) := h
theorem qStore (h : MemOk s) {q va v n : Nat} : MemOk (qStore s q va v n) := by
  unfold Machine.qStore
  split
  · exact h.storeLE
  · exact h
theorem qPost (h : MemOk s) {q va v n : Nat} : MemOk (qPost s q va v n) := by
  unfold Machine.qPost
  split
  · exact h.postBytes.ite h
  · exact h
theorem send (h : MemOk s) {m : OutMsg} : MemOk (send m s) := h
theorem qErr (h : MemOk s) {q code : Nat} : MemOk (qErr s q code) := h
theorem completeSlot (h : MemOk s) {q : Nat} : MemOk (completeSlot s q) := h.setQueue.qPost
theorem goTo (h : MemOk s) {q : Nat} {p : CPlace} : MemOk (goTo s q p) := by
  simp only [Machine.goTo]
  split
  · exact h.updQueue.completeSlot.ite h.updQueue
  · exact h.updQueue
theorem qNext (h : MemOk s) {q : Nat} : MemOk (qNext s q) := h.spend.goTo
theorem cSet (h : MemOk s) {v : Word} : MemOkAfter (cSet s v) := h.updQueue.qNext
theorem cPause (h : MemOk s) : MemOkAfter (cPause s) := h.updQueue
theorem cBranch (h : MemOk s) {q : Nat} : MemOk (cBranch s q) := by
  simp only [Machine.cBranch]
  split
  · exact h.qErr.ite h.goTo
  · exact h.goTo

end MemOk

theorem execSlotExecute_memOk (h : MemOk s) : MemOkAfter (execSlotExecute s) := by
  simp only [execSlotExecute]
  refine .ite h (.ite h.updQueue.qErr (.ite h ?_))
  split
  · exact h.qErr
  · exact .ite h (.ite h.spend (.ite h.spend.qErr h.spend.updQueue))

theorem execCliLiteral_memOk (h : MemOk s) : MemOkAfter (execCliLiteral s) := by
  simp only [execCliLiteral]
  split
  · refine .ite h.qErr ?_
    split
    · exact h.updQueue.goTo
    · exact h.qErr
  · split
    · exact .ite h.cPause h.updQueue.spend.goTo
    · exact h.qErr

theorem execCld_memOk (h : MemOk s) : MemOkAfter (execCld s) := by
  simp only [execCld]
  refine .ite h.qErr ?_
  split
  · exact h.qErr
  · exact .ite h.cSet h.cPause

theorem execCst_memOk (h : MemOk s) : MemOkAfter (execCst s) := .ite h.qErr (.ite h.qErr (.ite h.cPause h.qStore.qNext))
theorem execCb_memOk (h : MemOk s) : MemOkAfter (execCb s) := h.cBranch.ite h.qNext
theorem execCloop_memOk (h : MemOk s) : MemOkAfter (execCloop s) := .ite h.updQueue.qNext (h.qErr.ite h.updQueue.cBranch)
theorem execCcall_memOk (h : MemOk s) : MemOkAfter (execCcall s) := .ite h.qErr (.ite h.qErr (.ite h.qErr h.updQueue.goTo))
theorem execCret_memOk (h : MemOk s) : MemOkAfter (execCret s) := by
  simp only [execCret]
  split
  · exact h.qErr
  · exact h.updQueue.goTo
theorem execCfence_memOk (h : MemOk s) : MemOkAfter (execCfence s) := .ite h.qNext h.cPause
theorem execChalt_memOk (h : MemOk s) : MemOkAfter (execChalt s) := h.completeSlot.updQueue

theorem execCwait_memOk (h : MemOk s) : MemOkAfter (execCwait s) := by
  simp only [execCwait]
  refine .ite h.qErr ?_
  split
  · exact h.qErr
  · exact .ite h.cPause (.ite h.cSet h.spend.updQueue)

theorem execCwaitSatisfied_memOk (h : MemOk s) : MemOkAfter (execCwaitSatisfied s) := by
  simp only [execCwaitSatisfied]
  split
  · split
    · exact h.qErr
    · exact .ite h (.ite h.updQueue.qNext h.spend.updQueue)
  · exact h

theorem execCwaitTimeout_memOk (h : MemOk s) : MemOkAfter (execCwaitTimeout s) := by
  simp only [execCwaitTimeout]
  split
  · exact h.updQueue.qNext
  · exact h

theorem execCsig_memOk (h : MemOk s) : MemOkAfter (execCsig s) := by
  unfold execCsig
  exact .ite h.qErr (.ite h.qErr (.ite h.qErr (.ite h.cPause (MemOk.qNext (h.qStore.send.ite h.qStore)))))

theorem MemOk.copyStep (h : MemOk s) {q dst src left : Nat} {buf : Option Nat} {fin : Bool} :
    MemOk (copyStep s q dst src left buf fin) := by
  unfold Machine.copyStep
  split
  · exact h.qErr
  · exact h
  · exact MemOk.ite h.qErr (MemOk.ite (h.ite h.spend.updQueue) (h.qStore.qNext.ite h.qStore.spend.updQueue))

theorem execCcopy_memOk (h : MemOk s) : MemOkAfter (execCcopy s) := by
  simp only [execCcopy]
  split
  · exact .ite h.copyStep h
  · exact .ite h.qErr (.ite h.qNext (.ite h.qErr (.ite h.qErr h.updQueue)))

theorem execCcopyComplete_memOk (h : MemOk s) : MemOkAfter (execCcopyComplete s) := by
  simp only [execCcopyComplete]
  split
  · exact .ite h.copyStep h
  · exact h

theorem MemOk.beginMove (h : MemOk s) {q p key a : Nat} {up : Bool} {k : Word} : MemOk (beginMove s q p key a up k) :=
  (h.withMem (wf_wrEnt (wf_fifoTake h.mem _ _) _ _ _)).setMove

theorem startMove_memOk (h : MemOk s) (up : Bool) : MemOkAfter (startMove s up) := by
  simp only [startMove]
  refine .ite h.qErr (.ite h.qErr (.ite h.qErr ?_))
  split
  · exact h.updQueue
  · exact .ite h.updQueue (.ite h.cSet h.beginMove.cSet)

theorem MemOk.copyOne (h : MemOk s) {k : Nat} {v : Move} : MemOk (copyOne s k v) := by
  simp only [Machine.copyOne]
  split
  · exact h.spend.setMove
  · exact h.storeLE.spend.touchHeal.setMove

theorem execMoveCommit_memOk (h : MemOk s) : MemOkAfter (execMoveCommit s) :=
  .ite h (.ite (h.withMem (wf_wrEnt (wf_copyMem h.mem _ _ _) _ _ _)).spend.touchHeal.setMove.reportMove (h.copyOne.ite h))

theorem execMoveSlotReturn_memOk (h : MemOk s) : MemOkAfter (execMoveSlotReturn s) :=
  .ite h (h.withMem (wf_fifoAdd h.mem _ _ _)).spend.setMove

/-! ## Loading and launching (Machine/Loader.lean) -/

theorem MemOk.setTt (h : MemOk s) {k : Nat} {x : TT} : MemOk (setTt s k x) := h
theorem MemOk.setDom (h : MemOk s) {d : Nat} {x : Dom} : MemOk (setDom s d x) := h
theorem MemOk.acceptLoad (h : MemOk s) {img : List Byte} {mask slot : Nat} {fw : Bool} : MemOk (acceptLoad s img mask slot fw) :=
  h.setTt.foldl _ fun _ h' _ _ => h'.setCache

theorem execCttldComplete_memOk (h : MemOk s) : MemOkAfter (execCttldComplete s) := by
  simp only [execCttldComplete]
  split
  · split
    · exact h.qErr
    · exact .ite (MemOk.ite h.spend h).updQueue (MemOk.ite h.acceptLoad h).updQueue.qNext
  · exact h

theorem MemOk.dropTt (h : MemOk s) {k : Nat} : MemOk (dropTt s k) := h
theorem MemOk.unloadSlot (h : MemOk s) {k : Nat} {ps : List Nat} : MemOk (unloadSlot s k ps) :=
  h.foldl _ fun s' h' p _ => by
    split
    · exact h'
    · exact h'.dropTt.ite h'

theorem execCttldUn_memOk (h : MemOk s) : MemOkAfter (execCttldUn s) := .ite h.cSet (.ite h.cSet h.unloadSlot.cSet)

theorem MemOk.writeRecord (h : MemOk s) {k state tc nf prim cause : Nat} : MemOk (writeRecord s k state tc nf prim cause) := by
  simp only [Machine.writeRecord]
  split
  · exact h.postBytes
  · exact h
theorem MemOk.askHold (h : MemOk s) {d die : Nat} : MemOk (askHold s d die) := h.ite h.setDom
theorem MemOk.arm (h : MemOk s) {q k place t0 : Nat} {after : Option Nat} : MemOk (arm s q k place t0 after) := by
  unfold Machine.arm
  exact (MemOk.foldl (h.ite h.setDom) _ fun _ h' _ _ => h'.askHold).setTt.storeLE

theorem launch_memOk (h : MemOk s) (t0 : TT → Nat → Option (Nat × Option Nat)) : MemOkAfter (launch s t0) := by
  simp only [launch]
  split
  · exact h.qErr
  refine .ite h.qErr (.ite h.qErr ?_)
  split
  · exact h.qErr
  refine .ite h.qErr (.ite h.cPause ?_)
  split
  · exact h.cSet
  · generalize wheelOf = wheel
    exact .ite h.cSet (.ite h.cSet (.ite h.cSet h.arm.cSet))

theorem MemOk.sweepDom (h : MemOk s) {d : Nat} : MemOk (sweepDom s d) := by
  refine h.ite ?_
  obtain ⟨hm, hf, ht, hh, hc, hs⟩ := h
  refine ⟨hm, hf, ht, hh, fun c h' => ?_, hs⟩
  revert h'
  dsimp only
  split
  next c' hc' =>
    split
    · exact nofun
    · exact fun h' => hc c (hc'.trans h')
  · exact nofun
theorem MemOk.unhand (h : MemOk s) {img : List Byte} : MemOk (unhand s img) := h.foldl _ fun _ h' _ _ => h'.setChan
theorem MemOk.withdraw (h : MemOk s) {k : Nat} : MemOk (withdraw s k) := h.writeRecord.setTt.unhand.sweepDom

theorem execClaunchWd_memOk (h : MemOk s) : MemOkAfter (execClaunchWd s) := by
  simp only [execClaunchWd]
  refine .ite h.qErr ?_
  split
  · exact h.qErr
  split
  · exact .ite h.withdraw.cSet h.cSet
  · exact h.cSet

end Sys2Proof
end

section
open Sys2Proof Sys2Proof.Machine

namespace Sys2Proof

variable {s : State}

/-! ## The freeze, snapshots and the resume (Machine/Freeze.lean) -/

namespace MemOk

theorem withAgenda (h : MemOk s) {w : List Work} : MemOk { s with agenda := w } := h
theorem withExchs (h : MemOk s) {l : List Exch} : MemOk { s with exchs := l } := h
theorem withTemps (h : MemOk s) {l : Tab Nat} : MemOk { s with temps := l } := h

/-- The lists that a timetable's end cuts. -/
theorem withCuts (h : MemOk s) {g e x} {f : Snap → Bool} : MemOk { s with grants := g, eps := e, exchs := x, snaps := s.snaps.filter f } :=
  h.filterSnaps
theorem dropGrants (h : MemOk s) {ch : Nat} : MemOk (dropGrants s ch) := h

theorem freezeDom (h : MemOk s) {d : Nat} : MemOk (freezeDom s d) := by
  refine MemOk.setDom (MemOk.noCkpt (MemOk.foldl (MemOk.foldl (MemOk.foldl h _ ?_) _ ?_) _ ?_))
  · exact fun _ h' _ _ => h'.updTile
  · exact fun _ h' _ _ => h'.setTt
  · exact fun _ h' _ _ => h'.dropGrants.setChan

/-- The tiles of a checkpoint come back with the scratchpads they had (R206). -/
theorem rollBack (h : MemOk s) {c : Ckpt} (hc : s.ckpt = some c) : MemOk (rollBack s c) := by
  have ht : TilesOk c.tiles := h.2.2.2.2.1 c hc
  exact h.withTiles (ht.map fun _ => rfl)

theorem trapAll (h : MemOk s) {d cause : Nat} : MemOk (trapAll s d cause) :=
  (h.foldl _ fun _ h' _ _ => h'.updTile fun _ => recordTrap_m0 _ _ _ _ _).markFault

end MemOk

/-- An image of a tile's shaft holds its arrays, or none (R211). -/
theorem halvesOk_shaftImage (h : MemOk s) (portable : Bool) (id : Nat) : HalvesOk (shaftImage s portable id) := by
  intro p hp
  obtain ⟨q, hq, rfl⟩ := List.mem_map.1 hp
  cases portable
  · rfl
  · exact h.halves q (List.mem_of_mem_filter hq)

theorem snapOf_ok (h : MemOk s) (d : Nat) (portable : Bool) (k : Nat) :
    TilesOk (snapOf s d portable k).tiles ∧ HalvesOk (snapOf s d portable k).shafts := by
  refine ⟨(h.tiles.filter _).map fun _ => rfl, fun p hp => ?_⟩
  obtain ⟨id, _, hp⟩ := List.mem_flatMap.1 hp
  exact halvesOk_shaftImage h portable id p hp

theorem execSnapshotTaken_memOk (h : MemOk s) : MemOkAfter (execSnapshotTaken s) := by
  refine .ite h (MemOk.setDom (h.withSnaps fun n hn => ?_))
  rcases List.mem_append.1 hn with hn | hn
  · exact h.snaps n hn
  · obtain ⟨y, _, rfl⟩ := List.mem_map.1 hn
    exact snapOf_ok h _ _ _

namespace MemOk

theorem reportEnd (h : MemOk s) {k state : Nat} : MemOk (reportEnd s k state) := h.writeRecord
theorem finishTt (h : MemOk s) {k : Nat} : MemOk (finishTt s k) := by
  simp only [Machine.finishTt]
  refine MemOk.dropTt (k := k) (MemOk.withCuts (MemOk.foldl (MemOk.foldl (MemOk.foldl h _ ?_) _ ?_) _ ?_))
  · exact fun _ h' _ _ => h'.toOpen
  · exact fun _ h' _ _ => h'.endEphemeral
  · exact fun _ h' _ _ => h'.updTile
theorem dropFollowers (h : MemOk s) {k : Nat} : MemOk (dropFollowers s k) := h.foldl _ fun _ h' _ _ => h'.withdraw
theorem abortTts (h : MemOk s) {l : List Nat} : MemOk (abortTts s l) :=
  MemOk.foldl (h.foldl _ fun _ h' _ _ => h'.dropFollowers.reportEnd) _ fun _ h' _ _ => h'.finishTt
theorem unfreeze (h : MemOk s) {d : Nat} : MemOk (unfreeze s d) := h
theorem abortDom (h : MemOk s) {d : Nat} : MemOk (abortDom s d) := (h.abortTts.unfreeze.ite h.abortTts).sweepDom
theorem blankShaft (h : MemOk s) {n : Snap} {id : Nat} : MemOk (blankShaft n s id) :=
  h.foldl _ fun _ h' p hp => h'.setHalf (by
    split
    · rfl
    · exact h.halves p (List.mem_of_mem_filter hp))

/-- A snapshot whose memories are canonical comes back into a state whose memories are (R214, R216). -/
theorem restoreSnap (h : MemOk s) {n : Snap} (hn : TilesOk n.tiles ∧ HalvesOk n.shafts) {k d : Nat} : MemOk (restoreSnap s n k d) := by
  obtain ⟨ht, hs⟩ := hn
  simp only [Machine.restoreSnap]
  refine MemOk.foldl (MemOk.foldl (MemOk.withEps (MemOk.foldl (MemOk.foldl h.setTt _ ?_) _ ?_)) _ ?_) _ ?_
  · exact fun _ h' p hp => h'.setTile (ht p hp)
  · exact fun _ h' _ _ => h'.setChan
  · exact fun _ h' _ _ => h'.blankShaft
  · intro s' h' p hp
    refine h'.setHalf ?_
    split
    · exact hs p hp
    · exact h'.halfOf _

theorem resumeDom (h : MemOk s) {d : Nat} : MemOk (resumeDom s d) := by
  have hl : ∀ n ∈ s.snaps.filter (fun n => n.dom = d), TilesOk n.tiles ∧ HalvesOk n.shafts :=
    fun n hn => h.snaps n (List.mem_of_mem_filter hn)
  have hr : MemOk ((s.snaps.filter (fun n => n.dom = d)).foldl
      (fun s n => match snapTt s n with | some k => Machine.restoreSnap s n k d | none => s) s) := by
    refine h.foldl _ fun s' h' n hn => ?_
    split
    · exact h'.restoreSnap (hl n hn)
    · exact h'
  simp only [Machine.resumeDom]
  exact MemOk.ite h (MemOk.ite (h.setDom.ite h.filterSnaps.abortTts)
    (MemOk.withAgenda (MemOk.unfreeze (d := d) (MemOk.setDom (d := d) hr.filterSnaps))))

end MemOk

theorem execHarbourAbort_memOk (h : MemOk s) : MemOkAfter (execHarbourAbort s) := .ite h.abortDom h

theorem execTimetableEnded_memOk (h : MemOk s) : MemOkAfter (execTimetableEnded s) :=
  .ite h (.ite h.setDom (.ite h.withExchs.trapAll.send h.reportEnd.finishTt.sweepDom))
theorem execHoldPointFreeze_memOk (h : MemOk s) : MemOkAfter (execHoldPointFreeze s) := .ite h h.setDom
theorem execThermalHoldRequest_memOk (h : MemOk s) : MemOkAfter (execThermalHoldRequest s) :=
  .ite h (h.withTemps.foldl _ fun _ h' _ _ => h'.askHold)
theorem execThermalCooldown_memOk (h : MemOk s) : MemOkAfter (execThermalCooldown s) :=
  .ite h (h.withTemps.foldl _ fun _ h' _ _ => h'.setDom.resumeDom.ite h'.setDom)
theorem execThermalTrip_memOk (h : MemOk s) : MemOkAfter (execThermalTrip s) :=
  .ite h (h.withTemps.foldl _ fun _ h' _ _ => h'.setDom)

/-- An image brought in from outside is checked first (R216). -/
theorem imageOk_iff (n : Snap) : imageOk n = true ↔ TilesOk n.tiles ∧ HalvesOk n.shafts := by
  simp [imageOk, TilesOk, HalvesOk]

theorem execResume_memOk (h : MemOk s) : MemOkAfter (execResume s) := by
  simp only [execResume]
  split
  · exact h.resumeDom
  next n _ =>
    split
    · exact h
    next hc =>
      have hn : imageOk n = true := by simp_all
      refine MemOk.resumeDom (h.withSnaps fun m hm => ?_)
      rcases List.mem_append.1 hm with hm | hm
      · exact h.snaps m (List.mem_of_mem_filter hm)
      · rw [List.mem_singleton.1 hm]
        exact (imageOk_iff n).1 hn

/-! ## The cycle of a domain, starts and digests (Machine/Tick.lean) -/

namespace MemOk

theorem takeCkpt (h : MemOk s) {d : Nat} : MemOk (takeCkpt s d) := by
  refine MemOk.ite h.noCkpt ?_
  obtain ⟨hm, hf, ht, hh, _, hs⟩ := h
  exact ⟨hm, hf, ht, hh, fun c hc => by cases hc; exact ht, hs⟩
theorem clearCycle (h : MemOk s) {d : Nat} : MemOk (clearCycle s d) :=
  MemOk.foldl (h.foldl _ fun _ h' _ _ => h'.ite h'.updTile).noCkpt _ fun _ h' _ _ => h'.ite h'.setChan
theorem freezeNow (h : MemOk s) {d : Nat} : MemOk (freezeNow s d) := (h.trapAll.ite h).freezeDom

theorem closeCycle (h : MemOk s) {d : Nat} : MemOk (closeCycle s d) := by
  simp only [Machine.closeCycle]
  have hr : ∀ l : List Nat, MemOk (l.foldl (fun s id => Machine.updTile s id (fun t => recordTrap ⟨7, 0, 0, 0⟩ 6 t.bun none t)) s) :=
    fun l => h.foldl _ fun _ h' _ _ => h'.updTile fun _ => recordTrap_m0 _ _ _ _ _
  refine h.ite (MemOk.ite (MemOk.freezeNow ?_) (hr _).noCkpt)
  split
  next hc =>
    split
    · exact (hr _).rollBack hc
    · exact hr _
  · exact hr _

theorem before (h : MemOk s) {w : List Work} : MemOk (before w s) := h
theorem lastCycle (h : MemOk s) {d : Nat} : MemOk (lastCycle s d) :=
  h.ite (MemOk.clearCycle (h.foldl _ fun _ h' _ _ => h'.takeTrap)).before

end MemOk

theorem execTcTick_memOk (h : MemOk s) : MemOkAfter (execTcTick s) := .ite h h.noCkpt

theorem execTimetableStart_memOk (h : MemOk s) : MemOkAfter (execTimetableStart s) :=
  .ite (MemOk.foldl (h.setTt.foldl _ fun _ h' _ _ => h'.updTile) _ fun _ h' _ _ => h'.compileChan) h

theorem startTile_m0 (img : List Byte) (k i T : Nat) (fw : Bool) (t : Tile) : (startTile img k i T fw t).m0 = t.m0 := by
  simp only [startTile, startFill_m0, clearTile]

theorem execTaskStart_memOk (h : MemOk s) : MemOkAfter (execTaskStart s) := .ite (h.updTile (startTile_m0 _ _ _ _ _)) h

theorem MemOk.setExch (h : MemOk s) {e y : Exch} : MemOk (setExch e y s) := h

theorem execDigestJoint_memOk (h : MemOk s) : MemOkAfter (execDigestJoint s) := by
  simp only [execDigestJoint]
  split
  · exact h
  · exact .ite h (.ite h.spend.setExch h.spend.setExch.send)

theorem MemOk.withSnapsExchs (h : MemOk s) {l : List Snap} {x : List Exch} (hl : ∀ n ∈ l, TilesOk n.tiles ∧ HalvesOk n.shafts) :
    MemOk { s with snaps := l, exchs := x } := h.withSnaps hl

theorem MemOk.digestWait (h : MemOk s) {d : Nat} : MemOk (digestWait s d) := by
  simp only [Machine.digestWait, reportDiv]
  refine MemOk.ite h (MemOk.ite ?_ (MemOk.ite ?_ h))
  · exact MemOk.send (MemOk.withSnapsExchs (MemOk.setDom h.trapAll) fun n hn => h.snaps n (List.mem_of_mem_filter hn))
  · exact MemOk.resumeDom (MemOk.withExchs (MemOk.setDom h))

theorem execDigestExchangeDone_memOk (h : MemOk s) : MemOkAfter (execDigestExchangeDone s) := by
  simp only [execDigestExchangeDone]
  split
  · exact h
  · exact h.setExch.digestWait

theorem execDigestDeadline_memOk (h : MemOk s) : MemOkAfter (execDigestDeadline s) :=
  .ite h (.ite h.withExchs.trapAll.send (.ite h.setDom h.withExchs))

theorem execReplicaDecision_memOk (h : MemOk s) : MemOkAfter (execReplicaDecision s) := .ite h (.ite h.setDom.resumeDom h.setDom)

theorem MemOk.setPart (h : MemOk s) {p : Nat} {x : Partn} : MemOk (setPart s p x) := h
theorem execReplicaRecordWrite_memOk (h : MemOk s) : MemOkAfter (execReplicaRecordWrite s) := .ite h h.setPart

end Sys2Proof
end

section
open Sys2Proof Sys2Proof.Machine

namespace Sys2Proof

variable {s : State}

/-! ## The harbour controller (Machine/Harbour.lean) -/

/-- A reset empties the arrays, or keeps their bytes (R205). -/
theorem halvesOk_resetHalves {l : Tab Half} (h : HalvesOk l) (keep : Bool) : HalvesOk (resetHalves keep l) := by
  cases keep with
  | false => exact nofun
  | true =>
    intro p hp
    obtain ⟨q, hq, rfl⟩ := List.mem_map.1 (List.mem_of_mem_filter hp)
    exact h q hq

theorem tilesOk_resetTiles {l : Tab Tile} (h : TilesOk l) : TilesOk (resetTiles l) := by
  refine TilesOk.filter (h.map ?_) _
  exact fun _ => rfl

namespace MemOk

theorem withFw (h : MemOk s) {x : Harbour} (hx : x.fw.wf = true) : MemOk { s with hc := x } := by
  obtain ⟨hm, _, ht, hh, hc, hs⟩ := h
  exact ⟨hm, hx, ht, hh, hc, hs⟩

theorem abortAll (h : MemOk s) : MemOk (abortAll s) := h.abortTts
theorem flushPosted (h : MemOk s) : MemOk (flushPosted s) := h.foldl _ fun _ h' _ _ => h'.storeBytes.ite h'

/-- A warm reset keeps global memory, firmware memory, the scratchpads and the arrays' bytes, and drops every copy (R203, R205). -/
theorem warm (h : MemOk s) {l : List (Nat × Nat × Nat)} : MemOk (warm l s) := by
  obtain ⟨hm, hf, ht, hh, _, _⟩ := h.abortAll.flushPosted
  exact ⟨hm, hf, tilesOk_resetTiles ht, halvesOk_resetHalves hh true, nofun, nofun⟩

/-- A cold start keeps only what of memory lies past the stacks (R203). -/
theorem cold (h : MemOk s) {l : List (Nat × Nat × Nat)} : MemOk (cold l s) := by
  obtain ⟨_, hf, ht, hh, hc, hs⟩ := resetMemoryIsCanonical
  simp only [Machine.cold]
  exact ⟨wf_filter _ h.mem, hf, ht, hh, hc, hs⟩

theorem setRun (h : MemOk s) {i : Nat} {r : RunList} : MemOk (setRun s i r) := h
theorem endTurn (h : MemOk s) {i : Nat} {r : RunList} : MemOk (endTurn s i r) := (h.foldl _ fun _ h' _ _ => h'.updQueue).setRun
theorem setCore (h : MemOk s) {k : Nat} {c : HcCore} : MemOk (setCore s k c) := h
theorem withHalt (h : MemOk s) {q : Tab Queue} {a b : Bool} {d : Option Dump} :
    MemOk { s with queues := q, hc := { s.hc with halted := a, dying := b, dump := d } } := h
theorem fatal (h : MemOk s) {d : Dump} : MemOk (fatal d s) := h.ite (MemOk.withHalt (h.foldl _ fun _ h' _ _ => h'.setDom))
theorem withDump (h : MemOk s) {l : Tab Dom} {a : Bool} {d : Option Dump} :
    MemOk { s with doms := l, hc := { s.hc with dying := a, dump := d } } := h
theorem finishFatal (h : MemOk s) : MemOk (finishFatal s) := by
  simp only [Machine.finishFatal]
  split
  · exact h.ite (MemOk.withDump (MemOk.abortAll h.postBytes))
  · exact h
theorem capWrite (h : MemOk s) {region a : Nat} {bs : List Byte} {tag : Bool} : MemOk (capWrite s region a bs tag) :=
  (h.withFw (wf_storeBytes _ _ _ h.fw)).ite h.storeBytes
theorem capDo (h : MemOk s) {op : CapOp} {core r region a n : Nat} {next : Word} : MemOk (capDo op core r region a n next s) := by
  cases op with
  | read | fetch | loadCap => exact h.setCore
  | write | storeCap => exact h.capWrite.setCore
theorem withHc (h : MemOk s) {x : Harbour} (hx : x.fw = s.hc.fw := by rfl) : MemOk { s with hc := x } := h.withFw (hx ▸ h.fw)
theorem capFault (h : MemOk s) {core size addr : Nat} {cap : BitVec 128 × Bool} : MemOk (capFault core cap size addr s) := h.withHc.fatal
theorem revoke (h : MemOk s) {k : Nat} : MemOk (revoke s k) := h
theorem setVrep (h : MemOk s) {k : Nat} {v : Vrep} : MemOk (setVrep s k v) := h
theorem restoreAll (h : MemOk s) : MemOk (restoreAll s) := h
theorem repairOne (h : MemOk s) {sh i lane : Nat} : MemOk (repairOne sh i lane s) := by
  simp only [Machine.repairOne]
  have hb : MemOk { s with hc := { s.hc with badLanes := s.hc.badLanes.erase (sh, i, lane) } } := h
  refine MemOk.ite hb ?_
  split
  · exact hb
  · exact MemOk.ite (MemOk.setVrep (k := 4 * sh + i) hb).withHc
      (MemOk.foldl (MemOk.setVrep (k := 4 * sh + i) hb).withHc _ fun _ h' _ _ => h'.resumeDom)
theorem freeBytes (h : MemOk s) (n : Nat) : MemOk (freeBytes s n).2 := by
  induction n generalizing s with
  | zero => exact h
  | succ n ih => exact ih (s := (drawByte s).2) h
theorem sbSend (h : MemOk s) {cmd : Nat} {data : List Byte} : MemOk (sbSend cmd data s) := h
theorem sbError (h : MemOk s) : MemOk (sbError s) := h

end MemOk

theorem execWarmReset_memOk (h : MemOk s) : MemOkAfter (execWarmReset s) := h.warm
theorem execBringUp_memOk (h : MemOk s) : MemOkAfter (execBringUp s) := h.cold

theorem execRunListTurn_memOk (h : MemOk s) : MemOkAfter (execRunListTurn s) := by
  simp only [execRunListTurn]
  split
  · exact h
  · exact .ite h ((h.foldl _ fun _ h' _ _ => h'.updQueue).foldl _ fun _ h' _ _ => h'.setDom.resumeDom.ite h')

theorem execQuantumExpiry_memOk (h : MemOk s) : MemOkAfter (execQuantumExpiry s) := by
  simp only [execQuantumExpiry]
  split
  · exact h
  · have hd : ∀ (c : Prop) {_ : Decidable c} (l : List Nat) (f : State → Nat → Dom),
        MemOk (if c then s else l.foldl (fun s d => setDom s d (f s d)) s) :=
      fun _ _ l _ => h.ite (h.foldl l fun _ h' _ _ => h'.setDom)
    exact .ite h (.ite (hd _ _ _).setRun (hd _ _ _).endTurn)

theorem execFatalError_memOk (h : MemOk s) : MemOkAfter (execFatalError s) := .ite h.finishFatal h.fatal
theorem execWatchdogExpiry_memOk (h : MemOk s) : MemOkAfter (execWatchdogExpiry s) := h.fatal
theorem execCapAccess_memOk (h : MemOk s) : MemOkAfter (execCapAccess s) := .ite h (.ite h.capFault (h.orWait h.capDo))
theorem execCapDerive_memOk (h : MemOk s) : MemOkAfter (execCapDerive s) := .ite h (.ite h.setCore h.capFault)
theorem execRegionRevoke_memOk (h : MemOk s) : MemOkAfter (execRegionRevoke s) := h.revoke
theorem execKeyInstall_memOk (h : MemOk s) : MemOkAfter (execKeyInstall s) := .ite h.setPart h
theorem execKeyRemove_memOk (h : MemOk s) : MemOkAfter (execKeyRemove s) := .ite h h.setPart
theorem execAttestationQuote_memOk (h : MemOk s) : MemOkAfter (execAttestationQuote s) := .ite h h.send
theorem execLaneTestFail_memOk (h : MemOk s) : MemOkAfter (execLaneTestFail s) := h
theorem execShaftRepair_memOk (h : MemOk s) : MemOkAfter (execShaftRepair s) := h.restoreAll.ite h.repairOne

theorem sbWhenRun_memOk (h : MemOk s) {k : State} (hk : MemOk k) : MemOkAfter (sbWhenRun s k) := h.ite hk
theorem execSbInventory_memOk (h : MemOk s) : MemOkAfter (execSbInventory s) := h.sbSend
theorem execSbHealth_memOk (h : MemOk s) : MemOkAfter (execSbHealth s) := (h.freeBytes 14).sbSend
theorem execSbDumpInfo_memOk (h : MemOk s) : MemOkAfter (execSbDumpInfo s) := by
  refine sbWhenRun_memOk h ?_
  split
  · exact h.sbSend.ite h.sbSend
  · exact h.sbSend
theorem execSbDumpRead_memOk (h : MemOk s) : MemOkAfter (execSbDumpRead s) := by
  refine sbWhenRun_memOk h ?_
  split
  · exact h.sbError.ite (h.orWait h.sbSend)
  · exact h.sbError
theorem execSbResetWarm_memOk (h : MemOk s) : MemOkAfter (execSbResetWarm s) := h.sbSend.warm
theorem execSbResetCold_memOk (h : MemOk s) : MemOkAfter (execSbResetCold s) := h.sbSend.abortAll.cold
theorem execSbQuote_memOk (h : MemOk s) : MemOkAfter (execSbQuote s) := sbWhenRun_memOk h h.sbSend
theorem execSbDumpRequest_memOk (h : MemOk s) : MemOkAfter (execSbDumpRequest s) := sbWhenRun_memOk h h.sbSend.fatal
theorem execSbUnknownCommand_memOk (h : MemOk s) : MemOkAfter (execSbUnknownCommand s) := sbWhenRun_memOk h h.sbError
theorem execMctpControlMessage_memOk (h : MemOk s) : MemOkAfter (execMctpControlMessage s) := sbWhenRun_memOk h (h.freeBytes 8).send

/-! ## Register writes, the host and the links (Machine/Outside.lean) -/

theorem queueReg_memOk (h : MemOk s) {k : State} (hk : MemOk k) : MemOkAfter (queueReg s k) := h.ite hk
theorem execQtailWrite_memOk (h : MemOk s) : MemOkAfter (execQtailWrite s) := queueReg_memOk h (h.ite (h.setQueue.ite h.setQueue))
theorem execQctlEnWrite_memOk (h : MemOk s) : MemOkAfter (execQctlEnWrite s) :=
  queueReg_memOk h ((h.ite h.setQueue).ite h.spend.setQueue)
theorem execQctlSkip_memOk (h : MemOk s) : MemOkAfter (execQctlSkip s) := queueReg_memOk h (h.setQueue.ite h)

namespace MemOk

theorem unmap (h : MemOk s) {qs : List Nat} : MemOk (unmap qs s) := h.foldl _ fun _ h' _ _ => h'.updQueue
theorem addProc (h : MemOk s) {g : Nat} {p : Proc} : MemOk (addProc g p s) := by
  refine h.ite ?_
  split
  · exact h.unmap.withHc
  · exact h.unmap.withHc
theorem dropProc (h : MemOk s) {g k : Nat} : MemOk (dropProc g k s) := by
  simp only [Machine.dropProc]
  split
  · exact h
  · split
    · exact h
    · split
      · exact h
      · exact h.ite (h.unmap.foldl _ fun _ h' _ _ => h'.revoke).setRun
theorem addRegion (h : MemOk s) {k core reg : Nat} {r : Region} : MemOk (addRegion k core reg r s) := h.withHc.setCore.ite h.withHc
theorem hostAccess (h : MemOk s) : MemOk (hostAccess s) := by
  simp only [Machine.hostAccess]
  split
  · exact h
  · exact h.orWait (h.storeBytes.send.ite h.send)

end MemOk

theorem execRegisterWrite_memOk (h : MemOk s) : MemOkAfter (execRegisterWrite s) := by
  simp only [execRegisterWrite]
  split
  · exact h.withHc
  · refine .ite h ?_
    split
    · exact h.setQueue.ite h
    · exact h.setQueue.ite h
    · exact h.setQueue.ite h
    · exact h.setPart.ite h
    · exact h.setPart.ite h
    · exact MemOk.ite h h
    · exact h.setPart.ite h
    · exact h.addProc.ite h.dropProc
    · exact h.addRegion.ite h
    · exact h.acceptLoad.ite h
    · exact h.withHc.ite h
    · exact h.withHc.ite h
    · exact h.setCore
    · exact h

theorem execCxlMemAccess_memOk (h : MemOk s) : MemOkAfter (execCxlMemAccess s) := by
  simp only [execCxlMemAccess]
  split
  · exact h.storeBytes.ite h
  · exact h.ite h.hostAccess
  · exact h.ite h.send
  · exact h.ite h.send
  · exact h
theorem execCxlLaneFail_memOk (h : MemOk s) : MemOkAfter (execCxlLaneFail s) := MemOk.ite h h

theorem wf_flitWrites (l : List (Nat × Nat × Nat)) {m : Memory} (h : m.wf = true) : (flitWrites l m).wf = true := by
  induction l generalizing m with
  | nil => exact h
  | cons x r ih => exact ih (wf_storeLE _ _ _ _ h)
theorem MemOk.flitLoads (h : MemOk s) {dev : Nat} (l : List (Nat × Nat × Nat)) : MemOk (flitLoads dev l s) := by
  induction l generalizing s with
  | nil => exact h
  | cons x r ih => exact ih h.send
theorem execLinkFlitReceive_memOk (h : MemOk s) : MemOkAfter (execLinkFlitReceive s) :=
  .ite h (.ite h.send (.ite (h.orWait (h.withMem (wf_flitWrites _ h.mem))) (h.orWait (h.flitLoads _))))
theorem execLinkPortFail_memOk (h : MemOk s) : MemOkAfter (execLinkPortFail s) := h
theorem execLinkDeliveryTimeout_memOk (h : MemOk s) : MemOkAfter (execLinkDeliveryTimeout s) := by
  simp only [execLinkDeliveryTimeout]
  split
  · exact h
  · split
    · exact h
    · exact h.accFail

/-! ## The window issuer (Machine/Issuer.lean) -/

namespace MemOk

theorem arriveReqs (h : MemOk s) {ch : Nat} : MemOk (arriveReqs s ch) := h
theorem issuerDo (h : MemOk s) {ch x : Nat} {k : DCmd} {c : Chan} : MemOk (issuerDo s ch x k c) := h.setChan
theorem grantLines (h : MemOk s) {ch : Nat} {r : Req} : MemOk (grantLines ch r s) := MemOk.ite h h
theorem serveCmd (h : MemOk s) {ch x : Nat} {c : Chan} {r : Req} {l : List DCmd} : MemOk (serveCmd s ch x c r l) := by
  cases l with
  | nil => exact h
  | cons k rest => exact h.ite (h.issuerDo.grantLines.ite h.issuerDo)
theorem issuerCmd (h : MemOk s) {ch x e : Nat} : MemOk (issuerCmd s ch x e) := by
  simp only [Machine.issuerCmd]
  split
  · exact h.serveCmd
  · split
    · exact h.serveCmd.ite h
    · exact h

end MemOk

theorem execWindowIssuerCommand_memOk (h : MemOk s) : MemOkAfter (execWindowIssuerCommand s) := by
  simp only [execWindowIssuerCommand]
  split
  · exact h
  · refine .ite h ?_
    split
    · exact .ite h.arriveReqs.issuerCmd h.arriveReqs
    · exact h.arriveReqs

end Sys2Proof
end

section
open Sys2Proof Sys2Proof.Machine

namespace Sys2Proof

variable {s : State}

/-! ## Words whose effect splits into cases -/

theorem MemOk.dDo (h : MemOk s) {lp : Bool} {k : DCmd} : MemOk (dDo lp k s) := h.setChan

theorem vCmp_memOk (h : MemOk s) {v : MaskN} {a b : QSrc} {t : Ty} {m : MaskN} {f : Nat → Nat → Bool} :
    MemOkAfter (vCmp s v a b t m f) := by
  refine h.vWord fun vs s' h' => ?_
  split
  · exact h'.landMask
  · exact h'

theorem execVsel_memOk (h : MemOk s) (d : QN) (a b : QSrc) (t : Ty) (m : MaskN) : MemOkAfter (execVsel d a b t m s) := by
  refine h.vWord fun vs s' h' => ?_
  split
  · exact h'.landLanes
  · exact h'

theorem execVperm_memOk (h : MemOk s) (d : QN) (a b : QSrc) (t : Ty) (m : MaskN) : MemOkAfter (execVperm d a b t m s) := by
  simp only [execVperm]
  refine h.vWord fun vs s' h' => ?_
  split
  · exact h'.landLanes
  · exact h'

theorem execVwiden_memOk (h : MemOk s) (d : QN) (a : QSrc) (e t : Ty) : MemOkAfter (execVwiden d a e t s) := by
  simp only [execVwiden]
  refine h.vWord fun vs s' h' => MemOk.foldl h' _ ?_
  exact fun _ h'' _ _ => h''.landPush

theorem execVpackp_memOk (h : MemOk s) (d : QN) (a : QSrc) (t : Ty) (m : MaskN) : MemOkAfter (execVpackp d a t m s) := by
  simp only [execVpackp]
  refine h.vWord fun vs s' h' => MemOk.onMe (MemOk.ite (MemOk.landPush h') h') ?_
  exact fun _ => rfl

theorem execVpackpFl_memOk (h : MemOk s) (d : QN) (t : Ty) : MemOkAfter (execVpackpFl d t s) := by
  simp only [execVpackpFl]
  refine h.vWord fun vs s' h' => MemOk.onMe (MemOk.ite h' (MemOk.landPush h')) ?_
  exact fun _ => rfl

theorem execVunpk_memOk (h : MemOk s) (d : QN) (a : QSrc) (t : Ty) (m : MaskN) : MemOkAfter (execVunpk d a t m s) := by
  simp only [execVunpk]
  refine h.doWord (MemOk.onMe (MemOk.landPush h) fun tl => ?_)
  dsimp only
  split <;> rfl

theorem ldM0_memOk (h : MemOk s) (w : Width) (signed : Bool) (d : Reg) (ma : MemA) : MemOkAfter (ldM0 s w signed d ma) := by
  simp only [ldM0]
  exact h.doWord h.later
theorem ldM2_memOk (h : MemOk s) (w : Width) (signed : Bool) (sx : Sfx) (d : Reg) (ma : MemA) : MemOkAfter (ldM2 s w signed sx d ma) :=
  h.m2Word h.pendReg

/-! ## The dispatcher (Machine/Dispatch.lean) -/

/-- Every instruction, engine step and outside event keeps the form. -/
theorem exec_memOk (h : MemOk s) (i : Instr) : MemOkAfter (exec i s) := by
  cases i with
  | bringUp => exact execBringUp_memOk h
  | warmReset => exact execWarmReset_memOk h
  | tcTick => exact execTcTick_memOk h
  | timetableStart => exact execTimetableStart_memOk h
  | channelHandover => exact execChannelHandover_memOk h
  | taskStart => exact execTaskStart_memOk h
  | timetableEnded => exact execTimetableEnded_memOk h
  | writeLands => exact execWriteLands_memOk h
  | snapshotTaken => exact execSnapshotTaken_memOk h
  | branchTargetFetch => exact execBranchTargetFetch_memOk h
  | loopBack => exact execLoopBack_memOk h
  | pilotFillDone => exact execPilotFillDone_memOk h
  | jointRelease => exact execJointRelease_memOk h
  | holdPointFreeze => exact execHoldPointFreeze_memOk h
  | waitcRelease => exact execWaitcRelease_memOk h
  | drainComplete => exact execDrainComplete_memOk h
  | barwComplete => exact execBarwComplete_memOk h
  | waitLimitExpiry => exact execWaitLimitExpiry_memOk h
  | m0Access => exact execM0Access_memOk h
  | shaftAccess => exact execShaftAccess_memOk h
  | remoteShaftPerform => exact execRemoteShaftPerform_memOk h
  | m2AccessPerform => exact execM2AccessPerform_memOk h
  | pageWalkEnd => exact execPageWalkEnd_memOk h
  | agSourceRead => exact execAgSourceRead_memOk h
  | agPush => exact execAgPush_memOk h
  | mtLevelWrite => exact execMtLevelWrite_memOk h
  | mtQueryLevelRead => exact execMtQueryLevelRead_memOk h
  | mtHorizonWrite => exact execMtHorizonWrite_memOk h
  | beatAccess => exact execBeatAccess_memOk h
  | beatWriteInForce => exact execBeatWriteInForce_memOk h
  | maccLands => exact execMaccLands_memOk h
  | asRead => exact execAsRead_memOk h
  | drdLands => exact execDrdLands_memOk h
  | dwrSourceRead => exact execDwrSourceRead_memOk h
  | refreshDeadline => exact execRefreshDeadline_memOk h
  | retentionExpiry => exact execRetentionExpiry_memOk h
  | windowIssuerCommand => exact execWindowIssuerCommand_memOk h
  | windowExpiry => exact execWindowExpiry_memOk h
  | channelToOpen => exact execChannelToOpen_memOk h
  | keepAliveRefresh => exact execKeepAliveRefresh_memOk h
  | resume => exact execResume_memOk h
  | harbourAbort => exact execHarbourAbort_memOk h
  | thermalHoldRequest => exact execThermalHoldRequest_memOk h
  | thermalCooldown => exact execThermalCooldown_memOk h
  | thermalTrip => exact execThermalTrip_memOk h
  | laneTestFail => exact execLaneTestFail_memOk h
  | shaftRepair => exact execShaftRepair_memOk h
  | digestJoint => exact execDigestJoint_memOk h
  | digestExchangeDone => exact execDigestExchangeDone_memOk h
  | digestDeadline => exact execDigestDeadline_memOk h
  | replicaDecision => exact execReplicaDecision_memOk h
  | replicaRecordWrite => exact execReplicaRecordWrite_memOk h
  | berthOpPerform => exact execBerthOpPerform_memOk h
  | moveCommit => exact execMoveCommit_memOk h
  | moveSlotReturn => exact execMoveSlotReturn_memOk h
  | slotExecute => exact execSlotExecute_memOk h
  | qtailWrite => exact execQtailWrite_memOk h
  | qctlEnWrite => exact execQctlEnWrite_memOk h
  | qctlSkip => exact execQctlSkip_memOk h
  | registerWrite => exact execRegisterWrite_memOk h
  | keyInstall => exact execKeyInstall_memOk h
  | keyRemove => exact execKeyRemove_memOk h
  | attestationQuote => exact execAttestationQuote_memOk h
  | runListTurn => exact execRunListTurn_memOk h
  | quantumExpiry => exact execQuantumExpiry_memOk h
  | regionRevoke => exact execRegionRevoke_memOk h
  | capAccess => exact execCapAccess_memOk h
  | capDerive => exact execCapDerive_memOk h
  | fatalError => exact execFatalError_memOk h
  | watchdogExpiry => exact execWatchdogExpiry_memOk h
  | sbInventory => exact execSbInventory_memOk h
  | sbHealth => exact execSbHealth_memOk h
  | sbDumpInfo => exact execSbDumpInfo_memOk h
  | sbDumpRead => exact execSbDumpRead_memOk h
  | sbResetWarm => exact execSbResetWarm_memOk h
  | sbResetCold => exact execSbResetCold_memOk h
  | sbQuote => exact execSbQuote_memOk h
  | sbDumpRequest => exact execSbDumpRequest_memOk h
  | sbUnknownCommand => exact execSbUnknownCommand_memOk h
  | mctpControlMessage => exact execMctpControlMessage_memOk h
  | cxlMemAccess => exact execCxlMemAccess_memOk h
  | cxlLaneFail => exact execCxlLaneFail_memOk h
  | linkFlitReceive => exact execLinkFlitReceive_memOk h
  | linkPortFail => exact execLinkPortFail_memOk h
  | linkDeliveryTimeout => exact execLinkDeliveryTimeout_memOk h
  | nop | mhole => unfold exec; exact h
  | add | sub | mul | mulh | mulhn | and | or | xor | andn | shl | shr | sra | rotl | min | max | minn | maxn | sel | adda | clz
    | popc | addSl | subSl | mulSl | mulhSl | mulhnSl | andSl | orSl | xorSl | andnSl | shlSl | shrSl | sraSl | rotlSl | minSl
    | maxSl | minnSl | maxnSl | selSl | addaSl | movl | movk | addi | shli | shri | srai | movi | movf | tid | cyc | rdsr =>
    unfold exec; exact h.sWord
  | pcmpEq | pcmpNe | pcmpLt | pcmpGe | pcmpLtn | pcmpGen | pcmpEqSl | pcmpNeSl | pcmpLtSl | pcmpGeSl | pcmpLtnSl | pcmpGenSl
    | fcmpEq | fcmpLt | fcmpLe | fcmpUn | plogAnd | plogOr | plogXor | plogAndn | pset => unfold exec; exact h.sCmp
  | fadd | fsub | fmul | ffma =>
    unfold exec; simp only [execFadd, execFsub, execFmul, execFfma]
    exact h.sFloat
  | fcvt =>
    unfold exec; simp only [execFcvt]
    exact h.doWord h.landReg.landFlags
  | tidx =>
    unfold exec; simp only [execTidx]
    exact h.doWord h.landList
  | tdim =>
    unfold exec; simp only [execTdim]
    exact h.doWord h.landReg
  | kst | wrsr => unfold exec; exact h.doWord h.later
  | ptid | rdwc | rdtc => unfold exec; exact h.sPriv
  | br | bri | ret | vclr => unfold exec; exact h.doWord h.onMe
  | brl => exact execBrl_memOk h _ _
  | loop | loopr => unfold exec; exact h.doWord h.startLoop
  | segj => exact execSegj_memOk h _
  | segsel => exact execSegsel_memOk h _ _
  | tchk | trap =>
    unfold exec; simp only [execTchk, execTrap]
    exact h.doWord h
  | joint => exact execJoint_memOk h _
  | waitcLit | waitcReg => unfold exec; exact waitUntil_memOk h _ _
  | tend => exact execTend_memOk h _
  | vadd | vsub | vmul | vfma | vfms | vmin | vmax | vabs | vneg | vaddSat | vsubSat | vmulSat | vfmaSat | vfmsSat | vaddVi
    | vbcastVi | vaddVf | vbcastVf | vfmaVl | vaddVl | vand | vor | vxor | vnot | vshl | vshr | vsra | vpopc | vcvt | vrcp
    | vrsq | vexp2 | vlog2 | vrcpf | vrsqf => unfold exec; exact h.vLanes
  | vcmpEq | vcmpNe | vcmpLt | vcmpLe | vcmpUn => unfold exec; exact vCmp_memOk h
  | vmlogAnd | vmlogOr | vmlogXor | vmlogAndn =>
    unfold exec; simp only [execVmlogAnd, execVmlogOr, execVmlogXor, execVmlogAndn]
    exact h.doWord h.landMask
  | vsel => exact execVsel_memOk h _ _ _ _ _
  | vwiden => exact execVwiden_memOk h _ _ _ _
  | vnarrow =>
    unfold exec; simp only [execVnarrow]
    exact h.vWord fun _ _ h' => h'.landPush.landFlags
  | vmxs => unfold exec; exact h.vWord fun _ _ h' => h'.landPush.landPush.landFlags
  | vperm => exact execVperm_memOk h _ _ _ _ _
  | vshuf =>
    unfold exec; simp only [execVshuf]
    exact h.vWord fun _ _ h' => h'.landPush
  | vslideUp | vslideDn | viota => unfold exec; exact h.vWord fun _ _ h' => h'.landLanes
  | vbcast =>
    unfold exec; simp only [execVbcast]
    exact h.vWord fun _ _ h' => h'.landLanes
  | vpackp => exact execVpackp_memOk h _ _ _ _
  | vpackpFl => exact execVpackpFl_memOk h _ _
  | vunpk => exact execVunpk_memOk h _ _ _ _
  | vmovq => unfold exec; exact h.vWord fun _ _ h' => h'.landPush
  | vclrStrm => unfold exec; exact h.onMe
  | vdot | vdotAcc | vred | vredAcc | vdotW | vdotWAcc => unfold exec; exact h.vWord fun _ _ h' => h'.landRoot
  | ldsSigned | ldsUnsigned => unfold exec; exact h.guarded (ldM0_memOk h _ _ _ _)
  | sts | ldv | agset | agbind | asrd | mdrain | mtcut =>
    unfold exec; simp only [execSts, execLdv, execAgset, execAgbind, execAsrd, execMdrain, execMtcut]
    exact h.guarded (h.doWord h.later)
  | sldSigned | sldUnsigned => unfold exec; exact h.guardedM1 (ldM1_memOk h _ _ _ _)
  | sst => exact execSst_memOk h _ _ _ _
  | gldSigned | gldUnsigned => unfold exec; exact h.guardedM2 (ldM2_memOk h _ _ _ _ _)
  | gst =>
    unfold exec; simp only [execGst]
    exact h.guardedM2 (h.m2Word h)
  | stv => exact execStv_memOk h _ _ _
  | gldv => unfold exec; exact h.guardedM2 (h.m2Word h.reserve)
  | gstv | gaorv => unfold exec; exact h.guardedM2 (h.m2Word h.popped)
  | ggath =>
    unfold exec; simp only [execGgath]
    exact h.guardedM2 (h.m2Word h.popped.reserve)
  | gscat =>
    unfold exec; simp only [execGscat]
    exact h.guardedM2 (h.m2Word h.popped)
  | gaadd | gaor | gaand | gamaxI | gamaxN | gaminI | gaminN | gaxch | gacas => unfold exec; exact h.atomWord
  | kvlook | kvref => unfold exec; exact h.berthWord h.pendReg
  | kvgath => unfold exec; exact h.berthWord h.reserve
  | kvapp =>
    unfold exec; simp only [execKvapp]
    exact h.berthWord h.popped
  | kvshr | kvrel => unfold exec; exact h.berthWord h
  | drain => exact execDrain_memOk h _ _
  | fence => unfold exec; exact h.guarded h.addAcc
  | barw => exact execBarw_memOk h _ _ _
  | agrun =>
    unfold exec; simp only [execAgrun]
    exact h.guarded (h.doWord h.onMe.later)
  | agstop => exact execAgstop_memOk h _ _
  | mpush => exact execMpush_memOk h _ _ _ _ _ _
  | mclr | mmodeC | mmodeS | mpmask | mshift => unfold exec; exact h.guarded (h.doWord h.atMembers)
  | aswr => exact execAswr_memOk h _ _ _ _
  | macc =>
    unfold exec; simp only [execMacc]
    exact h.guarded (h.doWord h.atMembers.later)
  | dact =>
    unfold exec; simp only [execDact]
    exact h.dWord h.dDo
  | dpre | dprea | dref | drefb | dzq => unfold exec; exact h.dWord h.dDo
  | drdM0 | drdSh =>
    unfold exec; simp only [execDrdM0, execDrdSh]
    exact h.dWord h.drdGo
  | drdQ => unfold exec; exact h.dWord h.drdGo
  | dwrM0 | dwrSh =>
    unfold exec; simp only [execDwrM0, execDwrSh]
    exact h.dWord h.dwrGo
  | dwrQ => exact execDwrQ_memOk h _ _ _ _ _
  | dwin => exact execDwin_memOk h _ _ _
  | dmrw =>
    unfold exec; simp only [execDmrw]
    exact h.dWord h.dDo.setChan
  | mtclr => unfold exec; exact h.guarded h.later
  | mtld => exact execMtld_memOk h _ _ _ _
  | mtst | mtupd | mtsum | mtfind | mtroot | mtleaf | mthor => unfold exec; exact h.guarded (h.doWord h.later)
  | mtadd =>
    unfold exec; simp only [execMtadd]
    exact h.guarded (h.doWord h.later.landFlags)
  | cnop => unfold exec; exact h.qNext
  | cli | cmov | cadd | csub | cand | cor | cshl | cshr => unfold exec; exact h.cSet
  | cliLiteral => exact execCliLiteral_memOk h
  | cld => exact execCld_memOk h
  | cst => exact execCst_memOk h
  | cb => exact execCb_memOk h
  | cloop => exact execCloop_memOk h
  | ccall => exact execCcall_memOk h
  | cret => exact execCret_memOk h
  | cfence => exact execCfence_memOk h
  | chalt => exact execChalt_memOk h
  | cwait => exact execCwait_memOk h
  | cwaitSatisfied => exact execCwaitSatisfied_memOk h
  | cwaitTimeout => exact execCwaitTimeout_memOk h
  | csig => exact execCsig_memOk h
  | cttld =>
    unfold exec; simp only [execCttld]
    exact h.updQueue
  | cttldComplete => exact execCttldComplete_memOk h
  | cttldUn => exact execCttldUn_memOk h
  | claunchTc | claunchRel | claunchJt => unfold exec; exact launch_memOk h _
  | claunchWd => exact execClaunchWd_memOk h
  | ccopy => exact execCcopy_memOk h
  | ccopyComplete => exact execCcopyComplete_memOk h
  | cdemote | cpromote => unfold exec; exact startMove_memOk h _

end Sys2Proof
end

section
open Sys2Proof Sys2Proof.Machine

namespace Sys2Proof

variable {s : State}

/-! ## One step (Machine/Storage.lean to Machine/Step.lean) -/

namespace MemOk

theorem atWord (h : MemOk s) {c p : Nat} : MemOk { s with cur := c, pipe := p } := h
theorem withInput (h : MemOk s) {l : List (Instr × EvArgs)} {x : EvArgs} : MemOk { s with inputs := l, ev := x } := h
theorem withEv (h : MemOk s) {x : EvArgs} : MemOk { s with ev := x } := h
theorem withFree (h : MemOk s) {n : Nat} : MemOk { s with free := n } := h

theorem meetStorage (h : MemOk s) {id pipe : Nat} {i : Instr} : MemOk (meetStorage s id pipe i) := by
  unfold Machine.meetStorage
  split
  · exact h
  · exact h.takeTrap

theorem runBundle (h : MemOk s) {id : Nat} {l : List (Nat × Instr)} : MemOk (runBundle id l s).1 := by
  cases l with
  | nil => exact h
  | cons p r => exact h.before.atWord.meetStorage

theorem issueTile (h : MemOk s) {id : Nat} : MemOk (issueTile s id).1 := by
  simp only [Machine.issueTile]
  split
  · exact h
  · split
    · split
      · exact h.takeTrap
      · exact h.takeTrap
    · split
      · exact h.takeTrap
      · split
        · exact h.takeTrap
        · exact h.setTile_same.runBundle

theorem issueCmd (h : MemOk s) {q : Nat} : MemOk (issueCmd s q).1 := by
  have he {x : EvArgs} : MemOk { s with ev := x } := h.withEv
  simp only [Machine.issueCmd]
  split
  · exact he
  · exact he
  · exact he
  · split
    · exact he.qErr
    · split
      · exact he
      · split
        · exact he.qErr
        · exact he.updQueue

theorem prepare (h : MemOk s) (w : Work) : MemOk (prepare w s).1 := by
  cases w with
  | ev i x => exact h
  | issue id => exact h.issueTile
  | word id p i => exact h.atWord.meetStorage
  | ckpt d => exact h.takeCkpt
  | close d => exact h.closeCycle
  | last d => exact h.lastCycle
  | cmd q => exact h.issueCmd

theorem unwait (h : MemOk s) (w : Work) : MemOk (unwait w s) := by
  cases w with
  | ev i x =>
    simp only [Machine.unwait]
    split
    · exact h
    · exact h
  | _ => exact h

theorem chosen (h : MemOk s) (w : Work) : MemOk (chosen w s) := h.withFree.unwait w

end MemOk

theorem runWork_memOk (h : MemOk s) (w : Work) : MemOkAfter (runWork w s) := by
  unfold runWork
  split
  · trivial
  · have hp := h.prepare w
    split
    next hw => rwa [hw] at hp
    next s' i hw =>
      rw [hw] at hp
      exact exec_memOk hp i

theorem step_memOk (h : MemOk s) : MemOkAfter (step s) := by
  unfold step
  split
  · exact runWork_memOk h.withAgenda _
  · split
    · exact exec_memOk h.withInput _
    · split
      · exact h
      · exact runWork_memOk (h.chosen _) _

/-- Settles O8: a step changes a memory only through `storeBytes` and `storeLE`, by dropping entries, or by putting back a copy that a
checkpoint or a snapshot holds; an image brought in from outside is checked first. -/
theorem everyStepKeepsMemoryCanonical : Obligations.EveryStepKeepsMemoryCanonical := by
  unfold Obligations.EveryStepKeepsMemoryCanonical
  exact fun s t h ht => (step_memOk h).memOk ht

end Sys2Proof
end

section
/-! PROOFS. Decoding gives back what was encoded (O2): where a word has its literal, what the decoders make of packed fields, then
the instructions. -/

open Sys2Proof Sys2Proof.Machine Sys2Proof.Claims

namespace Sys2Proof

/-! ## What the statement asks of an encoding -/

/-- The word keeps to 31 bits, asks for a literal exactly where the encoder puts one, and decodes to the instruction. -/
structure Carries (w : Nat) (l : Option Lit) (i : Instr) : Prop where
  width : w < 2 ^ 31
  literal : wantsLit w = l.isSome
  decodes : decodeWord (readPos i) w (l.getD 0) = some i

/-- The encoding of the instruction, if it has one, carries the instruction. -/
def Survives (i : Instr) : Prop := ∀ w l, encTile i = some (w, l) → Carries w l i

/-! ## The decoder at each major (R47) -/

section
variable {pos w : Nat} {lit : Lit}

theorem decodeWord_maj0 {f : FSR} (h : majOf w = 0) (hf : unpackSR w = f) : decodeWord pos w lit = decMaj0 f := by
  simp only [decodeWord, h, hf]
theorem decodeWord_maj1 {f : FSI} (h : majOf w = 1) (hf : unpackSI w = f) : decodeWord pos w lit = decMaj1 f := by
  simp only [decodeWord, h, hf]
theorem decodeWord_maj2 {f : FSF} (h : majOf w = 2) (hf : unpackSF w = f) : decodeWord pos w lit = decMaj2 f := by
  simp only [decodeWord, h, hf]
theorem decodeWord_maj3 {f : FSL} (h : majOf w = 3) (hf : unpackSL w = f) : decodeWord pos w lit = decMaj3 f lit := by
  simp only [decodeWord, h, hf]
theorem decodeWord_maj4 {f : FSR} (h : majOf w = 4) (hf : unpackSR w = f) : decodeWord pos w lit = decMaj4 f := by
  simp only [decodeWord, h, hf]
theorem decodeWord_maj8 {f : FBR} (h : majOf w = 8) (hf : unpackBR w = f) : decodeWord pos w lit = decMaj8 f := by
  simp only [decodeWord, h, hf]
theorem decodeWord_maj9 {f : FBR} (h : majOf w = 9) (hf : unpackBR w = f) : decodeWord pos w lit = decMaj9 f lit := by
  simp only [decodeWord, h, hf]
theorem decodeWord_maj10 {f : FBR} (h : majOf w = 10) (hf : unpackBR w = f) : decodeWord pos w lit = decMaj10 f := by
  simp only [decodeWord, h, hf]
theorem decodeWord_maj11 {f : FBR} (h : majOf w = 11) (hf : unpackBR w = f) : decodeWord pos w lit = decMaj11 f lit := by
  simp only [decodeWord, h, hf]
theorem decodeWord_maj12 {f : FVR} (h : majOf w = 12) (hf : unpackVR w = f) : decodeWord pos w lit = decMaj12 f := by
  simp only [decodeWord, h, hf]
theorem decodeWord_maj13 {f : FVI} (h : majOf w = 13) (hf : unpackVI w = f) : decodeWord pos w lit = decMaj13 f := by
  simp only [decodeWord, h, hf]
theorem decodeWord_maj14 {f : FVF} (h : majOf w = 14) (hf : unpackVF w = f) : decodeWord pos w lit = decMaj14 f := by
  simp only [decodeWord, h, hf]
theorem decodeWord_maj15 {f : FVL} (h : majOf w = 15) (hf : unpackVL w = f) : decodeWord pos w lit = decMaj15 f lit := by
  simp only [decodeWord, h, hf]
theorem decodeWord_maj16 {f : FVR} (h : majOf w = 16) (hf : unpackVR w = f) : decodeWord pos w lit = decMaj16 f := by
  simp only [decodeWord, h, hf]
theorem decodeWord_maj17 {f : FVP} (h : majOf w = 17) (hf : unpackVP w = f) : decodeWord pos w lit = decMaj17 f := by
  simp only [decodeWord, h, hf]
theorem decodeWord_maj18 {f : FVR} (h : majOf w = 18) (hf : unpackVR w = f) : decodeWord pos w lit = decMaj18 f := by
  simp only [decodeWord, h, hf]
theorem decodeWord_maj20 {f : FMM} (h : majOf w = 20) (hf : unpackMM w = f) : decodeWord pos w lit = decMaj20 pos f lit := by
  simp only [decodeWord, h, hf]
theorem decodeWord_maj21 {f : FMM} (h : majOf w = 21) (hf : unpackMM w = f) : decodeWord pos w lit = decMaj21 pos f lit := by
  simp only [decodeWord, h, hf]
theorem decodeWord_maj22 {f : FMM} (h : majOf w = 22) (hf : unpackMM w = f) : decodeWord pos w lit = decMaj22 pos f lit := by
  simp only [decodeWord, h, hf]
theorem decodeWord_maj23 {f : FMM} (h : majOf w = 23) (hf : unpackMM w = f) : decodeWord pos w lit = decMaj23 pos f lit := by
  simp only [decodeWord, h, hf]
theorem decodeWord_maj24 {f : FXB} (h : majOf w = 24) (hf : unpackXB w = f) : decodeWord pos w lit = decMaj24 f lit := by
  simp only [decodeWord, h, hf]
theorem decodeWord_maj25 {f : FXP} (h : majOf w = 25) (hf : unpackXP w = f) : decodeWord pos w lit = decMaj25 f lit := by
  simp only [decodeWord, h, hf]
theorem decodeWord_maj26 {f : FDD} (h : majOf w = 26) (hf : unpackDD w = f) : decodeWord pos w lit = decMaj26 f lit := by
  simp only [decodeWord, h, hf]
theorem decodeWord_maj27 {f : FDD} (h : majOf w = 27) (hf : unpackDD w = f) : decodeWord pos w lit = decMaj27 f := by
  simp only [decodeWord, h, hf]
theorem decodeWord_maj28 {f : FTT} (h : majOf w = 28) (hf : unpackTT w = f) : decodeWord pos w lit = decMaj28 f lit := by
  simp only [decodeWord, h, hf]
theorem decodeWord_maj30 {f : FSY} (h : majOf w = 30) (hf : unpackSY w = f) : decodeWord pos w lit = decMaj30 f := by
  simp only [decodeWord, h, hf]

end

/-! ## Where a word has its literal (R38, R49) -/

/-- The words of these majors take no literal. -/
theorem wantsLit_of_major {m p : Nat} (hm : m ∈ [0, 1, 2, 4, 12, 13, 14, 16, 17, 18, 30]) (hp : p < 67108864) :
    wantsLit (mkWord m p) = false := by
  have hmaj : majOf (mkWord m p) = m := majOf_mkWord m p (by simp at hm; omega) hp
  simp only [wantsLit, hmaj]
  simp at hm
  rcases hm with rfl | rfl | rfl | rfl | rfl | rfl | rfl | rfl | rfl | rfl | rfl <;> rfl

/-- In the memory, beat, DRAM and tree words the lowest bit asks for the literal. -/
theorem wantsLit_lowest {m p : Nat} (hm : 20 ≤ m ∧ m ≤ 28) (hp : p < 67108864) :
    wantsLit (mkWord m p) = decide (p % 2 = 1) := by
  have hmaj : majOf (mkWord m p) = m := majOf_mkWord m p (by omega) hp
  simp only [wantsLit, hmaj]
  rw [if_neg (by omega), if_neg (by omega), if_neg (by omega), if_pos hm]
  refine decide_eq_decide.2 ?_
  simp only [mkWord]
  omega

theorem wantsLit_SL (f : FSL) : wantsLit (mkWord 3 (packSL f)) = decide (f.x = 0#1) := by
  have hb := f.fn.isLt; have hk := f.k.isLt; have hx := f.x.isLt
  simp only [wantsLit, majOf_mkWord 3 _ (by omega) (packSL_lt f), if_true, decide_eq_decide, ← BitVec.toNat_inj]
  simp only [mkWord, packSL, BitVec.toNat_ofNat]
  omega

theorem wantsLit_VL (f : FVL) : wantsLit (mkWord 15 (packVL f)) = decide (f.x = 0#1) := by
  have hx := f.x.isLt; have hk := f.k.isLt; have ht := f.t.isLt; have hm := f.m.isLt; have hf := f.fn.isLt
  simp only [wantsLit, majOf_mkWord 15 _ (by omega) (packVL_lt f)]
  simp only [show (15 : Nat) ≠ 3 by omega, if_false, if_true, decide_eq_decide, ← BitVec.toNat_inj]
  simp only [mkWord, packVL, BitVec.toNat_ofNat]
  omega

theorem wantsLit_BR {m : Nat} (hm : 8 ≤ m ∧ m ≤ 11) (f : FBR) : wantsLit (mkWord m (packBR f)) = decide (f.l = 1#1) := by
  have hl := f.l.isLt; have ha := f.a.isLt; have hr := f.r.isLt; have hk := f.k.isLt
  simp only [wantsLit, majOf_mkWord m _ (by omega) (packBR_lt f)]
  rw [if_neg (by omega), if_neg (by omega), if_pos hm]
  simp only [decide_eq_decide, ← BitVec.toNat_inj]
  simp only [mkWord, packBR, BitVec.toNat_ofNat]
  omega

/-- A field of one bit at the lowest place. -/
theorem lowest_bit {x : BitVec 1} {n : Nat} : (2 * n + x.toNat) % 2 = 1 ↔ x = 1#1 := by
  have hx := x.isLt
  rw [← BitVec.toNat_inj, BitVec.toNat_ofNat]
  omega

theorem wantsLit_MM {m : Nat} (hm : 20 ≤ m ∧ m ≤ 28) (f : FMM) : wantsLit (mkWord m (packMM f)) = decide (f.l = 1#1) := by
  rw [wantsLit_lowest hm (packMM_lt f), decide_eq_decide, ← lowest_bit
    (n := f.g.toNat * 4194304 + f.fn.toNat * 131072 + f.o.toNat * 32768 + f.s.toNat * 4096 + f.d.toNat * 64 + f.b.toNat)]
  simp only [packMM]
  omega
theorem wantsLit_XB (f : FXB) : wantsLit (mkWord 24 (packXB f)) = decide (f.l = 1#1) := by
  rw [wantsLit_lowest (by omega) (packXB_lt f), decide_eq_decide, ← lowest_bit
    (n := f.g.toNat * 4194304 + f.fn.toNat * 262144 + f.x.toNat)]
  simp only [packXB]
  omega
theorem wantsLit_XP (f : FXP) : wantsLit (mkWord 25 (packXP f)) = decide (f.l = 1#1) := by
  rw [wantsLit_lowest (by omega) (packXP_lt f), decide_eq_decide, ← lowest_bit
    (n := f.g.toNat * 4194304 + f.fn.toNat * 262144 + f.p.toNat * 16384 + f.x.toNat)]
  simp only [packXP]
  omega
theorem wantsLit_DD {m : Nat} (hm : 20 ≤ m ∧ m ≤ 28) (f : FDD) : wantsLit (mkWord m (packDD f)) = decide (f.l = 1#1) := by
  rw [wantsLit_lowest hm (packDD_lt f), decide_eq_decide, ← lowest_bit
    (n := f.g.toNat * 4194304 + f.fn.toNat * 262144 + f.ch.toNat * 131072 + f.x.toNat)]
  simp only [packDD]
  omega
theorem wantsLit_TT (f : FTT) : wantsLit (mkWord 28 (packTT f)) = decide (f.l = 1#1) := by
  rw [wantsLit_lowest (by omega) (packTT_lt f), decide_eq_decide, ← lowest_bit
    (n := f.g.toNat * 4194304 + f.fn.toNat * 262144 + f.t.toNat * 131072 + f.d.toNat * 2048 + f.a.toNat * 32 + f.p.toNat * 2 +
      f.f.toNat)]
  simp only [packTT]
  omega

/-- A literal follows exactly where the X bit, the L bit or the literal bit of the source says so (R38). -/
@[simp] theorem Val.xbit_eq_zero (v : Val) : decide (v.xbit = 0#1) = v.literal.isSome := by cases v <;> rfl
@[simp] theorem RegLit.lbit_eq_one (v : RegLit) : decide (v.lbit = 1#1) = v.literal.isSome := by cases v <;> rfl
@[simp] theorem litBit_eq_one (x : Option Lit) : decide (litBit x = 1#1) = x.isSome := by cases x <;> rfl

theorem width_cases (w : Width) : w = 0 ∨ w = 1 ∨ w = 2 ∨ w = 3 := by revert w; decide

section
variable {pos : Nat} {g : Guard} {w : Width} {o : BitVec 2} {x : BitVec 3} {d b : Reg} {l : BitVec 1} {lit : Lit}

/-! The three spaces share the encodings of a scalar load or store; the position tells them apart (R36). -/

theorem decMaj20_loadSigned : decMaj20 pos ⟨g, 0#3 ++ w, o, x, d, b, l⟩ lit =
    if pos = 1 ∧ o = 0#2 ∧ x = 0#3 then some (.ldsSigned g w d ⟨b, ofLitBit l lit⟩) else
    if pos = 2 ∧ o = 0#2 ∧ x = 0#3 then some (.sldSigned g w d ⟨b, ofLitBit l lit⟩) else
    if pos = 3 then some (.gldSigned g w ⟨MOrd.ofCode o, MScp.ofCode x⟩ d ⟨b, ofLitBit l lit⟩) else none := by
  rcases width_cases w with rfl | rfl | rfl | rfl <;> simp [decMaj20, part]
theorem decMaj20_loadUnsigned : decMaj20 pos ⟨g, 1#3 ++ w, o, x, d, b, l⟩ lit =
    if pos = 1 ∧ o = 0#2 ∧ x = 0#3 then some (.ldsUnsigned g w d ⟨b, ofLitBit l lit⟩) else
    if pos = 2 ∧ o = 0#2 ∧ x = 0#3 then some (.sldUnsigned g w d ⟨b, ofLitBit l lit⟩) else
    if pos = 3 then some (.gldUnsigned g w ⟨MOrd.ofCode o, MScp.ofCode x⟩ d ⟨b, ofLitBit l lit⟩) else none := by
  rcases width_cases w with rfl | rfl | rfl | rfl <;> simp [decMaj20, part]
theorem decMaj20_store : decMaj20 pos ⟨g, 2#3 ++ w, o, x, d, b, l⟩ lit =
    if pos = 1 ∧ o = 0#2 ∧ x = 0#3 then some (.sts g w d ⟨b, ofLitBit l lit⟩) else
    if pos = 2 ∧ o = 0#2 ∧ x = 0#3 then some (.sst g w d ⟨b, ofLitBit l lit⟩) else
    if pos = 3 then some (.gst g w ⟨MOrd.ofCode o, MScp.ofCode x⟩ d ⟨b, ofLitBit l lit⟩) else none := by
  rcases width_cases w with rfl | rfl | rfl | rfl <;> simp [decMaj20, part]

end

/-- LOOPR's FN is one more than its epilogue count (R134). -/
theorem decMaj9_loopr (x : EpiN) (k : LoopN) (n : RegLit) (e : PackN) :
    decMaj9 ⟨x.setWidth 4 + 1, k, 0, n.lbit, n.regField, 0, e⟩ (n.literal.getD 0) = some (.loopr x k n e) := by
  have h : ∀ x : EpiN, x = 0 ∨ x = 1 ∨ x = 2 ∨ x = 3 ∨ x = 4 ∨ x = 5 ∨ x = 6 ∨ x = 7 := by decide
  rcases h x with rfl | rfl | rfl | rfl | rfl | rfl | rfl | rfl <;> simp [decMaj9]

/-! ## A word that carries its instruction -/

section

variable {i : Instr} {m : Nat} {l : Option Lit} {α : Type} {pack : α → Nat} {unpack : Nat → α} {f : α}

/-- An instruction survives when its fields come back from the word, its literal is asked for, and every word with its major and
its fields decodes to it. -/
theorem survives_of (hu : ∀ m f, unpack (m * 67108864 + pack f) = f) (hp : ∀ f, pack f < 67108864)
    (he : encTile i = some (mkWord m (pack f), l)) (hm : m < 32) (hl : wantsLit (mkWord m (pack f)) = l.isSome)
    (hd : ∀ w, majOf w = m → unpack w = f → decodeWord (readPos i) w (l.getD 0) = some i) : Survives i := by
  intro w l' h
  obtain ⟨rfl, rfl⟩ : mkWord m (pack f) = w ∧ l = l' := by simpa [he] using h
  have hf := hp f
  exact ⟨by simp only [mkWord]; omega, hl, hd _ (majOf_mkWord m _ hm hf) (hu m f)⟩

/-- The majors whose words take no literal. -/
theorem survives_plain {d : Option Instr} (hu : ∀ m f, unpack (m * 67108864 + pack f) = f) (hp : ∀ f, pack f < 67108864)
    (hdec : ∀ {w}, majOf w = m → unpack w = f → decodeWord (readPos i) w 0 = d)
    (he : encTile i = some (mkWord m (pack f), none)) (hd : d = some i)
    (hm : m ∈ [0, 1, 2, 4, 12, 13, 14, 16, 17, 18, 30] := by decide) : Survives i :=
  survives_of hu hp he (by simp at hm; omega) (wantsLit_of_major hm (hp f)) fun w hw hf => (hdec hw hf).trans hd

end

section
variable {i : Instr} {m : Nat} {l : Option Lit} {d : Option Instr}

/-! The classes whose words have a bit that asks for the literal. -/

theorem survives_SL {f : FSL} (hdec : ∀ {w}, majOf w = 3 → unpackSL w = f → decodeWord (readPos i) w (l.getD 0) = d)
    (he : encTile i = some (mkWord 3 (packSL f), l)) (hd : d = some i)
    (hl : decide (f.x = 0#1) = l.isSome := by simp) : Survives i :=
  survives_of unpackSL_pack packSL_lt he (by omega) ((wantsLit_SL f).trans hl) fun w hw hf => (hdec hw hf).trans hd
theorem survives_VL {f : FVL} (hdec : ∀ {w}, majOf w = 15 → unpackVL w = f → decodeWord (readPos i) w (l.getD 0) = d)
    (he : encTile i = some (mkWord 15 (packVL f), l)) (hd : d = some i)
    (hl : decide (f.x = 0#1) = l.isSome := by simp) : Survives i :=
  survives_of unpackVL_pack packVL_lt he (by omega) ((wantsLit_VL f).trans hl) fun w hw hf => (hdec hw hf).trans hd
theorem survives_XB {f : FXB} (hdec : ∀ {w}, majOf w = 24 → unpackXB w = f → decodeWord (readPos i) w (l.getD 0) = d)
    (he : encTile i = some (mkWord 24 (packXB f), l)) (hd : d = some i)
    (hl : decide (f.l = 1#1) = l.isSome := by simp) : Survives i :=
  survives_of unpackXB_pack packXB_lt he (by omega) ((wantsLit_XB f).trans hl) fun w hw hf => (hdec hw hf).trans hd
theorem survives_XP {f : FXP} (hdec : ∀ {w}, majOf w = 25 → unpackXP w = f → decodeWord (readPos i) w (l.getD 0) = d)
    (he : encTile i = some (mkWord 25 (packXP f), l)) (hd : d = some i)
    (hl : decide (f.l = 1#1) = l.isSome := by simp) : Survives i :=
  survives_of unpackXP_pack packXP_lt he (by omega) ((wantsLit_XP f).trans hl) fun w hw hf => (hdec hw hf).trans hd
theorem survives_TT {f : FTT} (hdec : ∀ {w}, majOf w = 28 → unpackTT w = f → decodeWord (readPos i) w (l.getD 0) = d)
    (he : encTile i = some (mkWord 28 (packTT f), l)) (hd : d = some i)
    (hl : decide (f.l = 1#1) = l.isSome := by simp) : Survives i :=
  survives_of unpackTT_pack packTT_lt he (by omega) ((wantsLit_TT f).trans hl) fun w hw hf => (hdec hw hf).trans hd
theorem survives_BR {f : FBR} (hdec : ∀ {w}, majOf w = m → unpackBR w = f → decodeWord (readPos i) w (l.getD 0) = d)
    (he : encTile i = some (mkWord m (packBR f), l)) (hd : d = some i) (hm : 8 ≤ m ∧ m ≤ 11 := by decide)
    (hl : decide (f.l = 1#1) = l.isSome := by simp) : Survives i :=
  survives_of unpackBR_pack packBR_lt he (by omega) ((wantsLit_BR hm f).trans hl) fun w hw hf => (hdec hw hf).trans hd
theorem survives_DD {f : FDD} (hdec : ∀ {w}, majOf w = m → unpackDD w = f → decodeWord (readPos i) w (l.getD 0) = d)
    (he : encTile i = some (mkWord m (packDD f), l)) (hd : d = some i) (hm : 20 ≤ m ∧ m ≤ 28 := by decide)
    (hl : decide (f.l = 1#1) = l.isSome := by simp) : Survives i :=
  survives_of unpackDD_pack packDD_lt he (by omega) ((wantsLit_DD hm f).trans hl) fun w hw hf => (hdec hw hf).trans hd
theorem survives_MM (pos : Nat) (hp : readPos i = pos) {f : FMM}
    (hdec : ∀ {w}, majOf w = m → unpackMM w = f → decodeWord pos w (l.getD 0) = d)
    (he : encTile i = some (mkWord m (packMM f), l)) (hd : d = some i) (hm : 20 ≤ m ∧ m ≤ 28 := by decide)
    (hl : decide (f.l = 1#1) = l.isSome := by simp) : Survives i :=
  survives_of unpackMM_pack packMM_lt he (by omega) ((wantsLit_MM hm f).trans hl) fun w hw hf => by rw [hp, hdec hw hf, hd]

end

/-! ## The instructions

The row of its major that a word's function code names is found by computation; where the row has a condition on the fields, it is
met. In the majors whose rows unpack a field again, that field is what was packed. -/

/-- Every word with a guard survives: the memory, beat, DRAM and tree words, the privileged ones apart. -/
theorem guardedWord_survives (i : Instr) (hp : guardField i ≠ none) : Survives i := by
  cases i with
  | ldsSigned => exact survives_MM 1 rfl decodeWord_maj20 rfl (by simp [decMaj20_loadSigned])
  | sldSigned => exact survives_MM 2 rfl decodeWord_maj20 rfl (by simp [decMaj20_loadSigned])
  | gldSigned => exact survives_MM 3 rfl decodeWord_maj20 rfl (by simp [decMaj20_loadSigned])
  | ldsUnsigned => exact survives_MM 1 rfl decodeWord_maj20 rfl (by simp [decMaj20_loadUnsigned])
  | sldUnsigned => exact survives_MM 2 rfl decodeWord_maj20 rfl (by simp [decMaj20_loadUnsigned])
  | gldUnsigned => exact survives_MM 3 rfl decodeWord_maj20 rfl (by simp [decMaj20_loadUnsigned])
  | sts => exact survives_MM 1 rfl decodeWord_maj20 rfl (by simp [decMaj20_store])
  | sst => exact survives_MM 2 rfl decodeWord_maj20 rfl (by simp [decMaj20_store])
  | gst => exact survives_MM 3 rfl decodeWord_maj20 rfl (by simp [decMaj20_store])
  | ldv | stv => exact survives_MM 1 rfl decodeWord_maj20 rfl (by change ite _ _ _ = _; simp)
  | gldv | gstv => exact survives_MM 3 rfl decodeWord_maj20 rfl (by change ite _ _ _ = _; simp)
  | ggath g w | gscat g w =>
    cases w <;> exact survives_MM 3 rfl decodeWord_maj21 rfl (by change ite _ _ _ = _; simp [bitAt])
  | gaadd g w | gaor g w | gaand g w | gamaxI g w | gamaxN g w | gaminI g w | gaminN g w | gaxch g w | gacas g w =>
    cases w <;> exact survives_MM 3 rfl decodeWord_maj21 rfl (by change some _ = _; simp [bitAt])
  | gaorv => exact survives_MM 3 rfl decodeWord_maj21 rfl (by change ite _ _ _ = _; simp)
  | kvlook | kvshr | kvrel | kvref | fence => exact survives_MM 3 rfl decodeWord_maj22 rfl (by change some _ = _; simp)
  | kvgath | kvapp | drain | barw => exact survives_MM 3 rfl decodeWord_maj22 rfl (by change ite _ _ _ = _; simp)
  | agset | agbind | agrun | agstop => exact survives_MM 1 rfl decodeWord_maj23 rfl (by change ite _ _ _ = _; simp)
  | mpush | mclr | mmodeC | mmodeS | mpmask | asrd | aswr =>
    exact survives_XB decodeWord_maj24 rfl (by
      simp [decMaj24, unpackMpush_pack, unpackMmode_pack, unpackMpmask_pack, unpackAsrd_pack, unpackAswr_pack,
        -BitVec.toNat_ofNat])
  | mshift | macc | mdrain =>
    exact survives_XP decodeWord_maj25 rfl (by simp [decMaj25, unpackMacc_pack, unpackMdrain_pack, -BitVec.toNat_ofNat])
  | dact | dpre | dprea | drdM0 | drdSh | drdQ | dwrM0 | dwrSh | dwrQ | dref | drefb | dwin =>
    exact survives_DD decodeWord_maj26 rfl (by
      simp [decMaj26, unpackDact_pack, unpackDcol_pack, unpackDwin_pack, -BitVec.toNat_ofNat])
  | mtclr | mtroot | mthor => exact survives_TT decodeWord_maj28 rfl (by change some _ = _; simp)
  | mtld | mtst | mtupd | mtadd | mtsum | mtfind | mtcut | mtleaf =>
    exact survives_TT decodeWord_maj28 rfl (by change ite _ _ _ = _; simp)
  | _ => exact absurd rfl hp

/-- Every well-formed tile instruction survives. -/
theorem wellFormed_survives (i : Instr) (hi : i.WellFormed) : Survives i := by
  cases i with
  | add d a b =>
    have hz : ¬(d = 0#6 ∧ a = 0#6 ∧ b = 0#6) := by
      rintro ⟨rfl, rfl, rfl⟩
      exact absurd (show fieldsLegal _ = true from hi) (by decide)
    exact survives_plain unpackSR_pack packSR_lt decodeWord_maj0 rfl (by change ite _ _ _ = _; simp [hz])
  | nop | sub | mul | mulh | mulhn | and | or | xor | andn | shl | shr | sra | rotl | min | max | minn | maxn | sel | adda | clz
    | popc =>
    exact survives_plain unpackSR_pack packSR_lt decodeWord_maj0 rfl (by change some _ = _; simp)
  | pcmpEq | pcmpNe | pcmpLt | pcmpGe | pcmpLtn | pcmpGen =>
    exact survives_plain unpackSR_pack packSR_lt decodeWord_maj0 rfl (by change ite _ _ _ = _; simp)
  | addi | shli | shri | srai | movi =>
    exact survives_plain unpackSI_pack packSI_lt decodeWord_maj1 rfl (by change some _ = _; simp)
  | movf => exact survives_plain unpackSF_pack packSF_lt decodeWord_maj2 rfl (by change some _ = _; simp)
  | movl | movk => exact survives_SL decodeWord_maj3 rfl (by change some _ = _; simp)
  | addSl | subSl | mulSl | mulhSl | mulhnSl | andSl | orSl | xorSl | andnSl | shlSl | shrSl | sraSl | rotlSl | minSl | maxSl
    | minnSl | maxnSl | selSl | addaSl | pcmpEqSl | pcmpNeSl | pcmpLtSl | pcmpGeSl | pcmpLtnSl | pcmpGenSl =>
    exact survives_SL decodeWord_maj3 rfl (by change ite _ _ _ = _; simp)
  | fadd | fsub | fmul | ffma | fcvt | kst | tid | cyc | rdsr | wrsr =>
    exact survives_plain unpackSR_pack packSR_lt decodeWord_maj4 rfl (by change some _ = _; simp)
  | fcmpEq | fcmpLt | fcmpLe | fcmpUn | plogAnd | plogOr | plogXor | plogAndn | pset | tidx | tdim =>
    exact survives_plain unpackSR_pack packSR_lt decodeWord_maj4 rfl (by change ite _ _ _ = _; simp)
  | br | brl | bri | ret => exact survives_BR decodeWord_maj8 rfl (by change some _ = _; simp)
  | loop => exact survives_BR decodeWord_maj9 rfl (by change ite _ _ _ = _; simp)
  | loopr x k n e => exact survives_BR decodeWord_maj9 rfl (decMaj9_loopr x k n e)
  | segj | segsel => exact survives_BR decodeWord_maj10 rfl (by change some _ = _; simp)
  | tchk | joint | waitcLit | waitcReg | tend | trap => exact survives_BR decodeWord_maj11 rfl (by change some _ = _; simp)
  | vadd | vsub | vmul | vfma | vfms | vmin | vmax | vabs | vneg | vaddSat | vsubSat | vmulSat | vfmaSat | vfmsSat =>
    exact survives_plain unpackVR_pack packVR_lt decodeWord_maj12 rfl (by change some _ = _; simp)
  | vaddVi | vbcastVi => exact survives_plain unpackVI_pack packVI_lt decodeWord_maj13 rfl (by change some _ = _; simp)
  | vaddVf | vbcastVf => exact survives_plain unpackVF_pack packVF_lt decodeWord_maj14 rfl (by change some _ = _; simp)
  | vfmaVl | vaddVl => exact survives_VL decodeWord_maj15 rfl (by change ite _ _ _ = _; simp)
  | vand | vor | vxor | vnot | vshl | vshr | vsra | vpopc | vsel =>
    exact survives_plain unpackVR_pack packVR_lt decodeWord_maj16 rfl (by change some _ = _; simp)
  | vcmpEq | vcmpNe | vcmpLt | vcmpLe | vcmpUn | vmlogAnd | vmlogOr | vmlogXor | vmlogAndn =>
    exact survives_plain unpackVR_pack packVR_lt decodeWord_maj16 rfl (by change ite _ _ _ = _; simp)
  | vdot | vdotAcc | vrcp | vrsq | vexp2 | vlog2 | vrcpf | vrsqf | vdotW | vdotWAcc =>
    exact survives_plain unpackVP_pack packVP_lt decodeWord_maj17 rfl (by change some _ = _; simp)
  | vred | vredAcc => exact survives_plain unpackVP_pack packVP_lt decodeWord_maj17 rfl (by change ite _ _ _ = _; simp)
  | vcvt | vnarrow | vmxs | vperm | vshuf | viota | vpackp | vpackpFl | vunpk | vmovq | vclr | vclrStrm =>
    exact survives_plain unpackVR_pack packVR_lt decodeWord_maj18 rfl (by change some _ = _; simp)
  | vwiden | vslideUp | vslideDn | vbcast =>
    exact survives_plain unpackVR_pack packVR_lt decodeWord_maj18 rfl (by change ite _ _ _ = _; simp)
  | dmrw | dzq => exact survives_DD decodeWord_maj27 rfl (by simp [decMaj27, unpackDmrw_pack, -BitVec.toNat_ofNat])
  | ptid | rdwc | rdtc => exact survives_plain unpackSY_pack packSY_lt decodeWord_maj30 rfl (by change some _ = _; simp)
  | mhole => exact survives_MM 1 rfl decodeWord_maj23 rfl rfl
  | ldsSigned | ldsUnsigned | sts | sldSigned | sldUnsigned | sst | gldSigned | gldUnsigned | gst | ldv | stv | gldv | gstv
    | ggath | gscat | gaadd | gaor | gaand | gamaxI | gamaxN | gaminI | gaminN | gaxch | gacas | gaorv | kvlook | kvgath | kvapp
    | kvshr | kvrel | kvref | drain | fence | barw | agset | agbind | agrun | agstop | mpush | mclr | mmodeC | mmodeS | mpmask
    | asrd | aswr | mshift | macc | mdrain | dact | dpre | dprea | drdM0 | drdSh | drdQ | dwrM0 | dwrSh | dwrQ | dref | drefb
    | dwin | mtclr | mtld | mtst | mtupd | mtadd | mtsum | mtfind | mtcut | mtroot | mtleaf | mthor =>
    exact guardedWord_survives _ nofun
  | _ => exact fun _ _ h => nomatch h

end Sys2Proof

/-- Settles O2: the encoder puts the operands into fields that unpack to what was packed, and each field's code names its value. -/
theorem encodingLosesNoOperand : Obligations.EncodingLosesNoOperand := by
  unfold Obligations.EncodingLosesNoOperand
  intro i w l hi he
  obtain ⟨hw, hl, hd⟩ := wellFormed_survives i hi w l he
  exact ⟨hw, hl, hd⟩
end

section
/-! PROOFS. Words and bundles that do not decode (O3). -/

open Sys2Proof Sys2Proof.Machine Sys2Proof.Claims

namespace Sys2Proof

variable {get : Nat → Nat} {w : Nat} {lit : Lit} {pos : Nat} {f : FMM} {i : Instr}

/-! ## Reserved majors (R47) -/

theorem decodeWord_reserved (h : majOf w ∈ [5, 6, 7, 0x13, 0x1D, 0x1F]) : decodeWord pos w lit = none := by
  simp only [List.mem_cons, List.not_mem_nil, or_false] at h
  rcases h with h | h | h | h | h | h <;> simp only [decodeWord, h]

/-! ## Memory words stand at their positions (R36) -/

theorem decMaj20_position (h : decMaj20 pos f lit = some i) : pos = 1 ∨ pos = 2 ∨ pos = 3 := by
  by_contra! hp
  unfold decMaj20 at h
  split at h <;> simp [hp] at h

theorem decMaj21_position (h : decMaj21 pos f lit = some i) : pos = 3 := by
  by_contra hp
  unfold decMaj21 at h
  split at h <;> simp [hp] at h

theorem decMaj22_position (h : decMaj22 pos f lit = some i) : pos = 3 := by
  by_contra hp
  unfold decMaj22 at h
  split at h <;> simp [hp] at h

theorem decMaj23_position (h : decMaj23 pos f lit = some i) : pos = 1 ∨ pos = 2 ∨ i = .mhole := by
  by_contra! hp
  unfold decMaj23 at h
  split at h <;> simp [hp] at h
  exact hp.2.2 h.2.symm

theorem memoryWord_position (h : decodeWord pos w lit = some i) :
    (majOf w = 0x14 → pos = 1 ∨ pos = 2 ∨ pos = 3) ∧ (majOf w = 0x15 ∨ majOf w = 0x16 → pos = 3) ∧
      (majOf w = 0x17 → pos = 1 ∨ pos = 2 ∨ i = .mhole) := by
  refine ⟨fun hm => ?_, fun hm => ?_, fun hm => ?_⟩
  · rw [decodeWord_maj20 hm rfl] at h
    exact decMaj20_position h
  · rcases hm with hm | hm
    · rw [decodeWord_maj21 hm rfl] at h
      exact decMaj21_position h
    · rw [decodeWord_maj22 hm rfl] at h
      exact decMaj22_position h
  · rw [decodeWord_maj23 hm rfl] at h
    exact decMaj23_position h

theorem memoryWordsDecodeOnlyAtTheirPositions : MemoryWordsDecodeOnlyAtTheirPositions :=
  ⟨fun _ _ _ _ h => memoryWord_position h, fun _ _ _ _ => ⟨rfl, rfl, rfl, rfl⟩⟩

/-! ## Splitting a bundle (R33, R35, R49) -/

theorem decodeBundle_of_split_error {e : DecErr} (h : splitBundle get 7 w 0 = .error e) : decodeBundle get w = .error e := by
  simp only [decodeBundle, h]

theorem splitBundle_pastEnd {fuel n : Nat} (h : 255 ≤ w) : splitBundle get (fuel + 1) w n = .error .pastEnd := by
  rw [splitBundle, if_pos h]

theorem splitBundle_literalAtWordZero {fuel n : Nat} (h : w < 255) (hl : wantsLit (get w) = true) (hw : (w + 1) % 3 = 0) :
    splitBundle get (fuel + 1) w n = .error .literalAtWordZero := by
  simp [splitBundle, hl, hw, h.not_ge]

/-- The literal of a word would stand at word 0 of a packet, or past the end. -/
theorem splitBundle_badLiteral {fuel n : Nat} (hl : wantsLit (get w) = true) (hw : (w + 1) % 3 = 0) :
    ∃ e, splitBundle get (fuel + 1) w n = .error e := by
  by_cases h : 255 ≤ w
  · exact ⟨_, splitBundle_pastEnd h⟩
  · exact ⟨_, splitBundle_literalAtWordZero (not_le.1 h) hl hw⟩

/-- Six words are taken: there is no seventh. -/
theorem splitBundle_full {fuel n : Nat} (hn : 6 ≤ n) : ∃ e, splitBundle get (fuel + 1) w n = .error e := by
  rw [splitBundle]
  have h1 : n + 1 > 6 := by omega
  have h2 : n + 2 > 6 := by omega
  simp only [h1, h2, if_true]
  split_ifs <;> exact ⟨_, rfl⟩

/-- An error after a word that chains on is an error of the bundle. -/
theorem splitBundle_error_of_next {fuel n : Nat} (hc : chainOf (get w) = true) (hl : wantsLit (get w) = false)
    (h : ∃ e, splitBundle get fuel (w + 1) (n + 1) = .error e) : ∃ e, splitBundle get (fuel + 1) w n = .error e := by
  obtain ⟨e, he⟩ := h
  rw [splitBundle]
  simp only [hc, hl, he, Bool.false_eq_true, if_false, if_true]
  split_ifs <;> exact ⟨_, rfl⟩

theorem splitBundle_error_of_chain {fuel k n : Nat}
    (hk : ∀ j, j < k → chainOf (get (w + j)) = true ∧ wantsLit (get (w + j)) = false)
    (h : ∃ e, splitBundle get fuel (w + k) (n + k) = .error e) : ∃ e, splitBundle get (fuel + k) w n = .error e := by
  induction k generalizing w n with
  | zero => exact h
  | succ k ih =>
    obtain ⟨hc, hl⟩ := hk 0 k.succ_pos
    refine splitBundle_error_of_next hc hl (ih (fun j hj => ?_) ?_)
    · rw [Nat.add_assoc, Nat.add_comm 1]
      exact hk (j + 1) (Nat.succ_lt_succ hj)
    · rw [Nat.add_assoc w, Nat.add_assoc n, Nat.add_comm 1]
      exact h

theorem decodeBundle_ne_ok_of_chain {k : Nat} (hk : k ≤ 6)
    (hc : ∀ j, j < k → chainOf (get (w + j)) = true ∧ wantsLit (get (w + j)) = false)
    (h : ∃ e, splitBundle get (6 - k + 1) (w + k) k = .error e) (r : List (Nat × Instr) × Nat) :
    decodeBundle get w ≠ .ok r := by
  obtain ⟨e, he⟩ := splitBundle_error_of_chain (n := 0) hc (by rwa [Nat.zero_add])
  rw [show 6 - k + 1 + k = 7 by omega] at he
  simp [decodeBundle_of_split_error he]

/-! ## Words of a pipe (R34) -/

/-- The words of a bundle whose pipe is of class c. -/
def perPipe (ws : List (Nat × Lit)) (c : Nat) : Nat := ws.countP (fun x => pipeClass (majOf x.1) == some c)

theorem perPipe_cons (x : Nat × Lit) (ws : List (Nat × Lit)) (c : Nat) :
    perPipe (x :: ws) c = perPipe ws c + if pipeClass (majOf x.1) = some c then 1 else 0 := by
  simp [perPipe, List.countP_cons]

/-- A word that decodes to a legal instruction passes its list on; the rest of the list decodes. -/
theorem ok_of_go_ok {o : Option Instr} {r : Except DecErr (List (Nat × Instr))} {pipe : Nat} {l : List (Nat × Instr)}
    (h : (match o with
      | none => .error .unassigned
      | some i => if fieldsLegal i then
          match r with
          | .error e => .error e
          | .ok l => .ok ((pipe, i) :: l)
        else .error .illegalField) = Except.ok l) : ∃ l, r = .ok l := by
  cases r with
  | ok l => exact ⟨l, rfl⟩
  | error e =>
    cases o with
    | none => cases h
    | some i =>
      dsimp only at h
      split at h <;> cases h

/-- The first word of a list that decodes has a pipe that is free, and the rest decodes with that pipe counted. -/
theorem decodeWords_cons_ok {ws : List (Nat × Lit)} {s m : Nat} {used : List Nat} {l : List (Nat × Instr)}
    (h : decodeWords ((w, lit) :: ws) s m used = .ok l) :
    (pipeClass (majOf w) = some 0 ∧ s < 2 ∧ ∃ l, decodeWords ws (s + 1) m used = .ok l) ∨
    (pipeClass (majOf w) = some 4 ∧ m < 3 ∧ ∃ l, decodeWords ws s (m + 1) used = .ok l) ∨
    ∃ c, c ≠ 0 ∧ c ≠ 4 ∧ pipeClass (majOf w) = some c ∧ c ∉ used ∧ ∃ l, decodeWords ws s m (c :: used) = .ok l := by
  unfold decodeWords at h
  split at h
  case h_1 => cases h
  case h_2 hp =>
    split at h
    · cases h
    · exact .inl ⟨hp, by omega, ok_of_go_ok h⟩
  case h_3 hp =>
    split at h
    · cases h
    · exact .inr (.inl ⟨hp, by omega, ok_of_go_ok h⟩)
  case h_4 c h0 h4 hp =>
    split at h
    · cases h
    next hu => exact .inr (.inr ⟨c, h0, h4, hp, by simpa using hu, ok_of_go_ok h⟩)

/-- What a list of words that decodes holds: no reserved major, and of each pipe no more words than are still free. -/
theorem decodeWords_ok_limits {ws : List (Nat × Lit)} {s m : Nat} {used : List Nat} {l : List (Nat × Instr)}
    (h : decodeWords ws s m used = .ok l) (hs : s ≤ 2) (hm : m ≤ 3) :
    (∀ x ∈ ws, pipeClass (majOf x.1) ≠ none) ∧ s + perPipe ws 0 ≤ 2 ∧ m + perPipe ws 4 ≤ 3 ∧
      ∀ c, c ≠ 0 → c ≠ 4 → perPipe ws c ≤ if c ∈ used then 0 else 1 := by
  induction ws generalizing s m used l with
  | nil => simp [perPipe, hs, hm]
  | cons x ws ih =>
    simp only [List.forall_mem_cons, perPipe_cons]
    rcases decodeWords_cons_ok h with ⟨hp, hs', l', h'⟩ | ⟨hp, hm', l', h'⟩ | ⟨c, hc0, hc4, hp, hu, l', h'⟩
    · obtain ⟨ha, h0, h4, hc⟩ := ih h' hs' hm
      simp only [hp]
      refine ⟨⟨by simp, ha⟩, by simp; omega, by simpa using h4, fun c hc0 hc4 => ?_⟩
      simpa [hc0.symm] using hc c hc0 hc4
    · obtain ⟨ha, h0, h4, hc⟩ := ih h' hs hm'
      simp only [hp]
      refine ⟨⟨by simp, ha⟩, by simpa using h0, by simp; omega, fun c hc0 hc4 => ?_⟩
      simpa [hc4.symm] using hc c hc0 hc4
    · obtain ⟨ha, h0, h4, hd⟩ := ih h' hs hm
      simp only [hp]
      refine ⟨⟨by simp, ha⟩, by simpa [hc0] using h0, by simpa [hc4] using h4, fun d hd0 hd4 => ?_⟩
      have hle := hd d hd0 hd4
      by_cases hcd : c = d
      · subst hcd
        simpa [hu] using hle
      · simpa [hcd, Ne.symm hcd] using hle

/-- The statement counts the words of a pipe by their majors, reserved ones with them. -/
theorem ofMajors_le_perPipe {ws : List (Nat × Lit)} {ms : List Nat} {c : Nat}
    (hws : ∀ x ∈ ws, pipeClass (majOf x.1) ≠ none) (hms : ∀ k ∈ ms, pipeClass k = none ∨ pipeClass k = some c) : ofMajors ws ms ≤ perPipe ws c := by
  unfold ofMajors perPipe
  rw [← List.countP_eq_length_filter]
  refine List.countP_mono_left fun x hx hk => ?_
  simpa [hws x hx] using hms (majOf x.1) (by simpa using hk)

theorem decodeBundle_ne_ok_of_words {ws : List (Nat × Lit)} {nx : Nat} (h : splitBundle get 7 w 0 = .ok (ws, nx))
    (hd : ∀ l, decodeWords ws 0 0 [] ≠ .ok l) (r : List (Nat × Instr) × Nat) : decodeBundle get w ≠ .ok r := by
  simp only [decodeBundle, h]
  cases hl : decodeWords ws 0 0 [] with
  | error e => simp
  | ok l => exact absurd hl (hd l)

theorem illegalBundlesDoNotDecode : IllegalBundlesDoNotDecode := by
  refine ⟨fun get w h => decodeBundle_of_split_error (splitBundle_pastEnd h),
    fun get w h hl hw => decodeBundle_of_split_error (splitBundle_literalAtWordZero h hl hw),
    fun get w _ hc => decodeBundle_ne_ok_of_chain le_rfl hc (splitBundle_full le_rfl),
    fun get w k hk hc hl hw => decodeBundle_ne_ok_of_chain hk.le hc (splitBundle_badLiteral hl hw),
    fun get w ws nx hsp h => decodeBundle_ne_ok_of_words hsp fun l hd => ?_⟩
  obtain ⟨hws, h0, h4, hc⟩ := decodeWords_ok_limits hd (Nat.zero_le _) (Nat.zero_le _)
  have hS := ofMajors_le_perPipe (ms := [0, 1, 2, 3, 4, 5, 6, 7, 0x1E]) (c := 0) hws (by decide)
  have hB := ofMajors_le_perPipe (ms := [8, 9, 0xA, 0xB]) (c := 2) hws (by decide)
  have hV := ofMajors_le_perPipe (ms := [0xC, 0xD, 0xE, 0xF, 0x10, 0x11, 0x12, 0x13]) (c := 3) hws (by decide)
  have hM := ofMajors_le_perPipe (ms := [0x14, 0x15, 0x16, 0x17]) (c := 4) hws (by decide)
  have hX := ofMajors_le_perPipe (ms := [0x18, 0x19]) (c := 7) hws (by decide)
  have hD := ofMajors_le_perPipe (ms := [0x1A, 0x1B]) (c := 8) hws (by decide)
  have hT := ofMajors_le_perPipe (ms := [0x1C]) (c := 9) hws (by decide)
  have hB' : perPipe ws 2 ≤ 1 := hc 2 (by decide) (by decide)
  have hV' : perPipe ws 3 ≤ 1 := hc 3 (by decide) (by decide)
  have hX' : perPipe ws 7 ≤ 1 := hc 7 (by decide) (by decide)
  have hD' : perPipe ws 8 ≤ 1 := hc 8 (by decide) (by decide)
  have hT' : perPipe ws 9 ≤ 1 := hc 9 (by decide) (by decide)
  omega

end Sys2Proof

/-- Settles O3: the three parts of the statement. -/
theorem wordsThatTheSpecRefusesDoNotDecode : Obligations.WordsThatTheSpecRefusesDoNotDecode :=
  ⟨fun _ _ _ h => decodeWord_reserved h, memoryWordsDecodeOnlyAtTheirPositions, illegalBundlesDoNotDecode⟩
end

section
/-! PROOFS. Identity, cycle, constant-bank and special-register words (O14): the vocabulary of the statement in the model's own
operations, then the words. -/

open Sys2Proof Sys2Proof.Machine Sys2Proof.Claims

namespace Sys2Proof

variable {s : State}

/-! ## The vocabulary of the statements -/

theorem later_eq_withAction (n : Nat) (a : Act) : later s n a = withAction s n a s := rfl
theorem landReg_eq_writesReg (d : Reg) (n : Nat) (v : Word) : landReg s d n v = writesReg s d n v s := rfl

theorem dstReg_of_writable {r : Reg} (h : Writable s r) : dstReg s r = none := (trapIf_none _ _ _ _).2 h
theorem useReg_of_readable {l : List Reg} {r : Reg} (h : Readable s l) (hr : r ∈ l) : useReg s r = none := by
  obtain ⟨hp, he⟩ := h r hr
  exact worse_none.2 ⟨(trapIf_none _ _ _ _).2 hp, (trapIf_none _ _ _ _).2 he⟩

/-! ## Words without a source -/

/-- What the word reads lands one cycle after issue. -/
theorem sWord_writes {d : Reg} {n : Nat} {v : Word} (hd : Writable s d) : sWord s [] d n v = .next (writesReg s d n v s) :=
  doWord_pass s (by simpa using dstReg_of_writable hd)

/-- In a firmware timetable a privileged read is such a word too (R48). -/
theorem sPriv_writes {d : Reg} {v : Word} (hf : (me s).firmware = true) (hd : Writable s d) :
    sPriv s d v = .next (writesReg s d 1 v s) :=
  doWord_pass s (by simp [privCheck, hf, dstReg_of_writable hd])

theorem readForm_writes {i : Instr} {d : Reg} {v : Word} (hi : readForm s i = some (d, v)) (hd : Writable s d) :
    exec i s = .next (writesReg s d 1 v s) := by
  cases i with
  | tid | cyc | rdsr =>
    cases hi
    exact sWord_writes hd
  | _ => exact absurd hi.symm (Option.some_ne_none _)

theorem privForm_writes {i : Instr} {d : Reg} {v : Word} (hi : privForm s i = some (d, v)) (hf : (me s).firmware = true)
    (hd : Writable s d) : exec i s = .next (writesReg s d 1 v s) := by
  cases i with
  | ptid | rdwc | rdtc =>
    cases hi
    exact sPriv_writes hf hd
  | _ => exact absurd hi.symm (Option.some_ne_none _)

/-! ## KST and WRSR (R129, R130) -/

theorem kst_acts {a b : Reg} (h : Readable s [a, b]) : exec (.kst a b) s =
    .next (withAction s 1 (.kb ((rdReg (me s) b).toNat % 256) (BitVec.ofNat 32 (rdReg (me s) a).toNat)) s) := by
  change execKst a b s = _
  exact doWord_pass s (by simp [useReg_of_readable h])

theorem wrsr_acts {n : SpecReg} {a : Reg} (h : Readable s [a]) (hf : afReserved n (rdReg (me s) a) = false) :
    exec (.wrsr n a) s = .next (withAction s 1 (.wrsr n (rdReg (me s) a)) s) := by
  change execWrsr n a s = _
  exact doWord_pass s (by simp [useReg_of_readable h, illegalIf, hf])

end Sys2Proof

/-- Settles O14: the words pass their checks, and their results stand in the calendar of their tile. -/
theorem systemWordsReadAndWriteTheirRegisters : Obligations.SystemWordsReadAndWriteTheirRegisters := by
  unfold Obligations.SystemWordsReadAndWriteTheirRegisters
  refine ⟨fun i s d v hi hd => ?_, fun s a b h => kst_acts h, fun s n a h hf => wrsr_acts h hf⟩
  rcases hi with hi | ⟨hf, hi⟩
  · exact readForm_writes hi hd
  · exact privForm_writes hi hf hd
end

section
/-! PROOFS. Segments and the Pilot (O19): the conditions and fills of the statement in the model's own operations, then the words
one by one. -/

open Sys2Proof Sys2Proof.Machine Sys2Proof.Claims

namespace Sys2Proof

variable {s : State}

/-! ## Conditions, delay bundles, fills -/

theorem condTrue_eq_condOn (t : Tile) (c : Cond) : condTrue t c = condOn t c := by
  unfold condTrue condOn
  cases c.n <;> simp
@[simp] theorem illegalIf_none (b : Bool) : illegalIf b = none ↔ b = false := trapIf_none b 1 0 0
theorem inDelay_of_zero {t : Tile} (h : t.delay = 0) : inDelay t = none := by simp [inDelay, h]

/-- The model's fill is the statement's. The two are unfolded at the bare constants: with arguments the kernel would compare them
by running `segNext`. -/
theorem startFill_eq_fills : startFill = fills := by
  delta startFill fills
  funext img f n1 t
  dsimp only
  generalize segNext img (t.segs.getD (t.half % 2) 0) n1 = succ
  cases succ <;> rfl

/-- A word whose only failing check is its last takes that fault. -/
theorem doWord_last {c : List (Option Trap)} {x : Trap} {f : State → State} (h : ∀ y ∈ c, y = none) :
    doWord s (c ++ [some x]) f = .next (trapHere x s) := by
  refine doWord_trap s ?_
  induction c with
  | nil => rfl
  | cons y c ih =>
    rw [List.cons_append, worst, ih fun z hz => h z (List.mem_cons_of_mem _ hz), h y List.mem_cons_self]
    rfl

/-! ## SEGJ and SEGSEL (R136) -/

theorem segj_swaps {c : Cond} (hd : (me s).delay = 0) (hc : condTrue (me s) c = true) (hl : (me s).loops = [])
    (hr : (me s).pilot.ready = true) :
    exec (.segj c) s = .next (setTile s s.cur (fills (image s s.cur) (now s + 1) false
      { me s with half := 1 - (me s).half % 2, pc := 0, loopEnd := false })) := by
  rw [condTrue_eq_condOn] at hc
  change execSegj c s = _
  simp only [execSegj]
  rw [doWord_pass s (by simp [inDelay_of_zero hd, hl, hr]), if_pos hc, ← startFill_eq_fills]
  rfl

theorem segj_unready {c : Cond} (hd : (me s).delay = 0) (hc : condTrue (me s) c = true) (hl : (me s).loops = [])
    (hr : (me s).pilot.ready = false) : exec (.segj c) s = .next (takeTrap ⟨4, 0, 0, 0⟩ s.pipe (me s).bun none s.cur s) := by
  rw [condTrue_eq_condOn] at hc
  change execSegj c s = _
  simp only [execSegj, hc, hl, hr]
  exact doWord_last (c := [_, _]) (by simp [inDelay_of_zero hd])

theorem segj_segsel_untaken {c : Cond} {k : PackN} (hd : (me s).delay = 0) (hc : condTrue (me s) c = false) :
    exec (.segj c) s = .next s ∧ exec (.segsel c k) s = .next s := by
  rw [condTrue_eq_condOn] at hc
  change execSegj c s = _ ∧ execSegsel c k s = _
  refine ⟨?_, by simp [execSegsel, hc]⟩
  simp only [execSegj, hc]
  exact doWord_pass s (by simp [inDelay_of_zero hd])

theorem segsel_refills {c : Cond} {k : PackN} (hc : condTrue (me s) c = true) :
    exec (.segsel c k) s = .next (
      if segNext (image s s.cur) ((me s).segs.getD ((me s).half % 2) 0) (decide (k = 1)) =
          (if (me s).pilot.none then none else (me s).segs[1 - (me s).half % 2]?) then s
      else setTile s s.cur (fills (image s s.cur) (now s + 1) (decide (k = 1)) (me s))) := by
  rw [condTrue_eq_condOn] at hc
  change execSegsel c k s = _
  simp only [execSegsel, hc, Bool.true_and, decide_eq_true_eq, ne_eq, ite_not, ← startFill_eq_fills]
  rfl

theorem pilotFillDone_completes {t : Tile} (ht : t = tileOf s s.ev.a) (hb : t.pilot.busy = true)
    (hT : tcAt s s.ev.a = t.pilot.start + 21) : exec .pilotFillDone s = .next (setTile s s.ev.a { t with
      pilot := { t.pilot with busy := false, ready := true },
      code := t.code.set (1 - t.half % 2) (segWords (image s s.ev.a) (t.segs.getD (1 - t.half % 2) 0)) }) := by
  subst ht
  exact if_pos (c := _ ∧ _) ⟨hb, hT⟩

end Sys2Proof

/-- Settles O19, word by word: what the model's fill does is what the statement says a fill does. -/
theorem segmentsSwapAndFill : Obligations.SegmentsSwapAndFill := by
  unfold Obligations.SegmentsSwapAndFill
  exact ⟨fun _ _ hd hc hl hr => segj_swaps hd hc hl hr, fun _ _ hd hc hl hr => segj_unready hd hc hl hr,
    fun _ _ _ hd hc => segj_segsel_untaken hd hc, fun _ _ _ hc => segsel_refills hc,
    fun _ _ ht hb hT => pilotFillDone_completes ht hb hT⟩
end

section
/-! PROOFS. Timed points, waits and the end of a task (O20), word by word. -/

open Sys2Proof Sys2Proof.Machine Sys2Proof.Claims

namespace Sys2Proof

variable {s : State}

theorem rigidOnly_of_rigid {t : Tile} (h : t.elastic = false) : rigidOnly t = none := (trapIf_none ..).2 h

/-- A check that finds its fault. -/
theorem trapIf_of_true {b : Bool} (h : b = true) (c n : Nat) (a : Word) : trapIf b c n a = some ⟨c, n, 0, a⟩ := if_pos h

/-- The image of the word's own tile. -/
theorem image_cur : image s s.cur = imgOf s (me s) := rfl
theorem onMe_eq_setTile (f : Tile → Tile) : onMe s f = setTile s s.cur (f (me s)) := rfl

/-! ## TCHK (R137) -/

theorem tchk_passes {c : Cond} {v : Lit} (he : (me s).elastic = false)
    (h : condTrue (me s) c = false ∨ cyc s % 2 ^ 32 = v.toNat) : exec (.tchk c v) s = .next s := by
  rw [condTrue_eq_condOn] at h
  change execTchk c v s = _
  refine doWord_pass s (f := fun s => s) ?_
  rcases h with h | h <;> simp [-Nat.reducePow, rigidOnly_of_rigid he, h]

theorem tchk_faults {c : Cond} {v : Lit} (he : (me s).elastic = false) (hc : condTrue (me s) c = true)
    (h : cyc s % 2 ^ 32 ≠ v.toNat) : exec (.tchk c v) s =
      .next (takeTrap ⟨5, if v.toNat < cyc s % 2 ^ 32 then 2 else 3, 0, 0⟩ s.pipe (me s).bun none s.cur s) := by
  rw [condTrue_eq_condOn] at hc
  change execTchk c v s = _
  simp only [execTchk, hc, h, ne_eq, not_false_eq_true, decide_true, Bool.and_true]
  rw [trapIf_of_true rfl]
  exact doWord_last (c := [rigidOnly (me s)]) (by simp [rigidOnly_of_rigid he])

/-! ## JOINT (R106, R214) -/

section
variable {v : Lit} {j : Nat} {h g : Bool} (hd : (me s).delay = 0) (hv : v.toNat < 256)
  (hj : jointEntry (image s s.cur) v.toNat = (j, true, h, g))
include hd hv hj

/-- A declared joint outside a delay bundle has one check left: that its cycle has not passed. -/
theorem joint_eq : exec (.joint v) s =
    doWord s ([none, none] ++ [trapIf (!passes s 0x17 && decide (j < cyc s)) 6 0 0])
      (fun s' => onMe s' (fun t => if passes s 0x17 || decide (cyc s = j) then modeFrom false t
        else { t with wait := .joint (t0At s s.cur + j) t.bun })) := by
  rw [image_cur] at hj
  change execJoint v s = _
  simp [execJoint, hj, inDelay_of_zero hd, (illegalIf_none _).2 (decide_eq_false hv.not_ge)]

theorem joint_passes (h : passes s 0x17 = true ∨ cyc s = j) :
    exec (.joint v) s = .next (setTile s s.cur { me s with modeNext := some ((me s).modeNext == some true) }) := by
  rw [joint_eq hd hv hj, doWord_pass s (by rcases h with h | h <;> simp [h]), onMe_eq_setTile]
  rcases h with h | h <;> simp [h, modeFrom]

theorem joint_waits (hs : passes s 0x17 = false) (h : cyc s < j) :
    exec (.joint v) s = .next (setTile s s.cur { me s with wait := .joint (t0At s s.cur + j) (me s).bun }) := by
  rw [joint_eq hd hv hj, doWord_pass s (by simp [h.le]), onMe_eq_setTile]
  simp [hs, h.ne]

theorem joint_missed (hs : passes s 0x17 = false) (h : j < cyc s) :
    exec (.joint v) s = .next (takeTrap ⟨6, 0, 0, 0⟩ s.pipe (me s).bun none s.cur s) := by
  rw [joint_eq hd hv hj, trapIf_of_true (by simp [hs, h])]
  exact doWord_last (by simp)

end

theorem passes_eq_true {c : Nat} : passes s c = true ↔ (me s).skip = some (now s, c) := beq_iff_eq
theorem passes_eq_false {c : Nat} : passes s c = false ↔ (me s).skip ≠ some (now s, c) := beq_eq_false_iff_ne

/-- JOINT_RELEASE. -/
theorem jointRelease_completes {t : Tile} {j : Nat} {b : BRef} (ht : t = tileOf s s.ev.a) (hw : t.wait = .joint j b)
    (hT : tcAt s s.ev.a = j) : exec .jointRelease s = .next (setTile s s.ev.a { t with
      wait := .none, next := max t.next (j + 1), modeNext := some (t.modeNext == some true) }) := by
  subst ht
  change execJointRelease s = _
  simp [execJointRelease, hw, hT, modeFrom]

/-! ## WAITC (R137) -/

section
variable {src : Option Trap} {v : Nat} (hd : (me s).delay = 0) (hsrc : src = none)
include hd hsrc

theorem waitUntil_reached (h : v ≤ cyc s) : waitUntil s src v = .next (setTile s s.cur (me s)) := by
  unfold waitUntil
  rw [doWord_pass s (by simp [inDelay_of_zero hd, hsrc, h]), onMe_eq_setTile, if_pos h]

theorem waitUntil_holds (h : cyc s < v) (he : (me s).elastic = true) :
    waitUntil s src v = .next (setTile s s.cur { me s with wait := .waitc (t0At s s.cur + v) (me s).bun }) := by
  unfold waitUntil
  rw [doWord_pass s (by simp [inDelay_of_zero hd, hsrc, he]), onMe_eq_setTile, if_neg h.not_ge]

theorem waitUntil_rigid (h : cyc s < v) (he : (me s).elastic = false) :
    waitUntil s src v = .next (takeTrap ⟨5, 8, 0, 0⟩ s.pipe (me s).bun none s.cur s) := by
  unfold waitUntil
  rw [trapIf_of_true (by simp [h, he])]
  exact doWord_last (c := [inDelay (me s), src]) (by simp [inDelay_of_zero hd, hsrc])

end

/-- Either WAITC is the shared wait, its source unfaulted. -/
theorem waitc_eq_waitUntil {i : Instr} {v : Nat} (h : (∃ l : Lit, i = .waitcLit l ∧ v = (l.signExtend 64).toNat) ∨
    (∃ a, i = .waitcReg a ∧ Readable s [a] ∧ v = (rdReg (me s) a).toNat)) :
    ∃ src, src = none ∧ exec i s = waitUntil s src v := by
  rcases h with ⟨l, rfl, rfl⟩ | ⟨a, rfl, ha, rfl⟩
  · exact ⟨none, rfl, rfl⟩
  · exact ⟨useReg s a, useReg_of_readable ha (by simp), rfl⟩

theorem waitcRelease_ends {t : Tile} {v : Nat} {b : BRef} (ht : t = tileOf s s.ev.a) (hw : t.wait = .waitc v b)
    (hT : v ≤ tcAt s s.ev.a) : exec .waitcRelease s =
      .next (setTile s s.ev.a { t with wait := .none, next := max t.next (tcAt s s.ev.a + 1) }) := by
  subst ht
  change execWaitcRelease s = _
  simp [execWaitcRelease, hw, hT]

/-! ## TEND (R109) -/

theorem tend_ends {c : Cond} (hd : (me s).delay = 0) : exec (.tend c) s =
    .next (setTile s s.cur (if condTrue (me s) c then { me s with ended := true } else me s)) := by
  rw [condTrue_eq_condOn]
  change execTend c s = _
  exact doWord_pass s (by simp [inDelay_of_zero hd])

end Sys2Proof

/-- Settles O20, word by word. -/
theorem timedWordsKeepTheirCycles : Obligations.TimedWordsKeepTheirCycles := by
  unfold Obligations.TimedWordsKeepTheirCycles
  refine ⟨fun s => ⟨rfl, rfl⟩, fun s c v he h => tchk_passes he h, fun s c v he hc h => tchk_faults he hc h,
    fun s v j h g hd hs hv hj => ?_, fun s v j h g hd hs hv hj => joint_passes hd hv hj (.inl (passes_eq_true.2 hs)),
    fun s v i hd h => ?_, fun s c hd => tend_ends hd, fun s t j b ht hw hT => jointRelease_completes ht hw hT,
    fun s t v b ht hw hT => waitcRelease_ends ht hw hT⟩
  · have hp := passes_eq_false.2 hs
    exact ⟨fun hc => joint_passes hd hv hj (.inr hc), joint_waits hd hv hj hp, joint_missed hd hv hj hp⟩
  · obtain ⟨src, hsrc, hi⟩ := waitc_eq_waitUntil h
    rw [hi]
    exact ⟨waitUntil_reached hd hsrc, waitUntil_holds hd hsrc, waitUntil_rigid hd hsrc⟩
end

section
/-! PROOFS. The words that the spec writes out (O1). -/

/-- Settles O1: the decoder is run on each word. -/
theorem decodesTheExampleWords : Obligations.DecodesTheExampleWords := by
  unfold Obligations.DecodesTheExampleWords
  decide
end

section
/-! PROOFS. What a step runs (O4): the agenda's head is prepared, and the instruction that it names is run. -/

open Sys2Proof Sys2Proof.Machine Sys2Proof.Claims

namespace Sys2Proof

variable {s s' : State} {w : Work} {i : Instr} {id p : Nat} {r : List Work}

/-! ## A step of the agenda -/

theorem step_of_agenda (h : s.agenda = w :: r) : step s = runWork w { s with agenda := r } := by simp [step, h]

theorem runWork_runs (hw : noTile w = false) (h : prepare w s = (s', some i)) : runWork w s = exec i s' := by
  simp [runWork, hw, h]

theorem noTile_issue (h : id < 768) : noTile (.issue id) = false := decide_eq_false h.not_ge
theorem noTile_word (h : id < 768) : noTile (.word id p i) = false := decide_eq_false h.not_ge

/-! ## The storage that a word reads (R209) -/

theorem eccTrap_none {code owner k : Nat} : eccTrap s code owner k = none ↔ eccBad s code owner k = false := trapIf_none ..

theorem storageTrap_none : storageTrap s id i = none ↔ ∀ k ∈ storageOf (tileOf s id) i, eccBad s 6 id k = false := by
  simp only [storageTrap, worst_none, List.forall_mem_map, eccTrap_none]

theorem meetStorage_of_clean (h : ∀ k ∈ storageOf (tileOf s id) i, eccBad s 6 id k = false) : meetStorage s id p i = s := by
  simp [meetStorage, storageTrap_none.2 h]

theorem meetStorage_of_bad {k : Nat} (hk : storageOf (tileOf s id) i = [k]) (h : eccBad s 6 id k = true) :
    meetStorage s id p i =
      takeTrap ⟨0x16, 0, 0, BitVec.ofNat 64 (6 * 2 ^ 56 + k)⟩ p (tileOf s id).bun none id s := by
  have : storageTrap s id i = some ⟨0x16, 0, 0, BitVec.ofNat 64 (6 * 2 ^ 56 + k)⟩ := by
    simp [storageTrap, hk, eccTrap, trapIf, h, worst, worse]
  simp only [meetStorage, this]

/-- A word that meets its storage and runs is the statement's run. -/
theorem runsWord_meetStorage : RunsWord (exec i (meetStorage s id p i)) s id p i :=
  ⟨fun h => by rw [meetStorage_of_clean h], fun _ hk h => by rw [meetStorage_of_bad hk h]⟩

/-! ## The bundle that a tile issues -/

theorem issued_eq_atIssue (t : Tile) (c nx : Nat) : issued t c nx = atIssue t c nx := by
  unfold issued atIssue
  cases t.loops <;> rfl

theorem noIssue_of_issues {t : Tile} {c : Nat} (h : Issues t c) : noIssue t c = false := by
  obtain ⟨hs, he, hw, hh, hn, hb⟩ := h
  cases hbr : t.branch with
  | none => simp [noIssue, held, *]
  | some b => simp [noIssue, held, *, hb b hbr]

theorem issueTile_runs {l rest : List (Nat × Instr)} {nx : Nat} (hi : Issues (tileOf s id) (tcAt s id))
    (hd : decodeBundle (halfWord (tileOf s id)) (tileOf s id).pc = .ok (l, nx)) (hc : clash (tileOf s id) l = false)
    (he : codeEcc s id (tileOf s id) (tileOf s id).pc nx = none) (hl : liveWords l = (p, i) :: rest) :
    issueTile s id = (meetStorage { setTile s id (atIssue (tileOf s id) (tcAt s id) nx) with
      agenda := rest.map (fun x => .word id x.1 x.2) ++ s.agenda, cur := id, pipe := p } id p i, some i) := by
  simp only [issueTile, noIssue_of_issues hi, hd, he, hc, hl, issued_eq_atIssue]
  rfl

/-! ## The word that a queue executes -/

theorem issueCmd_decodes {q : Nat} {w : Word} (hc : ∀ a b c d, (queueAt s q).wait ≠ .copy a b c d)
    (hm : (queueAt s q).wait ≠ .move) (hw : (queueAt s q).wait ≠ .window)
    (hat : wordAt s q (queueAt s q).at_ = some w) (hs : wordServed s q (queueAt s q).at_ = true) (hi : decodeCmd w = some i) :
    issueCmd s q =
      (setQueue { s with ev := { EvArgs.zero with a := q } } q { queueAt s q with ir := w, wait := .none }, some i) := by
  have hat' : wordAt { s with ev := { EvArgs.zero with a := q } } q (queueAt s q).at_ = some w := hat
  have hs' : wordServed { s with ev := { EvArgs.zero with a := q } } q (queueAt s q).at_ = true := hs
  simp only [issueCmd, hat', hs', hi]
  cases hwt : (queueAt s q).wait with
  | copy a b c d => exact absurd hwt (hc a b c d)
  | move => exact absurd hwt hm
  | window => exact absurd hwt hw
  | _ => rfl

theorem issueCmd_goes_on {q : Nat} (h : (∃ a b c d, (queueAt s q).wait = .copy a b c d) ∧ i = .ccopy ∨
      ((queueAt s q).wait = .move ∨ (queueAt s q).wait = .window) ∧ decodeCmd (queueAt s q).ir = some i) :
    issueCmd s q = ({ s with ev := { EvArgs.zero with a := q } }, some i) := by
  rcases h with ⟨⟨a, b, c, d, hw⟩, rfl⟩ | ⟨hw | hw, hi⟩
  · simp [issueCmd, hw]
  · simp [issueCmd, hw, hi]
  · simp [issueCmd, hw, hi]

end Sys2Proof

/-- The first live word of a due bundle. -/
theorem aStepIssuesTheDecodedBundle : AStepIssuesTheDecodedBundle := by
  intro s id r l nx p i rest ha hid hi hd hc he hl
  rw [step_of_agenda ha, runWork_runs (noTile_issue hid) (issueTile_runs (s := { s with agenda := r }) hi hd hc he hl)]
  exact runsWord_meetStorage

/-- The other work of the agenda, and what the inputs name. -/
theorem aStepRunsTheNamedInstruction : AStepRunsTheNamedInstruction := by
  refine ⟨fun s id p i r ha hid => ?_, fun s i x r ha => ?_, fun s i x r ha hx => ?_, fun s q w i r ha hc hm hw hat hs hi => ?_,
    fun s q i r ha h => ?_⟩
  · rw [step_of_agenda ha, runWork_runs (noTile_word hid) rfl]
    exact runsWord_meetStorage
  · rw [step_of_agenda ha, runWork_runs rfl rfl]
  · simp [step, ha, hx]
  · rw [step_of_agenda ha]
    exact runWork_runs rfl (issueCmd_decodes hc hm hw hat hs hi)
  · rw [step_of_agenda ha]
    exact runWork_runs rfl (issueCmd_goes_on h)

/-- Settles O4: the two halves of the statement. -/
theorem aStepRunsTheDecodedInstruction : Obligations.AStepRunsTheDecodedInstruction :=
  ⟨aStepIssuesTheDecodedBundle, aStepRunsTheNamedInstruction⟩
end

section
/-! PROOFS. Every instruction answers a next state (O9): a word by its builder, an engine step or command by the branches of its
definition. -/

open Sys2Proof Sys2Proof.Machine Sys2Proof.Claims

namespace Sys2Proof

variable {s : State}

/-! ## The builders of words -/

theorem Completes.next (t : State) : Completes (.next t) := ⟨t, rfl⟩

section
variable {c : Prop} [Decidable c] {a b : Host.Outcome State Fault Refusal} {l r : List (Option Trap)} {f : State → State}
  {g : Guard} {w : Word}

theorem Completes.ite (ha : Completes a) (hb : Completes b) : Completes (if c then a else b) := by
  split
  · exact ha
  · exact hb

/-- A word takes the fault of its checks, or has its effect. -/
theorem Completes.checked {x : Option Trap} {u : Trap → State} {t : State} :
    Completes (match x with | some x => .next (u x) | none => .next t) := by
  split <;> exact .next _

theorem Completes.guarded (h : Completes a) : Completes (guarded s g a) := .ite h (.next _)
theorem Completes.guardedM1 (h : Completes a) : Completes (guardedM1 s g w a) := .ite h (.next _)
theorem Completes.guardedM2 (h : Completes a) : Completes (guardedM2 s g a) := .ite h (.next _)

theorem Completes.dWord : Completes (dWord s g l r f) := by
  unfold Machine.dWord
  split
  · exact .next _
  · exact .guarded .checked

end

theorem execBarw_completes {g : Guard} {b : BarN} {h : LevelN} : Completes (execBarw g b h s) := by
  refine .guarded ?_
  split
  · exact .next _
  · exact .checked

/-! ## Launches and moves -/

theorem Completes.launch {f : TT → Nat → Option (Nat × Option Nat)} : Completes (launch s f) := by
  dsimp only [Machine.launch]
  repeat' split
  all_goals exact .next _

theorem Completes.startMove {up : Bool} : Completes (startMove s up) := by
  dsimp only [Machine.startMove]
  repeat' split
  all_goals exact .next _

/-! ## Every instruction -/

/-- The words by their builders, the steps and commands by the branches of their definitions: each branch answers `.next`. -/
theorem exec_completes (i : Instr) : Completes (exec i s) := by
  cases i with
  | add | sub | mul | mulh | mulhn | and | or | xor | andn | shl | shr | sra | rotl | min | max | minn | maxn | sel
    | adda | clz | popc | pcmpEq | pcmpNe | pcmpLt | pcmpGe | pcmpLtn | pcmpGen | addSl | subSl | mulSl | mulhSl
    | mulhnSl | andSl | orSl | xorSl | andnSl | shlSl | shrSl | sraSl | rotlSl | minSl | maxSl | minnSl | maxnSl | selSl
    | addaSl | pcmpEqSl | pcmpNeSl | pcmpLtSl | pcmpGeSl | pcmpLtnSl | pcmpGenSl | movl | movk | addi | shli | shri
    | srai | movi | movf | fadd | fsub | fmul | ffma | fcmpEq | fcmpLt | fcmpLe | fcmpUn | fcvt | pset | tidx | tdim
    | kst | tid | cyc | rdsr | wrsr | ptid | rdwc | rdtc | br | brl | bri | ret | loop | loopr | segj | tchk | joint
    | waitcLit | waitcReg | tend | trap | vadd | vsub | vmul | vfma | vfms | vmin | vmax | vabs | vneg | vaddSat
    | vsubSat | vmulSat | vfmaSat | vfmsSat | vaddVi | vbcastVi | vaddVf | vbcastVf | vfmaVl | vaddVl | vand | vor
    | vxor | vnot | vshl | vshr | vsra | vpopc | vcmpEq | vcmpNe | vcmpLt | vcmpLe | vcmpUn | vsel | vcvt | vwiden
    | vnarrow | vmxs | vperm | vshuf | vslideUp | vslideDn | viota | vbcast | vpackp | vpackpFl | vunpk | vmovq | vclr
    | vdot | vdotAcc | vred | vredAcc | vrcp | vrsq | vexp2 | vlog2 | vrcpf | vrsqf | vdotW | vdotWAcc =>
    exact .checked
  | ldsSigned | ldsUnsigned | sts | ldv | stv | agset | agbind | agrun | agstop | mpush | mclr | mmodeC | mmodeS
    | mpmask | asrd | aswr | mshift | macc | mdrain | mtld | mtst | mtupd | mtadd | mtsum | mtfind | mtcut | mtroot
    | mtleaf | mthor =>
    exact .guarded .checked
  | sldSigned | sldUnsigned | sst => exact .guardedM1 (.ite .checked (.ite .checked .checked))
  | gldSigned | gldUnsigned | gst | gldv | gstv | ggath | gscat | gaadd | gaor | gaand | gamaxI | gamaxN | gaminI
    | gaminN | gaxch | gacas | gaorv | kvlook | kvgath | kvapp | kvshr | kvrel | kvref =>
    exact .guardedM2 .checked
  | dact | dpre | dprea | drdM0 | drdSh | drdQ | dwrM0 | dwrSh | dwrQ | dref | drefb | dwin | dmrw | dzq =>
    exact .dWord
  | drain | fence | mtclr => exact .guarded (.next _)
  | bringUp | warmReset | laneTestFail | shaftRepair | qtailWrite | qctlEnWrite | qctlSkip | regionRevoke
    | watchdogExpiry | sbInventory | sbHealth | sbDumpInfo | sbDumpRead | sbResetWarm | sbResetCold | sbQuote
    | sbDumpRequest | sbUnknownCommand | mctpControlMessage | cxlLaneFail | linkPortFail | nop | plogAnd | plogOr
    | plogXor | plogAndn | segsel | vmlogAnd | vmlogOr | vmlogXor | vmlogAndn | vclrStrm | mhole | cnop | cli | cmov
    | cadd | csub | cand | cor | cshl | cshr | cb | chalt | cttld =>
    exact .next _
  | tcTick | timetableStart | channelHandover | taskStart | snapshotTaken | loopBack | pilotFillDone | holdPointFreeze
    | refreshDeadline | retentionExpiry | channelToOpen | harbourAbort | thermalHoldRequest | thermalCooldown
    | thermalTrip | replicaRecordWrite | moveSlotReturn | keyInstall | keyRemove | attestationQuote | fatalError | cloop
    | cfence =>
    exact .ite (.next _) (.next _)
  | replicaDecision | moveCommit | capAccess | capDerive | cttldUn => exact .ite (.next _) (.ite (.next _) (.next _))
  | timetableEnded | digestDeadline | linkFlitReceive | cst | ccall =>
    exact .ite (.next _) (.ite (.next _) (.ite (.next _) (.next _)))
  | csig => exact .ite (.next _) (.ite (.next _) (.ite (.next _) (.ite (.next _) (.next _))))
  | claunchTc | claunchRel | claunchJt => unfold exec; exact .launch (s := s)
  | cdemote | cpromote => exact .startMove
  | barw => exact execBarw_completes
  | writeLands | branchTargetFetch | jointRelease | waitcRelease | drainComplete | barwComplete | waitLimitExpiry
    | m0Access | shaftAccess | remoteShaftPerform | m2AccessPerform | pageWalkEnd | agSourceRead | agPush | mtLevelWrite
    | mtQueryLevelRead | mtHorizonWrite | beatAccess | beatWriteInForce | maccLands | asRead | drdLands
    | dwrSourceRead | windowIssuerCommand | windowExpiry | keepAliveRefresh | resume | digestJoint | digestExchangeDone
    | berthOpPerform | slotExecute | registerWrite | runListTurn | quantumExpiry | cxlMemAccess | linkDeliveryTimeout
    | cliLiteral | cld | cret | cwait | cwaitSatisfied | cwaitTimeout | cttldComplete | claunchWd | ccopy
    | ccopyComplete =>
    unfold exec
    dsimp only [execWriteLands, execBranchTargetFetch, execJointRelease, execWaitcRelease, execDrainComplete,
      execBarwComplete, execWaitLimitExpiry, execM0Access, execShaftAccess, execRemoteShaftPerform, execM2AccessPerform,
      execPageWalkEnd, execAgSourceRead, execAgPush, execMtLevelWrite, execMtQueryLevelRead, execMtHorizonWrite,
      execBeatAccess, execBeatWriteInForce, execMaccLands, execAsRead, execDrdLands, execDwrSourceRead,
      execWindowIssuerCommand, execWindowExpiry, execKeepAliveRefresh, execResume, execDigestJoint, execDigestExchangeDone,
      execBerthOpPerform, execSlotExecute, execRegisterWrite, execRunListTurn, execQuantumExpiry, execCxlMemAccess,
      execLinkDeliveryTimeout, execCliLiteral, execCld, execCret, execCwait, execCwaitSatisfied, execCwaitTimeout,
      execCttldComplete, execClaunchWd, execCcopy, execCcopyComplete]
    repeat' split
    all_goals exact .next _

end Sys2Proof

/-- Settles O9, instruction by instruction. -/
theorem everyInstructionAnswersANextState : Obligations.EveryInstructionAnswersANextState :=
  fun i _ => exec_completes i
end

section
/-! PROOFS. The scalar float words (O12): what lands beside another landing of the same word, then the words. -/

open Sys2Proof Sys2Proof.Machine Sys2Proof.Claims

namespace Sys2Proof

/-! ## Several landings of one word -/

/-- The word being executed, its bundle and its cycle are the same in both states. -/
structure SameWord (s t : State) : Prop where
  cur : t.cur = s.cur
  pipe : t.pipe = s.pipe
  now : now t = now s
  bun : (me t).bun = (me s).bun

namespace SameWord

variable {s t : State} {n : Nat} {a : Act}

theorem refl (s : State) : SameWord s s := ⟨rfl, rfl, rfl, rfl⟩

/-- A change of the word's tile that keeps its timetable and its bundle. -/
theorem setTile {x : Tile} (h : SameWord s t) (htt : x.tt = (me t).tt) (hb : x.bun = (me t).bun) :
    SameWord s (setTile t t.cur x) where
  cur := h.cur
  pipe := h.pipe
  now := by
    rw [← h.now]
    simp only [Machine.now, tcAt, domOf, setTile_cur, tileOf_setTile_same, htt]
    rfl
  bun := by rw [me_setTile, hb, h.bun]

theorem later (h : SameWord s t) : SameWord s (later t n a) := h.setTile rfl rfl

theorem landReg {d : Reg} {v : Word} (h : SameWord s t) : SameWord s (landReg t d n v) := by
  unfold Machine.landReg
  split
  · exact h
  · exact h.later

theorem later_eq (h : SameWord s t) : Machine.later t n a = withAction s n a t := by
  rw [later_eq_withAction, withAction, withAction, h.cur, h.pipe, h.now, h.bun]

theorem landFlags_eq {r : SpecReg} {f : Word} (h : SameWord s t) : landFlags t r n f = raises s r n f t := by
  simp only [landFlags, raises, h.later_eq]

end SameWord

variable {s : State}

/-- A scalar result with the flags that it raises. -/
theorem landFlags_landReg (d : Reg) (n : Nat) (v f : Word) :
    landFlags (landReg s d n v) .sstat n f = raises s .sstat n f (writesReg s d n v s) :=
  (SameWord.refl s).landReg.landFlags_eq

/-! ## FADD to FFMA (R124) -/

theorem isNan_eq_decide : isNan = fun x => decide (x = .nan) := by
  funext x
  cases x <;> simp [isNan]

theorem madeNan_eq (x : FVal) (ops : List FVal) :
    madeNan x ops = (decide (x = .nan) && !(ops.any (fun v => decide (v = .nan)))) := by
  simp only [madeNan, isNan_eq_decide]

/-- A float word whose registers can be read and written lands its rounded result and its flags. -/
theorem sFloat_lands {src : List Reg} {d : Reg} {r : FRes} (hs : Readable s src) (hd : Writable s d) :
    sFloat s src d r = .next (raises s .sstat 4 (ofNv r.ovf r.nv) (writesReg s d 4 (BitVec.ofNat 64 r.bits) s)) := by
  rw [← landFlags_landReg]
  exact doWord_pass s (List.forall_mem_cons.2 ⟨dstReg_of_writable hd, List.forall_mem_map.2 fun _ hr => useReg_of_readable hs hr⟩)

/-- The float words are `sFloat` of the arithmetic result of their exact value. -/
theorem exec_of_fForm {i : Instr} {f : FForm} (h : fForm (me s) i = some f) :
    exec i s = sFloat s f.src f.d (farith fp32 false f.x f.ops) := by
  cases i with
  | fadd | fsub | fmul | ffma =>
    cases h
    rfl
  | _ => exact absurd h.symm (Option.some_ne_none _)

theorem floatWordsRoundTheExactResultOnce : FloatWordsRoundTheExactResultOnce := by
  intro i s f hf hs hd
  rw [exec_of_fForm hf, sFloat_lands hs hd, farith, madeNan_eq]

/-! ## FCVT (R125) -/

theorem fcvtRes_eq_spec (k : FCvtKind) (m : RMode) (x : Word) : fcvtRes k m x = fcvtSpec x m k := by
  cases k <;> rfl

theorem fcvtConvertsByKindAndMode : FcvtConvertsByKindAndMode := by
  intro s d a m k ha hd
  rw [← fcvtRes_eq_spec, ← landFlags_landReg]
  change execFcvt d a m k s = _
  rw [execFcvt, doWord_pass s (by simp [dstReg_of_writable hd, useReg_of_readable ha])]

end Sys2Proof

/-- Settles O12: the float words by `sFloat_lands`, FCVT by its kinds. -/
theorem floatWordsRoundOnceAndConvert : Obligations.FloatWordsRoundOnceAndConvert :=
  ⟨floatWordsRoundTheExactResultOnce, fcvtConvertsByKindAndMode⟩
end

section
/-! PROOFS. The reductions (O25): what a vector word does when its operands are there, the pairwise tree as the levels that the model
folds, the leaves of the dot products and of VRED, then the words. -/

open Sys2Proof Sys2Proof.Machine Sys2Proof.Claims

namespace Sys2Proof

variable {s : State}

/-! ## A vector word whose operands are there (R138) -/

theorem useQ_of_not_pending {q : QN} (h : qPending s q = false) : useQ s q = none := (trapIf_none ..).2 h

theorem dstQ_of_pushable {q : QN} (h : Pushable s q) : dstQ s q = none :=
  worse_none.2 ⟨useQ_of_not_pending h.1, (trapIf_none ..).2 h.2⟩

theorem srcQs_of_takes {src : List QSrc} {vs : List QVec} {t : Tile} (h : Takes s src vs t) : ∀ x ∈ srcQs s src, x = none := by
  obtain ⟨hfree, htake⟩ := h
  refine List.forall_mem_cons.2 ⟨(trapIf_none ..).2 (by simp [htake]), List.forall_mem_map.2 fun x hx => ?_⟩
  obtain ⟨hp, he⟩ := hfree x hx
  exact worse_none.2 ⟨useQ_of_not_pending hp, eccTrap_none.2 he⟩

theorem vWord_takes {src : List QSrc} {d : QN} {vs : List QVec} {t : Tile} {eff : List QVec → State → State} (ht : Takes s src vs t)
    (hd : Pushable s d) : vWord s [] src [d] eff = .next (eff vs (setTile s s.cur t)) := by
  unfold vWord
  rw [doWord_pass s, ht.2]
  rw [List.nil_append]
  exact List.forall_mem_append.2 ⟨srcQs_of_takes ht, List.forall_mem_singleton.2 (dstQ_of_pushable hd)⟩

/-- Taking operands changes the queues of the tile only. -/
theorem takeQs_keeps {l : List QSrc} {t t' : Tile} {vs : List QVec} (h : takeQs t l = some (vs, t')) :
    t' = { t with queues := t'.queues } := by
  induction l generalizing t vs with
  | nil => cases h; rfl
  | cons x l ih =>
    simp only [takeQs] at h
    split at h
    · cases h
    split at h
    · cases h
    split at h
    · cases h
    next hr =>
      cases h
      have := ih hr
      split at this <;> exact this

theorem sameWord_of_takes {src : List QSrc} {vs : List QVec} {t : Tile} (h : Takes s src vs t) : SameWord s (setTile s s.cur t) :=
  (SameWord.refl s).setTile (x := t) (by rw [takeQs_keeps h.2]) (by rw [takeQs_keeps h.2])

/-! ## The pairwise tree (R67) -/

theorem treeLevel_map_range (f : Nat → RNode) (n : Nat) :
    treeLevel ((List.range (2 * n)).map f) = (List.range n).map (treeNode f 1) := by
  induction n generalizing f with
  | zero => rfl
  | succ n ih =>
    rw [Nat.mul_succ, List.range_succ_eq_map, List.range_succ_eq_map, List.range_succ_eq_map]
    simp only [List.map_cons, List.map_map, treeLevel]
    congr 1
    exact ih _

/-- A tree over the nodes of the first level has one level less. -/
theorem treeNode_treeNode_one (f : Nat → RNode) (k i : Nat) : treeNode (treeNode f 1) k i = treeNode f (k + 1) i := by
  induction k generalizing i with
  | zero => rfl
  | succ k ih => rw [treeNode, ih, ih, ← treeNode]

/-- k levels over 2^k leaves leave the root. -/
theorem treeFold_map_range (f : Nat → RNode) (k : Nat) : treeFold k ((List.range (2 ^ k)).map f) = [treeNode f k 0] := by
  induction k generalizing f with
  | zero => rfl
  | succ k ih => rw [Nat.pow_succ', treeFold, treeLevel_map_range, ih, treeNode_treeNode_one]

theorem treeFold_add (j k : Nat) (l : List RNode) : treeFold (k + j) l = treeFold j (treeFold k l) := by
  induction k generalizing l with
  | zero => rw [Nat.zero_add, treeFold]
  | succ k ih => rw [Nat.succ_add, treeFold, treeFold, ih]

theorem treeFold_singleton (k : Nat) (x : RNode) : treeFold k [x] = [x] := by
  induction k with
  | zero => rfl
  | succ k ih => exact ih

/-- Ten levels, as many as the model folds, give the root of a tree of at most ten. -/
theorem treeFold_ten (f : Nat → RNode) {k : Nat} (h : k ≤ 10) : treeFold 10 ((List.range (2 ^ k)).map f) = [treeNode f k 0] := by
  obtain ⟨j, hj⟩ := Nat.exists_eq_add_of_le h
  rw [hj, treeFold_add, treeFold_map_range, treeFold_singleton]

/-! ## The root lands -/

theorem headD_eq_getD (vs : List QVec) : vs.headD 0 = vs.getD 0 0 := by cases vs <;> rfl
theorem laneOf_tail (w : Nat) (vs : List QVec) (k : Nat) : laneOf w vs.tail k = laneOf w vs (k + 1) := by cases vs <;> rfl

/-- The vector of the accumulator, if the form has one: the first that the word takes. -/
def accVec (f : RedForm) (vs : List QVec) : Option QVec := if f.acc then some (vs.headD 0) else none
/-- The vectors of the leaves: those after the accumulator. -/
def leafVecs (f : RedForm) (vs : List QVec) : List QVec := if f.acc then vs.tail else vs

theorem landRoot_lands {f : RedForm} {vs : List QVec} {nodes : List RNode} {s' : State} (h : SameWord s s') (hlev : f.lev ≤ 10)
    (hn : nodes = (List.range (2 ^ f.lev)).map (f.leaf (leafVecs f vs))) :
    landRoot f.d (accVec f vs) nodes s' = raises s .vstat 6 (ofNv (f.root vs).ovf (f.root vs).nv)
      (pushes s f.d 6 (BitVec.ofNat 4096 (fround fp32 .rne false (f.root vs).v).bits) s') := by
  subst hn
  simp only [landRoot, treeFold_ten _ hlev, List.headD_cons]
  rw [h.later.landFlags_eq (t := landPush ..), landPush, h.later_eq]
  unfold RedForm.root accVec leafVecs
  rw [headD_eq_getD]
  cases f.acc <;> rfl

/-! ## The leaves (R67, R156) -/

/-- The lanes of two vectors in a row. -/
theorem lanes_append_lanes (w : Nat) (vs : List QVec) (k : Nat) :
    lanes w (vs.getD k 0) ++ lanes w (vs.getD (k + 1) 0) =
      (List.range (2 * (512 / w))).map (fun i => laneOf w vs (k + i / (512 / w)) (i % (512 / w))) := by
  have lt {i : Nat} (h : i ∈ List.range (512 / w)) : i < 512 / w := List.mem_range.1 h
  rw [two_mul, List.range_add, List.map_append, List.map_map]
  refine congrArg₂ _ (List.map_congr_left fun i hi => ?_) (List.map_congr_left fun i hi => ?_)
  · rw [Nat.div_eq_of_lt (lt hi), Nat.mod_eq_of_lt (lt hi)]
    rfl
  · have hpos : 0 < 512 / w := Nat.zero_lt_of_lt (lt hi)
    simp only [Function.comp, Nat.add_div_left i hpos, Nat.add_mod_left, Nat.div_eq_of_lt (lt hi), Nat.mod_eq_of_lt (lt hi)]
    rfl

theorem umberGroups_map_range (f : Nat → FVal × Bool) (n : Nat) : umberGroups ((List.range n).map f) =
    (List.range (n / 16)).map (fun g =>
      umberGroup ((List.range 16).map (fun j => (f (16 * g + j)).1)) ((List.range 16).any (fun j => (f (16 * g + j)).2))) := by
  unfold umberGroups
  rw [List.length_map, List.length_range]
  refine List.map_congr_left fun g hg => ?_
  have hpart : (((List.range n).map f).drop (16 * g)).take 16 = (List.range 16).map (fun j => f (16 * g + j)) := by
    have hle : 16 * g + 16 ≤ n := by
      have := List.mem_range.1 hg
      omega
    refine List.ext_getElem (by simp; omega) fun i _ _ => by simp
  simp only [hpart, List.map_map, List.any_map]
  rfl

/-- The number of nodes that enter the tree for n lanes (R67). -/
def leafCount (ty : Ty) (n : Nat) : Nat := if ty = .f32 then n else n / 16

theorem dotNodes_map_range (ty : Ty) (x y : Nat → Nat) (n : Nat) :
    dotNodes ty ((List.range n).map x) ((List.range n).map y) = (List.range (leafCount ty n)).map (dotLeaves ty x y) := by
  have hz : (((List.range n).map x).map (fdec (tyFmt ty))).zip (((List.range n).map y).map (fdec (tyFmt ty))) =
      (List.range n).map (fun i => (fdec (tyFmt ty) (x i), fdec (tyFmt ty) (y i))) := by
    rw [List.map_map, List.map_map, List.zip_map']
    rfl
  simp only [dotNodes, hz]
  unfold leafCount
  split
  next h =>
    rw [List.map_map]
    refine List.map_congr_left fun i _ => ?_
    simp only [dotLeaves, if_pos h]
    simp [siennaLeaf, madeNan]
  next h =>
    rw [List.map_map, umberGroups_map_range]
    refine List.map_congr_left fun g _ => ?_
    simp only [dotLeaves, if_neg h]
    simp [dotLeaf, madeNan]

theorem redNodes_eq (ty : Ty) (m : BitVec 512) (v : QVec) :
    redNodes ty m v = (List.range (leafCount ty (512 / tyW ty))).map (redLeaves ty m (lane (tyW ty) v)) := by
  simp only [redNodes, List.map_map]
  unfold leafCount
  split
  next h =>
    refine List.map_congr_left fun i _ => ?_
    simp [redLeaves, h]
  next h =>
    rw [umberGroups_map_range]
    refine List.map_congr_left fun g _ => ?_
    simp only [redLeaves, if_neg h]
    rfl

theorem redOk_types {ty : Ty} {p : Profile} (h : redOk ty p = true) : ty ∈ [Ty.f32, .bf16, .f16, .e4m3, .e5m2] := by
  revert h
  cases p <;> cases ty <;> decide

/-- Under the types of R156 the nodes fill the levels of the tree. -/
theorem leafCount_eq {ty : Ty} {p : Profile} (h : redOk ty p = true) :
    leafCount ty (512 / tyW ty) = 2 ^ treeLevels ty false ∧ leafCount ty (2 * (512 / tyW ty)) = 2 ^ treeLevels ty true := by
  have ht := redOk_types h
  clear h
  revert ty
  decide

theorem treeLevels_le (ty : Ty) (wide : Bool) : treeLevels ty wide ≤ 10 := by
  unfold treeLevels
  split_ifs <;> omega

/-! ## The words -/


/-- The nodes of a dot product of two vectors. -/
theorem dotNodes_lanes {ty : Ty} {p : Profile} (h : redOk ty p = true) (vs : List QVec) (j k : Nat) :
    dotNodes ty (lanes (tyW ty) (vs.getD j 0)) (lanes (tyW ty) (vs.getD k 0)) =
      (List.range (2 ^ treeLevels ty false)).map (dotLeaves ty (laneOf (tyW ty) vs j) (laneOf (tyW ty) vs k)) := by
  rw [← (leafCount_eq h).1]
  exact dotNodes_map_range ty _ _ _

/-- The nodes of a wide dot product over the vectors from the k-th. -/
theorem wideNodes_eq {ty : Ty} {p : Profile} (h : redOk ty p = true) (vs : List QVec) (k : Nat) :
    wideNodes ty vs k = (List.range (2 ^ treeLevels ty true)).map (dotLeaves ty
      (fun i => laneOf (tyW ty) vs (i / (512 / tyW ty) + k) (i % (512 / tyW ty)))
      (fun i => laneOf (tyW ty) vs (2 + i / (512 / tyW ty) + k) (i % (512 / tyW ty)))) := by
  rw [wideNodes, lanes_append_lanes, lanes_append_lanes _ _ (k + 2), dotNodes_map_range, (leafCount_eq h).2]
  simp only [Nat.add_comm k, Nat.add_right_comm]

theorem redNodes_lanes {ty : Ty} {p : Profile} (h : redOk ty p = true) (m : BitVec 512) (vs : List QVec) (k : Nat) :
    redNodes ty m (vs.getD k 0) = (List.range (2 ^ treeLevels ty false)).map (redLeaves ty m (laneOf (tyW ty) vs k)) := by
  rw [redNodes_eq, (leafCount_eq h).1]
  rfl

/-- The wide forms accept types and profiles of R156. -/
theorem redOk_of_wide {ty : Ty} {p : Profile} {x y z : Bool} (h : (redOk ty p && x && y && z) = true) : redOk ty p = true := by
  simp only [Bool.and_eq_true] at h
  obtain ⟨⟨⟨hr, -⟩, -⟩, -⟩ := h
  exact hr

/-- A reduction is a vector word that lands the root over its nodes. -/
def redWord (s : State) (f : RedForm) : Host.Outcome State Fault Refusal :=
  vWord s [] f.src [f.d] (fun vs => landRoot f.d (accVec f vs) ((List.range (2 ^ f.lev)).map (f.leaf (leafVecs f vs))))

theorem eq_redWord {f : RedForm} {o : Host.Outcome State Fault Refusal} {nodes : List QVec → List RNode}
    (ho : o = vWord s [] f.src [f.d] (fun vs => landRoot f.d (accVec f vs) (nodes vs)))
    (h : ∀ vs, nodes vs = (List.range (2 ^ f.lev)).map (f.leaf (leafVecs f vs))) : o = redWord s f := by
  simp only [ho, h, redWord]

theorem exec_of_redForm {i : Instr} {f : RedForm} (hw : i.WellFormed) (h : redForm (me s) i = some f) : exec i s = redWord s f := by
  cases i with
  | vdot d a b ty p =>
    cases h
    refine eq_redWord (nodes := fun vs => dotNodes ty (lanes (tyW ty) (vs.headD 0)) (lanes (tyW ty) (vs.getD 1 0))) rfl fun vs => ?_
    simp only [headD_eq_getD]
    exact dotNodes_lanes (p := p) hw vs 0 1
  | vdotAcc d a b ty p =>
    cases h
    refine eq_redWord (nodes := fun vs => dotNodes ty (lanes (tyW ty) (vs.getD 1 0)) (lanes (tyW ty) (vs.getD 2 0))) rfl fun vs => ?_
    simp only [leafVecs, if_true, laneOf_tail]
    exact dotNodes_lanes (p := p) hw vs 1 2
  | vred d a m ty p =>
    cases h
    refine eq_redWord (nodes := fun vs => redNodes ty (rdMask (me s) m) (vs.headD 0)) rfl fun vs => ?_
    simp only [headD_eq_getD]
    exact redNodes_lanes (p := p) hw _ vs 0
  | vredAcc d a m ty p =>
    cases h
    refine eq_redWord (nodes := fun vs => redNodes ty (rdMask (me s) m) (vs.getD 1 0)) rfl fun vs => ?_
    simp only [leafVecs, if_true, laneOf_tail]
    exact redNodes_lanes (p := p) hw _ vs 1
  | vdotW d a b ty p =>
    cases h
    refine eq_redWord (nodes := fun vs => wideNodes ty vs 0) rfl fun vs => ?_
    exact wideNodes_eq (redOk_of_wide hw) vs 0
  | vdotWAcc d a b ty p =>
    cases h
    refine eq_redWord (nodes := fun vs => wideNodes ty vs 1) rfl fun vs => ?_
    simp only [leafVecs, if_true, laneOf_tail]
    exact wideNodes_eq (redOk_of_wide hw) vs 1
  | _ => exact absurd h.symm (Option.some_ne_none _)

theorem lev_of_redForm {i : Instr} {t : Tile} {f : RedForm} (h : redForm t i = some f) : f.lev ≤ 10 := by
  cases i with
  | vdot | vdotAcc | vred | vredAcc | vdotW | vdotWAcc =>
    cases h
    exact treeLevels_le _ _
  | _ => exact absurd h.symm (Option.some_ne_none _)

end Sys2Proof

/-- Settles O25: a reduction lands the root over its nodes (`exec_of_redForm`), which is the root of the pairwise tree
(`treeFold_ten`). -/
theorem reductionsFollowTheFixedTree : Obligations.ReductionsFollowTheFixedTree := by
  unfold Obligations.ReductionsFollowTheFixedTree
  intro i s f vs t hw hf ht hd
  rw [exec_of_redForm hw hf, redWord, vWord_takes ht hd, landRoot_lands (sameWord_of_takes ht) (lev_of_redForm hf) rfl]
end

section
/-! PROOFS. The half-macros and the accumulation store (O41): packed values, runs of writes to a table, the sum of MSHIFT, then the
events at the half-macro and at the store. -/

open Sys2Proof Sys2Proof.Machine Sys2Proof.Claims

namespace Sys2Proof

/-! ## Packed values -/

theorem joinBits_lt (k : Nat) (l : List Nat) : joinBits k l < 2 ^ (k * l.length) := by
  induction l with
  | nil => simp [joinBits]
  | cons x l ih =>
    have hx : x % 2 ^ k < 2 ^ k := Nat.mod_lt _ (Nat.two_pow_pos k)
    have hl := Nat.mul_le_mul_left (2 ^ k) (Nat.succ_le_of_lt ih)
    rw [joinBits, List.length_cons, Nat.mul_succ, Nat.add_comm (k * _), Nat.pow_add]
    rw [Nat.mul_succ] at hl
    omega

theorem joinBits_field (k : Nat) (l : List Nat) (i : Nat) : joinBits k l / 2 ^ (k * i) % 2 ^ k = l.getD i 0 % 2 ^ k := by
  induction l generalizing i with
  | nil => simp [joinBits]
  | cons x l ih =>
    cases i with
    | zero => simp [joinBits]
    | succ i =>
      have hx : (x % 2 ^ k + 2 ^ k * joinBits k l) / 2 ^ k = joinBits k l := by
        rw [Nat.add_mul_div_left _ _ (Nat.two_pow_pos k), Nat.div_eq_of_lt (Nat.mod_lt _ (Nat.two_pow_pos k)), Nat.zero_add]
      rw [joinBits, Nat.mul_succ, Nat.add_comm (k * i), Nat.pow_add, ← Nat.div_div_eq_div_mul, hx, ih, List.getD_cons_succ]

/-- A field of the packed values of a list that fits is the value. -/
theorem extractLsb'_joinBits {k n : Nat} {l : List Nat} (h : k * l.length ≤ n) (i : Nat) :
    (BitVec.ofNat n (joinBits k l)).extractLsb' (k * i) k = BitVec.ofNat k (l.getD i 0) := by
  have hlt : joinBits k l < 2 ^ n := (joinBits_lt k l).trans_le (Nat.pow_le_pow_right (by decide) h)
  apply BitVec.eq_of_toNat_eq
  rw [BitVec.extractLsb'_toNat, BitVec.toNat_ofNat, BitVec.toNat_ofNat, Nat.mod_eq_of_lt hlt, Nat.shiftRight_eq_div_pow,
    joinBits_field]

/-! ## Runs of writes to a table -/

/-- A run of n writes from key k on. -/
theorem tabGet_foldl_tabSet {α : Type} [DecidableEq α] (d : α) (f : Nat → α) (t : Tab α) (k n j : Nat) :
    tabGet d ((List.range n).foldl (fun t i => tabSet d t (k + i) (f i)) t) j =
      if k ≤ j ∧ j < k + n then f (j - k) else tabGet d t j := by
  induction n with
  | zero => simp
  | succ n ih =>
    rw [List.range_succ, List.foldl_append, List.foldl_cons, List.foldl_nil]
    by_cases hj : j = k + n
    · subst hj
      simp
    · rw [tabGet_set_other _ _ _ hj, ih]
      exact if_congr (by omega) rfl rfl

theorem tabGet_tabOf_range {α : Type} [DecidableEq α] (d : α) (f : Nat → α) {n j : Nat} (h : j < n) :
    tabGet d (tabOf d ((List.range n).map (fun i => (i, f i)))) j = f j := by
  have hfold := tabGet_foldl_tabSet d f [] 0 n j
  simp only [Nat.zero_add] at hfold
  rw [tabOf, List.foldl_map, hfold, if_pos ⟨Nat.zero_le _, h⟩, Nat.sub_zero]

/-! ## The sum of MSHIFT (R66) -/

theorem scaleFloor_eq_floor (x k : Int) : scaleFloor x k = ⌊(x : ℚ) * 2 ^ k⌋ := by
  unfold scaleFloor
  split
  next h =>
    obtain ⟨n, rfl⟩ := Int.eq_ofNat_of_zero_le h
    rw [Int.toNat_natCast, zpow_natCast]
    exact_mod_cast (Int.floor_intCast (R := ℚ) (x * 2 ^ n)).symm
  next h =>
    obtain ⟨n, hn⟩ := Int.eq_ofNat_of_zero_le (a := -k) (by omega)
    have hfloor : ⌊(x : ℚ) * 2 ^ k⌋ = x / (2 ^ n : Nat) := by
      rw [← Rat.floor_intCast_div_natCast, ← neg_neg k, hn, zpow_neg, zpow_natCast, div_eq_mul_inv]
      push_cast
      rfl
    rw [hfloor, hn, Int.toNat_natCast]
    split
    next hlog =>
      have hx : x.natAbs < 2 ^ n := (Nat.lt_log2_self).trans_le (Nat.pow_le_pow_right (by decide) (by omega))
      split
      next h0 => exact (Int.ediv_eq_neg_one_of_neg_of_le h0 (by omega)).symm
      next h0 => exact (Int.ediv_eq_zero_of_lt (by omega) (by omega)).symm
    next => exact Int.fdiv_eq_ediv_of_nonneg _ (Int.natCast_nonneg _)

/-- The greatest exponent of the blocks. -/
def topExp (e : Nat → Int) : Int := ((List.range 8).map e).foldl (fun a e => if a < e then e else a) (e 0)

theorem topExp_greatest (e : Nat → Int) : (∃ j < 8, e j = topExp e) ∧ ∀ j < 8, e j ≤ topExp e := by
  have hmax : (fun a e : Int => if a < e then e else a) = max := by
    funext a e
    exact (max_def_lt a e).symm
  obtain ⟨hmem, hle⟩ := List.max?_eq_some_iff.1 (List.max?_cons' (x := e 0) (xs := (List.range 8).map e))
  rw [topExp, hmax]
  refine ⟨?_, fun j hj => hle _ (List.mem_cons_of_mem _ (List.mem_map_of_mem (List.mem_range.2 hj)))⟩
  rcases List.mem_cons.1 hmem with h | h
  · exact ⟨0, by decide, h.symm⟩
  · simpa using h

theorem ochreShift_eq (b e : Nat → Int) : ochreShift ((List.range 8).map b) ((List.range 8).map e) =
    xaMk ((List.range 8).map (fun j => scaleFloor (b j) (e j - (topExp e - 40)))).sum (topExp e - 40) := by
  have hhead : ((List.range 8).map e).headD 0 = e 0 := by simp [List.range_succ_eq_map]
  simp only [ochreShift, hhead, List.zipWith_map, List.zipWith_self, List.sum_eq_foldl, topExp]

theorem ochreShift_shiftedSum (b e : Nat → Int) : ShiftedSum b e (ochreShift ((List.range 8).map b) ((List.range 8).map e)) := by
  obtain ⟨hmem, hle⟩ := topExp_greatest e
  refine ⟨topExp e, hmem, hle, ?_⟩
  rw [ochreShift_eq]
  simp only [scaleFloor_eq_floor]

/-! ## Errors of the array (R243) -/

section
variable {s : State} {hm : Nat}

theorem rowBad_of_clean (h : ArrayClean s hm) : rowBad s hm = false := by
  simp only [rowBad, List.any_eq_false, Bool.and_eq_true, decide_eq_true_eq, not_and]
  exact fun x hx h3 _ => h x hx h3.1 h3.2

theorem seenHalf_of_clean (h : ArrayClean s hm) (x : Half) : seenHalf s hm x = x := by
  have hnil : s.ecc.filter (fun m => m.1 = 3 && m.2 / 2 ^ 32 = hm) = [] := by
    simp only [List.filter_eq_nil_iff, Bool.and_eq_true, decide_eq_true_eq, not_and]
    exact h
  simp only [seenHalf, hnil, List.eraseDups_nil, List.foldl_nil]

/-- A run of entries without an error raises no fault. -/
theorem worst_eccTrap_none {c o a n : Nat} (h : ∀ i < n, eccBad s c o (a + i) = false) :
    worst ((List.range n).map (fun i => eccTrap s c o (a + i))) = none :=
  (worst_none _).2 (List.forall_mem_map.2 fun i hi => eccTrap_none.2 (h i (List.mem_range.1 hi)))

end

/-! ## BEAT_ACCESS (R249 to R257): the effect of each action that is taken, where the half-macro's interfaces are valid -/

theorem unforced_eq_filter (hm : Nat) (l : List Pend) : unforced hm l = l.filter (fun p => !isForce hm p.act) := by
  refine List.filter_congr fun p _ => ?_
  cases p.act <;> simp [isForce]

/-- Discarding the beat writes in flight, after a write of the half-macro. -/
theorem dropForce_setHalf (s : State) (id hm : Nat) (r : List Pend) (h : Half) :
    dropForce id hm (setHalf (without s id r) hm h) = setHalf (setTile s id { tileOf s id with cal := unforced hm r }) hm h := by
  change setHalf (dropForce id hm (without s id r)) hm h = _
  simp only [dropForce, updTile, tileOf_without, unforced_eq_filter]
  rw [without, setTile_setTile]

/-- The values that a MACC collects, as the statement has them. -/
theorem updTile_collect (s : State) (id hm : Nat) (p : Pend) (r : List Pend) (px : List XA) :
    updTile (without s id r) id (collect p hm px) = setTile s id { tileOf s id with cal := r.map (receives p hm px) } := by
  simp only [updTile, tileOf_without, collect]
  rw [without, setTile_setTile]
  rfl

theorem scaleOf_eq_qbyte (sc : QVec) (u j : Nat) : BitVec.ofNat 8 (qbyte sc (8 * u + j)) = scaleOf sc u j := by
  apply BitVec.eq_of_toNat_eq
  simp [scaleOf, qbyte, BitVec.extractLsb'_toNat, Nat.shiftRight_eq_div_pow]

section
variable {s : State} {p : Pend} {r : List Pend} {hm : Nat} (hd : Due s s.ev.a (isBeat s.ev.flag) p r)
  (hl : lanesOk s s.ev.a (hmLayer hm) = true)
include hd hl

theorem beatAccess_mmode {c : Bool} {f : FmtN} {w : Word} (hp : p.act = .mmode hm c f w) : exec .beatAccess s =
    .next (setHalf (setTile s s.ev.a { tileOf s s.ev.a with cal := unforced hm r }) hm { beatCleared (halfOf s hm) with
      mode := c, fmt := if c then f else 0, wscale := if c then w else 0, pm := fmtWidth (if c then f else 0) }) := by
  change execBeatAccess s = _
  simp only [execBeatAccess, takeDue_of_due hd, hp, actHalf, Option.getD_some, lanesOk_without, hl, dropForce_setHalf]
  rfl

theorem beatAccess_mclr (hp : p.act = .mclr hm) : exec .beatAccess s =
    .next (setHalf (setTile s s.ev.a { tileOf s s.ev.a with cal := unforced hm r }) hm (beatCleared (halfOf s hm))) := by
  change execBeatAccess s = _
  simp only [execBeatAccess, takeDue_of_due hd, hp, actHalf, Option.getD_some, lanesOk_without, hl, dropForce_setHalf]
  rfl

theorem beatAccess_mpmask {m : Nat} (hp : p.act = .mpmask hm m) :
    exec .beatAccess s = .next (setHalf (without s s.ev.a r) hm { halfOf s hm with pm := m }) := by
  change execBeatAccess s = _
  simp only [execBeatAccess, takeDue_of_due hd, hp, actHalf, Option.getD_some, lanesOk_without, hl]
  rfl

theorem beatAccess_mpush {f : FmtN} {pl u : Nat} {v sc : QVec} (hp : p.act = .mpush hm f pl u v sc) (hc : ArrayClean s hm) :
    exec .beatAccess s = .next (setTile s s.ev.a { tileOf s s.ev.a with cal := insertPend { p with
      due := tcAt s s.ev.a + 1
      act := .bsumIn hm (tabOf 0 (pushSums (halfOf s hm) f pl u v)) (if pl = 0 then 1 else min ((halfOf s hm).np + 1) 15)
        (if pl = 0 then some (f, (List.range 8).map (scaleOf sc u)) else none) } r }) := by
  have hrow : rowBad (without s s.ev.a r) hm = false := rowBad_of_clean hc
  change execBeatAccess s = _
  simp only [execBeatAccess, takeDue_of_due hd, hp, actHalf, Option.getD_some, lanesOk_without, hl, hrow, halfOf_without,
    seenHalf_of_clean (s := without s s.ev.a r) hc, tcAt_without, follow_without, scaleOf_eq_qbyte]
  rfl

theorem beatAccess_mpush_faults {f : FmtN} {pl u : Nat} {v sc : QVec} (hp : p.act = .mpush hm f pl u v sc) (hb : rowBad s hm = true) :
    exec .beatAccess s =
      .next { takeTrap ⟨0x16, 0, 0, m1Word s hm 0⟩ p.pipe p.bun none s.ev.a (without s s.ev.a r) with ckpt := none } := by
  have hrow : rowBad (without s s.ev.a r) hm = true := hb
  change execBeatAccess s = _
  simp only [execBeatAccess, takeDue_of_due hd, hp, actHalf, Option.getD_some, lanesOk_without, hl, hrow]
  rfl

theorem beatAccess_mshift (hp : p.act = .mshift hm) : exec .beatAccess s = .next (setTile s s.ev.a { tileOf s s.ev.a with
    cal := insertPend { p with due := tcAt s s.ev.a + 2, act := .pxIn hm (tabOf xaEmpty (shiftPx (halfOf s hm))) } r }) := by
  change execBeatAccess s = _
  simp only [execBeatAccess, takeDue_of_due hd, hp, actHalf, Option.getD_some, lanesOk_without, hl, halfOf_without, tcAt_without,
    follow_without]
  rfl

theorem beatAccess_macc {g : Nat} (hp : p.act = .macc hm g) (he : ∀ i < 32, eccBad s 4 (768 + hm) (32 * g + i) = false) :
    exec .beatAccess s = .next (setTile s s.ev.a { tileOf s s.ev.a with
      cal := r.map (receives p hm ((List.range 32).map (fun i =>
        if 32 * g + i < fmtCols (halfOf s hm).fmt then tabGet xaEmpty (halfOf s hm).px (32 * g + i) else xaEmpty))) }) := by
  have hpx : pxEcc (without s s.ev.a r) hm (32 * g) = none := worst_eccTrap_none he
  change execBeatAccess s = _
  simp only [execBeatAccess, takeDue_of_due hd, hp, actHalf, Option.getD_some, lanesOk_without, hl, hpx, halfOf_without, updTile_collect]
  rfl

end

/-! ## What MSHIFT computes (R66, R256) -/

section
variable {h : Half} {c : Nat}

theorem tabGet_shiftPx_of_no_plane (h0 : h.np = 0) : tabGet xaEmpty (tabOf xaEmpty (shiftPx h)) c = xaEmpty := by
  simp only [shiftPx, h0, if_true]
  rfl

/-- A block's scale byte is the NaN of its format. -/
def nanScale (h : Half) : Bool := (List.range 8).any (fun j => scaleByte h.asc j = 255 || scaleByte h.wscale j = 255)

theorem tabGet_shiftPx (h0 : h.np ≠ 0) (hc : c < fmtCols h.fmt) : tabGet xaEmpty (tabOf xaEmpty (shiftPx h)) c =
    if nanScale h then xaNan
    else ochreShift ((List.range 8).map (fun j => (tabGet 0 h.bsum (8 * c + j)).toInt)) ((List.range 8).map (blockExp h)) := by
  simp only [shiftPx, if_neg h0]
  exact tabGet_tabOf_range xaEmpty _ hc

theorem nanScale_iff : nanScale h = true ↔ ∃ j < 8, scaleByte h.asc j = 255 ∨ scaleByte h.wscale j = 255 := by
  simp only [nanScale, List.any_eq_true, List.mem_range, Bool.or_eq_true, decide_eq_true_eq]

theorem tabGet_shiftPx_nan (h0 : h.np ≠ 0) (hc : c < fmtCols h.fmt)
    (hn : ∃ j < 8, scaleByte h.asc j = 255 ∨ scaleByte h.wscale j = 255) : tabGet xaEmpty (tabOf xaEmpty (shiftPx h)) c = xaNan := by
  rw [tabGet_shiftPx h0 hc, if_pos (nanScale_iff.2 hn)]

theorem tabGet_shiftPx_sum (h0 : h.np ≠ 0) (hc : c < fmtCols h.fmt)
    (hn : ∀ j < 8, scaleByte h.asc j ≠ 255 ∧ scaleByte h.wscale j ≠ 255) :
    ShiftedSum (fun j => (tabGet 0 h.bsum (8 * c + j)).toInt) (blockExp h) (tabGet xaEmpty (tabOf xaEmpty (shiftPx h)) c) := by
  have hnot : ¬ nanScale h = true := fun hs => by
    obtain ⟨j, hj, ha | hw⟩ := nanScale_iff.1 hs
    · exact (hn j hj).1 ha
    · exact (hn j hj).2 hw
  rw [tabGet_shiftPx h0 hc, if_neg hnot]
  exact ochreShift_shiftedSum _ _

end

/-! ## BEAT_WRITE_IN_FORCE (R250, R251) -/

theorem getD_map_toNat {w : Nat} (l : List (BitVec w)) (i : Nat) : (l.map (·.toNat)).getD i 0 = (l.getD i 0).toNat := by
  simpa using List.getD_map l (n := i) 0 (fun x => x.toNat)

theorem packScales_byte {sc : List Byte} (h : sc.length = 8) (j : Nat) : (packScales sc).extractLsb' (8 * j) 8 = sc.getD j 0 := by
  rw [packScales, extractLsb'_joinBits (by simp [h]), getD_map_toNat, BitVec.ofNat_toNat, BitVec.setWidth_eq]

section
variable {s : State} {p : Pend} {r : List Pend} {hm : Nat} (hd : Due s s.ev.a isInForce p r)
include hd

theorem beatWriteInForce_bsum {b : Tab (BitVec 32)} {n : Nat} {l : Option (FmtN × List Byte)} (hp : p.act = .bsumIn hm b n l) :
    ∃ h, exec .beatWriteInForce s = .next (setHalf (without s s.ev.a r) hm h) ∧
      h = { halfOf s hm with bsum := b, np := n, afmt := h.afmt, asc := h.asc } ∧
      (l = none → h.afmt = (halfOf s hm).afmt ∧ h.asc = (halfOf s hm).asc) ∧
      (∀ f sc, l = some (f, sc) → sc.length = 8 → h.afmt = f ∧ ∀ j < 8, h.asc.extractLsb' (8 * j) 8 = sc.getD j 0) := by
  change ∃ h, execBeatWriteInForce s = _ ∧ _
  simp only [execBeatWriteInForce, takeDue_of_due hd, hp, halfOf_without]
  cases l with
  | none => exact ⟨_, rfl, rfl, fun _ => ⟨rfl, rfl⟩, nofun⟩
  | some x =>
    obtain ⟨f, sc⟩ := x
    refine ⟨_, rfl, rfl, nofun, fun f' sc' hx hlen => ?_⟩
    cases hx
    exact ⟨rfl, fun j _ => packScales_byte hlen j⟩

theorem beatWriteInForce_px {px : Tab XA} (hp : p.act = .pxIn hm px) :
    exec .beatWriteInForce s = .next (setHalf (without s s.ev.a r) hm { halfOf s hm with px := px }) := by
  change execBeatWriteInForce s = _
  simp only [execBeatWriteInForce, takeDue_of_due hd, hp, halfOf_without]

end

/-! ## MACC_LANDS (R257) -/

theorem sent_eq (got : List (Nat × List XA)) (i hm : Nat) :
    (((got.find? (fun p => p.1 = hm)).map (·.2)).getD []).getD i xaEmpty = sent got i hm := by
  unfold sent
  cases got.find? (fun p => p.1 = hm) <;> rfl

theorem foldCol_eq_folded (ms : List Nat) (got : List (Nat × List XA)) (i : Nat) :
    foldCol ms got i = folded (sent got i) ms (xaEmpty, false) := by
  unfold foldCol
  generalize (xaEmpty, false) = v
  induction ms generalizing v with
  | nil => rfl
  | cons m ms ih => rw [List.foldl_cons, ih, folded, sent_eq]

/-- One column of a landing, and whether it has saturated so far. -/
def landCol (row cb : Nat) (v : Nat → XA × Bool) (x : Tile × Bool) (i : Nat) : Tile × Bool :=
  (asSet x.1 row (32 * cb + i) (xaAdd (asGet x.1 row (32 * cb + i)) (v i).1).1,
    x.2 || (v i).2 || (xaAdd (asGet x.1 row (32 * cb + i)) (v i).1).2)

theorem landCols_eq_foldl (row cb : Nat) (ms : List Nat) (got : List (Nat × List XA)) (t : Tile) :
    landCols row cb ms got t = (List.range 32).foldl (landCol row cb (fun i => folded (sent got i) ms (xaEmpty, false))) (t, false) := by
  simp only [landCols, foldCol_eq_folded]
  rfl

theorem asKey_eq (row cb i : Nat) : asKey row (32 * cb + i) = 128 * row + 32 * cb + i := (Nat.add_assoc ..).symm
theorem asGet_eq_entry (t : Tile) (row col : Nat) : asGet t row col = entry t (asKey row col) := rfl

/-- n columns have landed in a tile u with the store of t: each has its value added once, and nothing but the store has changed. -/
theorem foldl_landCol (row cb : Nat) (v : Nat → XA × Bool) {t u : Tile} (hu : ∀ j, entry u j = entry t j) (n : Nat) :
    StoreIs t ((List.range n).foldl (landCol row cb v) (u, false)).1 (128 * row + 32 * cb) n
        (fun i => (xaAdd (entry t (128 * row + 32 * cb + i)) (v i).1).1) ∧
      (((List.range n).foldl (landCol row cb v) (u, false)).2 = true ↔
        ∃ i < n, (v i).2 = true ∨ (xaAdd (entry t (128 * row + 32 * cb + i)) (v i).1).2 = true) ∧
      ((List.range n).foldl (landCol row cb v) (u, false)).1 =
        { u with acc := ((List.range n).foldl (landCol row cb v) (u, false)).1.acc } := by
  induction n with
  | zero => exact ⟨fun j => by simp [hu], by simp, rfl⟩
  | succ n ih =>
    rw [List.range_succ, List.foldl_append, List.foldl_cons, List.foldl_nil]
    generalize (List.range n).foldl (landCol row cb v) (u, false) = x at ih ⊢
    obtain ⟨hstore, hsat, honly⟩ := ih
    have hold : asGet x.1 row (32 * cb + n) = entry t (128 * row + 32 * cb + n) := by
      rw [asGet_eq_entry, asKey_eq, hstore, if_neg (by omega)]
    refine ⟨fun j => ?_, ?_, ?_⟩
    · rw [landCol, hold]
      change tabGet xaEmpty (tabSet xaEmpty x.1.acc (asKey row (32 * cb + n)) _) j = _
      rw [asKey_eq]
      by_cases hj : j = 128 * row + 32 * cb + n
      · subst hj
        simp
      · rw [tabGet_set_other _ _ _ hj]
        exact (hstore j).trans (if_congr (by omega) rfl rfl)
    · rw [landCol, hold]
      simp only [Bool.or_eq_true, hsat, Nat.lt_succ_iff_lt_or_eq, or_and_right, exists_or, exists_eq_left, or_assoc]
    · rw [landCol, honly]
      rfl

/-- A run of entries of the store without an error. -/
theorem asEcc_none {s : State} {id a n : Nat} (h : ∀ i < n, eccBad s 4 id (a + i) = false) (r : List Pend) :
    asEcc (without s id r) id a n = none := worst_eccTrap_none (s := without s id r) h

theorem maccLands_adds {s : State} {p : Pend} {r : List Pend} {row cb : Nat} {ms : List Nat} {got : List (Nat × List XA)}
    {v : Nat → XA × Bool} (hd : Due s s.ev.a isMaccLand p r) (hp : p.act = .maccLand row cb ms got)
    (he : ∀ i < 32, eccBad s 4 s.ev.a (128 * row + 32 * cb + i) = false) (hv : ∀ i, v i = folded (sent got i) ms (xaEmpty, false)) :
    ∃ y, exec .maccLands s = .next (setTile s s.ev.a y) ∧ y = { tileOf s s.ev.a with cal := r, acc := y.acc, astat := y.astat } ∧
      StoreIs (tileOf s s.ev.a) y (128 * row + 32 * cb) 32
        (fun i => (xaAdd (entry (tileOf s s.ev.a) (128 * row + 32 * cb + i)) (v i).1).1) ∧
      y.astat = if ∃ i < 32, (v i).2 = true ∨ (xaAdd (entry (tileOf s s.ev.a) (128 * row + 32 * cb + i)) (v i).1).2 = true
        then (tileOf s s.ev.a).astat ||| 1 else (tileOf s s.ev.a).astat := by
  obtain rfl : v = fun i => folded (sent got i) ms (xaEmpty, false) := funext hv
  have hecc : asEcc (without s s.ev.a r) s.ev.a (asKey row (32 * cb)) 32 = none := asEcc_none he r
  change ∃ y, execMaccLands s = _ ∧ _
  simp only [execMaccLands, takeDue_of_due hd, hp, hecc, tileOf_without, landCols_eq_foldl]
  obtain ⟨hstore, hsat, honly⟩ := foldl_landCol row cb (fun i => folded (sent got i) ms (xaEmpty, false))
    (t := tileOf s s.ev.a) (u := { tileOf s s.ev.a with cal := r }) (fun _ => rfl) 32
  generalize (List.range 32).foldl (landCol row cb _) _ = x at hstore hsat honly ⊢
  rw [without, setTile_setTile]
  refine ⟨_, rfl, ?_⟩
  by_cases hx : x.2 = true
  · rw [if_pos hx, if_pos (hsat.1 hx), setFlags, honly]
    exact ⟨rfl, hstore, rfl⟩
  · rw [if_neg hx, if_neg (fun h => hx (hsat.2 h)), honly]
    exact ⟨rfl, hstore, rfl⟩

/-! ## AS_READ (R258 to R260) -/

/-- Emptying n entries is a run of writes to the store. -/
theorem clearRow_eq (row n : Nat) (t : Tile) : clearRow row n t =
    { t with acc := (List.range n).foldl (fun a i => tabSet xaEmpty a (128 * row + i) xaEmpty) t.acc } := by
  unfold clearRow
  induction n with
  | zero => rfl
  | succ n ih =>
    have hkey : asKey (row + n / 128) (n % 128) = 128 * row + n := by
      unfold asKey
      omega
    rw [List.range_succ, List.foldl_append, List.foldl_append, ih]
    simp only [List.foldl_cons, List.foldl_nil, asSet, hkey]

theorem clearRow_storeIs (row n : Nat) (t : Tile) : StoreIs t (clearRow row n t) (128 * row) n (fun _ => xaEmpty) := by
  intro j
  rw [clearRow_eq]
  exact tabGet_foldl_tabSet xaEmpty (fun _ => xaEmpty) t.acc (128 * row) n j

/-- A drain that does not clear empties no entry. -/
theorem clearIf_setTile (s : State) (id row n : Nat) (clr : Bool) (t : Tile) :
    (if clr then updTile (setTile s id t) id (clearRow row n) else setTile s id t) =
      setTile s id (clearRow row (if clr then n else 0) t) := by
  cases clr
  · rfl
  · exact updTile_setTile s id t _

theorem ofNvA_eq_zero (o n : Bool) : ofNvA o n = 0 ↔ o = false ∧ n = false := by
  cases o <;> cases n <;> decide

theorem flags_raised_iff (l : List FRes) : ofNvA (l.any (·.ovf)) (l.any (·.nv)) ≠ 0 ↔ ∃ x ∈ l, x.ovf = true ∨ x.nv = true := by
  rw [ne_eq, ofNvA_eq_zero, ← not_iff_not]
  simp only [not_not, List.any_eq_false, not_exists, not_and, not_or, ← forall_and]

/-- What follows from an action in a tile just written. -/
theorem follow_setTile (s : State) (id due : Nat) (p : Pend) (x : Act) (t : Tile) :
    follow id p due x (setTile s id t) = setTile s id { t with cal := insertPend { p with due := due, act := x } t.cal } := by
  rw [follow, updTile_setTile, addPend]

theorem rawJoin_lt {l : List XA} (h : l.length = 32) : (rawJoin l).toNat < 2 ^ 3072 := by
  have hlen : 96 * (l.map (·.toNat)).length = 3072 := by simp [h]
  rw [rawJoin, BitVec.toNat_ofNat, ← hlen]
  exact (Nat.mod_le _ _).trans_lt (joinBits_lt 96 _)

/-- Entry i of a raw image (R260). -/
theorem rawJoin_entry {l : List XA} (h : l.length = 32) (i : Nat) : (rawJoin l).extractLsb' (96 * i) 96 = l.getD i 0 := by
  rw [rawJoin, extractLsb'_joinBits (by simp [h]), getD_map_toNat, BitVec.ofNat_toNat, BitVec.setWidth_eq]

section
variable {s : State} {p : Pend} {r : List Pend} (hd : Due s s.ev.a isAsRead p r)
include hd

theorem asRead_mdrain {row n : Nat} {ty : OutTy} {clr : Bool} {q : QN} {res : List FRes} (hp : p.act = .mdrain row ty clr q)
    (hn : n = 512 / drainW ty) (he : ∀ i < n, eccBad s 4 s.ev.a (128 * row + i) = false)
    (hres : res = (List.range n).map (fun i => xaDrain (drainFmt ty) (entry (tileOf s s.ev.a) (128 * row + i)))) :
    ∃ y, exec .asRead s = .next (setTile s s.ev.a y) ∧ y = { tileOf s s.ev.a with cal := y.cal, acc := y.acc } ∧
      StoreIs (tileOf s s.ev.a) y (128 * row) (if clr then n else 0) (fun _ => xaEmpty) ∧
      y.cal = (if ∃ x ∈ res, x.ovf = true ∨ x.nv = true then insertPend { p with
          due := tcAt s s.ev.a + 4, act := .flags .astat (ofNvA (res.any (·.ovf)) (res.any (·.nv))) } else fun l => l)
        (insertPend { p with due := tcAt s s.ev.a + 4, act := .push q (ofLanes (drainW ty) (res.map (·.bits))) } r) := by
  have hecc : asEcc (without s s.ev.a r) s.ev.a (asKey row 0) n = none := asEcc_none he r
  have hread : (List.range n).map (fun i => xaDrain (drainFmt ty)
      (asGet { tileOf s s.ev.a with cal := r } (row + i / 128) (i % 128))) = res := by
    rw [hres]
    refine List.map_congr_left fun i _ => ?_
    have hkey : asKey (row + i / 128) (i % 128) = 128 * row + i := by
      unfold asKey
      omega
    rw [asGet_eq_entry, hkey]
    rfl
  change ∃ y, execAsRead s = _ ∧ _
  simp only [execAsRead, takeDue_of_due hd, hp, ← hn, hecc, tileOf_without, hread, tcAt_without, follow_without, follow_setTile]
  by_cases hfl : ∃ x ∈ res, x.ovf = true ∨ x.nv = true
  · rw [if_neg ((flags_raised_iff res).2 hfl), if_pos hfl, clearIf_setTile]
    exact ⟨_, rfl, by rw [clearRow_eq], clearRow_storeIs row _ _, by rw [clearRow_eq]⟩
  · rw [if_pos (not_not.1 fun h => hfl ((flags_raised_iff res).1 h)), if_neg hfl, clearIf_setTile]
    exact ⟨_, rfl, by rw [clearRow_eq], clearRow_storeIs row _ _, by rw [clearRow_eq]⟩

theorem asRead_asrd {row g : Nat} {q : QN} (hp : p.act = .asrd row g q)
    (he : ∀ i < 32, eccBad s 4 s.ev.a (128 * row + 32 * g + i) = false) :
    ∃ v : QVec, exec .asRead s = .next (setTile s s.ev.a { tileOf s s.ev.a with
        cal := insertPend { p with due := tcAt s s.ev.a + 2, act := .push q v } r }) ∧
      v.toNat < 2 ^ 3072 ∧ ∀ i < 32, v.extractLsb' (96 * i) 96 = entry (tileOf s s.ev.a) (128 * row + 32 * g + i) := by
  have hecc : asEcc (without s s.ev.a r) s.ev.a (asKey row (32 * g)) 32 = none := asEcc_none he r
  change ∃ v : QVec, execAsRead s = _ ∧ _
  simp only [execAsRead, takeDue_of_due hd, hp, hecc, tileOf_without, tcAt_without, follow_without]
  refine ⟨_, rfl, rawJoin_lt (by simp), fun i hi => ?_⟩
  rw [rawJoin_entry (by simp)]
  simp [hi, asGet_eq_entry, asKey_eq]
  rfl

end

end Sys2Proof

/-- Settles O41, event by event. -/
theorem halfMacrosAndTheStoreFollowTheBeats : Obligations.HalfMacrosAndTheStoreFollowTheBeats := by
  unfold Obligations.HalfMacrosAndTheStoreFollowTheBeats
  refine ⟨?_, ?_, ?_, ?_⟩
  · rintro s _ p r hm _ rfl hd rfl hl
    exact ⟨fun _ _ _ hp => beatAccess_mmode hd hl hp, fun hp => beatAccess_mclr hd hl hp, fun _ hp => beatAccess_mpmask hd hl hp,
      fun _ _ _ _ _ hp hc => beatAccess_mpush hd hl hp hc, fun _ _ _ _ _ hp hb => beatAccess_mpush_faults hd hl hp hb,
      fun hp => ⟨_, beatAccess_mshift hd hl hp, fun h0 _ => tabGet_shiftPx_of_no_plane h0,
        fun h0 _ hc => ⟨tabGet_shiftPx_nan h0 hc, tabGet_shiftPx_sum h0 hc⟩⟩,
      fun _ hp he => beatAccess_macc hd hl hp he⟩
  · rintro s _ p r hm rfl hd
    exact ⟨fun _ _ _ hp => beatWriteInForce_bsum hd hp, fun _ hp => beatWriteInForce_px hd hp⟩
  · rintro s _ p r row cb ms got v _ rfl hd hp rfl he hv
    exact maccLands_adds hd hp he hv
  · rintro s _ p r rfl hd
    exact ⟨fun _ _ _ _ _ _ hp hn he hres => asRead_mdrain hd hp hn he hres, fun _ _ _ hp he => asRead_asrd hd hp he⟩
end

section
/-! PROOFS. Landings (O16): what each write leaves in its tile, the order of the calendar, and the rotating names. -/

-- One declaration after the other: together they would not fit into the memory that the check allows.
set_option Elab.async false

open Sys2Proof Sys2Proof.Machine Sys2Proof.Claims

namespace Sys2Proof

variable {s : State} {p : Pend} {r : List Pend}

/-! ## What a write changes (R5, R95 to R97, R130) -/

section
variable {t : Tile}

theorem landed_wrPhys {n : Nat} {v : Word} : (n ≠ 0 → ∀ r : Reg, rdReg (wrPhys t n v) r = if physReg t r.toNat = n then v else rdReg t r) ∧
    wrPhys t n v = { t with a := (wrPhys t n v).a } := by
  unfold wrPhys
  split
  next h => exact ⟨fun hn => absurd h hn, rfl⟩
  next h =>
    refine ⟨fun _ r => ?_, rfl⟩
    by_cases hr : r = 0
    · subst hr
      have hz : physReg t (0 : Reg).toNat ≠ n := by simpa [physReg] using Ne.symm h
      rw [rdReg_zero, rdReg_zero, if_neg hz]
    · have hread : ∀ u : Tile, rdReg u r = tabGet 0 u.a (physReg u r.toNat) := fun _ => if_neg hr
      rw [hread, hread]
      change tabGet 0 (tabSet 0 t.a n v) (physReg t r.toNat) = _
      split
      next hp => rw [hp, tabGet_set_same]
      next hp => exact tabGet_set_other _ _ _ hp

theorem rdPred_of_ne {r : PredN} (h : r ≠ 0) : rdPred t r = t.preds.getLsbD r.toNat := by
  rw [rdPred, beq_eq_false_iff_ne.2 h, Bool.false_or]

/-- A predicate bit of a mask with one bit replaced. -/
theorem getLsbD_replaceBit (x : BitVec 16) (q r : PredN) (b : Bool) :
    ((x &&& ~~~(1#16 <<< q.toNat)) ||| (if b then 1#16 <<< q.toNat else 0)).getLsbD r.toNat =
      if r = q then b else x.getLsbD r.toNat := by
  have hr : r.toNat < 16 := r.isLt
  have hbit : (1#16 <<< q.toNat).getLsbD r.toNat = decide (r = q) := by revert q r; decide
  rw [BitVec.getLsbD_or, BitVec.getLsbD_and, BitVec.getLsbD_not, hbit, apply_ite (fun y => BitVec.getLsbD y r.toNat), hbit]
  by_cases h : r = q <;> cases b <;> simp [h, hr]

theorem landed_wrPred {q : PredN} {b : Bool} : (∀ r, rdPred (wrPred t q b) r = if r = q ∧ q ≠ 0 then b else rdPred t r) ∧
    wrPred t q b = { t with preds := (wrPred t q b).preds } := by
  unfold wrPred
  split
  next h => exact ⟨fun r => by rw [if_neg fun hq => hq.2 h], rfl⟩
  next h =>
    refine ⟨fun r => ?_, rfl⟩
    by_cases hr : r = 0
    · rw [if_neg (fun hq : r = q ∧ q ≠ 0 => hq.2 (hq.1 ▸ hr)), hr, rdPred_zero, rdPred_zero]
    · rw [rdPred_of_ne hr, rdPred_of_ne hr, getLsbD_replaceBit]
      exact if_congr (and_iff_left h).symm rfl rfl

theorem landed_wrMask {m : MaskN} {v : BitVec 512} : (∀ r, rdMask (wrMask t m v) r = if r = m ∧ m ≠ 0 then v else rdMask t r) ∧
    wrMask t m v = { t with vm := (wrMask t m v).vm } := by
  unfold wrMask
  split
  next h => exact ⟨fun r => by rw [if_neg fun hm => hm.2 h], rfl⟩
  next h =>
    refine ⟨fun r => ?_, rfl⟩
    by_cases hr : r = m
    · rw [if_pos ⟨hr, h⟩, hr, rdMask, if_neg h, tabGet_set_same]
    · have hn : r.toNat ≠ m.toNat := fun e => hr (BitVec.eq_of_toNat_eq e)
      rw [if_neg fun hm => hr hm.1, rdMask, rdMask, tabGet_set_other _ _ _ hn]

/-- A read of a table after a write at a key. -/
theorem tabGet_set {α : Type} [DecidableEq α] (d : α) (u : Tab α) (k j : Nat) (v : α) :
    tabGet d (tabSet d u k v) j = if j = k then v else tabGet d u j := by
  split
  next h => rw [h, tabGet_set_same]
  next h => exact tabGet_set_other _ _ _ h

theorem landed_wrLc {k : Nat} {v : BitVec 32} : (∀ j, rdLc (wrLc t k v) j = if j = k then v else rdLc t j) ∧
    wrLc t k v = { t with lc := (wrLc t k v).lc } :=
  ⟨fun j => tabGet_set 0 t.lc k j v, rfl⟩

theorem landed_stages {b : Bool} {r : PredN} :
    rdPred { t with preds := (t.preds &&& 0x00FF) ||| (if b then 0x0100 else 0) } r =
      if r.toNat < 8 then rdPred t r else decide (r = 8) && b := by
  have hmask : BitVec.getLsbD (0x00FF : BitVec 16) r.toNat = decide (r.toNat < 8) := by revert r; decide
  have hbit : BitVec.getLsbD (0x0100 : BitVec 16) r.toNat = decide (r = 8) := by revert r; decide
  by_cases h0 : r = 0
  · rw [h0, rdPred_zero, rdPred_zero]
    rfl
  · rw [rdPred_of_ne h0, rdPred_of_ne h0, BitVec.getLsbD_or, BitVec.getLsbD_and, hmask, apply_ite (fun y => BitVec.getLsbD y r.toNat), hbit]
    by_cases h8 : r = 8
    · subst h8
      cases b <;> simp
    · rw [decide_eq_false h8]
      cases b <;> simp [Bool.and_comm]

theorem landed_landQ {q : QN} {v : QVec} {pipe : Nat} {b : BRef} :
    (∀ j, qOf (landQ t q v pipe b) j = if j = q then qOf t q ++ [⟨none, v⟩] else qOf t j) ∧
      landQ t q v pipe b = { t with queues := (landQ t q v pipe b).queues, spill := (landQ t q v pipe b).spill } := by
  have hq : (landQ t q v pipe b).queues = tabSet [] t.queues q.toNat (qOf t q ++ [⟨none, v⟩]) := by
    rw [landQ]
    split <;> rfl
  refine ⟨fun j => ?_, ?_⟩
  · rw [qOf, hq, tabGet_set]
    exact if_congr (by rw [BitVec.toNat_inj]) rfl rfl
  · rw [landQ]
    split <;> rfl

/-- A generator that is written is read back, and the others stay. -/
theorem agOf_setAg (k j : Nat) (g : Agen) : agOf (setAg t k g) j = if j = k then g else agOf t j := tabGet_set Agen.idle t.gens k j g

/-- The entries that an ASWR writes are a run of the store. -/
theorem putAcc_eq (row g : Nat) (v : QVec) : putAcc t row g v = { t with
    acc := (List.range 32).foldl (fun a i => tabSet xaEmpty a (128 * row + 32 * g + i) (rawGet v i)) t.acc } := by
  have h : ∀ n, (List.range n).foldl (fun t i => asSet t row (32 * g + i) (rawGet v i)) t = { t with
      acc := (List.range n).foldl (fun a i => tabSet xaEmpty a (128 * row + 32 * g + i) (rawGet v i)) t.acc } := by
    intro n
    induction n with
    | zero => rfl
    | succ n ih =>
      have hkey : asKey row (32 * g + n) = 128 * row + 32 * g + n := by
        unfold asKey
        omega
      rw [List.range_succ, List.foldl_append, List.foldl_append, ih]
      simp only [List.foldl_cons, List.foldl_nil, asSet, hkey]
  exact h 32

/-- A special register takes the write that its row of R130 says. -/
theorem landed_specWrite {n : SpecReg} {v : Word} :
    (n = .sstat → specWrite t n v = { t with sstat := t.sstat &&& ~~~(v &&& 3) }) ∧
      (n = .astat → specWrite t n v = { t with astat := t.astat &&& ~~~(v &&& 7) }) ∧
      (n = .vstat → specWrite t n v = { t with
        vstat := (t.vstat &&& ~~~(v &&& 3) &&& ~~~0x0000FF0000000000) ||| (v &&& 0x0000FF0000000000) }) ∧
      (n = .pred → (∀ r : PredN, r ≠ 0 → rdPred (specWrite t n v) r = v.getLsbD r.toNat) ∧
        specWrite t n v = { t with preds := (specWrite t n v).preds }) ∧
      (n = .trot ∨ n = .segst → specWrite t n v = t) ∧
      (∀ k, n = .af k → (∀ j, rdAf (specWrite t n v) j = if j = k.toNat then v.setWidth 16 &&& 0xFF00 else rdAf t j) ∧
        specWrite t n v = { t with af := (specWrite t n v).af }) ∧
      (∀ k, (n = .lc0 ∧ k = 0) ∨ (n = .lc1 ∧ k = 1) ∨ (n = .lc2 ∧ k = 2) →
        (∀ j, rdLc (specWrite t n v) j = if j = k then v.setWidth 32 else rdLc t j) ∧
          specWrite t n v = { t with lc := (specWrite t n v).lc }) := by
  refine ⟨?_, ?_, ?_, ?_, ?_, ?_, ?_⟩
  · rintro rfl
    rfl
  · rintro rfl
    rfl
  · rintro rfl
    rfl
  · rintro rfl
    refine ⟨fun r hr => ?_, rfl⟩
    have hmask : BitVec.getLsbD (0xFFFE : BitVec 16) r.toNat = true := by revert r; decide
    have hlt : r.toNat < 16 := r.isLt
    rw [rdPred_of_ne hr]
    simp only [specWrite, BitVec.getLsbD_and, hmask, Bool.and_true, BitVec.getLsbD_setWidth, hlt, decide_true, Bool.true_and]
  · rintro (rfl | rfl) <;> rfl
  · rintro k rfl
    exact ⟨fun j => tabGet_set 0 t.af k.toNat j _, rfl⟩
  · rintro k (⟨rfl, rfl⟩ | ⟨rfl, rfl⟩ | ⟨rfl, rfl⟩) <;> exact landed_wrLc

/-- What a landing leaves in its tile, kind by kind. -/
theorem landed_landTile (p : Pend) (t : Tile) : Landed p t (landTile p t) := by
  obtain ⟨_, _, _, _, act⟩ := p
  cases act with
  | reg n v => exact landed_wrPhys
  | pred q b => exact landed_wrPred
  | mask m v => exact landed_wrMask
  | lc k v => exact landed_wrLc
  | stages b => exact ⟨fun r => landed_stages, rfl⟩
  | flags n v => exact ⟨by rintro rfl; rfl, by rintro rfl; rfl, by rintro rfl; rfl⟩
  | wrsr n v => exact landed_specWrite
  | kb i v => exact ⟨fun j => tabGet_set 0 t.kb i j v, rfl⟩
  | push q v => exact landed_landQ
  | agSet k sp b v1 v2 v3 => exact ⟨fun j => agOf_setAg k j _, rfl⟩
  | agBind k q => exact ⟨fun j => agOf_setAg k j _, rfl⟩
  | agFree k => exact ⟨fun j => agOf_setAg k j _, rfl⟩
  | aswr row g v =>
    unfold Landed landTile
    dsimp only
    rw [putAcc_eq]
    exact ⟨fun k => tabGet_foldl_tabSet xaEmpty (rawGet v) t.acc (128 * row + 32 * g) 32 k, rfl⟩
  | _ => trivial

end

/-- A run of entries of the store with an error. -/
theorem asEcc_some {id a k n : Nat} (hk : k < n) (hb : eccBad s 4 id (a + k) = true) :
    ∃ v, asEcc (without s id r) id a n = some ⟨0x16, 0, 0, v⟩ := by
  unfold asEcc
  cases hw : worst ((List.range n).map (fun i => eccTrap (without s id r) 4 id (a + i))) with
  | none =>
    have hclean := (worst_none _).1 hw _ (List.mem_map.2 ⟨k, List.mem_range.2 hk, rfl⟩)
    exact absurd (hb.symm.trans (eccTrap_none.1 hclean)) Bool.noConfusion
  | some x =>
    obtain ⟨i, -, hi⟩ := List.mem_map.1 (worst_mem _ x hw)
    unfold eccTrap trapIf at hi
    split at hi
    · exact ⟨_, hi.symm⟩
    · cases hi

/-! ## WRITE_LANDS (R69, R209, R265) -/

section
variable (hd : Due s s.ev.a (isLanding s.ev.flag) p r)
include hd

theorem writeLands_lands (he : ∀ row g v k, p.act = .aswr row g v → k < 32 → eccBad s 4 s.ev.a (128 * row + 32 * g + k) = false) :
    exec .writeLands s = .next (setTile s s.ev.a (landTile p { tileOf s s.ev.a with cal := r })) := by
  have hbad : landBad (without s s.ev.a r) s.ev.a p = none := by
    unfold landBad
    cases hp : p.act with
    | aswr row g v =>
      exact asEcc_none (fun i hi => he row g v i hp hi) r
    | _ => rfl
  change execWriteLands s = _
  simp only [execWriteLands, takeDue_of_due hd]
  rw [show (without s s.ev.a r).ev = s.ev from rfl, hbad, without, updTile_setTile]

theorem writeLands_faults {row g : Nat} {v : QVec} (hp : p.act = .aswr row g v)
    (hb : ∃ k < 32, eccBad s 4 s.ev.a (128 * row + 32 * g + k) = true) :
    ∃ a, exec .writeLands s = .next { takeTrap ⟨0x16, 0, 0, a⟩ p.pipe p.bun none s.ev.a (without s s.ev.a r) with ckpt := none } := by
  obtain ⟨k, hk, hbad⟩ := hb
  have hland : ∃ a, landBad (without s s.ev.a r) s.ev.a p = some ⟨0x16, 0, 0, a⟩ := by
    unfold landBad
    rw [hp]
    exact asEcc_some hk hbad
  obtain ⟨a, ha⟩ := hland
  change ∃ a, execWriteLands s = _
  simp only [execWriteLands, takeDue_of_due hd]
  rw [show (without s s.ev.a r).ev = s.ev from rfl, ha]
  exact ⟨a, rfl⟩

end

/-! ## The calendar's order (R70) -/

theorem pendBefore_iff {x y : Pend} : pendBefore x y = true ↔ x.issue < y.issue ∨ x.issue = y.issue ∧ x.pipe ≤ y.pipe := by
  simp [pendBefore]

theorem insertPend_splits (x : Pend) (l : List Pend) (hl : l.Pairwise (fun p q => pendBefore p q = true)) :
    ∃ l1 l2, l = l1 ++ l2 ∧ insertPend x l = l1 ++ x :: l2 ∧ (∀ p ∈ l1, pendBefore p x = true) ∧ ∀ p ∈ l2, pendBefore p x = false := by
  induction l with
  | nil => exact ⟨[], [], rfl, rfl, List.forall_mem_nil _, List.forall_mem_nil _⟩
  | cons y l ih =>
    obtain ⟨hy, hl⟩ := List.pairwise_cons.1 hl
    rw [insertPend]
    split
    next hyx =>
      obtain ⟨l1, l2, rfl, hi, h1, h2⟩ := ih hl
      exact ⟨y :: l1, l2, rfl, by rw [hi]; rfl, List.forall_mem_cons.2 ⟨hyx, h1⟩, h2⟩
    next hyx =>
      refine ⟨[], y :: l, rfl, rfl, List.forall_mem_nil _, List.forall_mem_cons.2 ⟨by simpa using hyx, fun q hq => ?_⟩⟩
      have hyq := pendBefore_iff.1 (hy q hq)
      rw [pendBefore_iff] at hyx
      rw [← Bool.not_eq_true, pendBefore_iff]
      omega

theorem landingsStandInIssueOrder : LandingsStandInIssueOrder := by
  intro x l hl
  obtain ⟨l1, l2, h, hi, h1, h2⟩ := insertPend_splits x l hl
  refine ⟨l1, l2, h, hi, fun p hp => pendBefore_iff.1 (h1 p hp), fun p hp => ?_⟩
  have hn := h2 p hp
  rw [← Bool.not_eq_true, pendBefore_iff] at hn
  omega

/-! ## Rotating names (R95) -/

theorem physReg_injective {t : Tile} {m n : Nat} (h : physReg t m = physReg t n) : m = n := by
  unfold physReg at h
  split_ifs at h with hm hn hn
  · obtain ⟨i, rfl⟩ := Nat.exists_eq_add_of_le hm.1
    obtain ⟨j, rfl⟩ := Nat.exists_eq_add_of_le hn.1
    have hij : i % t.rs = j % t.rs := Nat.ModEq.add_right_cancel' t.rb (show _ % _ = _ % _ by simpa using h)
    rw [Nat.mod_eq_of_lt (by omega), Nat.mod_eq_of_lt (by omega)] at hij
    rw [hij]
  · have := Nat.mod_lt (m - 32 + t.rb) (by omega : 0 < t.rs)
    omega
  · have := Nat.mod_lt (n - 32 + t.rb) (by omega : 0 < t.rs)
    omega
  · exact h

theorem physReg_rotates {t : Tile} {i : Nat} (hb : t.rb < t.rs) (hi : i + 1 < t.rs) :
    physReg { t with rb := (t.rb + t.rs - 1) % t.rs } (32 + (i + 1)) = physReg t (32 + i) := by
  have hsum : i + 1 + (t.rb + t.rs - 1) = i + t.rb + t.rs := by omega
  unfold physReg
  dsimp only
  rw [if_pos (by omega), if_pos (by omega), Nat.add_sub_cancel_left, Nat.add_sub_cancel_left, Nat.add_mod_mod, hsum, Nat.add_mod_right]

end Sys2Proof

/-- Settles O16: a due write lands as `landTile` says (`landed_landTile`), actions are inserted in order, and names stay distinct. -/
theorem writesLandInIssueOrderInTheirTile : Obligations.WritesLandInIssueOrderInTheirTile :=
  ⟨fun _ p _ hd => ⟨fun he => ⟨_, writeLands_lands hd he, landed_landTile p _⟩, fun _ _ _ hp hb => writeLands_faults hd hp hb⟩,
    landingsStandInIssueOrder, fun _ _ _ _ _ _ h => physReg_injective h, fun _ _ _ hb hi => physReg_rotates hb hi⟩
end

section
/-! PROOFS. The tile-memory words (O27): the checks of an address, then each word where they pass and where they fail. -/

-- One declaration after the other: together they would not fit into the memory that the check allows.
set_option Elab.async false

open Sys2Proof Sys2Proof.Machine Sys2Proof.Claims

namespace Sys2Proof

variable {s : State} {a : Word} {n : Nat}

/-! ## The fault that a word reports (R208) -/

/-- Checks that pass do not change the fault. -/
theorem worst_append_of_none {c d : List (Option Trap)} (h : ∀ y ∈ c, y = none) : worst (c ++ d) = worst d := by
  induction c with
  | nil => rfl
  | cons y c ih =>
    obtain ⟨rfl, hc⟩ := List.forall_mem_cons.1 h
    rw [List.cons_append, worst, ih hc]
    rfl

/-- An own-shaft word whose checks pass has its effect. -/
theorem shWord_pass {c : List (Option Trap)} {f : State → State} (h : ∀ x ∈ c, x = none) : shWord s c f = .next (f s) := by
  rw [shWord, (worst_none c).2 h]

theorem forall_pair {α : Type} {p : α → Prop} {x y : α} (hx : p x) (hy : p y) : ∀ z ∈ [x, y], p z :=
  List.forall_mem_cons.2 ⟨hx, List.forall_mem_singleton.2 hy⟩

/-! ## The checks of an address (R163 to R166) -/

theorem memEA_eq_addrOf (t : Tile) (ma : MemA) : memEA t ma = addrOf t ma := rfl

theorem xlate_none {b : Bool} {k : Nat} : xlate b k a = none ↔ b = false := trapIf_none ..

theorem m0Checks_none (h : M0Ok s a n) : ∀ x ∈ m0Checks s (now s + 1) a n, x = none := by
  obtain ⟨hin, hal, hfree⟩ := h
  simp only [m0Checks, List.forall_mem_cons, xlate_none, trapIf_none, decide_eq_false_iff_not, hfree, Bool.and_false]
  exact ⟨hin.not_ge, not_not.2 hal, trivial, List.forall_mem_nil _⟩

theorem worst_m0Checks_outside (c : Nat) (h : 2 ^ 21 ≤ a.toNat) : worst (m0Checks s c a n) = some ⟨0x11, 1, 0, a⟩ := by
  have hout : decide (a.toNat ≥ 2 ^ 21) = true := decide_eq_true h
  simp only [m0Checks, hout]
  cases decide (a.toNat % n ≠ 0) <;> rfl

theorem worst_m0Checks_misaligned (c : Nat) (h : a.toNat < 2 ^ 21) (hal : a.toNat % n ≠ 0) :
    worst (m0Checks s c a n) = some ⟨0x11, 2, 0, a⟩ := by
  have hout : decide (a.toNat ≥ 2 ^ 21) = false := decide_eq_false h.not_ge
  have hmis : decide (a.toNat % n ≠ 0) = true := decide_eq_true hal
  simp only [m0Checks, hout, hmis]
  rfl

/-- A remote target is no shaft of the domain that the word may name, or the tile's own (R166). -/
def badTarget (s : State) (a : Word) : Bool :=
  (m1Fields a).rem && (decide (m1Tile s.cur (m1Fields a) = s.cur) ||
    !(domAt s (domOf s s.cur)).parts.contains (partOf (m1Tile s.cur (m1Fields a))))

theorem badTarget_eq_false : badTarget s a = false ↔ ((m1Fields a).rem = true →
    m1Tile s.cur (m1Fields a) ≠ s.cur ∧ partOf (m1Tile s.cur (m1Fields a)) ∈ (domAt s (domOf s s.cur)).parts) := by
  unfold badTarget
  cases (m1Fields a).rem <;> simp

/-- The shaft has no such place (R165, R166). -/
def beyond (s : State) (a : Word) : Bool :=
  decide ((m1Fields a).ofs ≥ 30720) || badTarget s a ||
    decide ((m1Fields a).macro_ ≥ macroCount s (m1Tile s.cur (m1Fields a)) (m1Fields a).layer)

theorem beyond_eq_false : beyond s a = false ↔ (m1Fields a).ofs < 30720 ∧
    (m1Fields a).macro_ < macroCount s (m1Tile s.cur (m1Fields a)) (m1Fields a).layer ∧ badTarget s a = false := by
  simp only [beyond, Bool.or_eq_false_iff, decide_eq_false_iff_not, ge_iff_le, not_le]
  tauto

theorem m1AddrChecks_eq (s : State) (a : Word) (n : Nat) : m1AddrChecks s a n =
    [xlate (m1Outside a) 1 a, xlate (decide (a.toNat % n ≠ 0)) 2 a, xlate (!m1Outside a && beyond s a) 3 a] := rfl

theorem m1AddrChecks_none (h : M1Ok s a n) : ∀ x ∈ m1AddrChecks s a n, x = none := by
  obtain ⟨hout, hal, hofs, hmac, htgt⟩ := h
  have hplace : beyond s a = false := beyond_eq_false.2 ⟨hofs, hmac, badTarget_eq_false.2 htgt⟩
  simp only [m1AddrChecks_eq, List.forall_mem_cons, xlate_none, hout, hplace, decide_eq_false_iff_not]
  exact ⟨trivial, not_not.2 hal, rfl, List.forall_mem_nil _⟩

theorem worst_m1AddrChecks_outside (h : m1Outside a = true) : worst (m1AddrChecks s a n) = some ⟨0x11, 1, 0, a⟩ := by
  rw [m1AddrChecks_eq, h]
  cases decide (a.toNat % n ≠ 0) <;> rfl

theorem worst_m1AddrChecks_misaligned (h : m1Outside a = false) (hal : a.toNat % n ≠ 0) :
    worst (m1AddrChecks s a n) = some ⟨0x11, 2, 0, a⟩ := by
  rw [m1AddrChecks_eq, h, decide_eq_true hal]
  cases beyond s a <;> rfl

theorem worst_m1AddrChecks_beyond (h : m1Outside a = false) (hal : a.toNat % n = 0) (hb : beyond s a = true) :
    worst (m1AddrChecks s a n) = some ⟨0x11, 3, 0, a⟩ := by
  rw [m1AddrChecks_eq, h, decide_eq_false (not_not.2 hal), hb]
  rfl

theorem hmChecks_none (h : ShaftOk s a) : ∀ x ∈ hmChecks s (now s + 1 + (m1Fields a).layer) a (m1Half s s.cur (m1Fields a)), x = none := by
  obtain ⟨hmode, hlanes, hfree⟩ := h
  simp [hmChecks, hmode, hlanes, hfree]

theorem useReg_base {ma : MemA} (hb : Readable s [ma.ba]) : useReg s ma.ba = none := useReg_of_readable hb List.mem_cons_self

/-! ## Words of the scratchpad (R167, R168) -/

section
variable {g : Guard} {w : Width} {d : Reg} {ma : MemA} (hg : guardOn (me s) g = true) (hb : Readable s [ma.ba])
include hg hb

theorem ldM0_issues (sg : Bool) (h : M0Ok s (addrOf (me s) ma) (2 ^ w.toNat)) (hd : Writable s d) :
    guarded s g (ldM0 s w sg d ma) =
      .next (withAction s 1 (.m0Load (addrOf (me s) ma).toNat (2 ^ w.toNat) sg (physReg (me s) d.toNat)) s) := by
  rw [guarded_on s hg, ldM0]
  exact doWord_pass s (List.forall_mem_append.2 ⟨forall_pair (useReg_base hb) (dstReg_of_writable hd), m0Checks_none h⟩)

theorem sts_issues (h : M0Ok s (addrOf (me s) ma) (2 ^ w.toNat)) (hd : Readable s [d]) : exec (.sts g w d ma) s =
    .next (withAction s 1 (.m0Store (addrOf (me s) ma).toNat (2 ^ w.toNat) (rdReg (me s) d)) s) := by
  change execSts g w d ma s = _
  rw [execSts, guarded_on s hg]
  exact doWord_pass s (List.forall_mem_append.2
    ⟨forall_pair (useReg_base hb) (useReg_of_readable hd List.mem_cons_self), m0Checks_none h⟩)

theorem ldv_issues {q : QN} (h : M0Ok s (addrOf (me s) ma) 512) (hq : Pushable s q) :
    exec (.ldv g q ma) s = .next (withAction s 1 (.m0LoadV (addrOf (me s) ma).toNat q) s) := by
  change execLdv g q ma s = _
  rw [execLdv, guarded_on s hg]
  exact doWord_pass s (List.forall_mem_append.2 ⟨forall_pair (useReg_base hb) (dstQ_of_pushable hq), m0Checks_none h⟩)

theorem stv_issues {q : QN} {v : QVec} {t : Tile} (h : M0Ok s (addrOf (me s) ma) 512) (hq : Takes s [⟨false, q⟩] [v] t) :
    exec (.stv g q ma) s = .next (withAction s 1 (.m0StoreV (addrOf (me s) ma).toNat v) (setTile s s.cur t)) := by
  have htake : takeQs (me s) [accSrc q] = some ([v], t) := hq.2
  change execStv g q ma s = _
  rw [execStv, guarded_on s hg]
  refine (doWord_pass s (List.forall_mem_append.2 ⟨List.forall_mem_append.2
    ⟨List.forall_mem_singleton.2 (useReg_base hb), srcQs_of_takes hq⟩, m0Checks_none h⟩)).trans ?_
  rw [htake]
  exact congrArg Host.Outcome.next (sameWord_of_takes hq).later_eq

theorem m0Word_faults {x : Trap} (hd : Readable s [d]) (h : worst (m0Checks s (now s + 1) (addrOf (me s) ma) (2 ^ w.toNat)) = some x) :
    ∀ i ∈ [Instr.ldsSigned g w d ma, .ldsUnsigned g w d ma, .sts g w d ma],
      exec i s = .next (takeTrap x s.pipe (me s).bun none s.cur s) := by
  have hsrc : ∀ y ∈ [useReg s ma.ba, useReg s d], y = none :=
    forall_pair (useReg_base hb) (useReg_of_readable hd List.mem_cons_self)
  have hdst : ∀ y ∈ [useReg s ma.ba, dstReg s d], y = none :=
    forall_pair (useReg_base hb) (dstReg_of_writable (hd d List.mem_cons_self).1)
  have hload : ∀ sg, guarded s g (ldM0 s w sg d ma) = .next (trapHere x s) := fun sg => by
    rw [guarded_on s hg, ldM0]
    exact doWord_trap s ((worst_append_of_none hdst).trans h)
  simp only [List.forall_mem_cons]
  refine ⟨hload true, hload false, ?_, List.forall_mem_nil _⟩
  change execSts g w d ma s = _
  rw [execSts, guarded_on s hg]
  exact doWord_trap s ((worst_append_of_none hsrc).trans h)

theorem ldv_faults {q : QN} {x : Trap} (h : worst (m0Checks s (now s + 1) (addrOf (me s) ma) 512) = some x) (hq : Pushable s q) :
    exec (.ldv g q ma) s = .next (takeTrap x s.pipe (me s).bun none s.cur s) := by
  change execLdv g q ma s = _
  rw [execLdv, guarded_on s hg]
  exact doWord_trap s ((worst_append_of_none (forall_pair (useReg_base hb) (dstQ_of_pushable hq))).trans h)

theorem stv_faults {q : QN} {v : QVec} {t : Tile} {x : Trap} (h : worst (m0Checks s (now s + 1) (addrOf (me s) ma) 512) = some x)
    (hq : Takes s [⟨false, q⟩] [v] t) : exec (.stv g q ma) s = .next (takeTrap x s.pipe (me s).bun none s.cur s) := by
  change execStv g q ma s = _
  rw [execStv, guarded_on s hg]
  exact doWord_trap s ((worst_append_of_none (List.forall_mem_append.2
    ⟨List.forall_mem_singleton.2 (useReg_base hb), srcQs_of_takes hq⟩)).trans h)

end

/-! ## Outstanding accesses (R79, R85, R90) -/

theorem addAcc_eq_issuesAccess {t : State} (h : SameWord s t) (m1 : Bool) (op : AccOp) (ord : MOrd) (scp : MScp) (parts : List Part)
    (walk done : Bool) : addAcc m1 op ord scp parts walk done t = issuesAccess s m1 op ord scp parts walk done t := by
  rw [issuesAccess, ← h.cur, ← h.now, ← h.pipe, ← h.bun]
  rfl

theorem pendReg_eq_pendsReg (d : Reg) : pendReg d s = pendsReg s d s := rfl

theorem sameWord_pendsReg (d : Reg) : SameWord s (pendsReg s d s) := by
  unfold pendsReg
  split
  · exact .refl s
  · exact (SameWord.refl s).setTile rfl rfl

/-! ## Words of the shaft (R165, R168, R85) -/

theorem guardedM1_on {g : Guard} (hg : guardOn (me s) g = true) (k : Host.Outcome State Fault Refusal) : guardedM1 s g a k = k :=
  if_pos hg

section
variable {g : Guard} {w : Width} {d : Reg} {ma : MemA} (hg : guardOn (me s) g = true) (he : (me s).elastic = false)
  (hb : Readable s [ma.ba])
include he hb

theorem ldM1_checks (hd : Writable s d) : ∀ x ∈ [rigidOnly (me s), useReg s ma.ba, dstReg s d], x = none :=
  List.forall_mem_cons.2 ⟨rigidOnly_of_rigid he, forall_pair (useReg_base hb) (dstReg_of_writable hd)⟩

theorem sst_checks (hd : Readable s [d]) : ∀ x ∈ [rigidOnly (me s), useReg s ma.ba, useReg s d], x = none :=
  List.forall_mem_cons.2 ⟨rigidOnly_of_rigid he, forall_pair (useReg_base hb) (useReg_of_readable hd List.mem_cons_self)⟩

include hg

section
variable {f : M1Addr} (hf : f = m1Fields (addrOf (me s) ma)) (h : M1Ok s (addrOf (me s) ma) (2 ^ w.toNat))
include hf h

section
variable (hr : f.rem = false) (hs : ShaftOk s (addrOf (me s) ma))
include hr hs

theorem ldM1_own_issues (sg : Bool) (hd : Writable s d) : guardedM1 s g (memEA (me s) ma) (ldM1 s w sg d ma) =
    .next (withAction s (1 + f.layer) (.shLoad (m1Half s s.cur f) f.ofs (2 ^ w.toNat) sg (physReg (me s) d.toNat)) s) := by
  subst hf
  have haddr : (worst (m1AddrChecks s (addrOf (me s) ma) (2 ^ w.toNat))).isSome = false := by
    rw [(worst_none _).2 (m1AddrChecks_none h)]
    rfl
  rw [guardedM1_on hg, ldM1]
  simp only [memEA_eq_addrOf, wBytes, hr, haddr, Bool.false_eq_true, if_false]
  exact shWord_pass (List.forall_mem_append.2
    ⟨List.forall_mem_append.2 ⟨ldM1_checks he hb hd, m1AddrChecks_none h⟩, hmChecks_none hs⟩)

theorem sst_own_issues (hd : Readable s [d]) : exec (.sst g w d ma) s =
    .next (withAction s (1 + f.layer) (.shStore (m1Half s s.cur f) f.ofs (2 ^ w.toNat) (rdReg (me s) d)) s) := by
  subst hf
  have haddr : (worst (m1AddrChecks s (addrOf (me s) ma) (2 ^ w.toNat))).isSome = false := by
    rw [(worst_none _).2 (m1AddrChecks_none h)]
    rfl
  change execSst g w d ma s = _
  simp only [execSst, guardedM1_on hg, memEA_eq_addrOf, wBytes, hr, haddr, Bool.false_eq_true, if_false]
  exact shWord_pass (List.forall_mem_append.2
    ⟨List.forall_mem_append.2 ⟨sst_checks he hb hd, m1AddrChecks_none h⟩, hmChecks_none hs⟩)

end

section
variable (hr : f.rem = true)
include hr

theorem ldM1_remote_issues (sg : Bool) (hd : Writable s d) : guardedM1 s g (memEA (me s) ma) (ldM1 s w sg d ma) =
    .next (issuesAccess s true (.load (2 ^ w.toNat) sg (physReg (me s) d.toNat)) .rlx .none
      [Claims.part 0 (addrOf (me s) ma).toNat (2 ^ w.toNat) 0] false false (pendsReg s d s)) := by
  subst hf
  rw [guardedM1_on hg, ldM1]
  simp only [memEA_eq_addrOf, wBytes, hr, if_true]
  exact (doWord_pass s (List.forall_mem_append.2 ⟨ldM1_checks he hb hd, m1AddrChecks_none h⟩)).trans
    (congrArg Host.Outcome.next (addAcc_eq_issuesAccess (sameWord_pendsReg d) ..))

theorem sst_remote_issues (hd : Readable s [d]) : exec (.sst g w d ma) s =
    .next (issuesAccess s true .store .rlx .none
      [Claims.part 0 (addrOf (me s) ma).toNat (2 ^ w.toNat) (rdReg (me s) d).toNat] false false s) := by
  subst hf
  change execSst g w d ma s = _
  simp only [execSst, guardedM1_on hg, memEA_eq_addrOf, wBytes, hr, if_true]
  exact (doWord_pass s (List.forall_mem_append.2 ⟨sst_checks he hb hd, m1AddrChecks_none h⟩)).trans
    (congrArg Host.Outcome.next (addAcc_eq_issuesAccess (.refl s) ..))

end
end

theorem m1Word_faults {x : Trap} (hd : Readable s [d]) (h : worst (m1AddrChecks s (addrOf (me s) ma) (2 ^ w.toNat)) = some x) :
    ∀ i ∈ [Instr.sldSigned g w d ma, .sldUnsigned g w d ma, .sst g w d ma],
      exec i s = .next (takeTrap x s.pipe (me s).bun none s.cur s) := by
  have hdst := ldM1_checks he hb (hd d List.mem_cons_self).1
  have hsrc := sst_checks he hb hd
  have hload : ∀ sg, guardedM1 s g (memEA (me s) ma) (ldM1 s w sg d ma) = .next (trapHere x s) := fun sg => by
    rw [guardedM1_on hg, ldM1]
    simp only [memEA_eq_addrOf, wBytes, h, Option.isSome_some, if_true]
    split <;> exact doWord_trap s ((worst_append_of_none hdst).trans h)
  simp only [List.forall_mem_cons]
  refine ⟨hload true, hload false, ?_, List.forall_mem_nil _⟩
  change execSst g w d ma s = _
  simp only [execSst, guardedM1_on hg, memEA_eq_addrOf, wBytes, h, Option.isSome_some, if_true]
  split <;> exact doWord_trap s ((worst_append_of_none hsrc).trans h)

end

theorem tileMemoryWordsIssueTheirAccess : TileMemoryWordsIssueTheirAccess := by
  refine ⟨fun s g w d ma sg hg h hb => ⟨fun hd => ?_, sts_issues hg hb h⟩,
    fun s g d ma hg h hb => ⟨ldv_issues hg hb h, fun v t hq => stv_issues hg hb h hq⟩,
    fun s g w d ma sg f hg he hf h hb => ⟨fun hr hs => ⟨fun hd => ?_, sst_own_issues hg he hb hf h hr hs⟩,
      fun hr => ⟨fun hd => ?_, sst_remote_issues hg he hb hf h hr⟩⟩⟩
  · cases sg
    · exact ldM0_issues hg hb false h hd
    · exact ldM0_issues hg hb true h hd
  · cases sg
    · exact ldM1_own_issues hg he hb hf h hr hs false hd
    · exact ldM1_own_issues hg he hb hf h hr hs true hd
  · cases sg
    · exact ldM1_remote_issues hg he hb hf h hr false hd
    · exact ldM1_remote_issues hg he hb hf h hr true hd

theorem wrongTileAddressesFault : WrongTileAddressesFault := by
  refine ⟨fun s g w d ma hg hb hd => ⟨fun hout => ?_, fun hin hal => ?_, fun he i hi => ⟨fun hout => ?_, fun hin hal => ?_, fun hin hal hbad => ?_⟩⟩,
    fun s g d ma n hg hb hn => ?_⟩
  · exact m0Word_faults hg hb hd (worst_m0Checks_outside _ hout)
  · exact m0Word_faults hg hb hd (worst_m0Checks_misaligned _ hin hal)
  · exact m1Word_faults hg he hb hd (worst_m1AddrChecks_outside hout) i hi
  · exact m1Word_faults hg he hb hd (worst_m1AddrChecks_misaligned hin hal) i hi
  · refine m1Word_faults hg he hb hd (worst_m1AddrChecks_beyond hin hal ?_) i hi
    rw [← Bool.not_eq_false, beyond_eq_false, badTarget_eq_false]
    rintro ⟨hofs, hmac, htgt⟩
    rcases hbad with h | h | ⟨hr, h⟩
    · exact hofs.not_ge h
    · exact hmac.not_ge h
    · exact h.elim (htgt hr).1 fun hp => hp (htgt hr).2
  · have hw : worst (m0Checks s (now s + 1) (addrOf (me s) ma) 512) = some ⟨0x11, n, 0, addrOf (me s) ma⟩ := by
      rcases hn with ⟨rfl, hout⟩ | ⟨rfl, hin, hal⟩
      · exact worst_m0Checks_outside _ hout
      · exact worst_m0Checks_misaligned _ hin hal
    exact ⟨ldv_faults hg hb hw, fun v t hq => stv_faults hg hb hw hq⟩

end Sys2Proof

/-- Settles O27, word by word. -/
theorem tileMemoryWordsIssueOrFault : Obligations.TileMemoryWordsIssueOrFault :=
  ⟨tileMemoryWordsIssueTheirAccess, wrongTileAddressesFault⟩
end

section
/-! PROOFS. The words of global memory (O29): the checks of the elements, the parts of an access, then the words. -/

-- One declaration after the other: together they would not fit into the memory that the check allows.
set_option Elab.async false

open Sys2Proof Sys2Proof.Machine Sys2Proof.Claims

namespace Sys2Proof

variable {s : State} {k : M2Chk} {f : GForm} {vs : List QVec} {t : Tile} {walk : Bool}

/-! ## The elements (R166, R171) -/

theorem pageTrap_none {id va : Nat} (h : RightElem s id k va) : pageTrap s id k.wr k.far va = none := by
  obtain ⟨-, -, p, hp, hwr, hfar⟩ := h
  have hpage : ∀ n m : Option Trap, (if k.wr && !p.wr then n else if k.far && p.home ≠ .here then m else none) = none := fun n m => by
    rw [if_neg (by simpa using hwr), if_neg (by simpa using hfar)]
  simp only [pageTrap, hp]
  exact hpage _ _

theorem m2Look_cons_ok {va : Nat} {r : List Nat} (h : ElemOk s k va) :
    m2Look s s.cur (me s).elastic k (va :: r) = m2Look s s.cur (me s).elastic k r := by
  obtain ⟨hright, hres, hcached⟩ := h
  have hpage := pageTrap_none hright
  obtain ⟨hcan, hal, -⟩ := hright
  rw [m2Look]
  cases he : (me s).elastic with
  | true => simp [hcan, hal, hcached he, hpage]
  | false => simp [hcan, hal, hres he, hpage]

theorem m2Look_append_ok {l r : List Nat} (h : ∀ va ∈ l, ElemOk s k va) :
    m2Look s s.cur (me s).elastic k (l ++ r) = m2Look s s.cur (me s).elastic k r := by
  induction l with
  | nil => rfl
  | cons va l ih =>
    obtain ⟨hva, hl⟩ := List.forall_mem_cons.1 h
    rw [List.cons_append, m2Look_cons_ok hva, ih hl]

theorem m2Look_of_translates {vas : List Nat} (h : Translates s k vas walk) : m2Look s s.cur (me s).elastic k vas = (none, walk) := by
  cases walk with
  | false => simpa [m2Look] using m2Look_append_ok (r := []) h
  | true =>
    obtain ⟨he, l, va, r, rfl, hl, hcan, hal, hmiss⟩ := h
    rw [m2Look_append_ok hl, m2Look]
    simp [hcan, hal, he, hmiss]

theorem wheelCheck_none {o : MOrd}
    (h : o = .sc → (wheelOwner (image s s.cur) (now s % 4096)).map (taskTile (image s s.cur)) = some s.cur) : wheelCheck s o = none := by
  rw [image_cur] at h
  refine (trapIf_none ..).2 ?_
  change (o == .sc && (wheelOwner (Machine.imgOf s (me s)) (now s % 4096)).map (taskTile (Machine.imgOf s (me s))) != some s.cur) = false
  cases o <;> simp_all

/-! ## The parts (R83, R171) -/

theorem cutParts_eq_vecParts (va data : Nat) : cutParts va data = vecParts va data := rfl

theorem elemParts_eq (w : Nat) (ds : List Nat) (i : Nat) (l : List Nat) :
    elemParts w ds i l = (List.range l.length).map (fun j => Claims.part (i + j) (l.getD j 0) w (ds.getD (i + j) 0)) := by
  induction l generalizing i with
  | nil => rfl
  | cons va l ih =>
    rw [elemParts, ih, List.length_cons, List.range_succ_eq_map, List.map_cons, List.map_map]
    refine congrArg _ (List.map_congr_left fun j _ => ?_)
    simp [Nat.add_assoc, Nat.add_comm 1 j]

theorem getD_map_range (f : Nat → Nat) {n i : Nat} (h : i < n) : ((List.range n).map f).getD i 0 = f i := by
  simp [List.getD, h]

theorem elemCount_eq (w : Wide) : (if w then 64 else 128) = 512 / gBytes w := by cases w <;> rfl

/-- The parts of a gather or a scatter, whose data are given as a list. -/
theorem elemParts_eq_gElems (b : Word) (w : Wide) (x : QVec) (ds : List Nat) (d : Nat → Nat)
    (hd : ∀ i < 512 / gBytes w, ds.getD i 0 = d i) : elemParts (wideBytes w) ds 0 (elemAddrs b w x) = gElems b w x d := by
  rw [elemParts_eq, elemAddrs, elemCount_eq, List.length_map, List.length_range, gElems]
  refine List.map_congr_left fun j hj => ?_
  rw [Nat.zero_add, hd j (List.mem_range.1 hj), getD_map_range _ (List.mem_range.1 hj)]
  rfl

theorem getD_lanes (w : Nat) (v : QVec) {i : Nat} (h : i < 512 / w) : (lanes w v).getD i 0 = lane w v i := getD_map_range _ h

/-! ## Operands taken, destinations reserved (R71, R72, R169) -/

section
variable {src : List QSrc} (h : Takes s src vs t)
include h

theorem taken_eq (j : Nat) : taken s src j = vs.getD j 0 := by
  rw [taken, h.2]

theorem popped_eq : popped src s = setTile s s.cur t := by
  rw [popped, h.2]

/-- Entries that are reserved in the queues without what the word takes. -/
theorem reserve_popped (q : QN) (n : Nat) : reserve q n (popped src s) = reserves s q n (setTile s s.cur t) := by
  have hacc : t.nacc = (me s).nacc := by rw [takeQs_keeps h.2]
  rw [popped_eq h, reserve, reserves, onMe_eq_setTile, me_setTile, tileOf_setTile_same, hacc]
  rfl

end

theorem reserve_eq_reserves (q : QN) (n : Nat) : reserve q n s = reserves s q n s := rfl

theorem sameWord_reserves {u : State} (h : SameWord s u) (q : QN) (n : Nat) : SameWord s (reserves s q n u) := by
  rw [reserves, ← h.cur]
  exact h.setTile rfl rfl

/-! ## The words (R167 to R173) -/

/-- A signed comparison of width 4 extends the old value by its sign (R172). -/
theorem atomSigned_wideBytes (fn : Nat) (w : Wide) : atomSigned fn (wideBytes w) = (decide (fn = fnMaxI ∨ fn = fnMinI) && !w) := by
  cases w <;> simp [atomSigned, wideBytes]

/-- The state in which the access of a form has been issued. -/
def afterIssue (f : GForm) (s : State) (vs : List QVec) (t : Tile) (walk : Bool) : State :=
  issuesAccess s false f.op f.sx.ord f.sx.scp (f.parts vs) walk false (f.eff (if f.src = [] then s else setTile s s.cur t))

section
variable {g : Guard} {sx : Sfx} {d b : Reg} {q : QN} {ma : MemA} (hg : guardOn (me s) g = true)

section
include hg

theorem guardedM2_on (r : Host.Outcome State Fault Refusal) : guardedM2 s g r = r := if_pos hg

/-- An M2 word whose checks pass, and whose effect is that of its form, issues its access. -/
theorem m2Word_issues {pre : List (Option Trap)} {eff : State → State} (hr : f.Ready s vs t walk) (hpre : ∀ x ∈ pre, x = none)
    (heff : eff s = f.eff (if f.src = [] then s else setTile s s.cur t)) (hsame : SameWord s (eff s)) :
    guardedM2 s g (m2Word s pre f.op f.sx f.chk (f.parts vs) eff) = .next (afterIssue f s vs t walk) := by
  obtain ⟨-, -, -, -, htr, hwheel⟩ := hr
  have hlook := m2Look_of_translates htr
  rw [guardedM2_on hg, m2Word, hlook]
  refine (doWord_pass s (List.forall_mem_append.2 ⟨hpre, forall_pair (wheelCheck_none hwheel) rfl⟩)).trans ?_
  rw [addAcc_eq_issuesAccess hsame, heff]
  rfl

end

variable (hr : f.Ready s vs t walk)

section
include hr

theorem useReg_need {r : Reg} (h : r ∈ f.need) : useReg s r = none := useReg_of_readable hr.1 h

theorem dstReg_dst (h : f.dst = some d) : dstReg s d = none := dstReg_of_writable (hr.2.1 d h)

theorem resvQ_resv (h : f.resv = some q) : resvQ s q = none := (trapIf_none ..).2 (hr.2.2.1 q h)

theorem takes_src : Takes s f.src vs t := hr.2.2.2.1

end

include hg hr

theorem gld_issues {w : Width} {sg : Bool} (hf : gLoad s w sg sx d ma = some f) :
    guardedM2 s g (ldM2 s w sg sx d ma) = .next (afterIssue f s vs t walk) := by
  cases hf
  exact m2Word_issues hg hr (forall_pair (useReg_need hr List.mem_cons_self) (dstReg_dst hr rfl)) rfl (sameWord_pendsReg d)

theorem gst_issues {w : Width} (hf : gForm s (.gst g w sx d ma) = some (g, f)) :
    exec (.gst g w sx d ma) s = .next (afterIssue f s vs t walk) := by
  cases hf
  exact m2Word_issues hg hr (forall_pair (useReg_need hr List.mem_cons_self) (useReg_need hr (List.mem_cons_of_mem _ List.mem_cons_self)))
    rfl (.refl s)

theorem gldv_issues (hf : gForm s (.gldv g sx q ma) = some (g, f)) :
    exec (.gldv g sx q ma) s = .next (afterIssue f s vs t walk) := by
  cases hf
  exact m2Word_issues hg hr (forall_pair (useReg_need hr List.mem_cons_self) (resvQ_resv hr rfl)) rfl (sameWord_reserves (.refl s) q 1)

theorem gstv_issues (hf : gForm s (.gstv g sx q ma) = some (g, f)) :
    exec (.gstv g sx q ma) s = .next (afterIssue f s vs t walk) := by
  cases hf
  have ht : Takes s [accSrc q] vs t := takes_src hr
  have hpop := popped_eq ht
  have hword := m2Word_issues hg hr (List.forall_mem_cons.2 ⟨useReg_need hr List.mem_cons_self, srcQs_of_takes ht⟩) hpop
    (hpop ▸ sameWord_of_takes ht)
  rw [← hword]
  change execGstv g sx q ma s = _
  rw [execGstv, taken_eq ht]
  rfl

theorem gaorv_issues (hf : gForm s (.gaorv g sx q ma) = some (g, f)) :
    exec (.gaorv g sx q ma) s = .next (afterIssue f s vs t walk) := by
  cases hf
  have ht : Takes s [accSrc q] vs t := takes_src hr
  have hpop := popped_eq ht
  have hword := m2Word_issues hg hr (List.forall_mem_cons.2 ⟨useReg_need hr List.mem_cons_self, srcQs_of_takes ht⟩) hpop
    (hpop ▸ sameWord_of_takes ht)
  rw [← hword]
  change execGaorv g sx q ma s = _
  rw [execGaorv, taken_eq ht]
  rfl

theorem ggath_issues {w : Wide} (hf : gForm s (.ggath g w sx q b) = some (g, f)) :
    exec (.ggath g w sx q b) s = .next (afterIssue f s vs t walk) := by
  cases hf
  have ht : Takes s [idxQ q] vs t := takes_src hr
  have hpop := reserve_popped ht q 1
  have hword := m2Word_issues (eff := fun s => reserve q 1 (popped [idxQ q] s)) hg hr
    (List.forall_mem_cons.2 ⟨useReg_need hr List.mem_cons_self, List.forall_mem_cons.2 ⟨resvQ_resv hr rfl, srcQs_of_takes ht⟩⟩) hpop
    (hpop ▸ sameWord_reserves (sameWord_of_takes ht) q 1)
  rw [← hword]
  change execGgath g w sx q b s = _
  rw [execGgath, taken_eq ht, elemParts_eq_gElems _ _ _ _ (fun _ => 0) fun _ _ => rfl]
  rfl

theorem gscat_issues {w : Wide} (hf : gForm s (.gscat g w sx q b) = some (g, f)) :
    exec (.gscat g w sx q b) s = .next (afterIssue f s vs t walk) := by
  cases hf
  have ht : Takes s [idxQ q, accSrc q] vs t := takes_src hr
  have hpop := popped_eq ht
  have hword := m2Word_issues hg hr (List.forall_mem_cons.2 ⟨useReg_need hr List.mem_cons_self, srcQs_of_takes ht⟩) hpop
    (hpop ▸ sameWord_of_takes ht)
  rw [← hword]
  change execGscat g w sx q b s = _
  rw [execGscat, taken_eq ht, taken_eq ht, elemParts_eq_gElems _ _ _ (lanes (wideBytes w) (vs.getD 1 0)) _ fun _ hi => getD_lanes _ _ hi]
  rfl

theorem atom_issues {w : Wide} {fn : Nat} {y cmp : Word} {src : List Reg} (hf : gAtom s fn w sx d b y cmp src = some f) :
    atomWord s g fn w sx d b y cmp src = .next (afterIssue f s vs t walk) := by
  cases hf
  have hword := m2Word_issues hg hr (List.forall_mem_cons.2 ⟨useReg_need hr List.mem_cons_self, List.forall_mem_cons.2
    ⟨dstReg_dst hr rfl, List.forall_mem_map.2 fun r h => useReg_need hr (List.mem_cons_of_mem _ h)⟩⟩) rfl (sameWord_pendsReg d)
  rw [← hword, atomWord, atomSigned_wideBytes]
  rfl

theorem atom1_issues {w : Wide} {fn : Nat} {l : Option Lit} (hf : gAtom1 s fn w sx d b l = some f) :
    atom1 s g fn w sx d b l = .next (afterIssue f s vs t walk) := by
  cases l <;> exact atom_issues hg hr hf

end

theorem of_map_pair {g g' : Guard} {o : Option GForm} (h : o.map (g, ·) = some (g', f)) : g = g' ∧ o = some f := by
  cases o <;> cases h
  exact ⟨rfl, rfl⟩

/-- For the words that a partial classification of the instructions leaves out. -/
theorem of_none_eq_some {α : Type} {a : α} {p : Prop} (h : none = some a) : p := absurd h.symm (Option.some_ne_none a)

/-- The words of global memory, form by form. -/
theorem globalWord_issues {i : Instr} {g : Guard} (h : gForm s i = some (g, f)) (hg : guardOn (me s) g = true)
    (hr : f.Ready s vs t walk) : exec i s = .next (afterIssue f s vs t walk) := by
  induction i with
  | gldSigned | gldUnsigned =>
    cases h
    exact gld_issues hg hr rfl
  | gst =>
    obtain rfl := congrArg Prod.fst (Option.some.inj h)
    exact gst_issues hg hr h
  | gldv =>
    obtain rfl := congrArg Prod.fst (Option.some.inj h)
    exact gldv_issues hg hr h
  | gstv =>
    obtain rfl := congrArg Prod.fst (Option.some.inj h)
    exact gstv_issues hg hr h
  | ggath =>
    obtain rfl := congrArg Prod.fst (Option.some.inj h)
    exact ggath_issues hg hr h
  | gscat =>
    obtain rfl := congrArg Prod.fst (Option.some.inj h)
    exact gscat_issues hg hr h
  | gaorv =>
    obtain rfl := congrArg Prod.fst (Option.some.inj h)
    exact gaorv_issues hg hr h
  | gaadd | gaor | gaand | gamaxI | gamaxN | gaminI | gaminN | gaxch =>
    obtain ⟨rfl, hf⟩ := of_map_pair h
    exact atom1_issues hg hr hf
  | gacas =>
    cases h
    exact atom_issues hg hr rfl
  | _ => exact of_none_eq_some h

theorem fence_issues {g : Guard} {sx : Sfx} (hg : guardOn (me s) g = true) :
    exec (.fence g sx) s = .next (issuesAccess s false .fence sx.ord sx.scp [] false true s) := by
  change execFence g sx s = _
  rw [execFence, guarded_on s hg, addAcc_eq_issuesAccess (.refl s)]

end Sys2Proof

/-- Settles O29, form by form. -/
theorem globalWordsIssueTheirAccess : Obligations.GlobalWordsIssueTheirAccess :=
  ⟨fun _ _ _ _ _ _ _ h hg hr => globalWord_issues h hg hr, fun _ _ _ hg => fence_issues hg⟩
end

section
/-! PROOFS. What holds an access back (O30): a part whose order is not free stays, and each rule of R79 to R82 makes it so. -/

-- One declaration after the other: together they would not fit into the memory that the check allows.
set_option Elab.async false

open Sys2Proof Sys2Proof.Machine Sys2Proof.Claims

namespace Sys2Proof

variable {s : State} {id : Nat} {x y f : Acc} {p : Part}

/-! ## A part whose order is not free stays -/

theorem m2AccessPerform_stays (hx : accOf (tileOf s s.ev.a) s.ev.b = some x) (hp : x.parts.find? (fun q => q.idx = s.ev.c) = some p)
    (h : orderFree s s.ev.a x p = false) : exec .m2AccessPerform s = .next s := by
  have hstays : (p.done || !partReady s s.ev.a x p) = true := by
    cases hd : p.done with
    | true => rfl
    | false =>
      have hu : p ∈ unitOf s s.ev.a x p := List.mem_filter.2 ⟨List.mem_of_find?_eq_some hp, by simp [hd, together]⟩
      have hmay : unitMay s s.ev.a x p = false := List.all_eq_false.2 ⟨p, hu, by simp [partOrdered, h]⟩
      simp [partReady, hmay]
  change execM2AccessPerform s = _
  simp only [execM2AccessPerform, hx, hp, hstays, if_true]

/-! ## An earlier access (R79, R80, R82) -/

theorem openM2_eq_true : openM2 y = true ↔ y.m1 = false ∧ y.op ≠ .fence ∧ y.done = false := by
  simp [openM2, isFence, and_assoc]

theorem openM2_of_earlierOpen (h : EarlierOpen s id x y) : openM2 y = true := by
  obtain ⟨-, -, hm, hf, hd⟩ := h
  exact openM2_eq_true.2 ⟨hm, hf, hd⟩

/-- An earlier access that holds a part back. -/
theorem orderFree_of_accHolds (he : EarlierOpen s id x y) (h : accHolds s id y x p = true) : orderFree s id x p = false := by
  obtain ⟨hy, hlt, -⟩ := he
  have hany : (earlierAcc (tileOf s id) x).any (fun y => accHolds s id y x p) = true :=
    List.any_eq_true.2 ⟨y, List.mem_filter.2 ⟨hy, decide_eq_true hlt⟩, h⟩
  simp [orderFree, hany]

theorem accHolds_of_shared_byte (he : EarlierOpen s id x y) (hb : isBerth y.op = false)
    (hq : ∃ q ∈ y.parts, q.done = false ∧ p.va < q.va + q.len ∧ q.va < p.va + p.len) (ho : ordAt s id p.va ≠ .uo) :
    accHolds s id y x p = true := by
  obtain ⟨q, hq, hd, hpq, hqp⟩ := hq
  have hpart : y.parts.any (fun q => !q.done &&
      ((ordAt s id p.va == .so && ordAt s id q.va == .so) || (overlap p q && ordAt s id p.va != .uo))) = true :=
    List.any_eq_true.2 ⟨q, hq, by simp [hd, overlap, hpq, hqp, ho]⟩
  simp [accHolds, openM2_of_earlierOpen he, hb, hpart]

theorem accHolds_of_so (he : EarlierOpen s id x y) (hb : isBerth y.op = false)
    (hq : ∃ q ∈ y.parts, q.done = false ∧ ordAt s id q.va = .so) (ho : ordAt s id p.va = .so) : accHolds s id y x p = true := by
  obtain ⟨q, hq, hd, hso⟩ := hq
  have hpart : y.parts.any (fun q => !q.done &&
      ((ordAt s id p.va == .so && ordAt s id q.va == .so) || (overlap p q && ordAt s id p.va != .uo))) = true :=
    List.any_eq_true.2 ⟨q, hq, by simp [hd, hso, ho]⟩
  simp [accHolds, openM2_of_earlierOpen he, hb, hpart]

theorem accHolds_of_suffix (he : EarlierOpen s id x y) (h : y.ord = .acq ∨ x.ord = .rel ∨ y.ord = .sc ∨ x.ord = .sc) :
    accHolds s id y x p = true := by
  rw [accHolds, openM2_of_earlierOpen he]
  rcases h with h | h | h | h <;> simp [h]

/-! ## A fence (R81) -/

theorem isLdAt_eq_true {o : AccOp} : isLdAt o = true ↔ LoadsOrAtomics o := by
  cases o <;> simp [isLdAt, LoadsOrAtomics]
theorem isStAt_eq_true {o : AccOp} : isStAt o = true ↔ StoresOrAtomics o := by
  cases o <;> simp [isStAt, StoresOrAtomics]

/-- What a fence names is open before it. -/
theorem fenceHolds_of_open {l : List Acc} (hy : y ∈ l) (ho : openM2 y = true) (hacq : f.ord = .acq → LoadsOrAtomics y.op)
    (hrel : f.ord = .rel → StoresOrAtomics x.op) : fenceHolds f l x = true := by
  have hany : l.any openM2 = true := List.any_eq_true.2 ⟨y, hy, ho⟩
  unfold fenceHolds
  cases hf : f.ord with
  | acq => exact List.any_eq_true.2 ⟨y, hy, by simp [ho, isLdAt_eq_true.2 (hacq hf)]⟩
  | rel => simp [isStAt_eq_true.2 (hrel hf), hany]
  | _ => exact hany

theorem fencesHold_append {l r seen : List Acc} (hf : isFence f = true) (h : fenceHolds f (seen ++ l) x = true) :
    fencesHold x seen (l ++ f :: r) = true := by
  induction l generalizing seen with
  | nil => simp_all [fencesHold]
  | cons z l ih => simp [fencesHold, ih (seen := seen ++ [z]) (by simpa using h)]

theorem orderFree_of_fence {l r : List Acc} (hout : (tileOf s id).out = l ++ f :: r) (he : EarlierOpen s id x y) (hy : y ∈ l)
    (hlt : f.id < x.id) (hf : f.op = .fence) (hacq : f.ord = .acq → LoadsOrAtomics y.op) (hrel : f.ord = .rel → StoresOrAtomics x.op) :
    orderFree s id x p = false := by
  have hmem : y ∈ l.filter (fun z => decide (z.id < x.id)) := List.mem_filter.2 ⟨hy, decide_eq_true he.2.1⟩
  have hhold : fencesHold x [] (earlierAcc (tileOf s id) x) = true := by
    rw [earlierAcc, hout, List.filter_append, List.filter_cons_of_pos (by simpa using hlt)]
    exact fencesHold_append (by simp [isFence, hf]) (fenceHolds_of_open hmem (openM2_of_earlierOpen he) hacq hrel)
  simp [orderFree, hhold]

/-! ## The order of `.sc` accesses (R82) -/

/-- An entry that is read from a table is the default or stands in it. -/
theorem tabGet_eq_or_mem {α : Type} (d : α) (t : Tab α) (k : Nat) : tabGet d t k = d ∨ (k, tabGet d t k) ∈ t := by
  induction t with
  | nil => exact .inl rfl
  | cons e r ih =>
    obtain ⟨j, v⟩ := e
    simp only [tabGet]
    split
    next h => exact .inr (by simp [h])
    next => exact ih.imp_right (List.mem_cons_of_mem _)

/-- A tile with an outstanding access stands in the table of tiles. -/
theorem mem_tiles_of_mem_out {j : Nat} (h : y ∈ (tileOf s j).out) : (j, tileOf s j) ∈ s.tiles := by
  refine (tabGet_eq_or_mem Tile.reset s.tiles j).resolve_left fun hd => ?_
  change tileOf s j = _ at hd
  rw [hd] at h
  exact List.not_mem_nil h

theorem orderFree_of_scHolds {j : Nat} (hx : x.ord = .sc) (hj : domOf s j = domOf s id) (hy : y ∈ (tileOf s j).out) (hsc : y.ord = .sc)
    (ho : openM2 y = true) (hlt : y.issue < x.issue) : orderFree s id x p = false := by
  have htile : s.tiles.any (fun e => domOf s e.1 = domOf s id &&
      e.2.out.any (fun y => y.ord == .sc && openM2 y && decide (y.issue < x.issue))) = true :=
    List.any_eq_true.2 ⟨_, mem_tiles_of_mem_out hy, by
      simpa [hj] using ⟨y, hy, ⟨hsc, ho⟩, hlt⟩⟩
  have hhold : scHolds s id x = true := by simp [scHolds, hx, htile]
  simp [orderFree, hhold]

end Sys2Proof

/-- Settles O30: each rule keeps the part's order from being free, and such a part stays (`m2AccessPerform_stays`). -/
theorem earlierAccessesHoldLaterOnesBack : Obligations.EarlierAccessesHoldLaterOnesBack := by
  unfold Obligations.EarlierAccessesHoldLaterOnesBack
  intro s x p hx hp
  have stays := m2AccessPerform_stays hx hp
  refine ⟨fun y he => ⟨fun hb hq ho => ?_, fun hb hq ho => ?_, fun h => ?_, fun l r f hout hy hlt hf hord => ?_⟩,
    fun j y hxo hj hy hyo hm hf hd hlt => ?_⟩
  · exact stays (orderFree_of_accHolds he (accHolds_of_shared_byte he hb hq ho))
  · exact stays (orderFree_of_accHolds he (accHolds_of_so he hb hq ho))
  · exact stays (orderFree_of_accHolds he (accHolds_of_suffix he h))
  · exact stays (orderFree_of_fence hout he hy hlt hf (fun h => by rwa [h] at hord) (fun h => by rwa [h] at hord))
  · exact stays (orderFree_of_scHolds hxo hj hy hyo (openM2_eq_true.2 ⟨hm, hf, hd⟩) hlt)
end

section
/-! PROOFS. Lines that perform together, when the event names one that has performed (O31): the part of the statement that is about
several lines does not ask that the named part be open. -/

-- One declaration after the other: together they would not fit into the memory that the check allows.
set_option Elab.async false

open Sys2Proof Sys2Proof.Machine Sys2Proof.Claims

namespace Sys2Proof

/-! ## A load of two lines whose first line has performed -/

/-- A page of host memory, whose channels are always open. -/
def hostLines : Page := ⟨0, 0, .k64, 0, .so, true, .host⟩
/-- The first line of the load, which has performed. -/
def firstLine : Part := ⟨0, 0, 64, 0, true, 0⟩
/-- Its second line, which is open. -/
def secondLine : Part := ⟨1, 64, 64, 0, false, 0⟩
/-- The load. -/
def halfLoaded : Acc := ⟨0, 0, 6, BRef.zero, false, .loadV 0, .rlx, .none, [firstLine, secondLine], false, false, 0, none, false, 0⟩
/-- Tile 0 has the load outstanding, and the event names its first line. -/
def repeatedLine : State :=
  { State.reset with tiles := [(0, { Tile.reset with out := [halfLoaded] })], pages := [hostLines], ev := EvArgs.zero }

/-- The event changes nothing: the line that it names has performed. -/
theorem repeatedLine_stays : exec .m2AccessPerform repeatedLine = .next repeatedLine := rfl

theorem unitOf_repeatedLine : unitOf repeatedLine repeatedLine.ev.a halfLoaded firstLine = [secondLine] := by decide

/-- The second line is ready, and it is all that the statement asks of the event's unit. -/
theorem repeatedLine_performs : Performs repeatedLine halfLoaded firstLine hostLines (2 ^ 64) := by
  refine ⟨rfl, rfl, by decide, by decide, by decide, fun q _ _ g _ => ?_⟩
  simp [eccLines, repeatedLine, State.reset]

theorem usesParts_tiles (s : State) (x : Acc) (k : Nat) (u : List Part) (s' : State) : (usesParts s x k u s').tiles = s'.tiles :=
  List.foldlRecOn (motive := fun t : State => t.tiles = s'.tiles) u _ rfl fun _ ht _ _ => ht

/-- The access that the statement wants has the second line performed; the tile's own still has it open. -/
theorem setAcc_ne_repeatedLine {y : Acc} {t : State} (ht : t.tiles = repeatedLine.tiles) (hid : y.id = 0)
    (hy : y.parts ≠ halfLoaded.parts) : setAcc repeatedLine.ev.a y t ≠ repeatedLine := by
  intro h
  have hout : (tileOf (setAcc 0 y t) 0).out = [halfLoaded] := congrArg (fun s => (tileOf s 0).out) h
  have hold : tileOf t 0 = tileOf repeatedLine 0 := by rw [tileOf, ht, tileOf]
  rw [setAcc, tileOf_updTile_same, hold] at hout
  change [if halfLoaded.id = y.id then y else halfLoaded] = _ at hout
  rw [hid, if_pos (show halfLoaded.id = 0 from rfl)] at hout
  exact hy (congrArg Acc.parts (List.singleton_inj.1 hout))

end Sys2Proof

/-- Refutes O31: in `repeatedLine` the first of two lines has performed and the second is ready, so `Performs` holds of the first one
and its unit is the second; the statement then has the second one performed, but an event that names a performed part does
nothing. -/
theorem not_globalAccessesTranslateAndPerform : ¬ Obligations.GlobalAccessesTranslateAndPerform := by
  unfold Obligations.GlobalAccessesTranslateAndPerform
  rintro ⟨⟨-, hlines⟩, -⟩
  obtain ⟨y, hexec, hy, -⟩ := (hlines repeatedLine halfLoaded firstLine hostLines (2 ^ 64) 1 _ repeatedLine_performs
    unitOf_repeatedLine.symm rfl (by decide) (by unfold Plain; decide)).1 0 rfl
  rw [repeatedLine_stays] at hexec
  refine setAcc_ne_repeatedLine (usesParts_tiles _ _ _ _ _) (by rw [hy]; rfl) (fun hparts => ?_) (Host.Outcome.next.inj hexec).symm
  rw [hy] at hparts
  dsimp only at hparts
  exact absurd (congrArg (List.map Part.done) hparts) (by decide)
end

section
/-! PROOFS. DRAIN (O32): which accesses it covers, what the release of one access does to registers, pending names and queues, the
releases one after another, then the word and its completion. -/

-- One declaration after the other: together they would not fit into the memory that the check allows.
set_option Elab.async false

open Sys2Proof Sys2Proof.Machine Sys2Proof.Claims

namespace Sys2Proof

variable {s : State} {t : Tile} {x : Acc} {l : List Acc}

/-! ## What a DRAIN covers (R90) -/

theorem covers_iff {p : DrainPath} {c : Nat} : covers p c x = true ↔ Covered p c x := by
  cases p <;> simp [covers, onPath, isFence, Covered] <;> tauto

theorem mem_covered {p : DrainPath} {c : Nat} : x ∈ l.filter (covers p c) ↔ x ∈ l ∧ Covered p c x := by
  rw [List.mem_filter, covers_iff]

/-! ## The entries that an access reserved (R169) -/

section
variable {n : Nat} {vs : List QVec} {es : List QEnt}

@[simp] theorem length_fillEnts : (fillEnts n vs es).length = es.length := by
  induction es generalizing vs with
  | nil => rfl
  | cons e es ih =>
    rw [fillEnts]
    split <;> simp [ih]

/-- Entry k of a queue after the fill: the m-th that access n reserved gets the m-th vector, the others stay. -/
theorem getElem?_fillEnts (k : Nat) : (fillEnts n vs es)[k]? = es[k]?.map (fun e =>
    if e.resv = some n then ⟨none, (vs[(es.take k).countP (fun f => f.resv == some n)]?).getD e.val⟩ else e) := by
  induction es generalizing vs k with
  | nil => rfl
  | cons e es ih =>
    rw [fillEnts]
    by_cases he : e.resv = some n
    · rw [if_pos he]
      cases k with
      | zero => cases vs <;> simp [he]
      | succ k => cases vs <;> simp [ih, he]
    · rw [if_neg he]
      cases k with
      | zero => simp [he]
      | succ k => simp [ih, he]

/-- The fill for one access leaves the reservations of another. -/
theorem countP_take_fillEnts {m : Nat} (h : m ≠ n) (k : Nat) : ((fillEnts n vs es).take k).countP (fun f => f.resv == some m) =
    (es.take k).countP (fun f => f.resv == some m) := by
  induction es generalizing vs k with
  | nil => rfl
  | cons e es ih =>
    cases k with
    | zero => rfl
    | succ k =>
      rw [fillEnts]
      by_cases he : e.resv = some n
      · simp [he, ih, h.symm]
      · simp [he, ih, List.countP_cons]

end

theorem foldr_eq_joined (ps : List Part) : ps.foldr (fun p acc => p.got + 256 ^ p.len * acc) 0 = joined ps := by
  induction ps with
  | nil => rfl
  | cons p ps ih => rw [List.foldr_cons, ih, joined]

theorem getD_accVecs (x : Acc) (m : Nat) (old : QVec) : ((accVecs x)[m]?).getD old = returned x m old := by
  unfold accVecs returned
  cases x.op with
  | loadV q => cases m <;> simp [foldr_eq_joined]
  | gather w q => cases m <;> simp
  | kvgath key n q => cases h : x.parts[m]? <;> simp [h]
  | _ => simp

/-! ## One access is released (R72, R168, R169) -/

theorem accReg_eq_resultReg (x : Acc) : accReg x.op = resultReg x := by
  unfold accReg resultReg
  cases x.op <;> rfl

/-- The tile with the scalar result of an access. -/
def withResult (x : Acc) (t : Tile) : Tile := match resultReg x with | some r => wrPhys t r x.result | none => t

theorem withResult_eq (x : Acc) (t : Tile) : withResult x t = { t with a := (withResult x t).a } := by
  unfold withResult wrPhys
  cases resultReg x with
  | none => rfl
  | some r =>
    dsimp only
    split <;> rfl

theorem releaseAcc_eq (x : Acc) (t : Tile) : releaseAcc x t = { t with
    a := (withResult x t).a, pendR := t.pendR.filter (fun p => p.2 ≠ x.id),
    queues := t.queues.map (fun q => (q.1, fillEnts x.id (accVecs x) q.2)), out := t.out.filter (fun y => y.id ≠ x.id) } := by
  have h : releaseAcc x t = { withResult x t with
      pendR := (withResult x t).pendR.filter (fun p => p.2 ≠ x.id),
      queues := (withResult x t).queues.map (fun q => (q.1, fillEnts x.id (accVecs x) q.2)),
      out := (withResult x t).out.filter (fun y => y.id ≠ x.id) } := by
    unfold releaseAcc withResult
    rw [accReg_eq_resultReg] <;> rfl
  rw [h, withResult_eq]

theorem tabGet_withResult_other {r : Nat} (h : resultReg x ≠ some r) : tabGet 0 (withResult x t).a r = tabGet 0 t.a r := by
  unfold withResult wrPhys
  cases hx : resultReg x with
  | none => rfl
  | some k =>
    have hk : r ≠ k := fun hr => h (by rw [hx, hr])
    dsimp only
    split
    · rfl
    · exact tabGet_set_other _ _ _ hk

theorem tabGet_withResult_same {r : Nat} (h : resultReg x = some r) (hr : r ≠ 0) : tabGet 0 (withResult x t).a r = x.result := by
  simp [withResult, wrPhys, h, hr]

theorem tabGet_map {α : Type} {d : α} {f : α → α} (hd : f d = d) (t : Tab α) (k : Nat) :
    tabGet d (t.map (fun e => (e.1, f e.2))) k = f (tabGet d t k) := by
  induction t with
  | nil => exact hd.symm
  | cons e t ih =>
    simp only [List.map_cons, tabGet, ih]
    split <;> rfl

theorem qOf_releaseAcc (x : Acc) (t : Tile) (q : QN) : qOf (releaseAcc x t) q = fillEnts x.id (accVecs x) (qOf t q) := by
  rw [releaseAcc_eq]
  exact tabGet_map rfl t.queues q.toNat

/-! ## Accesses are released one after another -/

/-- Releases the accesses of a list. -/
def releaseAll (l : List Acc) (t : Tile) : Tile := l.foldl (fun t x => releaseAcc x t) t

theorem releaseAll_keeps (l : List Acc) (t : Tile) : releaseAll l t = { t with
    a := (releaseAll l t).a, pendR := (releaseAll l t).pendR, queues := (releaseAll l t).queues, out := (releaseAll l t).out } := by
  induction l generalizing t with
  | nil => rfl
  | cons x l ih =>
    have h := ih (releaseAcc x t)
    rw [releaseAcc_eq x t] at h
    rw [releaseAll, List.foldl_cons, ← releaseAll, releaseAcc_eq]
    exact h

theorem mem_pendR_releaseAll {q : Nat × Nat} : q ∈ (releaseAll l t).pendR ↔ q ∈ t.pendR ∧ ∀ x ∈ l, x.id ≠ q.2 := by
  induction l generalizing t with
  | nil => simp [releaseAll]
  | cons x l ih =>
    rw [releaseAll, List.foldl_cons, ← releaseAll, ih, releaseAcc_eq, List.forall_mem_cons, List.mem_filter, and_assoc,
      decide_eq_true_iff, ne_comm]

theorem mem_out_releaseAll {y : Acc} : y ∈ (releaseAll l t).out ↔ y ∈ t.out ∧ ∀ x ∈ l, x.id ≠ y.id := by
  induction l generalizing t with
  | nil => simp [releaseAll]
  | cons x l ih =>
    rw [releaseAll, List.foldl_cons, ← releaseAll, ih, releaseAcc_eq, List.forall_mem_cons, List.mem_filter, and_assoc,
      decide_eq_true_iff, ne_comm]

theorem a_releaseAcc (x : Acc) (t : Tile) : (releaseAcc x t).a = (withResult x t).a := by rw [releaseAcc_eq]

theorem tabGet_releaseAll_other {r : Nat} (h : ∀ x ∈ l, resultReg x ≠ some r) :
    tabGet 0 (releaseAll l t).a r = tabGet 0 t.a r := by
  induction l generalizing t with
  | nil => rfl
  | cons x l ih =>
    obtain ⟨hx, hl⟩ := List.forall_mem_cons.1 h
    rw [releaseAll, List.foldl_cons, ← releaseAll, ih hl, a_releaseAcc, tabGet_withResult_other hx]

/-- The only released access that writes a register leaves its result there. -/
theorem tabGet_releaseAll_result {r : Nat} (hx : x ∈ l) (hr : resultReg x = some r) (h0 : r ≠ 0)
    (huniq : ∀ z ∈ l, resultReg z = some r → z = x) : tabGet 0 (releaseAll l t).a r = x.result := by
  induction l generalizing t with
  | nil => exact absurd hx List.not_mem_nil
  | cons z l ih =>
    obtain ⟨hz, hl⟩ := List.forall_mem_cons.1 huniq
    by_cases hin : x ∈ l
    · exact ih hin hl
    · obtain rfl : x = z := (List.mem_cons.1 hx).resolve_right hin
      rw [releaseAll, List.foldl_cons, ← releaseAll,
        tabGet_releaseAll_other fun w hw hwr => hin (hl w hw hwr ▸ hw), a_releaseAcc, tabGet_withResult_same hr h0]

theorem length_qOf_releaseAll (q : QN) : (qOf (releaseAll l t) q).length = (qOf t q).length := by
  induction l generalizing t with
  | nil => rfl
  | cons x l ih => rw [releaseAll, List.foldl_cons, ← releaseAll, ih, qOf_releaseAcc, length_fillEnts]

section
variable {q : QN} {k : Nat} {e : QEnt}

/-- An entry that no released access reserved stays. -/
theorem qOf_releaseAll_other (he : (qOf t q)[k]? = some e) (h : ∀ n, e.resv = some n → ∀ x ∈ l, x.id ≠ n) :
    (qOf (releaseAll l t) q)[k]? = some e := by
  induction l generalizing t with
  | nil => exact he
  | cons x l ih =>
    rw [releaseAll, List.foldl_cons, ← releaseAll]
    refine ih ?_ fun n hn z hz => h n hn z (List.mem_cons_of_mem _ hz)
    rw [qOf_releaseAcc, getElem?_fillEnts, he, Option.map_some, if_neg fun hr => h x.id hr x List.mem_cons_self rfl]

/-- An entry that exactly one released access reserved holds what that access got (R169). -/
theorem qOf_releaseAll_reserved (he : (qOf t q)[k]? = some e) (hr : e.resv = some x.id) (hx : x ∈ l)
    (huniq : ∀ z ∈ l, z.id = x.id → z = x) : (qOf (releaseAll l t) q)[k]? =
      some ⟨none, returned x (((qOf t q).take k).countP (fun f => f.resv == some x.id)) e.val⟩ := by
  induction l generalizing t with
  | nil => exact absurd hx List.not_mem_nil
  | cons z l ih =>
    obtain ⟨hz, hl⟩ := List.forall_mem_cons.1 huniq
    rw [releaseAll, List.foldl_cons, ← releaseAll]
    by_cases hid : z.id = x.id
    · obtain rfl := hz hid
      refine qOf_releaseAll_other ?_ nofun
      rw [qOf_releaseAcc, getElem?_fillEnts, he, Option.map_some, if_pos hr, getD_accVecs]
    · have hin : x ∈ l := (List.mem_cons.1 hx).resolve_left fun h => hid (h ▸ rfl)
      have hstays : (qOf (releaseAcc z t) q)[k]? = some e := by
        rw [qOf_releaseAcc, getElem?_fillEnts, he, Option.map_some, if_neg fun h => hid (Option.some.inj (h.symm.trans hr))]
      rw [ih hstays hin hl, qOf_releaseAcc, countP_take_fillEnts (Ne.symm hid)]

end

/-! ## Fences that order nothing more -/

theorem mem_of_mem_dropFences (h : x ∈ dropFences l) : x ∈ l := by
  induction l with
  | nil => exact h
  | cons y l ih =>
    rw [dropFences] at h
    split at h
    · exact List.mem_cons_of_mem _ (ih h)
    · exact h

theorem mem_dropFences (h : x ∈ l) (hf : x.op ≠ .fence) : x ∈ dropFences l := by
  induction l with
  | nil => exact h
  | cons y l ih =>
    rw [dropFences]
    split
    next hy =>
      refine ih ((List.mem_cons.1 h).resolve_left fun hxy => hf ?_)
      simpa [isFence, hxy] using hy
    next => exact h

/-! ## The word and its completion (R176) -/

section
variable {g : Guard} {p : DrainPath} (hg : guardOn (me s) g = true)
include hg

theorem drain_covers_none (h : ∀ x ∈ (me s).out, ¬ Covered p (now s) x) : exec (.drain g p) s = .next s := by
  have hany : (me s).out.any (covers p (now s)) = false := List.any_eq_false.2 fun x hx hc => h x hx (covers_iff.1 hc)
  change execDrain g p s = _
  simp [execDrain, guarded_on s hg, hany]

theorem drain_holds (h : ∃ x ∈ (me s).out, Covered p (now s) x) : exec (.drain g p) s =
    .next (setTile s s.cur { me s with modeNext := some true, hold := .drain p (now s) (now s) (me s).bun }) := by
  obtain ⟨x, hx, hc⟩ := h
  have hany : (me s).out.any (covers p (now s)) = true := List.any_eq_true.2 ⟨x, hx, covers_iff.2 hc⟩
  change execDrain g p s = _
  simp [execDrain, guarded_on s hg, hany, onMe_eq_setTile, modeFrom]

end

section
variable {p : DrainPath} {since c : Nat} {b : BRef} (hh : (tileOf s s.ev.a).hold = .drain p since c b)
include hh

theorem drainComplete_waits (h : ∃ x ∈ (tileOf s s.ev.a).out, Covered p c x ∧ (x.done = false ∨ tcAt s s.ev.a < x.back)) :
    exec .drainComplete s = .next s := by
  obtain ⟨x, hx, hc, ho⟩ := h
  have hall : ((tileOf s s.ev.a).out.filter (covers p c)).all (complete (tcAt s s.ev.a)) = false :=
    List.all_eq_false.2 ⟨x, mem_covered.2 ⟨hx, hc⟩, by rcases ho with ho | ho <;> simp [complete, ho]⟩
  change execDrainComplete s = _
  simp [execDrainComplete, hh, hall]

/-- The tile after the DRAIN: what it covers is released, and it goes on. -/
def drained (p : DrainPath) (c T : Nat) (t : Tile) : Tile :=
  { releaseAll (t.out.filter (covers p c)) t with
    hold := .none, next := max (releaseAll (t.out.filter (covers p c)) t).next T
    out := dropFences (releaseAll (t.out.filter (covers p c)) t).out }

theorem drainComplete_releases (h : ∀ x ∈ (tileOf s s.ev.a).out, Covered p c x → x.done = true ∧ x.back ≤ tcAt s s.ev.a) :
    exec .drainComplete s = .next (setTile s s.ev.a (drained p c (tcAt s s.ev.a) (tileOf s s.ev.a))) := by
  have hall : ((tileOf s s.ev.a).out.filter (covers p c)).all (complete (tcAt s s.ev.a)) = true :=
    List.all_eq_true.2 fun x hx => by
      obtain ⟨hmem, hc⟩ := mem_covered.1 hx
      simp [complete, h x hmem hc]
  change execDrainComplete s = _
  simp only [execDrainComplete, hh, hall, if_true]
  rfl

end

theorem drained_keeps (p : DrainPath) (c T : Nat) (t : Tile) : drained p c T t = { t with
    hold := .none, next := max t.next T, a := (drained p c T t).a, pendR := (drained p c T t).pendR,
    queues := (drained p c T t).queues, out := (drained p c T t).out } := by
  unfold drained
  rw [releaseAll_keeps]

end Sys2Proof

/-- Settles O32: the releases of the covered accesses, one after another, leave what the statement says. -/
theorem drainWaitsForWhatItCovers : Obligations.DrainWaitsForWhatItCovers := by
  unfold Obligations.DrainWaitsForWhatItCovers
  refine ⟨fun s g p hg => ⟨drain_covers_none hg, drain_holds hg⟩, ?_⟩
  rintro s _ p since c b rfl hh
  refine ⟨drainComplete_waits hh, fun hdone => ⟨_, drainComplete_releases hh hdone, drained_keeps _ _ _ _, ?_, ?_, ?_, ?_, ?_, ?_, ?_, ?_⟩⟩
  · intro x hx
    obtain ⟨hmem, hid⟩ := mem_out_releaseAll.1 (mem_of_mem_dropFences hx)
    exact ⟨hmem, fun hc => hid x (mem_covered.2 ⟨hmem, hc⟩) rfl⟩
  · intro x hx hf _ hid
    exact mem_dropFences (mem_out_releaseAll.2 ⟨hx, fun z hz => hid z (mem_covered.1 hz).1 (mem_covered.1 hz).2⟩) hf
  · intro q
    exact mem_pendR_releaseAll.trans (and_congr_right fun _ => by simp only [mem_covered, and_imp])
  · intro r h
    exact tabGet_releaseAll_other fun x hx => h x (mem_covered.1 hx).1 (mem_covered.1 hx).2
  · intro x hx r hc hr h0 huniq
    exact tabGet_releaseAll_result (mem_covered.2 ⟨hx, hc⟩) hr h0 fun z hz => huniq z (mem_covered.1 hz).1 (mem_covered.1 hz).2
  · exact length_qOf_releaseAll
  · intro q k e he h
    exact qOf_releaseAll_other he fun n hn x hx => h n hn x (mem_covered.1 hx).1 (mem_covered.1 hx).2
  · intro q k e x he hx hc hr huniq
    exact qOf_releaseAll_reserved he hr (mem_covered.2 ⟨hx, hc⟩) fun z hz => huniq z (mem_covered.1 hz).1 (mem_covered.1 hz).2
end

section
/-! PROOFS. Barriers and the wait limit (O33), step by step. -/

-- One declaration after the other: together they would not fit into the memory that the check allows.
set_option Elab.async false

open Sys2Proof Sys2Proof.Machine Sys2Proof.Claims

namespace Sys2Proof

variable {s : State}

/-! ## BARW (R178) -/

theorem tendedBefore_eq_false {c i : Nat} (h : (tileOf s i).ended = false ∨ c < (tileOf s i).next) : tendedBefore s c i = false := by
  rcases h with h | h <;> simp [tendedBefore, h]

theorem barw_arrives {g : Guard} {b : BarN} {h : LevelN} {code scope : Nat} (hg : guardOn (me s) g = true)
    (hh : hierEntry (image s s.cur) h.toNat = some (code, scope)) (ho : otherLevel s (me s).tt h.toNat b.toNat s.cur = false)
    (ht : ∀ i ∈ barTiles (image s s.cur) code (instOf code s.cur), (tileOf s i).ended = false ∨ now s < (tileOf s i).next) :
    exec (.barw g b h) s = .next { setTile s s.cur { me s with
        modeNext := some true, hold := .barw h.toNat (instOf code s.cur) b.toNat (now s) (me s).bun } with
      eps := arrive (me s).tt h.toNat (instOf code s.cur) b.toNat (instDies code s.cur)
        (barTiles (image s s.cur) code (instOf code s.cur)) s.cur (now s) s.eps } := by
  rw [image_cur] at hh ht ⊢
  have hended : (barTiles (Machine.imgOf s (me s)) code (instOf code s.cur)).any (tendedBefore s (now s)) = false :=
    List.any_eq_false.2 fun i hi => by simp [tendedBefore_eq_false (ht i hi)]
  change execBarw g b h s = _
  simp only [execBarw, guarded_on s hg, hh]
  rw [doWord_pass s (by simp [ho, hended])]
  rfl

/-! ## BARW_COMPLETE (R86, R178) -/

theorem epReady_of_come {e : Episode} (hc : ∀ i ∈ e.parts, ∃ c, (i, c) ∈ e.came)
    (hp : ∀ i c, (i, c) ∈ e.came → ∀ x ∈ (tileOf s i).out, x.m1 = true ∨ x.op = .fence ∨ x.done = true ∨ c ≤ x.issue) :
    epReady s e = true := by
  rw [epReady, Bool.and_eq_true]
  refine ⟨List.all_eq_true.2 fun i hi => ?_, List.all_eq_true.2 fun p hpm => List.all_eq_true.2 fun x hx => ?_⟩
  · obtain ⟨c, hic⟩ := hc i hi
    exact List.any_eq_true.2 ⟨_, hic, by simp⟩
  · simpa [isFence, or_assoc] using hp p.1 p.2 hpm x hx

/-- A change that a repetition does not change further, made in the tiles of a list. -/
theorem tileOf_foldl_updTile {f : Tile → Tile} (hf : ∀ t, f (f t) = f t) (l : List Nat) (s : State) (i : Nat) :
    tileOf (l.foldl (fun s i => updTile s i f) s) i = if i ∈ l then f (tileOf s i) else tileOf s i := by
  induction l generalizing s with
  | nil => simp
  | cons j l ih =>
    rw [List.foldl_cons, ih]
    by_cases hij : i = j
    · subst hij
      simp [hf]
    · simp [hij, tileOf_updTile_other s f hij]

theorem foldl_updTile_eps (f : Tile → Tile) (l : List Nat) (s : State) : (l.foldl (fun s i => updTile s i f) s).eps = s.eps :=
  List.foldlRecOn (motive := fun t : State => t.eps = s.eps) l _ rfl fun _ ht _ _ => ht

/-- A participant goes on, at the cycle given or later. -/
def resumed (due : Nat) (t : Tile) : Tile := { t with hold := .none, next := max t.next due }

theorem resumed_resumed (due : Nat) (t : Tile) : resumed due (resumed due t) = resumed due t := by
  simp [resumed]

theorem barwComplete_releases {e : Episode} (he : s.eps[s.ev.a]? = some e) (hr : epReady s e = true) :
    exec .barwComplete s = .next (e.parts.foldl (fun u i => updTile u i (resumed (s.ev.b + if e.dies.length ≤ 1 then 3 else 15)))
      { s with eps := s.eps.eraseIdx s.ev.a }) := by
  change execBarwComplete s = _
  simp only [execBarwComplete, he, hr, Bool.not_true, Bool.false_eq_true, if_false]
  rfl

/-! ## The wait limit (R180) -/

theorem waitLimitExpiry_of_wait {since : Nat} {b : BRef} (h : (∃ p c, (tileOf s s.ev.a).hold = .drain p since c b) ∨
      (∃ l i k, (tileOf s s.ev.a).hold = .barw l i k since b)) :
    exec .waitLimitExpiry s = .next (if since + 2 ^ 24 ≤ tcAt s s.ev.a
      then { takeTrap ⟨5, 9, 0, 0⟩ 6 b none s.ev.a s with ckpt := none } else s) := by
  change execWaitLimitExpiry s = _
  rw [apply_ite Host.Outcome.next]
  rcases h with ⟨p, c, h⟩ | ⟨l, i, k, h⟩ <;> simp only [execWaitLimitExpiry, h] <;> rfl

end Sys2Proof

/-- Settles O33, step by step. -/
theorem barriersMeetAndRelease : Obligations.BarriersMeetAndRelease := by
  unfold Obligations.BarriersMeetAndRelease
  refine ⟨?_, fun s e he hc hp => ?_, fun s since b h => ⟨fun hT => ?_, fun hT => ?_⟩⟩
  · rintro s g b h code scope _ _ hg hh rfl rfl ho ht
    exact barw_arrives hg hh ho ht
  · refine ⟨_, barwComplete_releases he (epReady_of_come hc hp), ?_, fun i hi => ?_, fun i hi => ?_⟩
    · exact foldl_updTile_eps _ _ _
    · exact (tileOf_foldl_updTile (resumed_resumed _) _ _ _).trans (if_neg hi)
    · exact (tileOf_foldl_updTile (resumed_resumed _) _ _ _).trans (if_pos hi)
  · rw [waitLimitExpiry_of_wait h, if_pos hT]
  · rw [waitLimitExpiry_of_wait h, if_neg hT.not_ge]
end

section
/-! PROOFS. Address generators (O35): the words, the walk's addresses over M0, and the walk's reads and pushes. -/

-- One declaration after the other: together they would not fit into the memory that the check allows.
set_option Elab.async false

open Sys2Proof Sys2Proof.Machine Sys2Proof.Claims

namespace Sys2Proof

variable {s : State} {g : Guard} {k : AgN} {a : Agen}

/-! ## The checks of the words (R181, R183, R185) -/

theorem agPos_of_here (h : AgHere s k) : agPos s (gen s k) = none := by
  refine (illegalIf_none _).2 ?_
  change ((gen s k).space ≠ .none && (gen s k).space ≠ spaceAt s : Bool) = false
  rcases h with h | h <;> simp [h]

theorem agMisuse_none {b : Bool} : agMisuse b = none ↔ b = false := trapIf_none ..

/-- The step of a corner along one dimension is that of an index of the walk. -/
theorem cornerStep_eq {n : Nat} (z : Int) (hn : n ≠ 0) (c : Prop) [Decidable c] :
    ∃ i < n, (if c then z * ((n : Int) - 1) else 0) = i * z := by
  split
  · refine ⟨n - 1, by omega, ?_⟩
    rw [Nat.cast_sub (by omega), mul_comm, Nat.cast_one]
  · exact ⟨0, by omega, by simp⟩

theorem badStride_eq_false {n z : BitVec 32} (h : 2 ≤ n.toNat → z.toInt % 512 = 0) : badStride n z = false := by
  unfold badStride
  by_cases hn : 2 ≤ n.toNat <;> simp [hn, h]

theorem outM0_eq_false {x : Int} (h0 : 0 ≤ x) (h : x < 2 ^ 21) : outM0 x = false :=
  decide_eq_false (by omega)

/-- The corners of a walk are addresses of it, so a walk inside M0 passes the checks at issue. -/
theorem agM0Checks_none (h : walkLen a = 0 ∨ WalkInM0 a) : ∀ c ∈ agM0Checks a, c = none := by
  unfold agM0Checks
  split
  next => exact List.forall_mem_nil _
  next h0 =>
    obtain ⟨hin, hbase, hs0, hs1, hs2⟩ := h.resolve_left h0
    have hlen : a.n0.toNat * a.n1.toNat * a.n2.toNat ≠ 0 := h0
    simp only [Nat.mul_ne_zero_iff] at hlen
    obtain ⟨⟨hn0, hn1⟩, hn2⟩ := hlen
    have hcorners : (agCorners a).find? outM0 = none := List.find?_eq_none.2 (List.forall_mem_map.2 fun c _ => by
      obtain ⟨i0, hi0, e0⟩ := cornerStep_eq a.s0.toInt hn0 (c % 2 = 1)
      obtain ⟨i1, hi1, e1⟩ := cornerStep_eq a.s1.toInt hn1 (c / 2 % 2 = 1)
      obtain ⟨i2, hi2, e2⟩ := cornerStep_eq a.s2.toInt hn2 (c / 4 = 1)
      obtain ⟨hlo, hhi⟩ := hin i0 hi0 i1 hi1 i2 hi2
      rw [e0, e1, e2, outM0_eq_false hlo hhi]
      exact Bool.false_ne_true)
    simp [hcorners, hbase, badStride_eq_false hs0, badStride_eq_false hs1, badStride_eq_false hs2]

/-! ## The words (R181 to R184) -/

section
variable (hg : guardOn (me s) g = true) (hh : AgHere s k)
include hg hh

theorem agset_records {d : Reg} (hr : (gen s k).run = none) (hd : Readable s [d, d + 1, d + 2, d + 3]) :
    exec (.agset g d k) s = .next (withAction s 1
      (.agSet k.toNat (spaceAt s) (rdReg (me s) d) (rdReg (me s) (d + 1)) (rdReg (me s) (d + 2)) (rdReg (me s) (d + 3))) s) := by
  have huse : ∀ r ∈ [d, d + 1, d + 2, d + 3], useReg s r = none := fun r hr => useReg_of_readable hd hr
  have hidle : agMisuse (gen s k).run.isSome = none := agMisuse_none.2 (by rw [hr]; rfl)
  change execAgset g d k s = _
  rw [execAgset, guarded_on s hg]
  refine (doWord_pass s (List.forall_mem_cons.2 ⟨agPos_of_here hh, List.forall_mem_cons.2 ⟨hidle, List.forall_mem_map.2 huse⟩⟩)).trans ?_
  have hd0 : rdReg (me s) (d + (0 : BitVec 6)) = rdReg (me s) d := congrArg _ (BitVec.add_zero d)
  exact congrArg (fun v => Host.Outcome.next (withAction s 1 (.agSet k.toNat (spaceAt s) v _ _ _) s)) hd0

theorem agbind_binds {q : PortN} (hr : (gen s k).run = none)
    (ho : ∀ p ∈ (me s).gens, p.1 ≠ k.toNat → p.2.port ≠ some q.toNat) :
    exec (.agbind g q k) s = .next (withAction s 1 (.agBind k.toNat q.toNat) s) := by
  have hother : (me s).gens.any (fun p => p.1 ≠ k.toNat && p.2.port == some q.toNat) = false :=
    List.any_eq_false.2 fun p hp => by simpa using ho p hp
  have hfree : agMisuse ((gen s k).run.isSome || (me s).gens.any (fun p => p.1 ≠ k.toNat && p.2.port == some q.toNat)) = none :=
    agMisuse_none.2 (by rw [hother, hr]; rfl)
  change execAgbind g q k s = _
  rw [execAgbind, guarded_on s hg]
  exact doWord_pass s (List.forall_mem_cons.2 ⟨agPos_of_here hh, List.forall_mem_singleton.2 hfree⟩)

theorem agrun_starts {n : Lit} (he : (me s).elastic = false) (hr : (gen s k).run = none) (hp : (gen s k).port ≠ none)
    (hs : (gen s k).space ≠ .none) (hm0 : (gen s k).space = .m0 → walkLen (gen s k) = 0 ∨ WalkInM0 (gen s k))
    (hsh : (gen s k).space = .shaft → 6 ≤ n.toNat)
    (ha : a = { gen s k with run := some ⟨now s + n.toNat, walkLen (gen s k), now s, (me s).bun⟩ }) (hmeet : agMeets s a = false) :
    exec (.agrun g k n) s =
      .next (withAction s (n.toNat + walkLen (gen s k)) (.agFree k.toNat) (setTile s s.cur (setAg (me s) k.toNat a))) := by
  have hready : agMisuse ((gen s k).space == .none || (gen s k).port.isNone || (gen s k).run.isSome) = none :=
    agMisuse_none.2 (by simp [hs, hr, Option.isSome_iff_ne_none, hp])
  have htime : illegalIf ((gen s k).space == .shaft && decide (n.toNat < 6)) = none :=
    (illegalIf_none _).2 (by simpa using hsh)
  have hwalk : ∀ c ∈ (if (gen s k).space = .m0 then agM0Checks (gen s k) else []), c = none := by
    split
    next h => exact agM0Checks_none (hm0 h)
    next => exact List.forall_mem_nil _
  have hmeets : trapIf (agMeets s a) 9 0 0 = none := (trapIf_none ..).2 hmeet
  have hrun : SameWord s (setTile s s.cur (setAg (me s) k.toNat a)) := (SameWord.refl s).setTile rfl rfl
  subst ha
  change execAgrun g k n s = _
  rw [execAgrun, guarded_on s hg]
  refine (doWord_pass s ?_).trans (congrArg Host.Outcome.next hrun.later_eq)
  refine List.forall_mem_append.2 ⟨List.forall_mem_append.2 ⟨?_, hwalk⟩, List.forall_mem_singleton.2 hmeets⟩
  simp only [List.forall_mem_cons]
  exact ⟨rigidOnly_of_rigid he, agPos_of_here hh, hready, htime, List.forall_mem_nil _⟩

theorem agstop_idle (hr : (gen s k).run = none) : exec (.agstop g k) s = .next s := by
  change execAgstop g k s = _
  rw [execAgstop, guarded_on s hg]
  exact (doWord_pass s (List.forall_mem_singleton.2 (agPos_of_here hh))).trans
    (congrArg Host.Outcome.next (if_pos (by rw [show (agOf (me s) k.toNat).run = none from hr]; rfl)))

/-- The tile whose generator k has stopped. -/
def agStopped (t : Tile) (k : Nat) : Tile :=
  setAg { t with cal := t.cal.filter (fun p => !isAgWork k p.act) } k { agOf t k with run := none }

theorem agstop_stops (hr : (gen s k).run ≠ none) : exec (.agstop g k) s =
    .next (withAction s 1 (.agFree k.toNat) (setTile s s.cur (agStopped (me s) k.toNat))) := by
  have hstop : SameWord s (setTile s s.cur (agStopped (me s) k.toNat)) := (SameWord.refl s).setTile rfl rfl
  have hruns : ¬ (agOf (me s) k.toNat).run.isNone = true := fun h => hr (Option.isNone_iff_eq_none.1 h)
  change execAgstop g k s = _
  rw [execAgstop, guarded_on s hg]
  exact (doWord_pass s (List.forall_mem_singleton.2 (agPos_of_here hh))).trans
    (congrArg Host.Outcome.next ((if_neg hruns).trans hstop.later_eq))

end

theorem isAgWork_eq_false {j : Nat} {x : Act} : isAgWork j x = false ↔ x ≠ .agFree j ∧ ∀ q v, x ≠ .agPush j q v := by
  cases x <;> simp [isAgWork]

theorem mem_cal_agStopped {p : Pend} {t : Tile} {j : Nat} :
    p ∈ (agStopped t j).cal ↔ p ∈ t.cal ∧ p.act ≠ .agFree j ∧ ∀ q v, p.act ≠ .agPush j q v := by
  rw [← isAgWork_eq_false]
  change p ∈ t.cal.filter _ ↔ _
  rw [List.mem_filter, Bool.not_eq_true']

/-! ## The walk (R75, R183) -/

section
variable {i c q : Nat} {r : AgRun} (hr : a.run = some r)
include hr

theorem agReadAt_eq_some (hi : i < r.total) (hc : c + 2 = r.start + i) : agReadAt a c = some i := by
  have hread : r.start ≤ c + 2 ∧ c + 2 - r.start < r.total := by omega
  simp only [agReadAt, hr, if_pos hread]
  congr
  omega

/-- What the walk pushes carries the issue and the bundle of its AGRUN. -/
theorem follow_agPend (id due : Nat) (x : Act) (s : State) : follow id (agPend a) due x s =
    setTile s id (addPend (tileOf s id) ⟨due, r.issue, if a.space = .m0 then 4 else 5, r.bun, x⟩) := by
  rw [agPend, hr]
  rfl

end

section
variable {id j i q : Nat} {r : AgRun} (hid : s.ev.a = id) (hj : s.ev.b = j) (ha : a = agOf (tileOf s id) j) (hr : a.run = some r)
  (hq : a.port = some q) (hi : i < r.total) (hc : tcAt s id + 2 = r.start + i) (hx : agClash s id j a (tcAt s id) (walkAddr a i) = none)
include hid hj ha hr hq hi hc hx

theorem agSourceRead_m0 (hm : a.space = .m0) (he : eccLines s 2 id (walkAddr a i).toNat 512 = false) :
    exec .agSourceRead s = .next (setTile s id (addPend (tileOf s id)
      ⟨tcAt s id + 2, r.issue, 4, r.bun, .agPush j (BitVec.ofNat 4 q) (vecAt (tileOf s id).m0 (walkAddr a i).toNat)⟩)) := by
  have hfollow := follow_agPend hr id (tcAt s id + 2) (.agPush j (BitVec.ofNat 4 q) (vecAt (tileOf s id).m0 (walkAddr a i).toNat)) s
  rw [if_pos hm] at hfollow
  rw [show walkAddr a i = agAddr a i from rfl] at *
  subst hid hj ha
  change execAgSourceRead s = _
  simp only [execAgSourceRead, agReadAt_eq_some hr hi hc, hx, if_pos hm, he, hq, Bool.false_eq_true, if_false, ofBytes_loadBytes, hfollow]

theorem agSourceRead_shaft {f : M1Addr} (hm : a.space = .shaft) (hf : f = m1Fields (BitVec.ofInt 64 (walkAddr a i)))
    (ht : agShaftTrap s id (BitVec.ofInt 64 (walkAddr a i)) = none) :
    exec .agSourceRead s = .next (correctsLines s (m1Half s id f) f.ofs 512 (setTile s id (addPend (tileOf s id)
      ⟨tcAt s id + 2, r.issue, 5, r.bun, .agPush j (BitVec.ofNat 4 q) (vecAt (halfOf s (m1Half s id f)).bytes f.ofs)⟩))) := by
  have hsp : ¬ a.space = .m0 := by rw [hm]; nofun
  have hfollow := follow_agPend hr id (tcAt s id + 2) (.agPush j (BitVec.ofNat 4 q) (vecAt (halfOf s (m1Half s id f)).bytes f.ofs)) s
  rw [if_neg hsp] at hfollow
  rw [← hmFix_eq_correctsLines s _ _ _ _ (show (setTile s id _).ecc = s.ecc from rfl), ← hfollow]
  subst hid hj ha hf
  change execAgSourceRead s = _
  rw [show walkAddr (agOf (tileOf s s.ev.a) s.ev.b) i = agAddr (agOf (tileOf s s.ev.a) s.ev.b) i from rfl] at *
  simp only [execAgSourceRead, agReadAt_eq_some hr hi hc, hx, if_neg hsp, ht, hq, ofBytes_loadBytes]

end

theorem agPush_lands {p : Pend} {r : List Pend} {j : Nat} {q : QN} {v : QVec} (hd : Due s s.ev.a (isAgPush s.ev.b) p r)
    (hp : p.act = .agPush j q v) :
    exec .agPush s = .next (setTile s s.ev.a (landQ { tileOf s s.ev.a with cal := r } q v p.pipe p.bun)) := by
  change execAgPush s = _
  simp only [execAgPush, takeDue_of_due hd, hp]
  rw [show (without s s.ev.a r).ev = s.ev from rfl, without, updTile_setTile]

end Sys2Proof

/-- Settles O35, word by word and event by event. -/
theorem generatorsWalkAndPush : Obligations.GeneratorsWalkAndPush := by
  unfold Obligations.GeneratorsWalkAndPush
  refine ⟨fun s g d k hg hh hr hd => agset_records hg hh hr hd, fun s g q k hg hh hr ho => agbind_binds hg hh hr ho,
    fun s g k n a hg he hh hr hp hs hm0 hsh ha hmeet => agrun_starts hg hh he hr hp hs hm0 hsh ha hmeet,
    fun s g k hg hh => ⟨agstop_idle hg hh, fun hr => ⟨_, agstop_stops hg hh hr, rfl, fun j => agOf_setAg _ _ _, fun p => mem_cal_agStopped⟩⟩,
    fun s id k i a r q hid hk ha hr hq hi hc hx => ⟨agSourceRead_m0 hid hk ha hr hq hi hc hx,
      fun f hm hf ht => agSourceRead_shaft hid hk ha hr hq hi hc hx hm hf ht⟩,
    fun s p r k q v hd hp => ⟨_, agPush_lands hd hp, landed_landQ.1, landed_landQ.2⟩⟩
end

section
/-! PROOFS. Privileged words in tile tasks, and words that name what is pending (O15): which fault a word reports, how the checks of each
kind of word see a pending name, then the words. -/

-- One declaration after the other: together they would not fit into the memory that the check allows.
set_option Elab.async false

open Sys2Proof Sys2Proof.Machine Sys2Proof.Claims

namespace Sys2Proof

variable {s : State}

/-! ## The fault that is reported (R208) -/

/-- A failing check: the word reports one of its checks' faults, of that cause or a lower one. -/
theorem worst_of_mem {c : List (Option Trap)} {x : Trap} (h : some x ∈ c) : ∃ y, worst c = some y ∧ some y ∈ c ∧ y.cause ≤ x.cause := by
  cases hw : worst c with
  | none => exact absurd ((worst_none c).1 hw _ h) (Option.some_ne_none x)
  | some y => exact ⟨y, rfl, worst_mem c y hw, worst_least c y hw x h⟩

/-- A check fails with the timing fault's cause or a lower one. -/
def LowFault (c : Option Trap) : Prop := ∃ x : Trap, c = some x ∧ x.cause ≤ 5

/-- The word takes a fault of the timing fault's cause or a lower one. -/
def Faults (s : State) (o : Host.Outcome State Fault Refusal) : Prop := ∃ x : Trap, x.cause ≤ 5 ∧ o = .next (trapHere x s)

theorem LowFault.worse_left {x y : Option Trap} (h : LowFault x) : LowFault (worse x y) := by
  obtain ⟨a, rfl, ha⟩ := h
  cases y with
  | none => exact ⟨a, rfl, ha⟩
  | some b =>
    rw [worse]
    split
    next hb => exact ⟨b, rfl, hb.le.trans ha⟩
    next => exact ⟨a, rfl, ha⟩

theorem doWord_of_lowFault {c : List (Option Trap)} {k : Option Trap} {f : State → State} (hk : k ∈ c) (h : LowFault k) :
    Faults s (doWord s c f) := by
  obtain ⟨x, rfl, hx⟩ := h
  obtain ⟨y, hw, -, hle⟩ := worst_of_mem hk
  exact ⟨y, hle.trans hx, doWord_trap s hw⟩

theorem illegalIf_lowFault {b : Bool} (h : b = true) : LowFault (illegalIf b) := ⟨_, trapIf_of_true h 1 0 0, by decide⟩

/-! ## Pending names (R72) -/

/-- One of the registers or one of the queues is pending. -/
def Pending (s : State) (rs : List Reg) (qs : List QN) : Prop :=
  (∃ r ∈ rs, regPending s r = true) ∨ ∃ q ∈ qs, qPending s q = true

section
variable {r : Reg} {q : QN}

theorem dstReg_lowFault (h : regPending s r = true) : LowFault (dstReg s r) := ⟨_, trapIf_of_true h .., le_rfl⟩
theorem useReg_lowFault (h : regPending s r = true) : LowFault (useReg s r) := (dstReg_lowFault h).worse_left
theorem useQ_lowFault (h : qPending s q = true) : LowFault (useQ s q) := ⟨_, trapIf_of_true h .., le_rfl⟩
theorem dstQ_lowFault (h : qPending s q = true) : LowFault (dstQ s q) := (useQ_lowFault h).worse_left

/-- The check of a queue that a word takes from. -/
def popQ (s : State) (q : QN) : Option Trap := worse (useQ s q) (eccTrap s 6 s.cur (64 + q.toNat))

theorem popQ_lowFault (h : qPending s q = true) : LowFault (popQ s q) := (useQ_lowFault h).worse_left

theorem srcQs_eq (l : List QSrc) : srcQs s l = haveQs (me s) l :: l.map (fun x => popQ s x.q) := rfl

end

/-- The checks look at a register, as a destination or as a source. -/
def SeesReg (s : State) (c : List (Option Trap)) (r : Reg) : Prop := dstReg s r ∈ c ∨ useReg s r ∈ c
/-- The checks look at a queue, to clear it, to push it or to take from it. -/
def SeesQ (s : State) (c : List (Option Trap)) (q : QN) : Prop := useQ s q ∈ c ∨ dstQ s q ∈ c ∨ popQ s q ∈ c

/-- A word whose checks look at all its names faults when one of them is pending. -/
theorem doWord_faults {c : List (Option Trap)} {f : State → State} {rs : List Reg} {qs : List QN} (h : Pending s rs qs)
    (hr : ∀ r ∈ rs, SeesReg s c r) (hq : ∀ q ∈ qs, SeesQ s c q) : Faults s (doWord s c f) := by
  rcases h with ⟨r, hmem, hp⟩ | ⟨q, hmem, hp⟩
  · rcases hr r hmem with hc | hc
    · exact doWord_of_lowFault hc (dstReg_lowFault hp)
    · exact doWord_of_lowFault hc (useReg_lowFault hp)
  · rcases hq q hmem with hc | hc | hc
    · exact doWord_of_lowFault hc (useQ_lowFault hp)
    · exact doWord_of_lowFault hc (dstQ_lowFault hp)
    · exact doWord_of_lowFault hc (popQ_lowFault hp)

/-! ## The kinds of words -/

section
variable {rs : List Reg} {qs : List QN}

theorem sWord_faults {src : List Reg} {d : Reg} {n : Nat} {v : Word} (h : Pending s rs []) (hr : ∀ r ∈ rs, r = d ∨ r ∈ src) :
    Faults s (sWord s src d n v) :=
  doWord_faults h (fun r hm => (hr r hm).imp (by rintro rfl; exact List.mem_cons_self)
    fun hs => List.mem_cons_of_mem _ (List.mem_map_of_mem hs)) (List.forall_mem_nil _)

theorem sFloat_faults {src : List Reg} {d : Reg} {x : FRes} (h : Pending s rs []) (hr : ∀ r ∈ rs, r = d ∨ r ∈ src) :
    Faults s (sFloat s src d x) :=
  doWord_faults h (fun r hm => (hr r hm).imp (by rintro rfl; exact List.mem_cons_self)
    fun hs => List.mem_cons_of_mem _ (List.mem_map_of_mem hs)) (List.forall_mem_nil _)

theorem sCmp_faults {src : List Reg} {d : PredN} {n : Nat} {b : Bool} (h : Pending s src []) : Faults s (sCmp s src d n b) :=
  doWord_faults h (fun _ hm => .inr (List.mem_map_of_mem hm)) (List.forall_mem_nil _)

theorem sPriv_faults {d : Reg} {v : Word} (h : Pending s [d] []) : Faults s (sPriv s d v) :=
  doWord_faults h (by simp [SeesReg]) (List.forall_mem_nil _)

/-- The checks of queues see what a word takes, and those of destinations what it pushes. -/
theorem vWord_faults {pre : List (Option Trap)} {src : List QSrc} {dst : List QN} {eff : List QVec → State → State} (h : Pending s rs qs)
    (hr : ∀ r ∈ rs, SeesReg s pre r) (hq : ∀ q ∈ qs, q ∈ dst ∨ ∃ x ∈ src, x.q = q) : Faults s (vWord s pre src dst eff) := by
  refine doWord_faults h (fun r hm => (hr r hm).imp ?_ ?_) fun q hm => ?_
  · exact fun hc => List.mem_append_left _ (List.mem_append_left _ hc)
  · exact fun hc => List.mem_append_left _ (List.mem_append_left _ hc)
  · rcases hq q hm with hd | ⟨x, hx, rfl⟩
    · exact .inr (.inl (List.mem_append_right _ (List.mem_map_of_mem hd)))
    · exact .inr (.inr (List.mem_append_left _ (List.mem_append_right _ (List.mem_cons_of_mem _ (List.mem_map_of_mem hx)))))

theorem vLanes_faults {src : List QSrc} {d : QN} {w n : Nat} {m : MaskN} {f : List Nat → FRes} (h : Pending s [] qs)
    (hq : ∀ q ∈ qs, q ∈ [d] ∨ ∃ x ∈ src, x.q = q) : Faults s (vLanes s src d w n m f) :=
  vWord_faults h (List.forall_mem_nil _) hq

end

/-! ## Scalar words -/

/-- What a word does that has the destination and the sources of an integer word's form. -/
def OfForm (s : State) (f : AForm) (o : Host.Outcome State Fault Refusal) : Prop := ∃ n v, o = sWord s f.src f.d n v

theorem ofForm_some {o : AOp} {d : Reg} {x y : Word} {src : List Reg} {n : Nat} {v : Word} {f : AForm}
    (hf : some (⟨o, d, x, y, src⟩ : AForm) = some f) : OfForm s f (sWord s src d n v) := by
  cases hf
  exact ⟨n, v, rfl⟩

/-- The integer words of R120 and R121 are such words. -/
theorem exec_of_aForm {i : Instr} {f : AForm} (hf : aForm (me s) i = some f) : OfForm s f (exec i s) := by
  induction i with
  | add | sub | mul | mulh | mulhn | and | or | xor | andn | shl | shr | sra | rotl | min | max | minn | maxn | sel | adda | clz | popc
  | addSl | subSl | mulSl | mulhSl | mulhnSl | andSl | orSl | xorSl | andnSl | shlSl | shrSl | sraSl | rotlSl | minSl | maxSl | minnSl
  | maxnSl | selSl | addaSl | addi | shli | shri | srai | movi | movl | movk | movf => exact ofForm_some hf
  | _ => exact of_none_eq_some hf

/-- An integer word that names something pending among its destination and its sources. -/
theorem aForm_faults {i : Instr} {f : AForm} {rs : List Reg} (hf : aForm (me s) i = some f) (h : Pending s rs [])
    (hr : ∀ r ∈ rs, r = f.d ∨ r ∈ f.src) : Faults s (exec i s) := by
  obtain ⟨n, v, hexec⟩ := exec_of_aForm hf
  rw [hexec]
  exact sWord_faults h hr

section
variable {i : Instr} {o : AOp} {d a b : Reg}

theorem formSR_faults (hf : aForm (me s) i = formSR (me s) o d a b) (h : Pending s [d, a, b] []) : Faults s (exec i s) :=
  aForm_faults hf h (by simp)

theorem formSL_faults {v : Val} (hf : aForm (me s) i = formSL (me s) o d a v) (h : Pending s [d, a] []) : Faults s (exec i s) :=
  aForm_faults hf h (by simp)

theorem formSI_faults {n : Imm14} (hf : aForm (me s) i = formSI (me s) o d n) (h : Pending s [d] []) : Faults s (exec i s) :=
  aForm_faults hf h (by simp)

end

section
variable {d a b : Reg}

theorem fcvt_faults {m : RMode} {k : FCvtKind} (h : Pending s [d, a] []) : Faults s (execFcvt d a m k s) := by
  unfold execFcvt
  exact doWord_faults h (by simp [SeesReg]) (List.forall_mem_nil _)

/-- A shape without dimensions names no destination, but the word is illegal then (R126). -/
theorem tidx_faults {k : ShapeN} (h : Pending s [d, a] []) : Faults s (execTidx d a k s) := by
  unfold execTidx
  by_cases hn : (shapeOf (me s) k).dims.length = 0
  · exact doWord_of_lowFault List.mem_cons_self (illegalIf_lowFault (decide_eq_true (.inl hn)))
  · have hd : d ∈ tidxDst d (shapeOf (me s) k).dims.length :=
      List.mem_map.2 ⟨0, List.mem_range.2 (Nat.pos_of_ne_zero hn), by simp⟩
    have hsees : dstReg s d ∈ (tidxDst d (shapeOf (me s) k).dims.length).map (dstReg s) := List.mem_map_of_mem hd
    exact doWord_faults h (by simp only [List.forall_mem_cons]; exact ⟨.inl (List.mem_cons_of_mem _ (List.mem_cons_of_mem _ hsees)),
      .inr (List.mem_cons_of_mem _ List.mem_cons_self), List.forall_mem_nil _⟩) (List.forall_mem_nil _)

theorem tdim_faults {k : ShapeN} (h : Pending s [d, a] []) : Faults s (execTdim d a k s) := by
  unfold execTdim
  exact doWord_faults h (by simp [SeesReg]) (List.forall_mem_nil _)

theorem kst_faults (h : Pending s [a, b] []) : Faults s (execKst a b s) := by
  unfold execKst
  exact doWord_faults h (by simp [SeesReg]) (List.forall_mem_nil _)

theorem wrsr_faults {n : SpecReg} (h : Pending s [a] []) : Faults s (execWrsr n a s) := by
  unfold execWrsr
  exact doWord_faults h (by simp [SeesReg]) (List.forall_mem_nil _)

theorem bri_faults {c : Cond} (h : Pending s [a] []) : Faults s (execBri c a s) := by
  unfold execBri
  exact doWord_faults h (by simp [SeesReg]) (List.forall_mem_nil _)

theorem waitcReg_faults (h : Pending s [a] []) : Faults s (execWaitcReg a s) := by
  unfold execWaitcReg waitUntil
  exact doWord_faults h (by simp [SeesReg]) (List.forall_mem_nil _)

theorem brl_faults {c : Cond} {k : PackN} (h : Pending s [1] []) : Faults s (execBrl c k s) := by
  unfold execBrl
  exact doWord_faults h (by simp [SeesReg]) (List.forall_mem_nil _)

theorem ret_faults {c : Cond} (h : Pending s [1] []) : Faults s (execRet c s) := by
  unfold execRet
  exact doWord_faults h (by simp [SeesReg]) (List.forall_mem_nil _)

/-- The check of an operand that a literal may replace sees its register. -/
theorem seesReg_of_rlUse {x : RegLit} {c : List (Option Trap)} (h : rlUse s x ∈ c) : ∀ r ∈ litRegs x, SeesReg s c r := by
  cases x with
  | reg r => exact List.forall_mem_singleton.2 (.inr h)
  | lit => exact List.forall_mem_nil _

theorem loop_faults {k : LoopN} {n : RegLit} {e : PackN} (h : Pending s (litRegs n) []) : Faults s (execLoop k n e s) := by
  unfold execLoop
  exact doWord_faults h (seesReg_of_rlUse (by simp)) (List.forall_mem_nil _)

theorem loopr_faults {x : EpiN} {k : LoopN} {n : RegLit} {e : PackN} (h : Pending s (litRegs n) []) :
    Faults s (execLoopr x k n e s) := by
  unfold execLoopr
  exact doWord_faults h (seesReg_of_rlUse (by simp)) (List.forall_mem_nil _)

end

/-! ## Vector words -/

section
variable {d : QN} {a b : QSrc} {t e : Ty} {m : MaskN}

theorem vLanes_one_faults {w n : Nat} {f : List Nat → FRes} (h : Pending s [] [d, a.q]) : Faults s (vLanes s [a] d w n m f) :=
  vLanes_faults h (by simp)

theorem vLanes_two_faults {w n : Nat} {f : List Nat → FRes} (h : Pending s [] [d, a.q, b.q]) : Faults s (vLanes s [a, b] d w n m f) :=
  vLanes_faults h (by simp)

theorem vLanes_acc_faults {w n : Nat} {f : List Nat → FRes} (h : Pending s [] [d, a.q, b.q]) :
    Faults s (vLanes s [accSrc d, a, b] d w n m f) := vLanes_faults h (by simp)

theorem vcvt_faults {sat : Bool} {r : RMode} (h : Pending s [] [d, a.q]) : Faults s (execVcvt d a sat e t r s) := by
  unfold execVcvt
  exact vLanes_one_faults h

theorem vaddVl_faults {v : Val} (h : Pending s [] [d, a.q]) : Faults s (execVaddVl d a v t m s) := by
  unfold execVaddVl
  exact vLanes_one_faults h

theorem vfmaVl_faults {v : Val} (h : Pending s [] [d, a.q]) : Faults s (execVfmaVl d a v t m s) := by
  unfold execVfmaVl
  exact vLanes_faults h (by simp)

theorem vaddVi_faults {i : Imm14} (h : Pending s [] [d]) : Faults s (execVaddVi d t m i s) := by
  unfold execVaddVi
  exact vLanes_faults h (by simp)

theorem vbcastVi_faults {i : Imm14} (h : Pending s [] [d]) : Faults s (execVbcastVi d t m i s) := by
  unfold execVbcastVi
  exact vLanes_faults h (by simp)

theorem vaddVf_faults {tf : Bool} {f : Fimm} (h : Pending s [] [d]) : Faults s (execVaddVf d tf f s) := by
  unfold execVaddVf
  exact vLanes_faults h (by simp)

theorem vbcastVf_faults {tf : Bool} {f : Fimm} (h : Pending s [] [d]) : Faults s (execVbcastVf d tf f s) := by
  unfold execVbcastVf
  exact vLanes_faults h (by simp)

theorem vsel_faults (h : Pending s [] [d, a.q, b.q]) : Faults s (execVsel d a b t m s) := by
  unfold execVsel
  exact vWord_faults h (List.forall_mem_nil _) (by simp)

theorem vperm_faults (h : Pending s [] [d, a.q, b.q]) : Faults s (execVperm d a b t m s) := by
  unfold execVperm
  exact vWord_faults h (List.forall_mem_nil _) (by simp)

theorem vdot_faults {p : Profile} (h : Pending s [] [d, a.q, b.q]) : Faults s (execVdot d a b t p s) := by
  unfold execVdot
  exact vWord_faults h (List.forall_mem_nil _) (by simp)

theorem vdotAcc_faults {p : Profile} (h : Pending s [] [d, a.q, b.q]) : Faults s (execVdotAcc d a b t p s) := by
  unfold execVdotAcc
  exact vWord_faults h (List.forall_mem_nil _) (by simp)

theorem vdotW_faults {p : Profile} (h : Pending s [] [d, a.q, a.q + 1, b.q, b.q + 1]) : Faults s (execVdotW d a b t p s) := by
  unfold execVdotW
  exact vWord_faults h (List.forall_mem_nil _) (by simp [wideSrcs])

theorem vdotWAcc_faults {p : Profile} (h : Pending s [] [d, a.q, a.q + 1, b.q, b.q + 1]) : Faults s (execVdotWAcc d a b t p s) := by
  unfold execVdotWAcc
  exact vWord_faults h (List.forall_mem_nil _) (by simp [wideSrcs])

theorem vpackp_faults (h : Pending s [] [d, a.q]) : Faults s (execVpackp d a t m s) := by
  unfold execVpackp
  exact vWord_faults h (List.forall_mem_nil _) (by simp)

theorem vpackpFl_faults (h : Pending s [] [d]) : Faults s (execVpackpFl d t s) := by
  unfold execVpackpFl
  exact vWord_faults h (List.forall_mem_nil _) (by simp)

theorem viota_faults (h : Pending s [] [d]) : Faults s (execViota d t m s) := by
  unfold execViota
  exact vWord_faults h (List.forall_mem_nil _) (by simp)

theorem vmovq_faults (h : Pending s [] [d, a.q]) : Faults s (execVmovq d a s) := by
  unfold execVmovq
  exact vWord_faults h (List.forall_mem_nil _) (by simp)

theorem vred_faults {p : Profile} (h : Pending s [] [d, a.q]) : Faults s (execVred d a m t p s) := by
  unfold execVred
  exact vWord_faults h (List.forall_mem_nil _) (by simp)

theorem vredAcc_faults {p : Profile} (h : Pending s [] [d, a.q]) : Faults s (execVredAcc d a m t p s) := by
  unfold execVredAcc
  exact vWord_faults h (List.forall_mem_nil _) (by simp)

theorem vunpk_faults (h : Pending s [] [d, a.q]) : Faults s (execVunpk d a t m s) := by
  unfold execVunpk
  exact doWord_faults h (List.forall_mem_nil _) (by simp [SeesQ, srcQs_eq])

theorem vclr_faults (h : Pending s [] [d]) : Faults s (execVclr d s) := by
  unfold execVclr
  exact doWord_faults h (List.forall_mem_nil _) (by simp [SeesQ])

theorem vCmp_faults {v : MaskN} {f : Nat → Nat → Bool} (h : Pending s [] [a.q, b.q]) : Faults s (vCmp s v a b t m f) :=
  vWord_faults h (List.forall_mem_nil _) (by simp)

theorem vSlide_faults {r : LowReg} {f : Nat → Nat → Option Nat} (h : Pending s [r.setWidth 6] [d, a.q]) :
    Faults s (vSlide s d a r t m f) :=
  vWord_faults h (by simp [SeesReg, lowReg]) (by simp)

theorem vbcast_faults {r : LowReg} (h : Pending s [r.setWidth 6] [d]) : Faults s (execVbcast d r t m s) := by
  unfold execVbcast
  exact vWord_faults h (by simp [SeesReg, lowReg]) (by simp)

/-- The first of the queues that a widening word fills, or a narrowing one takes from. -/
theorem head_mem_qRange {q : QN} {k : Nat} (hk : 0 < k) : q ∈ qRange q k :=
  List.mem_map.2 ⟨0, List.mem_range.2 hk, by simp⟩

theorem vwiden_faults (h : Pending s [] (a.q :: if 0 < widenK e t then [d] else [])) : Faults s (execVwiden d a e t s) := by
  unfold execVwiden
  refine vWord_faults h (List.forall_mem_nil _) (List.forall_mem_cons.2 ⟨by simp, fun q hq => .inl ?_⟩)
  split at hq
  next hk =>
    obtain rfl := List.mem_singleton.1 hq
    exact head_mem_qRange hk
  next => exact absurd hq List.not_mem_nil

theorem head_mem_srcRange {k : Nat} (hk : 0 < k) : ∃ x ∈ srcRange a k, x.q = a.q :=
  ⟨_, List.mem_map_of_mem (head_mem_qRange hk), rfl⟩

theorem vnarrow_faults {sat : Bool} {r : RMode} (h : Pending s [] (d :: if 0 < widenK t e then [a.q] else [])) :
    Faults s (execVnarrow d a sat e t r s) := by
  unfold execVnarrow
  refine vWord_faults h (List.forall_mem_nil _) (List.forall_mem_cons.2 ⟨by simp, fun q hq => .inr ?_⟩)
  split at hq
  next hk =>
    obtain rfl := List.mem_singleton.1 hq
    exact head_mem_srcRange hk
  next => exact absurd hq List.not_mem_nil

theorem vmxs_faults {r : RMode} {x : MxTy} (h : Pending s [] [d, d + 1, a.q]) : Faults s (execVmxs d a r x s) := by
  unfold execVmxs
  refine vWord_faults h (List.forall_mem_nil _) ?_
  simp only [List.forall_mem_cons]
  exact ⟨by simp, by simp, .inr (head_mem_srcRange (by decide)), List.forall_mem_nil _⟩

theorem vshuf_faults {p : ShufPat} (h : Pending s [] ([d, a.q] ++ if p = 4 then [] else [b.q])) : Faults s (execVshuf d a b t p s) := by
  unfold execVshuf
  split
  next hp =>
    rw [if_pos hp] at h
    exact vWord_faults h (List.forall_mem_nil _) (by simp)
  next hp =>
    rw [if_neg hp] at h
    exact vWord_faults h (List.forall_mem_nil _) (by simp)

end

/-! ## What makes a D word illegal has a lower cause (R48, R287) -/

/-- Checks that fail with the timing fault's cause or a lower one, if at all. -/
def LowChecks (c : List (Option Trap)) : Prop := ∀ x : Trap, some x ∈ c → x.cause ≤ 5

theorem trapIf_cause {c : Bool} {k n : Nat} {v : Word} {y : Trap} (h : trapIf c k n v = some y) : y.cause = k := by
  unfold trapIf at h
  split at h <;> cases h
  rfl

theorem lowChecks_chLegal_col {ch : Bool} {o : ColN} : LowChecks [chLegal s ch, colCheck s ch o] := by
  intro y hy
  rcases List.mem_pair.1 hy with h | h <;> exact (trapIf_cause h.symm).le.trans (by decide)

theorem lowChecks_chLegal_priv {ch : Bool} : LowChecks [chLegal s ch, privCheck s] := by
  intro y hy
  rcases List.mem_pair.1 hy with h | h <;> exact (trapIf_cause h.symm).le.trans (by decide)

theorem lowChecks_chLegal_row {ch : Bool} {row : RegLit} : LowChecks [chLegal s ch, rowLegal s ch row] := by
  intro y hy
  rcases List.mem_pair.1 hy with h | h
  · exact (trapIf_cause h.symm).le.trans (by decide)
  · cases row with
    | reg => cases h
    | lit => exact (trapIf_cause h.symm).le.trans (by decide)

/-! ## Words of the memories -/

theorem guarded_faults {g : Guard} {k : Host.Outcome State Fault Refusal} (hg : guardOn (me s) g = true) (h : Faults s k) :
    Faults s (guarded s g k) := (guarded_on s hg k).symm ▸ h

theorem guardedM2_faults {g : Guard} {k : Host.Outcome State Fault Refusal} (hg : guardOn (me s) g = true) (h : Faults s k) :
    Faults s (guardedM2 s g k) := (guardedM2_on hg k).symm ▸ h

theorem m2Word_faults {pre : List (Option Trap)} {rs : List Reg} {qs : List QN} {op : AccOp} {sx : Sfx} {k : M2Chk} {parts : List Part}
    {eff : State → State} (h : Pending s rs qs) (hr : ∀ r ∈ rs, SeesReg s pre r) (hq : ∀ q ∈ qs, SeesQ s pre q) :
    Faults s (m2Word s pre op sx k parts eff) := by
  unfold m2Word
  exact doWord_faults h (fun r hm => (hr r hm).imp (List.mem_append_left _) (List.mem_append_left _)) fun q hm =>
    (hq q hm).imp (List.mem_append_left _) (Or.imp (List.mem_append_left _) (List.mem_append_left _))

section
variable {g : Guard} {w : Width} {x : Wide} {sx : Sfx} {d a b : Reg} {q : QN} {ma : MemA} (hg : guardOn (me s) g = true)

theorem ldM0_faults {sg : Bool} (h : Pending s [d, ma.ba] []) : Faults s (ldM0 s w sg d ma) := by
  unfold ldM0
  exact doWord_faults h (by simp [SeesReg]) (List.forall_mem_nil _)

theorem ldM2_faults {sg : Bool} (h : Pending s [d, ma.ba] []) : Faults s (ldM2 s w sg sx d ma) :=
  m2Word_faults h (by simp [SeesReg]) (List.forall_mem_nil _)

include hg

theorem sts_faults (h : Pending s [d, ma.ba] []) : Faults s (execSts g w d ma s) := by
  rw [execSts, guarded_on s hg]
  exact doWord_faults h (by simp [SeesReg]) (List.forall_mem_nil _)

theorem ldv_faults_pending (h : Pending s [ma.ba] [q]) : Faults s (execLdv g q ma s) := by
  rw [execLdv, guarded_on s hg]
  exact doWord_faults h (by simp [SeesReg]) (by simp [SeesQ])

theorem stv_faults_pending (h : Pending s [ma.ba] [q]) : Faults s (execStv g q ma s) := by
  rw [execStv, guarded_on s hg]
  exact doWord_faults h (by simp [SeesReg]) (by simp [SeesQ, srcQs_eq, accSrc])

theorem gst_faults (h : Pending s [d, ma.ba] []) : Faults s (execGst g w sx d ma s) := by
  rw [execGst, guardedM2_on hg]
  exact m2Word_faults h (by simp [SeesReg]) (List.forall_mem_nil _)

theorem gldv_faults (h : Pending s [ma.ba] []) : Faults s (execGldv g sx q ma s) := by
  rw [execGldv, guardedM2_on hg]
  exact m2Word_faults h (by simp [SeesReg]) (List.forall_mem_nil _)

theorem gstv_faults (h : Pending s [ma.ba] [q]) : Faults s (execGstv g sx q ma s) := by
  rw [execGstv, guardedM2_on hg]
  exact m2Word_faults h (by simp [SeesReg]) (by simp [SeesQ, srcQs_eq, accSrc])

theorem gaorv_faults (h : Pending s [ma.ba] [q]) : Faults s (execGaorv g sx q ma s) := by
  rw [execGaorv, guardedM2_on hg]
  exact m2Word_faults h (by simp [SeesReg]) (by simp [SeesQ, srcQs_eq, accSrc])

theorem ggath_faults (h : Pending s [b] [q + 1]) : Faults s (execGgath g x sx q b s) := by
  rw [execGgath, guardedM2_on hg]
  exact m2Word_faults h (by simp [SeesReg]) (by simp [SeesQ, srcQs_eq, idxQ, accSrc])

theorem gscat_faults (h : Pending s [b] [q, q + 1]) : Faults s (execGscat g x sx q b s) := by
  rw [execGscat, guardedM2_on hg]
  exact m2Word_faults h (by simp [SeesReg]) (by simp [SeesQ, srcQs_eq, idxQ, accSrc])

theorem atomWord_faults {fn : Nat} {y cmp : Word} {src : List Reg} (h : Pending s [d, b] []) :
    Faults s (atomWord s g fn x sx d b y cmp src) := by
  rw [atomWord, guardedM2_on hg]
  exact m2Word_faults h (by simp [SeesReg]) (List.forall_mem_nil _)

/-- A word of the berth engine, by the checks that it makes itself. -/
theorem berthWord_faults {pre : List (Option Trap)} {rs : List Reg} {qs : List QN} {op : AccOp} {n : Nat} {eff : State → State}
    (h : Pending s rs qs) (hr : ∀ r ∈ rs, SeesReg s pre r) (hq : ∀ q ∈ qs, SeesQ s pre q) :
    Faults s (berthWord s g sx pre op n eff) := by
  rw [berthWord, guardedM2_on hg]
  exact doWord_faults h hr hq

theorem kvapp_faults (h : Pending s [b] [q, q + 1]) : Faults s (execKvapp g sx q b s) := by
  unfold execKvapp
  exact berthWord_faults hg h (by simp [SeesReg]) (by simp [SeesQ, srcQs_eq, accSrc])

theorem kvResult_faults {op : AccOp} {n : Nat} {eff : State → State} (h : Pending s [d, b] []) :
    Faults s (berthWord s g sx [useReg s b, dstReg s d] op n eff) :=
  berthWord_faults hg h (by simp [SeesReg]) (List.forall_mem_nil _)

theorem kvshr_faults (h : Pending s [d, b] []) : Faults s (execKvshr g sx d b s) :=
  berthWord_faults hg h (by simp [SeesReg]) (List.forall_mem_nil _)

theorem kvrel_faults (h : Pending s [b] []) : Faults s (execKvrel g sx b s) :=
  berthWord_faults hg h (by simp [SeesReg]) (List.forall_mem_nil _)

theorem kvgath_faults {n : Option Lit} (h : Pending s [b] []) : Faults s (execKvgath g sx q b n s) :=
  berthWord_faults hg h (by simp [SeesReg]) (List.forall_mem_nil _)

theorem agset_faults {k : AgN} (h : Pending s [d, d + 1, d + 2, d + 3] []) : Faults s (execAgset g d k s) := by
  rw [execAgset, guarded_on s hg]
  exact doWord_faults h (by simp [SeesReg]) (List.forall_mem_nil _)

/-! ## D words (R287) -/

theorem dWord_faults {illegal checks : List (Option Trap)} {rs : List Reg} {qs : List QN} {f : State → State} (hi : LowChecks illegal)
    (h : Pending s rs qs) (hr : ∀ r ∈ rs, SeesReg s checks r) (hq : ∀ q ∈ qs, SeesQ s checks q) :
    Faults s (dWord s g illegal checks f) := by
  unfold dWord
  split
  next x hx => exact ⟨x, hi x (worst_mem _ x hx), rfl⟩
  next =>
    rw [guarded_on s hg]
    exact doWord_faults h hr hq

section
variable {ch : Bool} {k : BankN} {o : ColN}

/-- A D word that reads its place from a register. -/
theorem dPlace_faults {l : List (Option Trap)} {f : State → State} (h : Pending s [a] []) :
    Faults s (dWord s g [chLegal s ch, colCheck s ch o] (useReg s a :: l) f) :=
  dWord_faults hg lowChecks_chLegal_col h (by simp [SeesReg]) (List.forall_mem_nil _)

theorem drdQ_faults (h : Pending s [] [q]) : Faults s (execDrdQ g ch k o q s) :=
  dWord_faults hg lowChecks_chLegal_col h (List.forall_mem_nil _) (by simp [SeesQ])

theorem dwrQ_faults {v : QSrc} (h : Pending s [] [v.q]) : Faults s (execDwrQ g ch k o v s) := by
  unfold execDwrQ
  exact dWord_faults hg lowChecks_chLegal_col h (List.forall_mem_nil _) (by simp [SeesQ, srcQs_eq])

theorem dact_faults {row : RegLit} (h : Pending s (litRegs row) []) : Faults s (execDact g ch k row s) := by
  unfold execDact
  exact dWord_faults hg lowChecks_chLegal_row h (seesReg_of_rlUse (by simp)) (List.forall_mem_nil _)

omit hg in
/-- DMRW under a guard that is always true. -/
theorem dmrw_faults {m : ModeReg} (h : Pending s [a] []) : Faults s (execDmrw 0 ch m a s) := by
  unfold execDmrw
  exact dWord_faults rfl lowChecks_chLegal_priv h (by simp [SeesReg]) (List.forall_mem_nil _)

end

/-! ## X words and the trees -/

section
variable {v : QSrc} {t : TreeN} {y : RegLit}

theorem mpush_faults {f : AfN} {p : PlaneN} {u : SegN} {hs : HSet} (h : Pending s [] [v.q]) : Faults s (execMpush g v f p u hs s) := by
  rw [execMpush, guarded_on s hg]
  exact doWord_faults h (List.forall_mem_nil _) (by simp [SeesQ, srcQs_eq])

theorem mmodeC_faults {f : FmtN} {hs : HSet} (h : Pending s [a] []) : Faults s (execMmodeC g f a hs s) := by
  rw [execMmodeC, guarded_on s hg]
  exact doWord_faults h (by simp [SeesReg]) (List.forall_mem_nil _)

theorem macc_faults {c : ColG} {p : PerG} {hs : HSet} (h : Pending s [a] []) : Faults s (execMacc g a c p hs s) := by
  rw [execMacc, guarded_on s hg]
  exact doWord_faults h (by simp [SeesReg]) (List.forall_mem_nil _)

theorem asrd_faults {c : ColG} (h : Pending s [a] [q]) : Faults s (execAsrd g q a c s) := by
  rw [execAsrd, guarded_on s hg]
  exact doWord_faults h (by simp [SeesReg]) (by simp [SeesQ])

theorem mdrain_faults {o : OutTy} {k : Bool} (h : Pending s [a] [q]) : Faults s (execMdrain g q o k a s) := by
  rw [execMdrain, guarded_on s hg]
  exact doWord_faults h (by simp [SeesReg]) (by simp [SeesQ])

theorem aswr_faults {c : ColG} (h : Pending s [a] [v.q]) : Faults s (execAswr g v a c s) := by
  rw [execAswr, guarded_on s hg]
  exact doWord_faults h (by simp [SeesReg]) (by simp [SeesQ, srcQs_eq])

theorem mtld_faults (h : Pending s (litRegs y) [v.q]) : Faults s (execMtld g t v y s) := by
  rw [execMtld, guarded_on s hg]
  exact doWord_faults h (seesReg_of_rlUse (by simp)) (by simp [SeesQ, srcQs_eq])

theorem mtst_faults (h : Pending s (litRegs y) [q]) : Faults s (execMtst g t q y s) := by
  rw [execMtst, guarded_on s hg]
  exact doWord_faults h (seesReg_of_rlUse (by simp)) (by simp [SeesQ])

theorem mtupd_faults (h : Pending s ([a] ++ litRegs y) []) : Faults s (execMtupd g t a y s) := by
  rw [execMtupd, guarded_on s hg]
  exact doWord_faults h (List.forall_mem_append.2 ⟨by simp [SeesReg], seesReg_of_rlUse (by simp)⟩) (List.forall_mem_nil _)

theorem mtadd_faults (h : Pending s ([a] ++ litRegs y) []) : Faults s (execMtadd g t a y s) := by
  rw [execMtadd, guarded_on s hg]
  exact doWord_faults h (List.forall_mem_append.2 ⟨by simp [SeesReg], seesReg_of_rlUse (by simp)⟩) (List.forall_mem_nil _)

/-- A query of a tree with a register for its result, MTROOT and MTHOR. -/
theorem mtRoot_faults {f : State → State} (h : Pending s [d] []) : Faults s (guarded s g (doWord s [dstReg s d] f)) := by
  rw [guarded_on s hg]
  exact doWord_faults h (by simp [SeesReg]) (List.forall_mem_nil _)

/-- A query with an operand and a register for its result, MTSUM, MTFIND and MTLEAF. -/
theorem mtQuery_faults {f : State → State} (h : Pending s ([d] ++ litRegs y) []) :
    Faults s (guarded s g (doWord s [rlUse s y, dstReg s d] f)) := by
  rw [guarded_on s hg]
  exact doWord_faults h (List.forall_mem_append.2 ⟨by simp [SeesReg], seesReg_of_rlUse (by simp)⟩) (List.forall_mem_nil _)

theorem mtcut_faults {p : PredN} (h : Pending s (litRegs y) []) : Faults s (execMtcut g t p y s) := by
  rw [execMtcut, guarded_on s hg]
  exact doWord_faults h (seesReg_of_rlUse (by simp)) (List.forall_mem_nil _)

end

end

/-! ## Every word (R41, R72) -/

/-- For the words that name neither a register nor a queue. -/
theorem of_pending_nil {p : Prop} (h : Pending s [] []) : p := absurd h (by simp [Pending])

theorem names_dmrw_of_ne {g : Guard} {ch : Bool} {m : ModeReg} {a : Reg} (h : g ≠ 0) : names (.dmrw g ch m a) = ([], []) := by
  have hg : g = 1 ∨ g = 2 ∨ g = 3 ∨ g = 4 ∨ g = 5 ∨ g = 6 ∨ g = 7 := by revert g; decide
  rcases hg with rfl | rfl | rfl | rfl | rfl | rfl | rfl <;> rfl

/-- A tile word that issues and names something that is pending. -/
theorem pendingWord_faults {i : Instr} (hg : ∀ g, guardField i = some g → guardOn (me s) g = true)
    (h : Pending s (names i).1 (names i).2) : Faults s (exec i s) := by
  induction i with
  | add | sub | mul | mulh | mulhn | and | or | xor | andn | shl | shr | sra | rotl | min | max | minn | maxn | adda =>
    exact formSR_faults rfl h
  | sel d a b => exact aForm_faults (rs := [d, a, b]) rfl h (by simp)
  | fadd d a b | fsub d a b | fmul d a b | ffma d a b => exact sFloat_faults (rs := [d, a, b]) h (by simp)
  | clz d a | popc d a | selSl d a => exact aForm_faults (rs := [d, a]) rfl h (by simp)
  | addSl | subSl | mulSl | mulhSl | mulhnSl | andSl | orSl | xorSl | andnSl | shlSl | shrSl | sraSl | rotlSl | minSl | maxSl | minnSl
  | maxnSl | addaSl => exact formSL_faults rfl h
  | addi | shli | shri | srai => exact formSI_faults rfl h
  | fcvt => exact fcvt_faults h
  | tidx => exact tidx_faults h
  | tdim => exact tdim_faults h
  | pcmpEq | pcmpNe | pcmpLt | pcmpGe | pcmpLtn | pcmpGen | fcmpEq | fcmpLt | fcmpLe | fcmpUn | pcmpEqSl | pcmpNeSl | pcmpLtSl
  | pcmpGeSl | pcmpLtnSl | pcmpGenSl | pset => exact sCmp_faults h
  | kst => exact kst_faults h
  | wrsr => exact wrsr_faults h
  | bri => exact bri_faults h
  | waitcReg => exact waitcReg_faults h
  | movi d | movl d | movk d | movf d => exact aForm_faults (rs := [d]) rfl h (by simp)
  | tid d | cyc d | rdsr d => exact sWord_faults (rs := [d]) h (by simp)
  | ptid | rdwc | rdtc => exact sPriv_faults h
  | brl => exact brl_faults h
  | ret => exact ret_faults h
  | loop => exact loop_faults h
  | loopr => exact loopr_faults h
  | vadd | vsub | vmul | vmin | vmax | vaddSat | vsubSat | vmulSat | vand | vor | vxor | vshl | vshr | vsra | vrcpf | vrsqf =>
    exact vLanes_two_faults h
  | vfma | vfms | vfmaSat | vfmsSat => exact vLanes_acc_faults h
  | vsel => exact vsel_faults h
  | vperm => exact vperm_faults h
  | vdot d a b t p => exact vdot_faults (p := p) h
  | vdotAcc d a b t p => exact vdotAcc_faults (p := p) h
  | vabs | vneg | vnot | vpopc | vrcp | vrsq | vexp2 | vlog2 => exact vLanes_one_faults h
  | vaddVl d a v t m => exact (vaddVl_faults h : Faults s (execVaddVl d a v t m s))
  | vfmaVl d a v t m => exact (vfmaVl_faults h : Faults s (execVfmaVl d a v t m s))
  | vaddVi d t m i => exact (vaddVi_faults h : Faults s (execVaddVi d t m i s))
  | vbcastVi d t m i => exact (vbcastVi_faults h : Faults s (execVbcastVi d t m i s))
  | vaddVf d tf f => exact (vaddVf_faults h : Faults s (execVaddVf d tf f s))
  | vbcastVf d tf f => exact (vbcastVf_faults h : Faults s (execVbcastVf d tf f s))
  | vpackp => exact vpackp_faults h
  | vpackpFl => exact vpackpFl_faults h
  | vunpk => exact vunpk_faults h
  | viota => exact viota_faults h
  | vmovq => exact vmovq_faults h
  | vred d a m t p => exact vred_faults (p := p) h
  | vredAcc d a m t p => exact vredAcc_faults (p := p) h
  | vcvt d a sat e t r => exact (vcvt_faults h : Faults s (execVcvt d a sat e t r s))
  | vclr => exact vclr_faults h
  | vcmpEq | vcmpNe | vcmpLt | vcmpLe | vcmpUn => exact vCmp_faults h
  | vslideUp d a r t m => exact (vSlide_faults h : Faults s (execVslideUp d a r t m s))
  | vslideDn d a r t m => exact (vSlide_faults h : Faults s (execVslideDn d a r t m s))
  | vbcast => exact vbcast_faults h
  | vdotW d a b t p => exact vdotW_faults (p := p) h
  | vdotWAcc d a b t p => exact vdotWAcc_faults (p := p) h
  | vwiden => exact vwiden_faults h
  | vnarrow => exact vnarrow_faults h
  | vmxs => exact vmxs_faults h
  | vshuf => exact vshuf_faults h
  | ldsSigned | ldsUnsigned => exact guarded_faults (hg _ rfl) (ldM0_faults h)
  | sts => exact sts_faults (hg _ rfl) h
  | ldv => exact ldv_faults_pending (hg _ rfl) h
  | stv => exact stv_faults_pending (hg _ rfl) h
  | gldSigned | gldUnsigned => exact guardedM2_faults (hg _ rfl) (ldM2_faults h)
  | gst => exact gst_faults (hg _ rfl) h
  | gldv => exact gldv_faults (hg _ rfl) h
  | gstv => exact gstv_faults (hg _ rfl) h
  | gaorv => exact gaorv_faults (hg _ rfl) h
  | ggath => exact ggath_faults (hg _ rfl) h
  | gscat => exact gscat_faults (hg _ rfl) h
  | gaadd | gaor | gaand | gamaxI | gamaxN | gaminI | gaminN | gaxch | gacas => exact atomWord_faults (hg _ rfl) h
  | kvlook | kvref => exact kvResult_faults (hg _ rfl) h
  | kvapp => exact kvapp_faults (hg _ rfl) h
  | kvshr => exact kvshr_faults (hg _ rfl) h
  | kvrel => exact kvrel_faults (hg _ rfl) h
  | kvgath => exact kvgath_faults (hg _ rfl) h
  | agset => exact agset_faults (hg _ rfl) h
  | drdM0 | drdSh | dwrM0 | dwrSh => exact dPlace_faults (hg _ rfl) h
  | drdQ => exact drdQ_faults (hg _ rfl) h
  | dwrQ => exact dwrQ_faults (hg _ rfl) h
  | dact => exact dact_faults (hg _ rfl) h
  | mpush => exact mpush_faults (hg _ rfl) h
  | mmodeC => exact mmodeC_faults (hg _ rfl) h
  | macc => exact macc_faults (hg _ rfl) h
  | asrd => exact asrd_faults (hg _ rfl) h
  | mdrain => exact mdrain_faults (hg _ rfl) h
  | aswr => exact aswr_faults (hg _ rfl) h
  | mtroot | mthor => exact mtRoot_faults (hg _ rfl) h
  | mtld => exact mtld_faults (hg _ rfl) h
  | mtst => exact mtst_faults (hg _ rfl) h
  | mtupd => exact mtupd_faults (hg _ rfl) h
  | mtadd => exact mtadd_faults (hg _ rfl) h
  | mtsum | mtfind | mtleaf => exact mtQuery_faults (hg _ rfl) h
  | mtcut => exact mtcut_faults (hg _ rfl) h
  | dmrw g ch m a =>
    by_cases h0 : g = 0
    · subst h0
      exact dmrw_faults h
    · rw [names_dmrw_of_ne h0] at h
      exact of_pending_nil h
  | _ => exact of_pending_nil h

/-! ## Words of the own shaft, which note their access first (R74, R206, R208) -/

/-- The word takes a fault of the timing fault's cause or a lower one; its access may stand in the calendar. -/
def FaultsNoted (s : State) (o : Host.Outcome State Fault Refusal) : Prop :=
  ∃ (x : Trap) (t : State), x.cause ≤ 5 ∧ o = .next (takeTrap x s.pipe (me s).bun none s.cur t) ∧
    (t = s ∨ ∃ p, t = setTile s s.cur { me s with cal := insertPend p (me s).cal })

theorem Faults.noted {o : Host.Outcome State Fault Refusal} (h : Faults s o) : FaultsNoted s o := by
  obtain ⟨x, hx, ho⟩ := h
  exact ⟨x, s, hx, ho, .inl rfl⟩

theorem trapHere_later (x : Trap) (n : Nat) (a : Act) :
    trapHere x (later s n a) = takeTrap x s.pipe (me s).bun none s.cur (later s n a) := by
  rw [trapHere, (SameWord.refl s).later.bun]
  rfl

theorem shWord_faultsNoted {c : List (Option Trap)} {n : Nat} {a : Act} {rs : List Reg} (h : Pending s rs [])
    (hr : ∀ r ∈ rs, SeesReg s c r) : FaultsNoted s (shWord s c (fun s => later s n a)) := by
  have hlow : ∃ k ∈ c, LowFault k := by
    obtain ⟨r, hmem, hp⟩ := h.resolve_right (by simp)
    rcases hr r hmem with hc | hc
    · exact ⟨_, hc, dstReg_lowFault hp⟩
    · exact ⟨_, hc, useReg_lowFault hp⟩
  obtain ⟨k, hk, x, rfl, hx⟩ := hlow
  obtain ⟨y, hw, -, hle⟩ := worst_of_mem hk
  refine ⟨y, later s n a, hle.trans hx, ?_, .inr ⟨_, rfl⟩⟩
  rw [shWord, hw, ← trapHere_later]

theorem SeesReg.append {c l : List (Option Trap)} {r : Reg} (h : SeesReg s c r) : SeesReg s (c ++ l) r :=
  h.imp (List.mem_append_left _) (List.mem_append_left _)

section
variable {g : Guard} {w : Width} {d : Reg} {ma : MemA} (hg : guardOn (me s) g = true) (h : Pending s [d, ma.ba] [])
include hg h

theorem ldM1_faultsNoted (sg : Bool) : FaultsNoted s (guardedM1 s g (memEA (me s) ma) (ldM1 s w sg d ma)) := by
  have hsees : ∀ r ∈ [d, ma.ba], SeesReg s [rigidOnly (me s), useReg s ma.ba, dstReg s d] r := by simp [SeesReg]
  rw [guardedM1_on hg, ldM1]
  split
  · exact (doWord_faults h (fun r hr => (hsees r hr).append) (List.forall_mem_nil _)).noted
  · split
    · exact (doWord_faults h (fun r hr => (hsees r hr).append) (List.forall_mem_nil _)).noted
    · exact shWord_faultsNoted h fun r hr => (hsees r hr).append.append

theorem sst_faultsNoted : FaultsNoted s (exec (.sst g w d ma) s) := by
  have hsees : ∀ r ∈ [d, ma.ba], SeesReg s [rigidOnly (me s), useReg s ma.ba, useReg s d] r := by simp [SeesReg]
  change FaultsNoted s (execSst g w d ma s)
  rw [execSst, guardedM1_on hg]
  split
  · exact (doWord_faults h (fun r hr => (hsees r hr).append) (List.forall_mem_nil _)).noted
  · split
    · exact (doWord_faults h (fun r hr => (hsees r hr).append) (List.forall_mem_nil _)).noted
    · exact shWord_faultsNoted h fun r hr => (hsees r hr).append.append

end

theorem pendingNamesTrap : PendingNamesTrap := by
  refine ⟨fun i s hg h => pendingWord_faults hg h, fun s g w d ma hg hp => ?_⟩
  have h : Pending s [d, ma.ba] [] := .inl (by simpa using hp)
  simp only [List.forall_mem_cons]
  exact ⟨ldM1_faultsNoted hg h true, ldM1_faultsNoted hg h false, sst_faultsNoted hg h, List.forall_mem_nil _⟩

/-! ## Integer words: exactly the timing fault (R72) -/

theorem useReg_of_pending {r : Reg} (h : regPending s r = true) : useReg s r = some ⟨5, 4, 0, 0⟩ := by
  rw [useReg, dstReg, trapIf_of_true h, eccTrap, trapIf]
  split <;> rfl

/-- The other faults of a register have a higher cause. -/
theorem useReg_low {r : Reg} {x : Trap} (h : useReg s r = some x) (hx : x.cause ≤ 5) : x = ⟨5, 4, 0, 0⟩ := by
  cases hp : regPending s r with
  | true => exact (Option.some.inj ((useReg_of_pending hp).symm.trans h)).symm
  | false =>
    have hecc : useReg s r = eccTrap s 6 s.cur (physReg (me s) r.toNat) := by
      rw [useReg, dstReg, (trapIf_none ..).2 hp]
      rfl
    rw [trapIf_cause (hecc.symm.trans h)] at hx
    exact absurd hx (by decide)

theorem dstReg_low {r : Reg} {x : Trap} (h : dstReg s r = some x) : x = ⟨5, 4, 0, 0⟩ := by
  unfold dstReg trapIf at h
  split at h <;> cases h
  rfl

theorem sWord_pending {src : List Reg} {d : Reg} {n : Nat} {v : Word} (h : ¬ Writable s d ∨ ∃ r ∈ src, regPending s r = true) :
    sWord s src d n v = .next (takeTrap ⟨5, 4, 0, 0⟩ s.pipe (me s).bun none s.cur s) := by
  have hmem : some ⟨5, 4, 0, 0⟩ ∈ dstReg s d :: src.map (useReg s) := by
    rcases h with hd | ⟨r, hr, hp⟩
    · exact List.mem_cons.2 (.inl (trapIf_of_true (Bool.eq_true_of_not_eq_false hd) ..).symm)
    · exact List.mem_cons_of_mem _ (List.mem_map.2 ⟨r, hr, useReg_of_pending hp⟩)
  obtain ⟨y, hw, hy, hle⟩ := worst_of_mem hmem
  obtain rfl : y = ⟨5, 4, 0, 0⟩ := by
    rcases List.mem_cons.1 hy with hd | hs
    · exact dstReg_low hd.symm
    · obtain ⟨r, -, hr⟩ := List.mem_map.1 hs
      exact useReg_low hr hle
  exact doWord_trap s hw

theorem pendingRegistersTrap : PendingRegistersTrap := by
  intro i s f hi h
  obtain ⟨n, v, hexec⟩ := exec_of_aForm hi
  rw [hexec]
  exact sWord_pending h

/-! ## Privileged words in tile tasks (R48, R131, R287) -/

theorem privCheck_of_task (h : (me s).firmware = false) : privCheck s = some ⟨2, 0, 0, 0⟩ := trapIf_of_true (by rw [h]; rfl) ..

theorem sPriv_traps {d : Reg} {v : Word} (h : (me s).firmware = false) (hd : Writable s d) :
    sPriv s d v = .next (takeTrap ⟨2, 0, 0, 0⟩ s.pipe (me s).bun none s.cur s) :=
  doWord_trap s (by rw [privCheck_of_task h, dstReg_of_writable hd]; rfl)

theorem dWord_illegal {g : Guard} {illegal checks : List (Option Trap)} {f : State → State} {x : Trap} (h : worst illegal = some x) :
    dWord s g illegal checks f = .next (takeTrap x s.pipe (me s).bun none s.cur s) := by
  rw [dWord, h]
  rfl

theorem chLegal_none {ch : Bool} (h : ch = true → ownsLp s.cur = true) : chLegal s ch = none :=
  (illegalIf_none _).2 (by cases ch <;> simp_all)

theorem worst_privileged {ch : Bool} (hf : (me s).firmware = false) (h : ch = true → ownsLp s.cur = true) :
    worst [chLegal s ch, privCheck s] = some ⟨2, 0, 0, 0⟩ := by
  rw [chLegal_none h, privCheck_of_task hf]
  rfl

/-- A channel that the tile does not own makes the word illegal, the lower cause (R208). -/
theorem worst_unowned (h : ownsLp s.cur = false) : worst [chLegal s true, privCheck s] = some ⟨1, 0, 0, 0⟩ := by
  rw [show chLegal s true = some ⟨1, 0, 0, 0⟩ from trapIf_of_true (by rw [h]; rfl) ..]
  cases hp : privCheck s with
  | none => rfl
  | some y =>
    have hy : ¬ y.cause < 1 := by
      rw [trapIf_cause hp]
      decide
    exact if_neg hy

theorem of_false_eq_true {p : Prop} (h : false = true) : p := absurd h Bool.false_ne_true

/-- The privileged words (R48), to prove something of each of them. -/
theorem forall_privileged {p : Instr → Prop} (hptid : ∀ d, p (.ptid d)) (hrdwc : ∀ d, p (.rdwc d)) (hrdtc : ∀ d, p (.rdtc d))
    (hdmrw : ∀ g ch m a, p (.dmrw g ch m a)) (hdzq : ∀ g ch, p (.dzq g ch)) (i : Instr) (hi : privileged i = true) : p i := by
  induction i with
  | ptid d => exact hptid d
  | rdwc d => exact hrdwc d
  | rdtc d => exact hrdtc d
  | dmrw g ch m a => exact hdmrw g ch m a
  | dzq g ch => exact hdzq g ch
  | _ => exact of_false_eq_true hi

theorem privilegedWordsTrapInTileTasks : PrivilegedWordsTrapInTileTasks := by
  refine ⟨fun i s => ?_, ?_⟩
  · revert i
    refine forall_privileged ?_ ?_ ?_ ?_ ?_
    · exact fun d hf hd _ => sPriv_traps hf (hd d (.inl rfl))
    · exact fun d hf hd _ => sPriv_traps hf (hd d (.inr (.inl rfl)))
    · exact fun d hf hd _ => sPriv_traps hf (hd d (.inr (.inr rfl)))
    · exact fun g ch m a hf _ hlp => dWord_illegal (worst_privileged hf (by rintro rfl; exact hlp g m a (.inl rfl)))
    · exact fun g ch hf _ hlp => dWord_illegal (worst_privileged hf (by rintro rfl; exact hlp g 0 0 (.inr rfl)))
  · rintro i s g m a (rfl | rfl) h
    · exact dWord_illegal (worst_unowned h)
    · exact dWord_illegal (worst_unowned h)

end Sys2Proof

/-- Settles O15: the privileged words, the integer words, and every word that names what is pending (`pendingWord_faults`). -/
theorem privilegedWordsAndPendingRegistersTrap : Obligations.PrivilegedWordsAndPendingRegistersTrap :=
  ⟨privilegedWordsTrapInTileTasks, pendingRegistersTrap, pendingNamesTrap⟩
end
